-- ==== Sys2Proof/Word.lean ====
section
/-! DEFINITION. The word types of the block: register words, bytes, DSP words (R7, R43, R560). -/

namespace Sys2Proof

/-- A register word (R560). -/
abbrev Word := BitVec 32

/-- A byte of DRAM, flash or a frame. -/
abbrev Byte := BitVec 8

/-- A word of X or Y memory and of a D register (R43). -/
abbrev DWord := BitVec 24

/-- An accumulator (R43). -/
abbrev Acc56 := BitVec 56

/-- A bundle of program memory (R42). -/
abbrev Bundle64 := BitVec 64

end Sys2Proof
end

