-- ==== Sys2Proof/Forms.lean ====
section
/-! DEFINITION. The operands of the commands: fields of pea bundles, frames, records, messages and the other data
that a command carries. -/

namespace Sys2Proof

/-- A core that runs the pea instruction set (R42): pod pea `n * 9 + p` for 0-143, CC0-CC3 for 144-147, Rook's LEAD
148 and SHADOW 149. -/
abbrev CoreId := Fin 150

/-- Kinds of a short move (R69). -/
inductive SKind where
  | none | ld | ldp | st | stp
  deriving DecidableEq, Repr

/-- Kinds of a long move (R71). -/
inductive LKind where
  | none | ld | ldp | st | stp | str | st2 | lda
  deriving DecidableEq, Repr

/-- Spaces of a long move (R71). -/
inductive Space where
  | x | y | shared | crossbar
  deriving DecidableEq, Repr

/-- Addressing modes of R48, as the long move names them (R71); the short move names the first four (R69). -/
inductive AMode where
  | postN | postInc | postDec | indexN | plain | absolute
  deriving DecidableEq, Repr

/-- A short move of the MAC format (R69). -/
structure ShortMove where
  kind : SKind
  reg : Fin 32
  ptr : Fin 8
  mode : Fin 4
  stg : Fin 4
  deriving DecidableEq, Repr

/-- The fields of a long move but its kind (R71). -/
structure MoveArgs where
  space : Space
  reg : Fin 32
  ptr : Fin 8
  mode : AMode
  stg : Fin 8
  addr : BitVec 16
  deriving DecidableEq, Repr

/-- A long move (R71). -/
structure LongMove where
  kind : LKind
  args : MoveArgs
  deriving DecidableEq, Repr

/-- The slots of a MAC-format bundle beside its opcode (R68). -/
structure MacSlots where
  route : Fin 4
  acc : Fin 8
  mstg : Fin 8
  xa : Fin 32
  xb : Fin 32
  ya : Fin 32
  yb : Fin 32
  xmove : ShortMove
  ymove : ShortMove
  deriving DecidableEq, Repr

/-- The slots of an ALU-format bundle beside its opcode (R70). -/
structure AluSlots where
  imm : Bool
  astg : Fin 8
  dst : Fin 32
  srca : Fin 32
  srcb : Fin 32
  move : LongMove
  deriving DecidableEq, Repr

/-- A slot of the long-immediate format (R74). -/
structure LimmSlot where
  cls : Bool
  idx : Fin 32
  imm : BitVec 24
  deriving DecidableEq, Repr

/-- The outcome of comparing two values of a sequence (R16). -/
inductive Serial where
  | equal | later (d : Nat) | earlier (d : Nat) | outOfWindow
  deriving DecidableEq, Repr

/-- A parameter element (R543), a table word written through `SG_WAPPLY` (R140), or a MACsec rekey (R556): what a
pending change changes. -/
inductive PElem where
  | par (inst : BitVec 16) (pid : BitVec 8) (index : BitVec 32)
  | word (addr : Nat)
  | rekey (mac : Fin 12) (an : Fin 4)
  deriving DecidableEq, Repr

/-- A pending change: what it changes, the value, and the BSN at which it lands (R22). -/
structure Change where
  elem : PElem
  value : BitVec 32
  apply : BitVec 32
  deriving DecidableEq, Repr

/-- A record of the fault and event unit before intake (R575, R581); the sequence is given at intake. -/
structure FaultRec where
  code : BitVec 16
  arg : BitVec 32
  island : Nat
  bsn : BitVec 32
  ns : BitVec 64
  tsv : Bool
  master : BitVec 6
  write : Bool
  user : Bool
  addrHi : BitVec 8
  pair : Bool
  lost : Bool
  deriving DecidableEq, Repr


/-- The constants of a channel that Rook holds in its SRAM (R289-R296): heat capacities in mJ/K and thermal resistances in
mK/W (log entry 42: PRESUMED), IMIN in 0.01 A, the impedance band in Hz, whether RREF holds for the pilot frequency (R295), and
the displacement filter's coefficient words (R296). -/
structure RookConst where
  chan : Fin 72
  cc : Nat
  cm : Nat
  rcm : Nat
  rma : Nat
  imin : Nat
  bandLo : Nat
  bandHi : Nat
  pilotRref : Bool
  filter : List (BitVec 32)
  deriving DecidableEq, Repr

/-- The safety section as Rook meets it (R283): whether the signature verifies under the safety key, whether that key's
hash equals SAFETY_HASH, its EPOCH, its register records, the constants of the channels, TAMAX in 0.1 °C, and the
heartbeat words' addresses (R306). -/
structure SafetySection where
  sigOk : Bool
  hashOk : Bool
  epoch : BitVec 8
  regs : List (BitVec 32 × BitVec 32)
  consts : List RookConst
  tamax : Int
  beats : List (BitVec 40)
  deriving DecidableEq, Repr

/-- A SAK record (R522): its MAC and AN, the cipher (0 GCM-AES-128, 1 GCM-AES-256, 2 and 3 their XPN forms), RETIRE in
seconds, SSCI, salt and key. -/
structure SakRecord where
  mac : Fin 12
  an : Fin 4
  cipher : Fin 4
  retire : BitVec 8
  ssci : BitVec 32
  salt : BitVec 96
  key : BitVec 256
  deriving DecidableEq, Repr

/-- An unlock response (R221); `sigOk`: its signature verifies under the root key of its scope. -/
structure UnlockResponse where
  nonce : BitVec 256
  device : BitVec 64
  scope : BitVec 8
  epoch : BitVec 8
  reserved : BitVec 16
  sigOk : Bool
  deriving DecidableEq, Repr

/-- A status frame of the partner (R317, R327): TYPE (0 RENEW, 1 IDLE, 2 YIELD, 3 COMMIT), the HOME bit, PRIO,
DEVICE_ID, KSEQ and END [23:0]. -/
structure StatusFrame where
  typ : BitVec 2
  home : Bool
  dev : BitVec 64
  prio : BitVec 8
  kseq : BitVec 8
  fin : BitVec 24
  deriving DecidableEq, Repr

/-- A HEARTBEAT record (R317): the status frame with ABLE and HEALTHY, the grandmaster, MACK and GEN. -/
structure Heartbeat where
  frame : StatusFrame
  able : Bool
  healthy : Bool
  gm : BitVec 64
  mack : BitVec 32
  gen : BitVec 16
  deriving DecidableEq, Repr

/-- A mirror entry (R322), with its BSN field [23:0]. -/
inductive MirrorEntry where
  | change (apply : BitVec 24) (inst : BitVec 16) (pid : BitVec 8) (index value : BitVec 32)
  | close (apply : BitVec 24) (gen : BitVec 16)
  | kout (first : BitVec 24) (output value : BitVec 16)
  | bridge (decided : BitVec 24) (b : Fin 64) (locked : Bool)
  | log (r : FaultRec)
  | resync (at_ : BitVec 24) (gen : BitVec 16)
  deriving DecidableEq, Repr

/-- The codes of a KING record (R333, R334): a request on its way from the standby, and the castling handshake. -/
inductive KingCode where
  | request | propose | accept | commit | cancel
  deriving DecidableEq, Repr

/-- The SecTAG of a protected frame (R422, R423): its SCI, association number, packet number (recovered in full for XPN) and
whether its ICV verifies. -/
structure RxSec where
  sci : BitVec 64
  an : Fin 4
  pn : BitVec 64
  icvOk : Bool
  deriving DecidableEq, Repr

/-- What a received frame is (R399, R406, R412): MAC control, a PTP message, a media packet with its data, a heartbeat of
the partner (R327), LLDP, anything else; or the beginning or end of low-power idle in place of a frame (R409). The frame
headers themselves are those of the standards that R397 and R412 name. -/
inductive RxPayload where
  | lpi (on : Bool)
  | pause (time : BitVec 16)
  | pfc (vector : BitVec 8) (times : List (BitVec 16))
  | ptp
  | aaf (stream : BitVec 64) (seq : BitVec 8) (time : BitVec 32) (rate : BitVec 20) (chans : BitVec 10) (bits : BitVec 8) (data : List (BitVec 8))
  | rtp (dst : BitVec 32) (port : BitVec 16) (src : BitVec 32) (seq : BitVec 16) (time : BitVec 32) (sumOk : Bool) (data : List (BitVec 8))
  | heartbeat (w : BitVec 128) (k : BitVec 64) (tagOk : Bool)
  | lldp
  | other
  deriving DecidableEq, Repr

/-- A received frame: its length, whether its FCS is right, its VLAN tag (VID, PCP), its destination address, its SecTAG, the
timebase time of its last bit, the frames of its region that are still waiting (R400), the ingress entries whose latest
commit its first byte did not come after (R420), and what it is. -/
structure RxFrame where
  bytes : BitVec 14
  fcsOk : Bool
  tag : Option (BitVec 12 × BitVec 3)
  dst : BitVec 48
  sec : Option RxSec
  at_ : BitVec 64
  waiting : BitVec 12
  begun : List (Fin 512)
  payload : RxPayload
  deriving DecidableEq, Repr

/-- A control-class frame that firmware hands over (R401): its class, its length, and whether it is LLDP. -/
structure CtlFrame where
  tc : Fin 8
  bytes : BitVec 14
  lldp : Bool
  deriving DecidableEq, Repr

/-- A DRAM error as the controller finds it (R466, R467): its address, whether it is uncorrectable, and its row. -/
structure DramErr where
  addr : BitVec 40
  ue : Bool
  rank : BitVec 1
  bank : BitVec 4
  row : BitVec 18
  deriving DecidableEq, Repr

/-- A crossbar transaction as its master issues it (R453): master, address, length in bytes, privilege, data of a write, and
whether the flash manager marks it urgent (R456). -/
structure XbReq where
  master : BitVec 6
  addr : BitVec 40
  len : BitVec 16
  write : Bool
  user : Bool
  urgent : Bool
  data : List (BitVec 8)
  deriving DecidableEq, Repr

/-- What the flash descriptor states (R473, R474): the dies present and their planes, the capture and recorder dies, the
bytes of a stripe unit and tPROG maximum in µs, the rated P/E cycles in TLC and SLC mode, the bytes of CAP and REC, the
pages of LOG and those of a block of it, the blocks of SPARE on each die, the blocks of each die, and whether the parts
meet R471. -/
structure FlashDesc where
  dies : List (Fin 64)
  planes : Fin 5
  capDies : List (Fin 64)
  recDies : List (Fin 64)
  unit : BitVec 32
  tprog : BitVec 16
  ratedTlc : BitVec 16
  ratedSlc : BitVec 16
  capBytes : BitVec 48
  recBytes : BitVec 48
  logPages : BitVec 24
  logBlock : BitVec 16
  spare : BitVec 16
  partsOk : Bool
  deriving DecidableEq, Repr

/-- An operation of a die (R483): read, program or erase of a block; `page` of a read; TLC or SLC; urgent or not. -/
inductive NandKind where
  | read | program | erase
  deriving DecidableEq, Repr

/-- See `NandKind`. -/
structure NandOp where
  die : Fin 64
  block : BitVec 16
  page : BitVec 16
  kind : NandKind
  tlc : Bool
  urgent : Bool
  deriving DecidableEq, Repr

/-- How an operation ends (R477-R479): whether it succeeds; for a read, the step of the ladder that succeeded (R478), and
the corrected bits of its worst codeword in percent of the hard decoder's capability. -/
structure NandResult where
  ok : Bool
  step : Fin 5
  share : BitVec 8
  deriving DecidableEq, Repr


/-- A role certificate as the engine meets it (R214, R215): its fields, and whether the signature verifies under the image's
owner key. -/
structure RoleCert where
  role : Fin 16
  forDevice : Bool
  serial : BitVec 32
  device : BitVec 64
  notBefore : BitVec 64
  notAfter : BitVec 64
  sigOk : Bool
  deriving DecidableEq, Repr

/-- The header of a received message (R533, R535): whether step 1 passes, the fields, and whether the tag verifies under
the session's key (`tagOk`) or under the key that a KEYROLL replaced (`oldOk`, R539); `bodyOk`: the payload has the length of its
type and COUNT, and its reserved fields are 0. -/
structure MsgHead where
  formOk : Bool
  session : BitVec 32
  seq : BitVec 32
  role : Fin 16
  now : Bool
  ptp : Bool
  apply : BitVec 64
  tagOk : Bool
  oldOk : Bool
  bodyOk : Bool
  deriving DecidableEq, Repr

/-- The address of a parameter element (R543). -/
structure ParamAddr where
  inst : BitVec 16
  pid : BitVec 8
  index : BitVec 32
  deriving DecidableEq, Repr

/-- A parameter element with its value (R543). -/
structure ParamElem where
  addr : ParamAddr
  value : BitVec 32
  deriving DecidableEq, Repr

/-- A grant (R218). -/
structure Grant where
  roles : BitVec 16
  instFirst : BitVec 16
  instLast : BitVec 16
  pidFirst : BitVec 8
  pidLast : BitVec 8
  idxFirst : BitVec 32
  idxLast : BitVec 32
  lo : BitVec 32
  hi : BitVec 32
  read : Bool
  write : Bool
  deriving DecidableEq, Repr

/-- The message types of R541 that a record of EVENT may carry (R551): meter records or fault records. -/
inductive EventKind where
  | meter | fault
  deriving DecidableEq, Repr

/-- An owner-defined parameter (R543): its address, range and value, and whether it can be written. -/
structure OwnerParam where
  addr : ParamAddr
  lo : Int
  hi : Int
  value : BitVec 32
  writable : Bool
  deriving DecidableEq, Repr



/-- A boot copy as Sprout finds it (R513, R515): its index, whether header and components decode, the vendor runtime's
signature, EPOCH and kind (production, failure analysis), SHA-384 of OWNER_KEY, whether OWNER_SIG verifies or is zero,
whether the hashes match, and its EPOCH. -/
structure BootCopy where
  index : Fin 8
  formOk : Bool
  vendorOk : Bool
  vendorEpoch : BitVec 8
  production : Bool
  analysis : Bool
  ownerHash : BitVec 384
  sigOk : Bool
  sigZero : Bool
  hashesOk : Bool
  epoch : BitVec 8
  deriving DecidableEq, Repr

/-- What a PMBus poll of an entry reads (R507): whether every transaction was acknowledged, READ_VOUT in mV, READ_IOUT in
10 mA, READ_TEMPERATURE_1 in 0.1 °C, and whether STATUS_WORD holds a fault bit. -/
structure PmbRead where
  entry : Fin 12
  ack : Bool
  vout : BitVec 16
  iout : BitVec 16
  temp : BitVec 16
  fault : Bool
  deriving DecidableEq, Repr

/-- A record of a section (R521, R522). Spaces: 0 crossbar, 1 pod shared, 2 to 4 pea X, Y, program, 5 to 7 control-core X, Y,
program, 8 Rook memory; more are refused. -/
inductive ImgRec where
  | reg (addr : BitVec 40) (words : List (BitVec 32))
  | mem (space : BitVec 8) (addr : BitVec 64) (words : List (BitVec 32))
  | zero (space : BitVec 8) (addr : BitVec 64) (len : BitVec 32)
  | sealwin (q : Fin 144) (pBase pLen xBase xLen yBase yLen : BitVec 16)
  | rolemask (masks : List (BitVec 16))
  | grant (g : Grant)
  | revoke (serial : BitVec 32)
  | policy (kind mode : BitVec 8) (first last : BitVec 16)
  | expkey
  | quant (qstep qrate : BitVec 8)
  | sak (r : SakRecord)
  | pairkey (key : BitVec 256)
  deriving DecidableEq, Repr

/-- A section of an image (R519-R524): its type and index, its flags, whether its layout is right and its hash matches, the
outcome of its unwrap (none: no wrap record names this engine) and of its decryption tag, and its records. -/
structure ImgSection where
  typ : BitVec 8
  index : BitVec 8
  enc : Bool
  seal_ : Bool
  formOk : Bool
  hashOk : Bool
  unwrap : Option Bool
  tagOk : Bool
  recs : List ImgRec
  deriving DecidableEq, Repr

/-- A Psioft image as the owner runtime meets it (R518-R524): the checks of its header, its EPOCH, FORCE_EPOCH and RATE, the
SHA-384 hashes of its two keys, whether OWNER_SIG verifies, whether Nolwald signed it (R187), its DIGEST and whether it matches, its sections and the SAFETY
section as Rook meets it; the TDM ports that it marks TAINT (R206), the scenes, parameters and recorder channels that its runtime gives; and the EPOCH of the valid
image in the other slot. -/
structure Image where
  headOk : Bool
  epoch : BitVec 8
  force : Bool
  rate : BitVec 8
  ownerHash : BitVec 384
  safetyHash : BitVec 384
  sigOk : Bool
  vendor : Bool
  digest : BitVec 384
  digestOk : Bool
  sections : List ImgSection
  safety : SafetySection
  taintTdm : List (Fin 32)
  scenes : List (Nat × List ParamElem)
  params : List OwnerParam
  recChans : List (Nat × Nat)
  other : Option (BitVec 8)
  deriving DecidableEq, Repr

/-- The training of a flash channel at start (R472): the channel, its chip enables with dies, the descriptor's rate code, the
fallback steps made, and whether it trained. -/
structure FlcTrain where
  chan : Fin 4
  ceMask : BitVec 4
  rate : Fin 6
  steps : Fin 6
  ok : Bool
  deriving DecidableEq, Repr

end Sys2Proof
end

