-- ==== Sys2Proof/Syntax.lean ====
section
/-! DEFINITION. The commands of the block: one constructor for each row of spec/opcode_table.json, in its order. -/

namespace Sys2Proof

/-- The commands. -/
inductive Instr where
  /-- BLOCK_BOUNDARY (R13): A new block of 1/24,000 s starts, the BSN advances by one and every per-block action of the engine runs. -/
  | blockBoundary
  /-- GLB_BSN_READ (R41): A read of GLB_BSN returns the BSN and latches the high bits of the absolute block number into GLB_BLKHI. -/
  | glbBsnRead
  /-- MAC_NOP (R58): MAC opcode NOP performs no multiply. -/
  | macNop (c : CoreId) (m : MacSlots)
  /-- MPY (R58): MPY loads the routed products into the accumulators. -/
  | mpy (c : CoreId) (m : MacSlots)
  /-- MAC (R58): MAC adds the routed products to the accumulators. -/
  | mac (c : CoreId) (m : MacSlots)
  /-- MSU (R58): MSU subtracts the routed products from the accumulators. -/
  | msu (c : CoreId) (m : MacSlots)
  /-- MPY_Q1 (R58): MPY.Q1 loads routed products formed with Q1.22 coefficients. -/
  | mpyQ1 (c : CoreId) (m : MacSlots)
  /-- MAC_Q1 (R58): MAC.Q1 adds routed products formed with Q1.22 coefficients. -/
  | macQ1 (c : CoreId) (m : MacSlots)
  /-- MSU_Q1 (R58): MSU.Q1 subtracts routed products formed with Q1.22 coefficients. -/
  | msuQ1 (c : CoreId) (m : MacSlots)
  /-- DMPY (R56): DMPY loads the double-word product of a 48-bit operand and a coefficient. -/
  | dmpy (c : CoreId) (m : MacSlots)
  /-- DMAC (R56): DMAC adds the double-word product to the accumulator. -/
  | dmac (c : CoreId) (m : MacSlots)
  /-- DMSU (R56): DMSU subtracts the double-word product from the accumulator. -/
  | dmsu (c : CoreId) (m : MacSlots)
  /-- ALU_NOP (R72): ALU opcode NOP does nothing. -/
  | aluNop (c : CoreId) (a : AluSlots)
  /-- MOV (R72): MOV copies one D register to another. -/
  | mov (c : CoreId) (a : AluSlots)
  /-- ADD (R72): ADD adds two 24-bit values with wrapping and sets the flags. -/
  | add (c : CoreId) (a : AluSlots)
  /-- SUB (R72): SUB subtracts two 24-bit values with wrapping and sets the flags. -/
  | sub (c : CoreId) (a : AluSlots)
  /-- ADDS (R72): ADDS adds with saturation and sets the flags and SAT. -/
  | adds (c : CoreId) (a : AluSlots)
  /-- SUBS (R72): SUBS subtracts with saturation and sets the flags and SAT. -/
  | subs (c : CoreId) (a : AluSlots)
  /-- AND (R72): AND forms the bitwise AND of two operands. -/
  | and (c : CoreId) (a : AluSlots)
  /-- OR (R72): OR forms the bitwise OR of two operands. -/
  | or (c : CoreId) (a : AluSlots)
  /-- XOR (R72): XOR forms the bitwise exclusive OR of two operands. -/
  | xor (c : CoreId) (a : AluSlots)
  /-- NOT (R72): NOT inverts a D register. -/
  | not (c : CoreId) (a : AluSlots)
  /-- ASL (R72): ASL shifts left with wrapping. -/
  | asl (c : CoreId) (a : AluSlots)
  /-- ASLS (R72): ASLS shifts left with saturation. -/
  | asls (c : CoreId) (a : AluSlots)
  /-- ASR (R72): ASR shifts right arithmetically. -/
  | asr (c : CoreId) (a : AluSlots)
  /-- LSR (R72): LSR shifts right logically. -/
  | lsr (c : CoreId) (a : AluSlots)
  /-- ABS (R72): ABS forms the saturating absolute value. -/
  | abs (c : CoreId) (a : AluSlots)
  /-- NEG (R72): NEG negates with saturation. -/
  | neg (c : CoreId) (a : AluSlots)
  /-- MIN (R72): MIN takes the signed minimum. -/
  | min (c : CoreId) (a : AluSlots)
  /-- MAX (R72): MAX takes the signed maximum. -/
  | max (c : CoreId) (a : AluSlots)
  /-- CMP (R72): CMP sets the flags of SRCA minus SRCB. -/
  | cmp (c : CoreId) (a : AluSlots)
  /-- CLS (R72): CLS counts the redundant sign bits of a D register. -/
  | cls (c : CoreId) (a : AluSlots)
  /-- RND (R55): RND rounds, shifts and saturates an accumulator into a D register. -/
  | rnd (c : CoreId) (a : AluSlots)
  /-- RND2 (R72): RND2 rounds two accumulators of opposite banks into a D pair. -/
  | rnd2 (c : CoreId) (a : AluSlots)
  /-- MVA2 (R72): MVA2 moves an accumulator saturated to 48 bits into a D pair. -/
  | mva2 (c : CoreId) (a : AluSlots)
  /-- CLRA (R72): CLRA clears one accumulator. -/
  | clra (c : CoreId) (a : AluSlots)
  /-- CLRA2 (R72): CLRA2 clears an accumulator and its partner in the other bank. -/
  | clra2 (c : CoreId) (a : AluSlots)
  /-- MVDA (R72): MVDA moves a D register into an accumulator at bits [47:24]. -/
  | mvda (c : CoreId) (a : AluSlots)
  /-- MVPA (R72): MVPA moves a D pair into an accumulator at bits [47:0]. -/
  | mvpa (c : CoreId) (a : AluSlots)
  /-- ADDA (R72): ADDA adds two accumulators. -/
  | adda (c : CoreId) (a : AluSlots)
  /-- SUBA (R72): SUBA subtracts two accumulators. -/
  | suba (c : CoreId) (a : AluSlots)
  /-- ASHA (R72): ASHA shifts an accumulator by a signed immediate. -/
  | asha (c : CoreId) (a : AluSlots)
  /-- NEGA (R72): NEGA negates an accumulator. -/
  | nega (c : CoreId) (a : AluSlots)
  /-- ABSA (R72): ABSA forms the absolute value of an accumulator. -/
  | absa (c : CoreId) (a : AluSlots)
  /-- CMPA (R72): CMPA sets the flags of one accumulator minus another. -/
  | cmpa (c : CoreId) (a : AluSlots)
  /-- MOVC (R73): MOVC writes a control register from a D register or immediate. -/
  | movc (c : CoreId) (a : AluSlots)
  /-- MOVR (R73): MOVR reads a control register into a D register. -/
  | movr (c : CoreId) (a : AluSlots)
  /-- ADDP (R72): ADDP adds a step to a pointer under the modulo rule. -/
  | addp (c : CoreId) (a : AluSlots)
  /-- LD (R71): LD loads one word into a D register from X, Y, shared or crossbar space. -/
  | ld (c : CoreId) (m : MoveArgs)
  /-- LDP (R50): LDP loads a word pair into a D pair. -/
  | ldp (c : CoreId) (m : MoveArgs)
  /-- ST (R71): ST stores one D register word. -/
  | st (c : CoreId) (m : MoveArgs)
  /-- STP (R50): STP stores a D pair to two consecutive words. -/
  | stp (c : CoreId) (m : MoveArgs)
  /-- STR (R71): STR stores an accumulator rounded and saturated. -/
  | str (c : CoreId) (m : MoveArgs)
  /-- ST2 (R71): ST2 stores an accumulator saturated to 48 bits as two words. -/
  | st2 (c : CoreId) (m : MoveArgs)
  /-- LDA (R71): LDA loads two words into an accumulator, sign-filled. -/
  | lda (c : CoreId) (m : MoveArgs)
  /-- LONG_IMMEDIATE (R74): A long-immediate bundle loads up to two registers with 24-bit immediates. -/
  | longImmediate (c : CoreId) (s0 s1 : LimmSlot)
  /-- CTL_NOP (R76): Control opcode NOP does nothing. -/
  | ctlNop (c : CoreId)
  /-- BR (R61): BR branches to TGT if COND holds, after two delay slots. -/
  | br (c : CoreId) (cond : BitVec 4) (tgt : BitVec 14)
  /-- CALL (R66): CALL pushes the return address and branches if COND holds. -/
  | call (c : CoreId) (cond : BitVec 4) (tgt : BitVec 14)
  /-- RET (R66): RET pops the return stack and branches if COND holds. -/
  | ret (c : CoreId) (cond : BitVec 4)
  /-- LOOP (R62): LOOP starts a hardware loop with an immediate count. -/
  | loop (c : CoreId) (tgt : BitVec 14) (cnt : BitVec 16)
  /-- LOOPD (R62): LOOPD starts a hardware loop with a count from a D register. -/
  | loopd (c : CoreId) (tgt : BitVec 14) (rsel : Fin 32)
  /-- LOOP_ROT (R63): LOOP.ROT starts a rotating loop with an immediate count and stages. -/
  | loopRot (c : CoreId) (tgt : BitVec 14) (cnt : BitVec 16) (stgs : Fin 8)
  /-- LOOP_ROTD (R63): LOOP.ROTD starts a rotating loop with a count from a D register. -/
  | loopRotd (c : CoreId) (tgt : BitVec 14) (rsel : Fin 32) (stgs : Fin 8)
  /-- TEND (R104): TEND ends the running task and lets its writes land. -/
  | tend (c : CoreId)
  /-- EVT (R109): EVT posts an event through the pea's event map. -/
  | evt (c : CoreId) (v : Fin 64)
  /-- TRAP (R85): TRAP raises the TRAP exception with a code if COND holds. -/
  | trap (c : CoreId) (cond : BitVec 4) (code : BitVec 8)
  /-- ERET (R86): ERET returns from an exception, running any pending delay slots. -/
  | eret (c : CoreId)
  /-- WFI (R76): WFI stalls the core until an interrupt is pending. -/
  | wfi (c : CoreId)
  /-- CSRR (R83): CSRR reads a CSR into a D pair. -/
  | csrr (c : CoreId) (reg : Fin 32) (idx : BitVec 8)
  /-- CSRW (R83): CSRW writes a CSR from a D pair. -/
  | csrw (c : CoreId) (reg : Fin 32) (idx : BitVec 8)
  /-- FENCE (R81): FENCE stalls until every posted crossbar store has been answered. -/
  | fence (c : CoreId)
  /-- ILLEGAL_BUNDLE (R79): A bundle with a reserved code or field is not executed and faults. -/
  | illegalBundle (c : CoreId) (w : BitVec 64)
  /-- CROSSBAR_LOAD_RESPONSE (R81): The response to a crossbar load arrives, ending the stall or raising a precise XERR. -/
  | crossbarLoadResponse (c : CoreId) (data : BitVec 32) (error : Bool)
  /-- CROSSBAR_STORE_RESPONSE (R81): The response to a posted store arrives, releasing FENCE or raising an imprecise XERR. -/
  | crossbarStoreResponse (c : CoreId) (error : Bool)
  /-- INTERRUPT_ENTRY (R87): A pending enabled interrupt line is taken between bundles. -/
  | interruptEntry (c : CoreId) (line : Fin 64)
  /-- NMI (R85): The watchdog or clock-monitor NMI line is taken. -/
  | nmi (c : CoreId)
  /-- TIMER_ZERO (R88): A core timer reaches zero, raises its interrupt and reloads. -/
  | timerZero (c : CoreId) (t : Fin 2)
  /-- DISPATCH (R107): At a dispatch point the pea chooses the candidate with the earliest deadline and starts it. -/
  | dispatch (n : Fin 16) (p : Fin 9) (bcyc : BitVec 16)
  /-- COMPLETION_POST (R104): Once the task's writes have landed, the pea posts its completion with stamp and flags. -/
  | completionPost (n : Fin 16) (p : Fin 9)
  /-- BUDGET_ABANDON (R105): A task reaching the last cycle of its budget is abandoned with status BUDGET. -/
  | budgetAbandon (n : Fin 16) (p : Fin 9)
  /-- TEMPO_INTAKE (R116): Tempo takes one completion from the pod it visits and judges it by its stamp. -/
  | tempoIntake (n : Fin 16) (wait : BitVec 8)
  /-- HORIZON (R118): At a task's horizon Tempo settles every instance of the block by its posted flag. -/
  | horizon (n : Fin 16) (p : Fin 9) (e : Fin 64)
  /-- PEA_MEMORY_ERROR (R120): An uncorrectable ECC error in a pea's memory declares the pea failed. -/
  | peaMemoryError (n : Fin 16) (p : Fin 9)
  /-- POD_REPAIR_FAIL (R131): A write of POD_REPAIR.FAIL declares the named pea failed. -/
  | podRepairFail (n : Fin 16) (p : BitVec 4)
  /-- REPAIR_LOAD_COMPLETE (R127): The golden-copy load of a WARM image completes and the copied entries are enabled at the end of the block. -/
  | repairLoadComplete (n : Fin 16)
  /-- EVENT_ARRIVAL (R111): An event reaches a task input and adds one to its counter. -/
  | eventArrival (n : Fin 16) (p : Fin 9) (e : Fin 64) (x : Fin 4)
  /-- TASK_CANCEL (R114): TASK_CTL.CANCEL clears counters and discards pending instances. -/
  | taskCancel (n : Fin 16) (p : Fin 9) (e : Fin 64)
  /-- POD_DMA_QTAIL (R98): Advancing POD_DMA_QTAIL adds descriptors to the pod DMA ring. -/
  | podDmaQtail (n : Fin 16) (tail : BitVec 10)
  /-- POD_DMA_DESCRIPTOR_DONE (R98): A pod DMA descriptor completes, HEAD advances and an event may be posted. -/
  | podDmaDescriptorDone (n : Fin 16) (busError tagFail : Bool)
  /-- POD_DMA_ERR_CLEAR (R131): Clearing POD_DMA_STAT.ERR resumes the DMA at HEAD. -/
  | podDmaErrClear (n : Fin 16)
  /-- TEMPO_POP (R132): TEMPO_POP removes the oldest miss record. -/
  | tempoPop
  /-- FRAME_RECEIVE (R399): A received Ethernet frame is checked, classified and passed to its consumer. -/
  | frameReceive (m : Fin 13) (f : RxFrame)
  /-- ROUTER_ASSEMBLY (R137): Front-end channels are written to task input slots by BCYC 3,000. -/
  | routerAssembly (d : Fin 4096)
  /-- ROUTER_FORWARDING (R137): A settled output slot is copied to input slots in other pods. -/
  | routerForwarding (d : Fin 4096) (crossed : Bool)
  /-- BUS_DELIVERY (R137): Bus outputs are delivered to task input slots after their phase. -/
  | busDelivery (d : Fin 4096) (crossed : Bool)
  /-- ROUTER_OUTPUT (R137): Sources are moved through the guard to egress, TDM, modulator, meter and capture targets. -/
  | routerOutput (d : Fin 4096)
  /-- SG_WAPPLY_COMMIT (R140): COMMIT submits the queued table writes as one message and reports RESULT. -/
  | sgWapplyCommit
  /-- GATE_HOLD_EXPIRY (R152): A silence gate closes when no sample reached THRESH − HYST for HOLD. -/
  | gateHoldExpiry (c : Fin 3072)
  /-- BUS_PHASE_START (R159): A summing phase starts and forms its buses. -/
  | busPhaseStart (p : Fin 4)
  /-- BUS_PHASE_OVERRUN (R159): A phase not ended by END gives its unfinished buses the hold shape and logs PHOVR. -/
  | busPhaseOverrun (p : Fin 4)
  /-- METER_WINDOW_END (R162): A meter's tumbling window ends and its record is formed. -/
  | meterWindowEnd (m : Fin 1024)
  /-- METER_PUBLISH (R164): A meter record is published with matching SEQ words. -/
  | meterPublish (m : Fin 1024)
  /-- BRIDGE_RATE_UPDATE (R176): The bridge's 1 s mean frequency error is updated every 100 ms. -/
  | bridgeRateUpdate (b : Fin 64) (err : BitVec 24) (phi departure : BitVec 32)
  /-- BRIDGE_LOCK_EXIT (R177): A locked bridge leaves locked mode on rate error, phase deviation or loss of clock. -/
  | bridgeLockExit (b : Fin 64) (phi : BitVec 32) (clockLost : Bool)
  /-- BRIDGE_CROSSFADE_END (R178): A 10 ms crossfade between locked and tracking paths ends. -/
  | bridgeCrossfadeEnd (b : Fin 64)
  /-- BRIDGE_SLIP (R174): A tracking path whose delay leaves ±8 samples fades, re-centres and ramps back. -/
  | bridgeSlip (b : Fin 64)
  /-- BRIDGE_RANGE_ENTRY (R175): A bridge whose L rate leaves ±2,000 ppm enters RANGE and fades to zero. -/
  | bridgeRangeEntry (b : Fin 64) (err : BitVec 24)
  /-- BRIDGE_RANGE_EXIT (R175): A bridge in RANGE leaves it after 1 s within ±1,000 ppm. -/
  | bridgeRangeExit (b : Fin 64)
  /-- BRIDGE_SETTLE_END (R179): After 200 ms of measurement a starting bridge ramps its output in. -/
  | bridgeSettleEnd (b : Fin 64)
  /-- M_RANGE (R183): The M frequency leaving ±500 ppm sets RANGE and soft-mutes the modulators. -/
  | mRange (err : BitVec 24)
  /-- M_RANGE_CLEAR (R246): The M range mute request clears after 100 ms back in range. -/
  | mRangeClear
  /-- KS_UNWRAP (R196): Key-store command UNWRAP unwraps a section key into a slot. -/
  | ksUnwrap (slot : Fin 64) (record tagOk : Bool) (key : BitVec 256)
  /-- KS_DECRYPT (R198): Key-store command DECRYPT decrypts an open section. -/
  | ksDecrypt (slot : Fin 64) (tagOk : Bool) (dst : BitVec 40) (plain : List (BitVec 8))
  /-- KS_BUILD_GOLDEN (R199): Key-store command BUILD_GOLDEN re-encrypts a sealed section under GCK. -/
  | ksBuildGolden (slot : Fin 64) (tagOk : Bool) (dst : BitVec 40) (words : List (BitVec 32))
  /-- KS_SESSION (R536): Key-store command SESSION derives a Halvon session key. -/
  | ksSession (num : BitVec 32) (key : BitVec 256)
  /-- KS_SAK_INSTALL (R226): Key-store command SAK_INSTALL installs a MACsec key. -/
  | ksSakInstall (slot : Fin 64) (r : SakRecord) (apply : BitVec 32)
  /-- KS_SLOT_CLEAR (R229): Key-store command SLOT_CLEAR clears a key slot. -/
  | ksSlotClear (slot : Fin 64)
  /-- KS_ZEROISE (R204): Key-store command ZEROISE zeroises seal windows and keys and stops the pods. -/
  | ksZeroise
  /-- KS_EPOCH_ADVANCE (R193): Key-store command EPOCH_ADVANCE blows epoch bits one at a time when allowed. -/
  | ksEpochAdvance (verify : List Bool)
  /-- KS_PROVISION (R187): Key-store command PROVISION blows OWNER_HASH, SAFETY_HASH and OWNED. -/
  | ksProvision (production : Bool) (owner safety : BitVec 384)
  /-- KS_RANDOM (R229): Key-store command RANDOM fills the command block with random bytes. -/
  | ksRandom
  /-- KS_KILL_JTAG (R229): Key-store command KILL_JTAG blows JKILL. -/
  | ksKillJtag (owner : Bool)
  /-- KS_BAD_OP (R229): A key-store command with an unknown OP completes with ERR 6. -/
  | ksBadOp (op : BitVec 8)
  /-- KS_COMMAND_DONE (R229): A running key-store command completes, clearing GO and setting DONE. -/
  | ksCommandDone
  /-- ZEROISATION_DONE (R205): Zeroisation completes and ZDONE is set. -/
  | zeroisationDone
  /-- TRNG_HEALTH_FAIL (R190): An entropy health test fails and TRNG_OK falls to 0. -/
  | trngHealthFail
  /-- SEAL_LOCK (R201): Setting KS_SEAL_CTL.LOCK locks a pea's seal windows. -/
  | sealLock (q : Fin 144)
  /-- JTAG_IDCODE (R220): JTAG instruction IDCODE returns the device identification. -/
  | jtagIdcode
  /-- JTAG_BYPASS (R220): JTAG instruction BYPASS selects the bypass register. -/
  | jtagBypass
  /-- UNLOCK_CHAL (R220): A read of UNLOCK_CHAL returns DEVICE_ID, E and a fresh nonce. -/
  | unlockChal
  /-- UNLOCK_RESP (R221): An unlock response is checked and, if valid, opens JTAG after safe mute and zeroisation. -/
  | unlockResp (r : UnlockResponse)
  /-- SAK_RETIRE (R226): The old AN is retired and its slot cleared RETIRE seconds after the transmit move. -/
  | sakRetire (m : Fin 12)
  /-- CARRIER_PERIOD (R232): A carrier period begins and the channel's index and leg edges are set. -/
  | carrierPeriod (c : Fin 72)
  /-- CARRIER_GRID_START (R233): Setting MOD_GCTL.RUN starts the carrier grids. -/
  | carrierGridStart
  /-- SOURCE_SELECT (R240): At BCYC 40,000 each channel chooses own, partner or no source for a data block. -/
  | sourceSelect
  /-- POWER_STAGE_FAULT (R248): MODG_FLT low while not driven hard-stops the group and enters FAULT. -/
  | powerStageFault (g : Fin 18)
  /-- GROUP_LINE_RELEASED (R245): The group line is released and waiting channels enter PRECHG. -/
  | groupLineReleased (g : Fin 18)
  /-- PRECHG_END (R245): Precharge ends and the channel enters ZERO. -/
  | prechgEnd (c : Fin 72)
  /-- ZERO_END (R245): The zero settling time ends and the channel enters RAMPUP or RUN. -/
  | zeroEnd (c : Fin 72)
  /-- RAMP_END (R244): A start, mute or unmute ramp completes and the channel changes state. -/
  | rampEnd (c : Fin 72)
  /-- MOD_MUTE_WRITE (R246): A write of MOD_CTL.MUTE requests a soft mute or unmute. -/
  | modMuteWrite (c : Fin 72) (mute : Bool)
  /-- IDLE_ENTRY (R249): After IDLE_DLY of inactivity a group ramps to zero, stops and withdraws its enable. -/
  | idleEntry (g : Fin 18)
  /-- GROUP_ACTIVE (R250): The group becomes ACTIVE at WAKE after the wake request. -/
  | groupActive (g : Fin 18) (ns : BitVec 64)
  /-- RAIL_PLAN (R256): The planner decides the rail target for a data block 2 µs into block k+2. -/
  | railPlan (r : Fin 8)
  /-- RAIL_FRAME (R254): A serial rail command frame is sent every 1/96,000 s. -/
  | railFrame (r : Fin 8)
  /-- SENSE_RUN (R274): Setting SNS_CTL.RUN checks the sets, clears the histories and starts the chain. -/
  | senseRun
  /-- SENSE_FAST_VALUE (R266): A stream's 384 kHz fast value is formed and delivered to Rook and feed-forward. -/
  | senseFastValue (x : Fin 152) (bits : List Bool)
  /-- SENSE_SLOW_VALUE (R265): A stream's slow value is formed by the FIR and published. -/
  | senseSlowValue (x : Fin 152) (ns : BitVec 64)
  /-- SENSE_DIP_VALUE (R271): A rail stream's dip value is formed every 4 bit periods and compared with LO. -/
  | senseDipValue (r : Fin 8) (bits : BitVec 4)
  /-- SENSE_STUCK (R273): A stream keeping one level for 256 bit periods is flagged stuck. -/
  | senseStuck (x : Fin 152)
  /-- SNS_OUTIDX_READ (R268): A read of SNS_OUTIDX latches the timebase of that instant into SNS_TLATCH. -/
  | snsOutidxRead
  /-- LOCKSTEP_MISMATCH (R279): The Rook comparator finds a mismatch and enters the hardware safe state. -/
  | lockstepMismatch
  /-- ROOK_SRAM_ERROR (R279): An uncorrectable Rook SRAM error enters the hardware safe state. -/
  | rookSramError
  /-- SELF_WATCHDOG_EXPIRY (R280): A missed 1 ms self-kick enters the hardware safe state. -/
  | selfWatchdogExpiry
  /-- ROOK_LOAD (R283): Rook verifies the safety section, writes its configuration and arms. -/
  | rookLoad (sec : SafetySection)
  /-- RELAY_CLOSE (R285): Once ARMED with valid sense and no latched trip, Rook energises SFOUT0. -/
  | relayClose
  /-- RLYON_END (R285): RLYON after the relay closed, group lines may be released. -/
  | rlyonEnd
  /-- LINE_RELEASE (R286): On a group's enable request Rook releases its line if every condition holds. -/
  | lineRelease (g : Fin 18)
  /-- THERMAL_UPDATE (R289): The two-node thermal model and thermal gain are updated every 1 ms. -/
  | thermalUpdate (c : Fin 72)
  /-- IMPEDANCE_MEASURE (R293): R_meas is formed from programme every 100 ms and corrects T_c. -/
  | impedanceMeasure (c : Fin 72)
  /-- PILOT_WINDOW (R295): The pilot is demodulated over 1 ms to give Z_p. -/
  | pilotWindow (c : Fin 72)
  /-- EXCURSION_GAIN (R296): Rook predicts displacement for a data block and writes G_x. -/
  | excursionGain (c : Fin 72) (written : Bool)
  /-- DC_TRIP (R298): A DC detector above threshold for DCPERS latches a DCI or DCO trip. -/
  | dcTrip (c : Fin 72) (output : Bool)
  /-- OCHOLD_END (R299): After OCHOLD the channel restarts unless latched. -/
  | ocholdEnd (c : Fin 72)
  /-- FLTHOLD_END (R299): After FLTHOLD the group's line may be released again. -/
  | fltholdEnd (g : Fin 18)
  /-- RDCLR_END (R297): A rail above LO for RDCLR releases RAILDIP. -/
  | rdclrEnd (r : Fin 8)
  /-- SFIN_SAMPLE (R300): Rook samples the safety inputs every 10 µs and qualifies them. -/
  | sfinSample (levels : BitVec 4)
  /-- SFIN_HOLD_END (R300): 250 ms after an input becomes inactive, its effect ends. -/
  | sfinHoldEnd (n : Fin 4)
  /-- SFIN_STUCK (R300): An input active for 60 s is reported stuck. -/
  | sfinStuck (n : Fin 4)
  /-- CC_WATCHDOG_READ (R306): Rook reads each control core's heartbeat word every CWDMS. -/
  | ccWatchdogRead (n : Fin 4) (word : BitVec 32)
  /-- CLOCK_MONITOR_WINDOW (R307): A 10 µs window compares the watched clocks with the RC oscillator. -/
  | clockMonitorWindow (rook pods sense : Bool)
  /-- CLOCK_RECOVERED (R307): After 1 s with every clock in range Rook arms again. -/
  | clockRecovered
  /-- DRANAN_MARKER (R313): A received marker advances the lane's HUNT, CONFIRM or ALIGNED state. -/
  | drananMarker (lane : Fin 16) (payload : BitVec 64) (inPlace : Bool) (ns : BitVec 64)
  /-- RECORD_HEARTBEAT (R317): A HEARTBEAT record updates the partner's state. -/
  | recordHeartbeat (crcOk : Bool) (dblk : BitVec 24) (h : Heartbeat)
  /-- RECORD_KING (R334): A KING record carries PROPOSE, ACCEPT, COMMIT or CANCEL of a castling. -/
  | recordKing (crcOk : Bool) (code : KingCode) (dblk : BitVec 24)
  /-- RECORD_MODFEED (R316): A MODFEED record delivers the partner's 72 modulator feeds of a data block. -/
  | recordModfeed (crcOk : Bool) (tagOk : Bool) (dblk : BitVec 24) (feeds : List (BitVec 32))
  /-- RECORD_MIRROR (R321): A MIRROR record delivers mirror entries to the standby. -/
  | recordMirror (crcOk : Bool) (first : BitVec 32) (entries : List MirrorEntry)
  /-- RECORD_TIME (R318): A TIME record updates link delay and timebase offset. -/
  | recordTime (crcOk : Bool) (sent : BitVec 64) (got : BitVec 64) (arrived : BitVec 64)
  /-- RECORD_SLOT (R316): A SLOT record delivers the partner's copy of output slots. -/
  | recordSlot (crcOk : Bool) (tagOk : Bool) (dblk : BitVec 24) (pod : Fin 16) (first : Fin 512) (samples : List (BitVec 32))
  /-- LEASE_LINE_FRAME (R327): A lease-line frame from the partner is received and checked. -/
  | leaseLineFrame (w : BitVec 128)
  /-- NETWORK_HEARTBEAT (R327): A network heartbeat frame from the partner is verified and used. -/
  | networkHeartbeat (w : BitVec 128) (k : BitVec 64) (tagOk : Bool)
  /-- KING_TAKE (R328): A standby whose lease guard has passed, or with no lease known, takes the king. -/
  | kingTake
  /-- DRN_CASTLE (R333): DRN_CTL.CASTLE requests a castling. -/
  | drnCastle
  /-- CASTLING_ACCEPT_DEADLINE (R334): Without ACCEPT by c − 8 the holder cancels the castling. -/
  | castlingAcceptDeadline
  /-- CASTLING_BLOCK (R334): At block c the holder yields and the committed standby acts. -/
  | castlingBlock
  /-- REVERT_EXPIRY (R335): The home-acting standby requests castling after REVERT seconds HEALTHY. -/
  | revertExpiry
  /-- DRN_RESYNC (R323): DRN_CTL.RESYNC makes the holder send a resync. -/
  | drnResync
  /-- MIRROR_EXPIRY (R322): Mirror entries waiting more than 24 blocks are dropped and a RESYNC follows. -/
  | mirrorExpiry
  /-- TB_SET_GO (R339): TB_SET_CTL.GO sets the timebase while audio is not running. -/
  | tbSetGo
  /-- FREESTART_TIMEOUT (R339): With FREESTART, an unset timebase starts from 0 after ACQTO. -/
  | freestartTimeout
  /-- PTP_EVENT_MESSAGE (R349): A PTP event message is stamped at the SFD and passed to the stack. -/
  | ptpEventMessage (p : Fin 8) (d : Fin 2) (egress : Bool) (latch : BitVec 66) (waiting : Fin 33) (bad : Bool) (verdict : Fin 9)
  /-- PTP_SYNC (R346): A Sync updates the domain servo's model and state. -/
  | ptpSync (p : Fin 8) (d : Fin 2) (offset : BitVec 64) (residual : BitVec 32) (freq mpd : BitVec 24) (gm : BitVec 64)
  /-- ANNOUNCE_TIMEOUT (R346): The announce receipt timeout moves a domain to LISTENING or HOLDOVER. -/
  | announceTimeout (d : Fin 2)
  /-- DOMAIN_WTR_EXPIRY (R347): After WTR locked, selection reverts to PREF. -/
  | domainWtrExpiry
  /-- CAPTURE_EDGE (R352): A capture unit stamps a qualifying edge into its FIFO. -/
  | captureEdge (u : Fin 32) (rising : Bool) (ns : BitVec 64) (sub : BitVec 8)
  /-- CAP_POP (R353): CAP_POP.POP removes the oldest stamp. -/
  | capPop (u : Fin 32)
  /-- TRIGGER_ARM (R355): Setting TRG_CFG.EN arms a comparator, firing late at once if the target is past. -/
  | triggerArm (t : Fin 32)
  /-- TRIGGER_FIRE (R354): A comparator fires when the timebase reaches its target and performs its actions. -/
  | triggerFire (t : Fin 32) (ns : BitVec 64)
  /-- REF_QUALIFY (R356): A reference within ±QUALPPM for QUALT is qualified. -/
  | refQualify (c : Fin 8) (ferr : BitVec 24) (near : Bool) (step : BitVec 24)
  /-- REF_DISQUALIFY (R356): A reference with missing edges or out of range is disqualified at once. -/
  | refDisqualify (c : Fin 8) (miss : Bool) (ferr : BitVec 24) (near : Bool) (step : BitVec 24)
  /-- DPLL_LOCK (R357): After 2 s within limits the DPLL enters LOCKED. -/
  | dpllLock
  /-- DPLL_UNLOCK (R357): Phase error over 100 ns for 100 ms returns the DPLL to ACQUIRING. -/
  | dpllUnlock
  /-- HISTORY_VALID (R358): After 60 s LOCKED the holdover history becomes valid. -/
  | historyValid
  /-- DPLL_REVERT (R359): After WTR qualified the DPLL returns to the higher-priority or manual candidate. -/
  | dpllRevert (near : Bool) (step : BitVec 24)
  /-- DPLL_OPEN (R361): Setting or clearing DPLL_CTL.OPEN opens or closes the loop. -/
  | dpllOpen (opn : Bool) (step : BitVec 24)
  /-- DPLL_FREQ_WRITE (R361): A write of DPLL_FREQ sets the open-loop output frequency. -/
  | dpllFreqWrite (v : BitVec 32)
  /-- CKOUT_MODE_WRITE (R363): A write of CKO_CFG.MODE starts or stops a clock output. -/
  | ckoutModeWrite (o : Fin 6) (mode : Fin 4)
  /-- CKO_ALIGN_GO (R364): CKO_ALIGN.GO arms alignment at the next reference edge. -/
  | ckoAlignGo (o : Fin 6)
  /-- CKO_ALIGN_EDGE (R364): A reference edge realigns or tracks the clock output. -/
  | ckoAlignEdge (o : Fin 6) (err : BitVec 16)
  /-- LANE_SIGNAL_SET (R372): A receiver reports signal after 10 ms above 80 mV and bring-up restarts. -/
  | laneSignalSet (n : Fin 16)
  /-- LANE_SIGNAL_LOSS (R372): Signal below 50 mV for 1 µs reports link down and returns to DETECT. -/
  | laneSignalLoss (n : Fin 16)
  /-- KR_AUTONEG (R373): Clause 73 auto-negotiation and clause 72 training run for a KR lane. -/
  | krAutoneg (n : Fin 16) (ok : Bool)
  /-- DETECT_PROBE (R374): A receiver-detection probe runs every 1 ms in DETECT. -/
  | detectProbe (n : Fin 16) (found : Bool)
  /-- DETECT_TIMEOUT (R374): DETECT times out after 100 ms and starts again. -/
  | detectTimeout (n : Fin 16)
  /-- TRAINING_FRAME (R375): A training frame's control word is taken and requests or status acted on. -/
  | trainingFrame (n : Fin 16) (word : BitVec 32) (settled : Bool)
  /-- TRAIN_TIMEOUT (R374): TRAIN times out after 500 ms and returns to DETECT. -/
  | trainTimeout (n : Fin 16)
  /-- BLOCK_LOCK_ACQUIRED (R374): 64 valid sync headers give block lock and the lane enters EXCHANGE. -/
  | blockLockAcquired (n : Fin 16)
  /-- LOCK_TIMEOUT (R374): LOCK times out after 10 ms. -/
  | lockTimeout (n : Fin 16)
  /-- CAPABILITY_SEND (R378): A lane sends its capability word every 4,096 lane blocks. -/
  | capabilitySend (n : Fin 16)
  /-- CAPABILITY_WORD (R379): A received capability word is checked and may complete EXCHANGE. -/
  | capabilityWord (n : Fin 16) (words : List (BitVec 64))
  /-- EXCHANGE_TIMEOUT (R374): EXCHANGE without a valid word for 100 ms returns to LOCK. -/
  | exchangeTimeout (n : Fin 16)
  /-- BLOCK_LOCK_LOSS (R381): An ACTIVE lane loses block lock and tries to regain it. -/
  | blockLockLoss (n : Fin 16) (ns : BitVec 64)
  /-- RELOCK_TIMEOUT (R381): Block lock not regained in 10 ms sends the lane to TRAIN. -/
  | relockTimeout (n : Fin 16)
  /-- HIBER_WINDOW (R385): An error-count window ends and sets or clears HIBER. -/
  | hiberWindow (n : Fin 16) (invalid : BitVec 32)
  /-- LN_CTL_FAIL (R386): LN_CTL.FAIL declares the lane failed. -/
  | lnCtlFail (n : Fin 16)
  /-- LN_CTL_CLEAR (R392): LN_CTL.CLEAR turns a replaced failed lane into a free spare or restarts it. -/
  | lnCtlClear (n : Fin 16)
  /-- LN_CTL_RESTART (R368): LN_CTL.RESTART restarts the lane's bring-up. -/
  | lnCtlRestart (n : Fin 16)
  /-- LN_CTL_PRESET (R383): LN_CTL.PRESET makes the next training start from preset. -/
  | lnCtlPreset (n : Fin 16)
  /-- SWAP_BLOCK (R389): A received swap block requests or acknowledges a Dranan lane substitution. -/
  | swapBlock (n : Fin 16) (payload : BitVec 64)
  /-- SWAP_BLOCK_DUE (R389): At swap block s the logical lane moves to the spare. -/
  | swapBlockDue (n : Fin 16)
  /-- LANE_RETRY_BRINGUP (R388): A failed lane without replacement restarts bring-up every 1 s. -/
  | laneRetryBringup (n : Fin 16)
  /-- DFE_ADAPT (R382): After every 1,024 decisions each DFE tap moves one step. -/
  | dfeAdapt (n : Fin 16) (up : BitVec 5) (errors : BitVec 11)
  /-- EYE_SCAN_GO (R384): LN_ESCAN.GO starts an eye scan. -/
  | eyeScanGo (n : Fin 16) (phase : BitVec 6) (voff : BitVec 7) (dwell : BitVec 4)
  /-- EYE_SCAN_DONE (R384): An eye scan completes its decision count and reports errors. -/
  | eyeScanDone (n : Fin 16) (errs : BitVec 64)
  /-- PAUSE_EXPIRY (R406): A pause time runs out and the transmitter or class resumes. -/
  | pauseExpiry (m : Fin 13) (priority : Option (Fin 8))
  /-- FRAME_LAUNCH (R402): An audio-class frame reaching its launch instant begins transmission. -/
  | frameLaunch (m : Fin 13) (ns : BitVec 64)
  /-- LAUNCH_DEADLINE_DROP (R402): A frame not begun by its instant plus LTOL is dropped. -/
  | launchDeadlineDrop (m : Fin 13) (ns : BitVec 64)
  /-- CONTROL_FRAME_SEND (R403): A control-class frame begins when it fits before the next launch instant. -/
  | controlFrameSend (m : Fin 13) (frame : Option CtlFrame) (credit : BitVec 8) (ns : BitVec 64)
  /-- LINK_DOWN (R408): A MAC going down flushes audio frames and faults its PTP port. -/
  | linkDown (m : Fin 13)
  /-- LINK_UP (R408): A MAC coming up releases waiting control frames. -/
  | linkUp (m : Fin 13) (speed : Fin 3) (half : Bool)
  /-- CONTROL_FRAME_TIMEOUT (R408): A control frame waiting 8 ms over a link loss is dropped. -/
  | controlFrameTimeout (m : Fin 13) (ns : BitVec 64)
  /-- LPI_ENTER (R409): In QUIET with queues empty a MAC asserts low-power idle. -/
  | lpiEnter (m : Fin 13)
  /-- EGRESS_PACKET_BUILD (R413): An egress entry builds a packet for its data blocks. -/
  | egressPacketBuild (e : Fin 512)
  /-- INGRESS_WINDOW_CLOSE (R416): A data block's ingress window closes and missing samples are handled. -/
  | ingressWindowClose
  /-- STREAM_AGE_EXPIRY (R419): An ingress entry without frames for AGE enters STALE. -/
  | streamAgeExpiry (e : Fin 512)
  /-- LEG_AGE_EXPIRY (R417): A merged leg without frames for AGE clears and is logged. -/
  | legAgeExpiry (e : Fin 512) (b : Bool)
  /-- SIN_COMMIT (R420): SIN_CTL.COMMIT puts an ingress entry's shadow in force. -/
  | sinCommit (e : Fin 512)
  /-- SOUT_COMMIT (R420): SOUT_CTL.COMMIT puts an egress entry's shadow in force. -/
  | soutCommit (e : Fin 512)
  /-- CABINET_REPORT (R434): A cabinet report is checked and written whole to the cabinet's entry. -/
  | cabinetReport (p : Fin 4) (dst : BitVec 48) (bytes : List (BitVec 8)) (ns : BitVec 64)
  /-- FB_FRAME_RECEIVE (R437): A non-report field-bus frame is stored in the receive window. -/
  | fbFrameReceive (p : Fin 4) (dst : BitVec 48) (bytes : List (BitVec 8)) (waiting : BitVec 12)
  /-- FB_TX_GO (R437): FB_TXCTL.GO sends the transmit window's frame. -/
  | fbTxGo (p : Fin 4) (len : BitVec 11) (sent : Bool)
  /-- FB_COLLISION (R430): A collision starts backoff or drops the frame after 16 attempts. -/
  | fbCollision (p : Fin 4)
  /-- FB_BACKOFF_END (R430): The backoff time ends and the frame is tried again. -/
  | fbBackoffEnd (p : Fin 4) (sent : Bool)
  /-- PLCA_BEACON_TIMEOUT (R431): Without beacons PLCAOK clears and the port falls back to CSMA/CD. -/
  | plcaBeaconTimeout (p : Fin 4)
  /-- CAB_AGE_LAPSE (R436): CAB_AGE reaching 10,000 ms logs a lapse. -/
  | cabAgeLapse (c : Fin 63)
  /-- TDM_CLOCK_GAP (R444): No BCK edge for 4 µs enters NOCLK and loss of clock. -/
  | tdmClockGap (p : Fin 32)
  /-- TDM_FRAME (R444): A TDM frame ends and its samples and sync are checked. -/
  | tdmFrame (p : Fin 32) (counted : BitVec 12) (edge : Bool) (fsw : BitVec 12) (slots : List DWord) (ns : BitVec 64)
  /-- TDM_HUNT_TIMEOUT (R446): 10 ms in HUNT without RUN reports loss of clock. -/
  | tdmHuntTimeout (p : Fin 32)
  /-- TDM_OVERRUN (R447): A received frame finding the input FIFO full is a port fault. -/
  | tdmOverrun (p : Fin 32)
  /-- TDM_UNDERRUN (R447): A frame starting with the output FIFO empty is a port fault. -/
  | tdmUnderrun (p : Fin 32)
  /-- TDM_COAST_FRAME (R448): Without clock the port emits coasting frames timed from the oscillator. -/
  | tdmCoastFrame (p : Fin 32) (ns : BitVec 64)
  /-- TDM_FADE_END (R448): The 1 ms fault fade ends. -/
  | tdmFadeEnd (p : Fin 32)
  /-- TDM_RAMP_END (R449): The 10 ms ramp completes and the fault episode ends. -/
  | tdmRampEnd (p : Fin 32)
  /-- TDM_RESYNC (R449): TDM_CTL.RESYNC forces a frame-sync error. -/
  | tdmResync (p : Fin 32)
  /-- XB_TRANSACTION (R453): A master issues a crossbar transaction, checked by the firewall and decoded. -/
  | xbTransaction (r : XbReq) (ns : BitVec 64)
  /-- XB_PIECE_GRANT (R455): A target grants a waiting piece by reservation, QoS and age. -/
  | xbPieceGrant (target : Fin 19) (ecc : Option DramErr)
  /-- XB_RESPONSE (R461): A response returns to the master in issue order and frees the tag. -/
  | xbResponse (master : BitVec 6)
  /-- XB_TIMEOUT (R462): A transaction without a response after TO gets an error response. -/
  | xbTimeout (master : BitVec 6) (ns : BitVec 64)
  /-- XB_QOS_AGE (R455): A waiting piece's effective QoS rises by one every AGE_STEP cycles. -/
  | xbQosAge (target : Fin 19) (index : BitVec 14)
  /-- XB_FBCLR (R463): XB_CTL.FBCLR leaves fixed-priority fall-back. -/
  | xbFbclr
  /-- FW_LOCK (R464): Setting FW_CTL.LOCK locks the firewall regions. -/
  | fwLock
  /-- MR4_READ (R466): Each controller reads MR4 every 16 ms and reports the refresh multiplier. -/
  | mr4Read (n : Fin 2) (rmult : Fin 3)
  /-- PATROL_SCRUB (R466): The patrol scrub reads the whole memory every PERIOD hours. -/
  | patrolScrub (n : Fin 2) (errors : List DramErr)
  /-- IMG_WRITE (R484): Flash job IMG_WRITE erases, programs, verifies and commits a slot. -/
  | imgWrite (slot : Fin 2)
  /-- IMG_READ (R497): Flash job IMG_READ reads an image into a buffer. -/
  | imgRead (slot : Fin 2)
  /-- FL_LOG_READ (R492): Flash job LOG_READ reads log records into a buffer. -/
  | flLogRead
  /-- CAP_DELETE (R489): Flash job CAP_DELETE frees a capture. -/
  | capDelete
  /-- CAP_PROTECT (R489): Flash job CAP_PROTECT sets or clears a capture's PROTECT. -/
  | capProtect (on : Bool)
  /-- FORMAT (R479): Flash job FORMAT checks the parts and lays out the regions and tables. -/
  | format (d : FlashDesc) (bad : List (Fin 64 × BitVec 16))
  /-- SCAN_NOW (R481): Flash job SCAN_NOW starts a retention scan. -/
  | scanNow
  /-- FL_LIFE (R495): Flash job LIFE writes the life report into a buffer. -/
  | flLife
  /-- FL_BAD_OP (R497): A flash job with an unknown OP ends with ERR 3. -/
  | flBadOp (op : BitVec 8)
  /-- FLASH_JOB_DONE (R497): A running flash job completes, clearing GO and setting DONE. -/
  | flashJobDone (ok : Bool)
  /-- NAND_OPERATION_DONE (R483): A die finishes a read, program or erase and its queue advances. -/
  | nandOperationDone (op : NandOp) (r : NandResult)
  /-- RETENTION_SCAN (R481): Every 168 h one page of every written wordline group is read. -/
  | retentionScan (findings : List (Fin 64 × BitVec 16 × BitVec 8))
  /-- JOB_URGENT (R482): A background job whose slack falls below twice its duration becomes urgent. -/
  | jobUrgent (index : BitVec 16)
  /-- CAPTURE_CHUNK_PROGRAM (R487): The flash manager programs a staged chunk in stripe units to CAP or REC. -/
  | captureChunkProgram (recorder : Bool)
  /-- CAPTURE_DELIVERY_TIMEOUT (R486): A block not delivered to DRAM within 8 blocks is dropped. -/
  | captureDeliveryTimeout (recorder : Bool) (blk : BitVec 32)
  /-- CHECKPOINT (R494): Every 250 ms a META checkpoint names the last stripe unit programmed. -/
  | checkpoint
  /-- LOG_PAGE_FLUSH (R492): A log page is programmed when full or LOGFLUSH after its first record. -/
  | logPageFlush
  /-- POWER_ON_RESET (R499): VDD_AON becoming valid resets the engine and Pawn enters STANDBY. -/
  | powerOnReset (lost pufOk trngOk : Bool)
  /-- WAKE_PIN (R500): A falling edge on WAKE in STANDBY starts WAKING. -/
  | wakePin
  /-- PAWN_STATE (R509): Diagnostic command PAWN_STATE returns Pawn's state and NOIMAGE. -/
  | pawnState
  /-- PAWN_FAULT (R509): Diagnostic command PAWN_FAULT returns the last fault code. -/
  | pawnFault
  /-- PAWN_FLOG (R509): Diagnostic command PAWN_FLOG returns the fault record. -/
  | pawnFlog
  /-- PAWN_CMD_WAKE (R509): PAWN_CMD WAKE starts WAKING from STANDBY. -/
  | pawnCmdWake
  /-- PAWN_CMD_RETRY (R505): PAWN_CMD RETRY leaves WAKE_FAILED and starts WAKING from step 0. -/
  | pawnCmdRetry
  /-- STEP_PASS (R502): A power step passes after power-good holds for 100 µs and PMBus status is clean. -/
  | stepPass
  /-- STEP_DLY_END (R502): DLY after a passed step the next step starts, or Pawn enters RUN. -/
  | stepDlyEnd (copies : List BootCopy)
  /-- STEP_TIMEOUT (R502): A step not passed within TIMEOUT fails and is retried or enters WAKE_FAILED. -/
  | stepTimeout
  /-- STEP_RETRY (R504): 100 ms after a failure the step is tried again. -/
  | stepRetry
  /-- OSC_CHECK_WINDOW (R503): A 1 ms window counts oscillator cycles against the RC oscillator. -/
  | oscCheckWindow (cycles : BitVec 17) (swing : BitVec 12)
  /-- PPG_LOSS (R506): A power-good low for 10 µs in RUN or QUIET is logged and handled. -/
  | ppgLoss (e : Fin 12)
  /-- PPG_LOSS_PERSIST (R589): Power-good low for 100 ms leads to STOPPING and a new wake. -/
  | ppgLossPersist (e : Fin 12)
  /-- PWR_STANDBY (R506): PWR_CTL.STANDBY starts STOPPING. -/
  | pwrStandby
  /-- STOPPING_FLUSH_DONE (R506): The flash flush ends and Pawn removes the supplies in reverse order. -/
  | stoppingFlushDone
  /-- PWR_RUN (R512): PWR_CTL.RUN leaves QUIET. -/
  | pwrRun
  /-- PWR_RESTART (R513): PWR_CTL.RESTART performs a warm restart. -/
  | pwrRestart (copies : List BootCopy)
  /-- PMBUS_POLL (R507): Every 10 ms each PMBus entry's telemetry and status are read. -/
  | pmbusPoll (reads : List PmbRead) (levels : BitVec 12)
  /-- AVS_STEP (R508): VDD_CORE moves one 5 mV step towards the delay-monitor target. -/
  | avsStep (target : BitVec 10)
  /-- QUIET_ENTRY (R510): After QDLY of quiet Pawn enters QUIET at a block boundary. -/
  | quietEntry
  /-- QUIET_EXIT (R512): A leave cause switches QOFF entries on and Pawn enters RUN at the next boundary. -/
  | quietExit
  /-- VENDOR_RUNTIME_START (R516): The vendor runtime trains DRAM, repairs rows and brings up flash. -/
  | vendorRuntimeStart (fit1 ranks : Bool) (dens : Fin 4) (ok0 ok1 : Bool) (repaired : List Bool) (flash : List FlcTrain)
  /-- SLOT_ADMISSION (R525): A configuration slot is checked, loaded or failed over. -/
  | slotAdmission (slot : Fin 2) (im : Image) (failed : List (Fin 144))
  /-- AUDIO_START (R528): At the chosen start block audio starts and every RUN bit sets. -/
  | audioStart
  /-- HELLO (R536): HELLO checks a certificate and answers with ACCEPT and a new session. -/
  | hello (formOk : Bool) (role : Fin 16) (seq : BitVec 32) (cert : RoleCert)
  /-- DEVCERT (R536): DEVCERT returns the device certificate in clear. -/
  | devcert (formOk : Bool) (seq : BitVec 32)
  /-- BYE (R538): BYE ends the session after its response. -/
  | bye (h : MsgHead)
  /-- KEYROLL (R539): KEYROLL replaces the session key. -/
  | keyroll (h : MsgHead)
  /-- GET (R545): GET returns parameter values from the active copy. -/
  | get (h : MsgHead) (els : List ParamAddr)
  /-- SET (R546): SET checks parameter elements and queues them for their apply time. -/
  | set (h : MsgHead) (els : List ParamElem)
  /-- SCENE (R547): SCENE recalls an owner scene as one message. -/
  | scene (h : MsgHead) (num : BitVec 16)
  /-- METER_SUB (R549): METER_SUB adds or removes meter subscriptions. -/
  | meterSub (h : MsgHead) (mode div : BitVec 8) (meters : List (BitVec 16))
  /-- EVENT_SUB (R550): EVENT_SUB sets the fault-class subscription mask. -/
  | eventSub (h : MsgHead) (mask : BitVec 16)
  /-- EVENT (R551): The engine sends an EVENT carrying meter or fault records. -/
  | event (num : BitVec 32) (kind : EventKind)
  /-- EVENT_DROP_TIMEOUT (R551): A record not sent within 100 ms is dropped and counted. -/
  | eventDropTimeout (num : BitVec 32) (kind : EventKind)
  /-- CAPTURE (R552): CAPTURE opens, changes or stops a capture window. -/
  | capture (h : MsgHead) (op flags : BitVec 8) (capid : BitVec 32) (start stop : BitVec 64)
  /-- CASTLE (R553): CASTLE requests a castling and reports its block. -/
  | castle (h : MsgHead)
  /-- LOG_READ (R554): LOG_READ returns log records from a sequence number. -/
  | logRead (h : MsgHead) (first : BitVec 32) (max : BitVec 16)
  /-- LIFE (R555): LIFE returns the life summary and the device certificate. -/
  | life (h : MsgHead)
  /-- MACSEC_REKEY (R556): MACSEC_REKEY installs a SAK at its apply BSN. -/
  | macsecRekey (h : MsgHead) (r : SakRecord)
  /-- SESSION_OPEN_TIMEOUT (R536): A session not opened within 2 s is dropped. -/
  | sessionOpenTimeout (num : BitVec 32)
  /-- SESSION_IDLE_TIMEOUT (R538): A session without a valid client message for 60 s ends. -/
  | sessionIdleTimeout (num : BitVec 32)
  /-- SESSION_EXPIRY (R216): A session ends at its certificate's NOT_AFTER. -/
  | sessionExpiry (num : BitVec 32)
  /-- OLD_KEY_EXPIRY (R539): 2 s after a KEYROLL the old key is no longer accepted. -/
  | oldKeyExpiry (num : BitVec 32)
  /-- REGISTER_WRITE (R562): A write to a register without its own row sets or refuses its fields by access type. -/
  | registerWrite (master : BitVec 6) (user met : Bool) (addr v : BitVec 32)
  /-- FEU_INTAKE (R575): The fault and event unit takes in one record, sequences and distributes it. -/
  | feuIntake
  /-- FEU_RAISE (R577): A write of FEU_RAISE logs an owner record. -/
  | feuRaise (code : BitVec 16) (master : BitVec 6) (user : Bool)
  /-- ISL_RESET (R578): ISL_CTL.RESET requests a domain reset of an island. -/
  | islReset (n : Fin 275)
  /-- DOMAIN_RESET_END (R591): An island leaves domain reset and its domain recovers. -/
  | domainResetEnd (n : Fin 275)
  /-- SUPPLY_DIP (R588): An island's local supply below threshold holds it in domain reset. -/
  | supplyDip (n : Fin 275)
  /-- SUPPLY_RETURN (R588): 20 µs after the supply returns the island leaves reset. -/
  | supplyReturn (n : Fin 275)
  /-- TB_NS_LO_READ (R341): A read of TB_NS_LO returns the timebase nanoseconds and latches TB_NS_HI and TB_FRAC at the same tick. -/
  | tbNsLoRead (ns : BitVec 64) (frac : BitVec 32)
  /-- PPS_EDGE (R344): In GM role with GMPPS set, a PPS edge on the selected REFIN is taken as a whole second and steers the timebase servo. -/
  | ppsEdge (r : Fin 6) (stamp : BitVec 64)
  /-- FIRST_BCK_EDGE (R444): The first BCK edge after a clock gap takes a TDM port from NOCLK into HUNT. -/
  | firstBckEdge (p : Fin 32)
  /-- PLCA_BEACON (R431): A PLCA beacon seen on a field-bus port sets PLCAOK again and ends the fall-back to plain CSMA/CD. -/
  | plcaBeacon (p : Fin 4)
  /-- ARBITER_PARITY_ERROR (R463): A parity error in a crossbar tag table or arbiter is a crossbar fault that enters fixed-priority fall-back. -/
  | arbiterParityError
  /-- PMBUS_TRANSACTION_DONE (R502): A PMBus transaction of Pawn as controller completes, acknowledged or not, and the power step continues with PEN or fails. -/
  | pmbusTransactionDone (ack fault : Bool)
  /-- SCL_LOW_TIMEOUT (R606): After SCL has been held low for 25 ms Pawn as target releases the bus, or after 35 ms as controller fails the transaction. -/
  | sclLowTimeout (asTarget : Bool) (e : Fin 12)
  /-- PASSED_ENTRY_PPG_FALL (R502): The power-good of an entry that has already passed falls during WAKING, failing the current attempt and restarting the sequence at that entry. -/
  | passedEntryPpgFall (e : Fin 12)
  deriving DecidableEq, Repr

end Sys2Proof
end

