-- ==== Sys2Proof/Config.lean ====
section
/-! DEFINITION. What the spec leaves open and an implementation fixes: free values. None of these has a body, so no
statement can rest on a value of one (log entry 2: DESIGN CHOICE). -/

namespace Sys2Proof.Config

/-- The `n`-th free value of the run, `w` bits wide. A step that writes a value the spec leaves open takes the next
one, and counts `freeCtr` of the state on (log entry 2: DESIGN CHOICE). -/
opaque free (w n : Nat) : BitVec w

end Sys2Proof.Config
end

