-- ==== Sys2Proof/Machine/Bits.lean ====
section
/-! DEFINITION. Arithmetic that many rules share: block times (R13, R24), serial-number comparison (R16), widening
(R614), CRCs (R616), two's complement and saturation. -/

namespace Sys2Proof.Machine

/-- Round a quotient up. -/
def ceilDiv (a b : Nat) : Nat := (a + b - 1) / b

/-- The timebase nanosecond at which block `k` starts: the first `t` with `3 t ≥ 125000 k` (R13). -/
def blockStart (k : Nat) : Nat := ceilDiv (125000 * k) 3

/-- The block in progress at timebase nanosecond `t` (R13). -/
def blockAt (t : Nat) : Nat := 3 * t / 125000

/-- The first block that starts at or after the PTP time `t` (R24). -/
def blockFrom (t : Nat) : Nat := if t = 0 then 0 else 3 * (t - 1) / 125000 + 1

/-- Comparison of two values of a sequence `w` bits wide over a window of ±2^(w-2) (R16). -/
def serialCmp (w a b : Nat) : Serial :=
  let m := 2 ^ w
  let q := 2 ^ (w - 2)
  let d := (a % m + m - b % m) % m
  if d = 0 then .equal
  else if d ≤ q then .later d
  else if m - q ≤ d then .earlier (m - d)
  else .outOfWindow

/-- Is `a` later than `b` by the rule of R16? -/
def serialLater (w a b : Nat) : Bool :=
  match serialCmp w a b with
  | .later _ => true
  | _ => false

/-- A number read as a signed `w`-bit two's complement number. -/
def toSigned (w v : Nat) : Int :=
  let x := v % 2 ^ w
  if x < 2 ^ (w - 1) then (x : Int) else (x : Int) - (2 ^ w : Nat)

/-- The low `w` bits of a signed number. -/
def ofSigned (w : Nat) (i : Int) : Nat := (i % (2 ^ w : Nat)).toNat

/-- The candidate nearest a reference of a value truncated to `w` bits (R614). -/
def widen (w v r : Nat) : Int := (r : Int) + toSigned w ((v % 2 ^ w + 2 ^ w - r % 2 ^ w) % 2 ^ w)

/-- One bit into a CRC register `w` bits wide (R616). -/
def crcStep (w poly reg : Nat) (b : Bool) : Nat :=
  let out := (reg / 2 ^ (w - 1)) % 2
  let sh := (reg * 2) % 2 ^ w
  if (out == 1) != b then sh ^^^ poly else sh

/-- The CRC of a list of bits in line order (R616). -/
def crc (w poly init : Nat) (bits : List Bool) : Nat := bits.foldl (crcStep w poly) init

/-- The low `w` bits of a number, most significant first. -/
def bitsMsb (w v : Nat) : List Bool := (List.range w).map fun i => (v / 2 ^ (w - 1 - i)) % 2 == 1

/-- The low `w` bits of a number, least significant first. -/
def bitsLsb (w v : Nat) : List Bool := (List.range w).map fun i => (v / 2 ^ i) % 2 == 1

/-- Clamp a signed number to a range. -/
def clampI (lo hi x : Int) : Int := if x < lo then lo else if hi < x then hi else x

/-- A signed number saturated to `w` bits, and whether it was changed. -/
def satI (w : Nat) (x : Int) : Int × Bool :=
  let y := clampI (-(2 ^ (w - 1) : Nat)) ((2 ^ (w - 1) : Nat) - 1) x
  (y, y != x)

/-- Subtraction that stops at zero is the one meant where a count cannot go below zero. -/
def absDiff (a b : Nat) : Nat := if a ≤ b then b - a else a - b

/-- Apply a change to a state only under a condition. -/
def onlyIf {σ : Type} (c : Bool) (f : σ → σ) (s : σ) : σ := if c then f s else s

/-- Apply a change for each element of a list, in order. -/
def forEach {α σ : Type} (l : List α) (f : α → σ → σ) (s : σ) : σ := l.foldl (fun t a => f a t) s

/-- The `i`-th element of a list of numbers, zero beyond its end. -/
def nth (l : List Nat) (i : Nat) : Nat := (l[i]?).getD 0

end Sys2Proof.Machine
end

