-- ==== Sys2Proof/Machine/Maps.lean ====
section
/-! DEFINITION. Sparse tables: registers, memories and per-instance state as lists of (key, value) pairs in one
canonical form, keys strictly rising and no entry equal to what an unlisted key reads as. -/

namespace Sys2Proof.Machine

/-- What key `k` reads as; `d` gives what an unlisted key reads as. -/
def mapGet {α : Type} (d : Nat → α) : List (Nat × α) → Nat → α
  | [], k => d k
  | (k', v) :: r, k => if k = k' then v else mapGet d r k

/-- Enter a value at a key, replacing one listed there. -/
def mapInsert {α : Type} (k : Nat) (v : α) : List (Nat × α) → List (Nat × α)
  | [] => [(k, v)]
  | (k', v') :: r => if k = k' then (k, v) :: r else if k < k' then (k, v) :: (k', v') :: r else (k', v') :: mapInsert k v r

/-- Take the entries of a key out. -/
def mapErase {α : Type} (k : Nat) : List (Nat × α) → List (Nat × α)
  | [] => []
  | (k', v') :: r => if k = k' then mapErase k r else (k', v') :: mapErase k r

/-- Write a value at a key; the value that an unlisted key reads as removes the entry. -/
def mapSet {α : Type} [DecidableEq α] (d : Nat → α) (m : List (Nat × α)) (k : Nat) (v : α) : List (Nat × α) :=
  if v = d k then mapErase k m else mapInsert k v m

/-- Are the keys strictly rising? -/
def mapSorted {α : Type} : List (Nat × α) → Bool
  | [] => true
  | (k, _) :: r => r.all (fun e => Nat.blt k e.1) && mapSorted r

/-- The canonical form. -/
def mapWf {α : Type} [DecidableEq α] (d : Nat → α) (m : List (Nat × α)) : Bool :=
  mapSorted m && m.all fun e => !decide (e.2 = d e.1)

/-- The keys that are listed. -/
def mapKeys {α : Type} (m : List (Nat × α)) : List Nat := m.map (·.1)

/-- Remove every entry whose key the test names: those keys then read as they do unlisted. -/
def mapDrop {α : Type} (p : Nat → Bool) (m : List (Nat × α)) : List (Nat × α) := m.filter fun e => !p e.1

end Sys2Proof.Machine
end

