-- ==== Sys2Proof/Machine/RegTypes.lean ====
section
/-! DEFINITION. The types of the register map: field references, access types, rows and blocks. -/

namespace Sys2Proof.Machine

/-- A field of a register: the register's address, the field's lowest bit and its width. -/
structure FRef where
  addr : Nat
  lo : Nat
  w : Nat
  deriving DecidableEq, Repr

/-- The access types of R562. -/
inductive Acc where
  | rw | ro | wo | w1c | w1s | sc | rwh
  deriving DecidableEq, Repr

/-- A field of a row: its lowest bit, its width and its access type. -/
structure RegField where
  lo : Nat
  w : Nat
  acc : Acc
  deriving DecidableEq, Repr

/-- A register of the map: the address of its first instance, the strides and counts of its instances (outermost
first), its reset word as a function of the address, and its fields; bits in no field are reserved (R564). -/
structure RegRow where
  base : Nat
  dims : List (Nat × Nat)
  reset : Nat → Nat
  fields : List RegField

/-- A block of registers: its base, its span and its rows (R558). -/
structure RegBlock where
  base : Nat
  span : Nat
  rows : List RegRow

end Sys2Proof.Machine
end

