-- ==== Sys2Proof/Machine/RegFields.lean ====
section
/-! DEFINITION. The register map: one reference per register field, from the register tables of spec/
(R1, R40, R131, R132, R167, R184, R228, R230, R260, R276, R308, R337, R366, R367, R396, R427-R429, R438, R452,
R468, R469, R497, R531, R579, R580). A reference is the address of the register, the lowest bit of the field and
its width; the arguments number the instance (pod n, pea p, entry e, channel c, ...).
Where a table gives several fields one range of bits, the first name has the lowest bits (log entry 3: DEDUCED). -/

namespace Sys2Proof.Machine

/-- The registers of MAC `m`: ETH0-ETH11, and MGMT as 12 (R427). -/
def ethBase (m : Nat) : Nat := if m = 12 then 0x44500000 else 0x44100000 + m * 0x400


/-! ### spec/00* (R1) -/

/-- GLB_ID.PART, RO, 16 bits from 16. -/
def GLB_ID_PART : FRef := ⟨0x40000000, 16, 16⟩
/-- GLB_ID.FAMILY, RO, 8 bits from 8. -/
def GLB_ID_FAMILY : FRef := ⟨0x40000000, 8, 8⟩
/-- GLB_ID.STEP, RO, 8 bits from 0. -/
def GLB_ID_STEP : FRef := ⟨0x40000000, 0, 8⟩

/-! ### spec/20* (R579) -/

/-- GLB_CAPS.ISLANDS, RO, 9 bits from 0. -/
def GLB_CAPS_ISLANDS : FRef := ⟨0x40000004, 0, 9⟩
/-- GLB_CAPS.PODS, RO, 5 bits from 16. -/
def GLB_CAPS_PODS : FRef := ⟨0x40000004, 16, 5⟩
/-- GLB_SCRATCH.DATA, RW, 32 bits from 0. -/
def GLB_SCRATCH_DATA : FRef := ⟨0x40000008, 0, 32⟩
/-- GLB_RSTCAUSE.POR, RO, bit 0. -/
def GLB_RSTCAUSE_POR : FRef := ⟨0x4000000C, 0, 1⟩
/-- GLB_RSTCAUSE.WARM, RO, bit 1. -/
def GLB_RSTCAUSE_WARM : FRef := ⟨0x4000000C, 1, 1⟩

/-! ### spec/01* (R40) -/

/-- GLB_BSN.BSN, RO, 32 bits from 0. -/
def GLB_BSN_BSN : FRef := ⟨0x40000010, 0, 32⟩
/-- GLB_BLKHI.K_HI, RO, 17 bits from 0. -/
def GLB_BLKHI_K_HI : FRef := ⟨0x40000014, 0, 17⟩
/-- GLB_TLSTAT.VALID, RO, bit 0. -/
def GLB_TLSTAT_VALID : FRef := ⟨0x40000018, 0, 1⟩
/-- GLB_TLSTAT.RUN, RO, bit 1. -/
def GLB_TLSTAT_RUN : FRef := ⟨0x40000018, 1, 1⟩
/-- GLB_TLSTAT.LATE_SAT, W1C, bit 8. -/
def GLB_TLSTAT_LATE_SAT : FRef := ⟨0x40000018, 8, 1⟩
/-- GLB_TLSTAT.FAR_SAT, W1C, bit 9. -/
def GLB_TLSTAT_FAR_SAT : FRef := ⟨0x40000018, 9, 1⟩
/-- GLB_TLSTAT.SUPERSEDED_SAT, W1C, bit 10. -/
def GLB_TLSTAT_SUPERSEDED_SAT : FRef := ⟨0x40000018, 10, 1⟩
/-- GLB_TLSTAT.FULL_SAT, W1C, bit 11. -/
def GLB_TLSTAT_FULL_SAT : FRef := ⟨0x40000018, 11, 1⟩
/-- GLB_TLSTAT.EMPTY_SAT, W1C, bit 12. -/
def GLB_TLSTAT_EMPTY_SAT : FRef := ⟨0x40000018, 12, 1⟩
/-- GLB_TLSTAT.LONG_SAT, W1C, bit 13. -/
def GLB_TLSTAT_LONG_SAT : FRef := ⟨0x40000018, 13, 1⟩
/-- GLB_GEN.GEN, RO, 16 bits from 0. -/
def GLB_GEN_GEN : FRef := ⟨0x4000001C, 0, 16⟩
/-- GLB_GEN.PEND_BSN, RO, 9 bits from 16. -/
def GLB_GEN_PEND_BSN : FRef := ⟨0x4000001C, 16, 9⟩
/-- GLB_APPLY_CNT.LATE_COUNT, RW, 16 bits from 0. -/
def GLB_APPLY_CNT_LATE_COUNT : FRef := ⟨0x40000020, 0, 16⟩
/-- GLB_APPLY_CNT.FAR_COUNT, RW, 16 bits from 16. -/
def GLB_APPLY_CNT_FAR_COUNT : FRef := ⟨0x40000020, 16, 16⟩
/-- GLB_APPLY_CNT2.SUPERSEDED_COUNT, RW, 16 bits from 0. -/
def GLB_APPLY_CNT2_SUPERSEDED_COUNT : FRef := ⟨0x40000024, 0, 16⟩
/-- GLB_APPLY_CNT2.FULL_COUNT, RW, 16 bits from 16. -/
def GLB_APPLY_CNT2_FULL_COUNT : FRef := ⟨0x40000024, 16, 16⟩
/-- GLB_WIN_CNT.EMPTY_COUNT, RW, 16 bits from 0. -/
def GLB_WIN_CNT_EMPTY_COUNT : FRef := ⟨0x40000028, 0, 16⟩
/-- GLB_WIN_CNT.LONG_COUNT, RW, 16 bits from 16. -/
def GLB_WIN_CNT_LONG_COUNT : FRef := ⟨0x40000028, 16, 16⟩

/-! ### spec/03* (R131) -/

/-- POD_CTL.RUN, RW, bit 0. -/
def POD_CTL_RUN (n : Nat) : FRef := ⟨0x40200000 + n * 0x10000, 0, 1⟩
/-- POD_CTL.AUTO_REPAIR, RW, bit 1. -/
def POD_CTL_AUTO_REPAIR (n : Nat) : FRef := ⟨0x40200000 + n * 0x10000, 1, 1⟩
/-- POD_STAT.FAILED, RO, 9 bits from 0. -/
def POD_STAT_FAILED (n : Nat) : FRef := ⟨0x40200004 + n * 0x10000, 0, 9⟩
/-- POD_STAT.SPARE_SRC, RO, 4 bits from 12. -/
def POD_STAT_SPARE_SRC (n : Nat) : FRef := ⟨0x40200004 + n * 0x10000, 12, 4⟩
/-- POD_STAT.DEGRADED, RO, bit 16. -/
def POD_STAT_DEGRADED (n : Nat) : FRef := ⟨0x40200004 + n * 0x10000, 16, 1⟩
/-- POD_STAT.CFGERR, W1C, bit 17. -/
def POD_STAT_CFGERR (n : Nat) : FRef := ⟨0x40200004 + n * 0x10000, 17, 1⟩
/-- POD_STAT.WRERR, W1C, bit 18. -/
def POD_STAT_WRERR (n : Nat) : FRef := ⟨0x40200004 + n * 0x10000, 18, 1⟩
/-- POD_BBUF.BASE, RW, 8 bits from 0. -/
def POD_BBUF_BASE (n : Nat) : FRef := ⟨0x40200008 + n * 0x10000, 0, 8⟩
/-- POD_BBUF.SIZE, RW, 8 bits from 8. -/
def POD_BBUF_SIZE (n : Nat) : FRef := ⟨0x40200008 + n * 0x10000, 8, 8⟩
/-- POD_RSV_P.BASE, RW, 14 bits from 0. -/
def POD_RSV_P_BASE (n : Nat) : FRef := ⟨0x4020000C + n * 0x10000, 0, 14⟩
/-- POD_RSV_P.LEN, RW, 15 bits from 16. -/
def POD_RSV_P_LEN (n : Nat) : FRef := ⟨0x4020000C + n * 0x10000, 16, 15⟩
/-- POD_RSV_X.BASE, RW, 16 bits from 0. -/
def POD_RSV_X_BASE (n : Nat) : FRef := ⟨0x40200010 + n * 0x10000, 0, 16⟩
/-- POD_RSV_X.LEN, RW, 16 bits from 16. -/
def POD_RSV_X_LEN (n : Nat) : FRef := ⟨0x40200010 + n * 0x10000, 16, 16⟩
/-- POD_RSV_Y.BASE, RW, 16 bits from 0. -/
def POD_RSV_Y_BASE (n : Nat) : FRef := ⟨0x40200014 + n * 0x10000, 0, 16⟩
/-- POD_RSV_Y.LEN, RW, 16 bits from 16. -/
def POD_RSV_Y_LEN (n : Nat) : FRef := ⟨0x40200014 + n * 0x10000, 16, 16⟩
/-- POD_REPAIR.PEA, RW, 4 bits from 0. -/
def POD_REPAIR_PEA (n : Nat) : FRef := ⟨0x40200018 + n * 0x10000, 0, 4⟩
/-- POD_REPAIR.FAIL, SC, bit 8. -/
def POD_REPAIR_FAIL (n : Nat) : FRef := ⟨0x40200018 + n * 0x10000, 8, 1⟩
/-- POD_DMA_QBASE.BASE, RW, 20 bits from 0. -/
def POD_DMA_QBASE_BASE (n : Nat) : FRef := ⟨0x40200040 + n * 0x10000, 0, 20⟩
/-- POD_DMA_QBASE.QSIZE, RW, 4 bits from 20. -/
def POD_DMA_QBASE_QSIZE (n : Nat) : FRef := ⟨0x40200040 + n * 0x10000, 20, 4⟩
/-- POD_DMA_QBASE.EN, RW, bit 31. -/
def POD_DMA_QBASE_EN (n : Nat) : FRef := ⟨0x40200040 + n * 0x10000, 31, 1⟩
/-- POD_DMA_QHEAD.HEAD, RO, 10 bits from 0. -/
def POD_DMA_QHEAD_HEAD (n : Nat) : FRef := ⟨0x40200044 + n * 0x10000, 0, 10⟩
/-- POD_DMA_QTAIL.TAIL, RW, 10 bits from 0. -/
def POD_DMA_QTAIL_TAIL (n : Nat) : FRef := ⟨0x40200048 + n * 0x10000, 0, 10⟩
/-- POD_DMA_STAT.BUSY, RO, bit 0. -/
def POD_DMA_STAT_BUSY (n : Nat) : FRef := ⟨0x4020004C + n * 0x10000, 0, 1⟩
/-- POD_DMA_STAT.ERR, W1C, bit 1. -/
def POD_DMA_STAT_ERR (n : Nat) : FRef := ⟨0x4020004C + n * 0x10000, 1, 1⟩
/-- POD_DMA_STAT.ERRIDX, RO, 10 bits from 16. -/
def POD_DMA_STAT_ERRIDX (n : Nat) : FRef := ⟨0x4020004C + n * 0x10000, 16, 10⟩
/-- TASK_CFG.EN, RW, bit 0. -/
def TASK_CFG_EN (n p e : Nat) : FRef := ⟨0x40201000 + n * 0x10000 + p * 0x1000 + e * 0x20, 0, 1⟩
/-- TASK_CFG.MODE, RW, bit 1. -/
def TASK_CFG_MODE (n p e : Nat) : FRef := ⟨0x40201000 + n * 0x10000 + p * 0x1000 + e * 0x20, 1, 1⟩
/-- TASK_CFG.HOT, RW, bit 2. -/
def TASK_CFG_HOT (n p e : Nat) : FRef := ⟨0x40201000 + n * 0x10000 + p * 0x1000 + e * 0x20, 2, 1⟩
/-- TASK_CFG.RMODE, RW, bit 3. -/
def TASK_CFG_RMODE (n p e : Nat) : FRef := ⟨0x40201000 + n * 0x10000 + p * 0x1000 + e * 0x20, 3, 1⟩
/-- TASK_CFG.CLASS, RW, 2 bits from 4. -/
def TASK_CFG_CLASS (n p e : Nat) : FRef := ⟨0x40201000 + n * 0x10000 + p * 0x1000 + e * 0x20, 4, 2⟩
/-- TASK_CFG.ORDER, RW, 6 bits from 8. -/
def TASK_CFG_ORDER (n p e : Nat) : FRef := ⟨0x40201000 + n * 0x10000 + p * 0x1000 + e * 0x20, 8, 6⟩
/-- TASK_CFG.START, RW, 14 bits from 16. -/
def TASK_CFG_START (n p e : Nat) : FRef := ⟨0x40201000 + n * 0x10000 + p * 0x1000 + e * 0x20, 16, 14⟩
/-- TASK_TIME.DEADLINE, RW, 16 bits from 0. -/
def TASK_TIME_DEADLINE (n p e : Nat) : FRef := ⟨0x40201004 + n * 0x10000 + p * 0x1000 + e * 0x20, 0, 16⟩
/-- TASK_TIME.BUDGET, RW, 16 bits from 16. -/
def TASK_TIME_BUDGET (n p e : Nat) : FRef := ⟨0x40201004 + n * 0x10000 + p * 0x1000 + e * 0x20, 16, 16⟩
/-- TASK_OUT.OUT_FIRST, RW, 9 bits from 0. -/
def TASK_OUT_OUT_FIRST (n p e : Nat) : FRef := ⟨0x40201008 + n * 0x10000 + p * 0x1000 + e * 0x20, 0, 9⟩
/-- TASK_OUT.OUT_NUM, RW, 10 bits from 10. -/
def TASK_OUT_OUT_NUM (n p e : Nat) : FRef := ⟨0x40201008 + n * 0x10000 + p * 0x1000 + e * 0x20, 10, 10⟩
/-- TASK_CTX.CTX, RW, 20 bits from 0. -/
def TASK_CTX_CTX (n p e : Nat) : FRef := ⟨0x4020100C + n * 0x10000 + p * 0x1000 + e * 0x20, 0, 20⟩
/-- TASK_TRIG.TH, RW, 6 bits from 8 * x. -/
def TASK_TRIG_TH (n p e x : Nat) : FRef := ⟨0x40201010 + n * 0x10000 + p * 0x1000 + e * 0x20, 8 * x, 6⟩
/-- TASK_REPAIR.MIG_N, RW, 4 bits from 0. -/
def TASK_REPAIR_MIG_N (n p e : Nat) : FRef := ⟨0x40201014 + n * 0x10000 + p * 0x1000 + e * 0x20, 0, 4⟩
/-- TASK_REPAIR.MIG_M, RW, 8 bits from 8. -/
def TASK_REPAIR_MIG_M (n p e : Nat) : FRef := ⟨0x40201014 + n * 0x10000 + p * 0x1000 + e * 0x20, 8, 8⟩
/-- TASK_REPAIR.LINK_PEA, RW, 4 bits from 16. -/
def TASK_REPAIR_LINK_PEA (n p e : Nat) : FRef := ⟨0x40201014 + n * 0x10000 + p * 0x1000 + e * 0x20, 16, 4⟩
/-- TASK_REPAIR.LINK_TASK, RW, 6 bits from 24. -/
def TASK_REPAIR_LINK_TASK (n p e : Nat) : FRef := ⟨0x40201014 + n * 0x10000 + p * 0x1000 + e * 0x20, 24, 6⟩
/-- TASK_EVC.C, RWH, 6 bits from 8 * x. -/
def TASK_EVC_C (n p e x : Nat) : FRef := ⟨0x40201018 + n * 0x10000 + p * 0x1000 + e * 0x20, 8 * x, 6⟩
/-- TASK_EVC.SAT, W1C, bit 6 + 8 * x. -/
def TASK_EVC_SAT (n p e x : Nat) : FRef := ⟨0x40201018 + n * 0x10000 + p * 0x1000 + e * 0x20, 6 + 8 * x, 1⟩
/-- TASK_CTL.CANCEL, SC, bit 0. -/
def TASK_CTL_CANCEL (n p e : Nat) : FRef := ⟨0x4020101C + n * 0x10000 + p * 0x1000 + e * 0x20, 0, 1⟩
/-- TASK_CTL.READY, RO, bit 8. -/
def TASK_CTL_READY (n p e : Nat) : FRef := ⟨0x4020101C + n * 0x10000 + p * 0x1000 + e * 0x20, 8, 1⟩
/-- TASK_CTL.RUN, RO, bit 9. -/
def TASK_CTL_RUN (n p e : Nat) : FRef := ⟨0x4020101C + n * 0x10000 + p * 0x1000 + e * 0x20, 9, 1⟩
/-- TASK_CTL.MOVED, RO, bit 10. -/
def TASK_CTL_MOVED (n p e : Nat) : FRef := ⟨0x4020101C + n * 0x10000 + p * 0x1000 + e * 0x20, 10, 1⟩
/-- TASK_CTL.FLAGS, W1C, 6 bits from 16. -/
def TASK_CTL_FLAGS (n p e : Nat) : FRef := ⟨0x4020101C + n * 0x10000 + p * 0x1000 + e * 0x20, 16, 6⟩
/-- TASK_CTL.MISS_SAT, W1C, bit 24. -/
def TASK_CTL_MISS_SAT (n p e : Nat) : FRef := ⟨0x4020101C + n * 0x10000 + p * 0x1000 + e * 0x20, 24, 1⟩
/-- TASK_CTL.DISC_SAT, W1C, bit 25. -/
def TASK_CTL_DISC_SAT (n p e : Nat) : FRef := ⟨0x4020101C + n * 0x10000 + p * 0x1000 + e * 0x20, 25, 1⟩
/-- TASK_CNT.MISS_COUNT, RW, 16 bits from 0. -/
def TASK_CNT_MISS_COUNT (n p e : Nat) : FRef := ⟨0x40201800 + n * 0x10000 + p * 0x1000 + e * 0x4, 0, 16⟩
/-- TASK_CNT.DISC_COUNT, RW, 16 bits from 16. -/
def TASK_CNT_DISC_COUNT (n p e : Nat) : FRef := ⟨0x40201800 + n * 0x10000 + p * 0x1000 + e * 0x4, 16, 16⟩
/-- PEA_EVMAP.EN, RW, bit 0. -/
def PEA_EVMAP_EN (n p v : Nat) : FRef := ⟨0x40201900 + n * 0x10000 + p * 0x1000 + v * 0x4, 0, 1⟩
/-- PEA_EVMAP.POD, RW, 4 bits from 4. -/
def PEA_EVMAP_POD (n p v : Nat) : FRef := ⟨0x40201900 + n * 0x10000 + p * 0x1000 + v * 0x4, 4, 4⟩
/-- PEA_EVMAP.PEA, RW, 4 bits from 8. -/
def PEA_EVMAP_PEA (n p v : Nat) : FRef := ⟨0x40201900 + n * 0x10000 + p * 0x1000 + v * 0x4, 8, 4⟩
/-- PEA_EVMAP.TASK, RW, 6 bits from 16. -/
def PEA_EVMAP_TASK (n p v : Nat) : FRef := ⟨0x40201900 + n * 0x10000 + p * 0x1000 + v * 0x4, 16, 6⟩
/-- PEA_EVMAP.INPUT, RW, 2 bits from 24. -/
def PEA_EVMAP_INPUT (n p v : Nat) : FRef := ⟨0x40201900 + n * 0x10000 + p * 0x1000 + v * 0x4, 24, 2⟩
/-- PEA_STAT.STATE, RO, 2 bits from 0. -/
def PEA_STAT_STATE (n p : Nat) : FRef := ⟨0x40201A00 + n * 0x10000 + p * 0x1000, 0, 2⟩
/-- PEA_STAT.ILL_SAT, W1C, bit 2. -/
def PEA_STAT_ILL_SAT (n p : Nat) : FRef := ⟨0x40201A00 + n * 0x10000 + p * 0x1000, 2, 1⟩
/-- PEA_STAT.BANK_SAT, W1C, bit 3. -/
def PEA_STAT_BANK_SAT (n p : Nat) : FRef := ⟨0x40201A00 + n * 0x10000 + p * 0x1000, 3, 1⟩
/-- PEA_STAT.EVDROP_SAT, W1C, bit 4. -/
def PEA_STAT_EVDROP_SAT (n p : Nat) : FRef := ⟨0x40201A00 + n * 0x10000 + p * 0x1000, 4, 1⟩
/-- PEA_STAT.DCOLL_SAT, W1C, bit 5. -/
def PEA_STAT_DCOLL_SAT (n p : Nat) : FRef := ⟨0x40201A00 + n * 0x10000 + p * 0x1000, 5, 1⟩
/-- PEA_STAT.TASK, RO, 6 bits from 8. -/
def PEA_STAT_TASK (n p : Nat) : FRef := ⟨0x40201A00 + n * 0x10000 + p * 0x1000, 8, 6⟩
/-- PEA_STAT.BCYC, RO, 16 bits from 16. -/
def PEA_STAT_BCYC (n p : Nat) : FRef := ⟨0x40201A00 + n * 0x10000 + p * 0x1000, 16, 16⟩
/-- PEA_CNT.ILL_COUNT, RW, 16 bits from 0. -/
def PEA_CNT_ILL_COUNT (n p : Nat) : FRef := ⟨0x40201A04 + n * 0x10000 + p * 0x1000, 0, 16⟩
/-- PEA_CNT.BANK_COUNT, RW, 16 bits from 16. -/
def PEA_CNT_BANK_COUNT (n p : Nat) : FRef := ⟨0x40201A04 + n * 0x10000 + p * 0x1000, 16, 16⟩
/-- PEA_CNT2.EVDROP_COUNT, RW, 16 bits from 0. -/
def PEA_CNT2_EVDROP_COUNT (n p : Nat) : FRef := ⟨0x40201A08 + n * 0x10000 + p * 0x1000, 0, 16⟩
/-- PEA_CNT2.DCOLL_COUNT, RW, 16 bits from 16. -/
def PEA_CNT2_DCOLL_COUNT (n p : Nat) : FRef := ⟨0x40201A08 + n * 0x10000 + p * 0x1000, 16, 16⟩

/-! ### spec/03* (R132) -/

/-- TEMPO_CTL.EN, RW, bit 0. -/
def TEMPO_CTL_EN : FRef := ⟨0x40100000, 0, 1⟩
/-- TEMPO_CTL.HANG, RW, bit 1. -/
def TEMPO_CTL_HANG : FRef := ⟨0x40100000, 1, 1⟩
/-- TEMPO_STAT.LEVEL, RO, 7 bits from 0. -/
def TEMPO_STAT_LEVEL : FRef := ⟨0x40100004, 0, 7⟩
/-- TEMPO_STAT.MREC_OVF, W1C, bit 8. -/
def TEMPO_STAT_MREC_OVF : FRef := ⟨0x40100004, 8, 1⟩
/-- TEMPO_STAT.MISS_SAT, W1C, bit 9. -/
def TEMPO_STAT_MISS_SAT : FRef := ⟨0x40100004, 9, 1⟩
/-- TEMPO_STAT.STRAY_SAT, W1C, bit 10. -/
def TEMPO_STAT_STRAY_SAT : FRef := ⟨0x40100004, 10, 1⟩
/-- TEMPO_CNT.MISS_COUNT, RW, 16 bits from 0. -/
def TEMPO_CNT_MISS_COUNT : FRef := ⟨0x40100008, 0, 16⟩
/-- TEMPO_CNT.STRAY_COUNT, RW, 16 bits from 16. -/
def TEMPO_CNT_STRAY_COUNT : FRef := ⟨0x40100008, 16, 16⟩
/-- TEMPO_INTAKE.HWM, RWH, 8 bits from 0. -/
def TEMPO_INTAKE_HWM : FRef := ⟨0x4010000C, 0, 8⟩
/-- TEMPO_POP.POP, SC, bit 0. -/
def TEMPO_POP_POP : FRef := ⟨0x40100010, 0, 1⟩
/-- TEMPO_MREC0.BSN, RO, 32 bits from 0. -/
def TEMPO_MREC0_BSN : FRef := ⟨0x40100014, 0, 32⟩
/-- TEMPO_MREC1.POD, RO, 4 bits from 0. -/
def TEMPO_MREC1_POD : FRef := ⟨0x40100018, 0, 4⟩
/-- TEMPO_MREC1.PEA, RO, 4 bits from 4. -/
def TEMPO_MREC1_PEA : FRef := ⟨0x40100018, 4, 4⟩
/-- TEMPO_MREC1.TASK, RO, 6 bits from 8. -/
def TEMPO_MREC1_TASK : FRef := ⟨0x40100018, 8, 6⟩
/-- TEMPO_MREC1.REASON, RO, 4 bits from 16. -/
def TEMPO_MREC1_REASON : FRef := ⟨0x40100018, 16, 4⟩
/-- TEMPO_MREC1.ACTION, RO, 3 bits from 20. -/
def TEMPO_MREC1_ACTION : FRef := ⟨0x40100018, 20, 3⟩
/-- TEMPO_MREC2.OVERRUN, RO, 16 bits from 0. -/
def TEMPO_MREC2_OVERRUN : FRef := ⟨0x4010001C, 0, 16⟩
/-- TEMPO_MREC2.STAMP, RO, 16 bits from 16. -/
def TEMPO_MREC2_STAMP : FRef := ⟨0x4010001C, 16, 16⟩
/-- TEMPO_MREC3.TIME, RO, 32 bits from 0. -/
def TEMPO_MREC3_TIME : FRef := ⟨0x40100020, 0, 32⟩

/-! ### spec/04* (R167) -/

/-- SG_CTL.RUN, RW, bit 0. -/
def SG_CTL_RUN : FRef := ⟨0x41000000, 0, 1⟩
/-- SG_STAT.CFGERR, W1C, bit 0. -/
def SG_STAT_CFGERR : FRef := ⟨0x41000004, 0, 1⟩
/-- SG_STAT.TAINTERR, W1C, bit 1. -/
def SG_STAT_TAINTERR : FRef := ⟨0x41000004, 1, 1⟩
/-- SG_STAT.PHOVR, W1C, 4 bits from 2. -/
def SG_STAT_PHOVR : FRef := ⟨0x41000004, 2, 4⟩
/-- SG_STAT.REFUSED_SAT, W1C, bit 6. -/
def SG_STAT_REFUSED_SAT : FRef := ⟨0x41000004, 6, 1⟩
/-- SG_STAT.TAINT_SAT, W1C, bit 7. -/
def SG_STAT_TAINT_SAT : FRef := ⟨0x41000004, 7, 1⟩
/-- SG_WAPPLY_BSN.BSN, RW, 32 bits from 0. -/
def SG_WAPPLY_BSN_BSN : FRef := ⟨0x41000008, 0, 32⟩
/-- SG_WAPPLY_CTL.EN, RW, bit 0. -/
def SG_WAPPLY_CTL_EN : FRef := ⟨0x4100000C, 0, 1⟩
/-- SG_WAPPLY_CTL.COMMIT, SC, bit 1. -/
def SG_WAPPLY_CTL_COMMIT : FRef := ⟨0x4100000C, 1, 1⟩
/-- SG_WAPPLY_CTL.RESULT, RO, 2 bits from 4. -/
def SG_WAPPLY_CTL_RESULT : FRef := ⟨0x4100000C, 4, 2⟩
/-- SG_PHASE.START, RW, 16 bits from 0. -/
def SG_PHASE_START (i : Nat) : FRef := ⟨0x41000010 + i * 0x4, 0, 16⟩
/-- SG_PHASE.END, RW, 16 bits from 16. -/
def SG_PHASE_END (i : Nat) : FRef := ⟨0x41000010 + i * 0x4, 16, 16⟩
/-- SG_QMASK.MASK, RW, 32 bits from 0. -/
def SG_QMASK_MASK (i : Nat) : FRef := ⟨0x41000020 + i * 0x4, 0, 32⟩
/-- SG_QUIET.QUIET, RO, bit 0. -/
def SG_QUIET_QUIET : FRef := ⟨0x41000028, 0, 1⟩
/-- SG_ACT.ACT, RO, 32 bits from 0. -/
def SG_ACT_ACT (i : Nat) : FRef := ⟨0x41000030 + i * 0x4, 0, 32⟩
/-- SG_CNT.REFUSED_COUNT, RW, 16 bits from 0. -/
def SG_CNT_REFUSED_COUNT : FRef := ⟨0x41000040, 0, 16⟩
/-- SG_CNT.TAINT_COUNT, RW, 16 bits from 16. -/
def SG_CNT_TAINT_COUNT : FRef := ⟨0x41000040, 16, 16⟩
/-- SRC_ENT.KIND, RW, 3 bits from 0. -/
def SRC_ENT_KIND (i : Nat) : FRef := ⟨0x41010000 + i * 0x4, 0, 3⟩
/-- SRC_ENT.INDEX, RW, 13 bits from 3. -/
def SRC_ENT_INDEX (i : Nat) : FRef := ⟨0x41010000 + i * 0x4, 3, 13⟩
/-- SRC_ENT.TAINT, RO, bit 16. -/
def SRC_ENT_TAINT (i : Nat) : FRef := ⟨0x41010000 + i * 0x4, 16, 1⟩
/-- DST_CFG.EN, RW, bit 0. -/
def DST_CFG_EN (d : Nat) : FRef := ⟨0x41020000 + d * 0x10, 0, 1⟩
/-- DST_CFG.KIND, RW, 3 bits from 1. -/
def DST_CFG_KIND (d : Nat) : FRef := ⟨0x41020000 + d * 0x10, 1, 3⟩
/-- DST_CFG.SRC, RW, 12 bits from 4. -/
def DST_CFG_SRC (d : Nat) : FRef := ⟨0x41020000 + d * 0x10, 4, 12⟩
/-- DST_CFG.GRP, RW, 10 bits from 16. -/
def DST_CFG_GRP (d : Nat) : FRef := ⟨0x41020000 + d * 0x10, 16, 10⟩
/-- DST_CFG.MUTE, RW, bit 26. -/
def DST_CFG_MUTE (d : Nat) : FRef := ⟨0x41020000 + d * 0x10, 26, 1⟩
/-- DST_CFG.XF, RW, 5 bits from 27. -/
def DST_CFG_XF (d : Nat) : FRef := ⟨0x41020000 + d * 0x10, 27, 5⟩
/-- DST_IDX.INDEX, RW, 14 bits from 0. -/
def DST_IDX_INDEX (d : Nat) : FRef := ⟨0x41020004 + d * 0x10, 0, 14⟩
/-- DST_GAIN.GAIN, RW, 16 bits from 0. -/
def DST_GAIN_GAIN (d : Nat) : FRef := ⟨0x41020008 + d * 0x10, 0, 16⟩
/-- DST_GAIN.RAMP, RW, 15 bits from 16. -/
def DST_GAIN_RAMP (d : Nat) : FRef := ⟨0x41020008 + d * 0x10, 16, 15⟩
/-- DST_GAIN.SHAPE, RW, bit 31. -/
def DST_GAIN_SHAPE (d : Nat) : FRef := ⟨0x41020008 + d * 0x10, 31, 1⟩
/-- DST_STAT.XFADE, RO, bit 0. -/
def DST_STAT_XFADE (d : Nat) : FRef := ⟨0x4102000C + d * 0x10, 0, 1⟩
/-- DST_STAT.RAMPING, RO, bit 1. -/
def DST_STAT_RAMPING (d : Nat) : FRef := ⟨0x4102000C + d * 0x10, 1, 1⟩
/-- EVG_CFG.EN, RW, bit 0. -/
def EVG_CFG_EN (g : Nat) : FRef := ⟨0x41030000 + g * 0x8, 0, 1⟩
/-- EVG_CFG.MEMBERS, RO, 12 bits from 1. -/
def EVG_CFG_MEMBERS (g : Nat) : FRef := ⟨0x41030000 + g * 0x8, 1, 12⟩
/-- EVG_TGT.POD, RW, 4 bits from 0. -/
def EVG_TGT_POD (g : Nat) : FRef := ⟨0x41030004 + g * 0x8, 0, 4⟩
/-- EVG_TGT.PEA, RW, 4 bits from 4. -/
def EVG_TGT_PEA (g : Nat) : FRef := ⟨0x41030004 + g * 0x8, 4, 4⟩
/-- EVG_TGT.TASK, RW, 6 bits from 8. -/
def EVG_TGT_TASK (g : Nat) : FRef := ⟨0x41030004 + g * 0x8, 8, 6⟩
/-- EVG_TGT.INPUT, RW, 2 bits from 16. -/
def EVG_TGT_INPUT (g : Nat) : FRef := ⟨0x41030004 + g * 0x8, 16, 2⟩
/-- FE_CFG.DCB, RW, bit 0. -/
def FE_CFG_DCB (c : Nat) : FRef := ⟨0x41040000 + c * 0x10, 0, 1⟩
/-- FE_CFG.HPF_F, RW, 3 bits from 1. -/
def FE_CFG_HPF_F (c : Nat) : FRef := ⟨0x41040000 + c * 0x10, 1, 3⟩
/-- FE_CFG.HPF_S, RW, 2 bits from 4. -/
def FE_CFG_HPF_S (c : Nat) : FRef := ⟨0x41040000 + c * 0x10, 4, 2⟩
/-- FE_CFG.MUTE, RW, bit 6. -/
def FE_CFG_MUTE (c : Nat) : FRef := ⟨0x41040000 + c * 0x10, 6, 1⟩
/-- FE_CFG.THRESH, RW, 7 bits from 8. -/
def FE_CFG_THRESH (c : Nat) : FRef := ⟨0x41040000 + c * 0x10, 8, 7⟩
/-- FE_CFG.HYST, RW, 3 bits from 16. -/
def FE_CFG_HYST (c : Nat) : FRef := ⟨0x41040000 + c * 0x10, 16, 3⟩
/-- FE_TRIM.GAIN, RW, 16 bits from 0. -/
def FE_TRIM_GAIN (c : Nat) : FRef := ⟨0x41040004 + c * 0x10, 0, 16⟩
/-- FE_TRIM.RAMP, RW, 15 bits from 16. -/
def FE_TRIM_RAMP (c : Nat) : FRef := ⟨0x41040004 + c * 0x10, 16, 15⟩
/-- FE_TRIM.SHAPE, RW, bit 31. -/
def FE_TRIM_SHAPE (c : Nat) : FRef := ⟨0x41040004 + c * 0x10, 31, 1⟩
/-- FE_HOLD.HOLD, RW, 22 bits from 0. -/
def FE_HOLD_HOLD (c : Nat) : FRef := ⟨0x41040008 + c * 0x10, 0, 22⟩
/-- FE_STAT.GATE, RO, bit 0. -/
def FE_STAT_GATE (c : Nat) : FRef := ⟨0x4104000C + c * 0x10, 0, 1⟩
/-- FE_STAT.TAINT, RO, bit 1. -/
def FE_STAT_TAINT (c : Nat) : FRef := ⟨0x4104000C + c * 0x10, 1, 1⟩
/-- FE_STAT.PEAK, RO, 24 bits from 8. -/
def FE_STAT_PEAK (c : Nat) : FRef := ⟨0x4104000C + c * 0x10, 8, 24⟩
/-- BUS_CFG.EN, RW, bit 0. -/
def BUS_CFG_EN (b : Nat) : FRef := ⟨0x41050000 + b * 0x10, 0, 1⟩
/-- BUS_CFG.SCALE, RW, 2 bits from 1. -/
def BUS_CFG_SCALE (b : Nat) : FRef := ⟨0x41050000 + b * 0x10, 1, 2⟩
/-- BUS_CFG.MUTE, RW, bit 3. -/
def BUS_CFG_MUTE (b : Nat) : FRef := ⟨0x41050000 + b * 0x10, 3, 1⟩
/-- BUS_CFG.PHASE, RW, 2 bits from 4. -/
def BUS_CFG_PHASE (b : Nat) : FRef := ⟨0x41050000 + b * 0x10, 4, 2⟩
/-- BUS_CFG.SRAMP, RW, 15 bits from 8. -/
def BUS_CFG_SRAMP (b : Nat) : FRef := ⟨0x41050000 + b * 0x10, 8, 15⟩
/-- BUS_SENDS.FIRST, RW, 18 bits from 0. -/
def BUS_SENDS_FIRST (b : Nat) : FRef := ⟨0x41050004 + b * 0x10, 0, 18⟩
/-- BUS_SENDS.NUM, RW, 11 bits from 18. -/
def BUS_SENDS_NUM (b : Nat) : FRef := ⟨0x41050004 + b * 0x10, 18, 11⟩
/-- BUS_GAIN.GAIN, RW, 16 bits from 0. -/
def BUS_GAIN_GAIN (b : Nat) : FRef := ⟨0x41050008 + b * 0x10, 0, 16⟩
/-- BUS_GAIN.RAMP, RW, 15 bits from 16. -/
def BUS_GAIN_RAMP (b : Nat) : FRef := ⟨0x41050008 + b * 0x10, 16, 15⟩
/-- BUS_GAIN.SHAPE, RW, bit 31. -/
def BUS_GAIN_SHAPE (b : Nat) : FRef := ⟨0x41050008 + b * 0x10, 31, 1⟩
/-- BUS_CNT.CLIP_COUNT, RW, 16 bits from 0. -/
def BUS_CNT_CLIP_COUNT (b : Nat) : FRef := ⟨0x4105000C + b * 0x10, 0, 16⟩
/-- BUS_CNT.N, RO, 11 bits from 16. -/
def BUS_CNT_N (b : Nat) : FRef := ⟨0x4105000C + b * 0x10, 16, 11⟩
/-- BUS_CNT.CLIP_SAT, W1C, bit 27. -/
def BUS_CNT_CLIP_SAT (b : Nat) : FRef := ⟨0x4105000C + b * 0x10, 27, 1⟩
/-- SEND_CFG.SRC, RW, 12 bits from 0. -/
def SEND_CFG_SRC (x : Nat) : FRef := ⟨0x41080000 + x * 0x8, 0, 12⟩
/-- SEND_CFG.EN, RW, bit 12. -/
def SEND_CFG_EN (x : Nat) : FRef := ⟨0x41080000 + x * 0x8, 12, 1⟩
/-- SEND_CFG.COUNT, RW, bit 13. -/
def SEND_CFG_COUNT (x : Nat) : FRef := ⟨0x41080000 + x * 0x8, 13, 1⟩
/-- SEND_CFG.MUTE, RW, bit 14. -/
def SEND_CFG_MUTE (x : Nat) : FRef := ⟨0x41080000 + x * 0x8, 14, 1⟩
/-- SEND_GAIN.GAIN, RW, 16 bits from 0. -/
def SEND_GAIN_GAIN (x : Nat) : FRef := ⟨0x41080004 + x * 0x8, 0, 16⟩
/-- SEND_GAIN.RAMP, RW, 15 bits from 16. -/
def SEND_GAIN_RAMP (x : Nat) : FRef := ⟨0x41080004 + x * 0x8, 16, 15⟩
/-- SEND_GAIN.SHAPE, RW, bit 31. -/
def SEND_GAIN_SHAPE (x : Nat) : FRef := ⟨0x41080004 + x * 0x8, 31, 1⟩
/-- MTR_CFG.EN, RW, bit 0. -/
def MTR_CFG_EN (m : Nat) : FRef := ⟨0x41060000 + m * 0x8, 0, 1⟩
/-- MTR_CFG.GR, RW, bit 1. -/
def MTR_CFG_GR (m : Nat) : FRef := ⟨0x41060000 + m * 0x8, 1, 1⟩
/-- MTR_CFG.WIN, RW, 16 bits from 16. -/
def MTR_CFG_WIN (m : Nat) : FRef := ⟨0x41060000 + m * 0x8, 16, 16⟩
/-- MTR_CLIP.CLIPTH, RW, 24 bits from 0. -/
def MTR_CLIP_CLIPTH (m : Nat) : FRef := ⟨0x41060004 + m * 0x8, 0, 24⟩

/-! ### spec/05* (R184) -/

/-- BRG_CFG.EN, RW, bit 0. -/
def BRG_CFG_EN (b : Nat) : FRef := ⟨0x42000000 + b * 0x40, 0, 1⟩
/-- BRG_CFG.MODE, RW, 2 bits from 1. -/
def BRG_CFG_MODE (b : Nat) : FRef := ⟨0x42000000 + b * 0x40, 1, 2⟩
/-- BRG_CFG.PAIRSYNC, RW, bit 3. -/
def BRG_CFG_PAIRSYNC (b : Nat) : FRef := ⟨0x42000000 + b * 0x40, 3, 1⟩
/-- BRG_CFG.LRATE, RW, 3 bits from 4. -/
def BRG_CFG_LRATE (b : Nat) : FRef := ⟨0x42000000 + b * 0x40, 4, 3⟩
/-- BRG_CFG.RELOCK, RW, 8 bits from 8. -/
def BRG_CFG_RELOCK (b : Nat) : FRef := ⟨0x42000000 + b * 0x40, 8, 8⟩
/-- BRG_STAT.STATE, RO, 3 bits from 0. -/
def BRG_STAT_STATE (b : Nat) : FRef := ⟨0x42000004 + b * 0x40, 0, 3⟩
/-- BRG_STAT.LOCKQ, RO, bit 3. -/
def BRG_STAT_LOCKQ (b : Nat) : FRef := ⟨0x42000004 + b * 0x40, 3, 1⟩
/-- BRG_STAT.CFGERR, W1C, bit 8. -/
def BRG_STAT_CFGERR (b : Nat) : FRef := ⟨0x42000004 + b * 0x40, 8, 1⟩
/-- BRG_STAT.EXIT_SAT, W1C, bit 9. -/
def BRG_STAT_EXIT_SAT (b : Nat) : FRef := ⟨0x42000004 + b * 0x40, 9, 1⟩
/-- BRG_STAT.SLIP_SAT, W1C, bit 10. -/
def BRG_STAT_SLIP_SAT (b : Nat) : FRef := ⟨0x42000004 + b * 0x40, 10, 1⟩
/-- BRG_RATIO.ERR, RO, 24 bits from 0. -/
def BRG_RATIO_ERR (b : Nat) : FRef := ⟨0x42000008 + b * 0x40, 0, 24⟩
/-- BRG_PHASE.PHI, RO, 16 bits from 0. -/
def BRG_PHASE_PHI (b : Nat) : FRef := ⟨0x4200000C + b * 0x40, 0, 16⟩
/-- BRG_PHASE.DEV, RO, 16 bits from 16. -/
def BRG_PHASE_DEV (b : Nat) : FRef := ⟨0x4200000C + b * 0x40, 16, 16⟩
/-- BRG_DELAY.DELAY, RO, 24 bits from 0. -/
def BRG_DELAY_DELAY (b : Nat) : FRef := ⟨0x42000010 + b * 0x40, 0, 24⟩
/-- BRG_CNT.EXIT_COUNT, RW, 16 bits from 0. -/
def BRG_CNT_EXIT_COUNT (b : Nat) : FRef := ⟨0x42000014 + b * 0x40, 0, 16⟩
/-- BRG_CNT.SLIP_COUNT, RW, 16 bits from 16. -/
def BRG_CNT_SLIP_COUNT (b : Nat) : FRef := ⟨0x42000014 + b * 0x40, 16, 16⟩
/-- MXC_STAT.RANGE, RO, bit 0. -/
def MXC_STAT_RANGE : FRef := ⟨0x42001000, 0, 1⟩
/-- MXC_STAT.STEP_SAT, W1C, bit 1. -/
def MXC_STAT_STEP_SAT : FRef := ⟨0x42001000, 1, 1⟩
/-- MXC_STAT.RANGE_SAT, W1C, bit 2. -/
def MXC_STAT_RANGE_SAT : FRef := ⟨0x42001000, 2, 1⟩
/-- MXC_RATIO.ERR, RO, 24 bits from 0. -/
def MXC_RATIO_ERR : FRef := ⟨0x42001004, 0, 24⟩
/-- MXC_STEP.LAST, RO, 24 bits from 0. -/
def MXC_STEP_LAST : FRef := ⟨0x42001008, 0, 24⟩
/-- MXC_CNT.STEP_COUNT, RW, 16 bits from 0. -/
def MXC_CNT_STEP_COUNT : FRef := ⟨0x4200100C, 0, 16⟩
/-- MXC_CNT.RANGE_COUNT, RW, 16 bits from 16. -/
def MXC_CNT_RANGE_COUNT : FRef := ⟨0x4200100C, 16, 16⟩
/-- BRG_LOCKED0.LOCKED, RO, 32 bits from 0. -/
def BRG_LOCKED0_LOCKED : FRef := ⟨0x42002000, 0, 32⟩
/-- BRG_LOCKED1.LOCKED, RO, 32 bits from 0. -/
def BRG_LOCKED1_LOCKED : FRef := ⟨0x42002004, 0, 32⟩

/-! ### spec/06* (R228) -/

/-- KS_STAT.LIFE, RO, 2 bits from 0. -/
def KS_STAT_LIFE : FRef := ⟨0x4A000000, 0, 2⟩
/-- KS_STAT.PUF_OK, RO, bit 2. -/
def KS_STAT_PUF_OK : FRef := ⟨0x4A000000, 2, 1⟩
/-- KS_STAT.TRNG_OK, RO, bit 3. -/
def KS_STAT_TRNG_OK : FRef := ⟨0x4A000000, 3, 1⟩
/-- KS_STAT.JTAG, RO, 2 bits from 4. -/
def KS_STAT_JTAG : FRef := ⟨0x4A000000, 4, 2⟩
/-- KS_STAT.EPOCH, RO, 7 bits from 6. -/
def KS_STAT_EPOCH : FRef := ⟨0x4A000000, 6, 7⟩
/-- KS_STAT.EPOCH_PEND, RO, bit 13. -/
def KS_STAT_EPOCH_PEND : FRef := ⟨0x4A000000, 13, 1⟩
/-- KS_STAT.FUSE_ERR, W1C, bit 14. -/
def KS_STAT_FUSE_ERR : FRef := ⟨0x4A000000, 14, 1⟩
/-- KS_STAT.ZBUSY, RO, bit 15. -/
def KS_STAT_ZBUSY : FRef := ⟨0x4A000000, 15, 1⟩
/-- KS_STAT.JKILL, RO, bit 16. -/
def KS_STAT_JKILL : FRef := ⟨0x4A000000, 16, 1⟩
/-- KS_SEALPODS.PODS, RO, 16 bits from 0. -/
def KS_SEALPODS_PODS : FRef := ⟨0x4A000004, 0, 16⟩
/-- KS_DEVID.ID, RO, 32 bits from 0. -/
def KS_DEVID_ID (i : Nat) : FRef := ⟨0x4A000008 + i * 0x4, 0, 32⟩
/-- KS_OWNER_HASH.HASH, RO, 32 bits from 0. -/
def KS_OWNER_HASH_HASH (i : Nat) : FRef := ⟨0x4A000040 + i * 0x4, 0, 32⟩
/-- KS_SAFETY_HASH.HASH, RO, 32 bits from 0. -/
def KS_SAFETY_HASH_HASH (i : Nat) : FRef := ⟨0x4A000080 + i * 0x4, 0, 32⟩
/-- KS_CMD.OP, RW, 8 bits from 0. -/
def KS_CMD_OP : FRef := ⟨0x4A000100, 0, 8⟩
/-- KS_CMD.SLOT, RW, 6 bits from 8. -/
def KS_CMD_SLOT : FRef := ⟨0x4A000100, 8, 6⟩
/-- KS_CMD.GO, SC, bit 31. -/
def KS_CMD_GO : FRef := ⟨0x4A000100, 31, 1⟩
/-- KS_ARG0.ADDR, RW, 32 bits from 0. -/
def KS_ARG0_ADDR : FRef := ⟨0x4A000104, 0, 32⟩
/-- KS_ARG1.ADDR_HI, RW, 8 bits from 0. -/
def KS_ARG1_ADDR_HI : FRef := ⟨0x4A000108, 0, 8⟩
/-- KS_ARG2.LEN, RW, 24 bits from 0. -/
def KS_ARG2_LEN : FRef := ⟨0x4A00010C, 0, 24⟩
/-- KS_RESULT.DONE, W1C, bit 0. -/
def KS_RESULT_DONE : FRef := ⟨0x4A000120, 0, 1⟩
/-- KS_RESULT.ERR, RO, 8 bits from 8. -/
def KS_RESULT_ERR : FRef := ⟨0x4A000120, 8, 8⟩
/-- KS_SLOTS.VALID, RO, 32 bits from 0. -/
def KS_SLOTS_VALID (i : Nat) : FRef := ⟨0x4A000130 + i * 0x4, 0, 32⟩
/-- KS_CNT.UNWRAP_FAIL_COUNT, RW, 16 bits from 0. -/
def KS_CNT_UNWRAP_FAIL_COUNT : FRef := ⟨0x4A000140, 0, 16⟩
/-- KS_CNT.JTAG_FAIL_COUNT, RW, 16 bits from 16. -/
def KS_CNT_JTAG_FAIL_COUNT : FRef := ⟨0x4A000140, 16, 16⟩
/-- KS_CNT2.EXPORT_ZERO_COUNT, RW, 16 bits from 0. -/
def KS_CNT2_EXPORT_ZERO_COUNT : FRef := ⟨0x4A000144, 0, 16⟩
/-- KS_EVT.UNWRAP_SAT, W1C, bit 0. -/
def KS_EVT_UNWRAP_SAT : FRef := ⟨0x4A000148, 0, 1⟩
/-- KS_EVT.JTAG_SAT, W1C, bit 1. -/
def KS_EVT_JTAG_SAT : FRef := ⟨0x4A000148, 1, 1⟩
/-- KS_EVT.EXPORT_SAT, W1C, bit 2. -/
def KS_EVT_EXPORT_SAT : FRef := ⟨0x4A000148, 2, 1⟩
/-- KS_EVT.ZDONE, W1C, bit 3. -/
def KS_EVT_ZDONE : FRef := ⟨0x4A000148, 3, 1⟩
/-- KS_DEVCERT.DATA, RO, 32 bits from 0. -/
def KS_DEVCERT_DATA (i : Nat) : FRef := ⟨0x4A000400 + i * 0x4, 0, 32⟩

/-! ### spec/06* (R230) -/

/-- KS_SEAL_P.BASE, RW, 14 bits from 0. -/
def KS_SEAL_P_BASE (q : Nat) : FRef := ⟨0x4A001000 + q * 0x10, 0, 14⟩
/-- KS_SEAL_P.LEN, RW, 15 bits from 16. -/
def KS_SEAL_P_LEN (q : Nat) : FRef := ⟨0x4A001000 + q * 0x10, 16, 15⟩
/-- KS_SEAL_X.BASE, RW, 16 bits from 0. -/
def KS_SEAL_X_BASE (q : Nat) : FRef := ⟨0x4A001004 + q * 0x10, 0, 16⟩
/-- KS_SEAL_X.LEN, RW, 16 bits from 16. -/
def KS_SEAL_X_LEN (q : Nat) : FRef := ⟨0x4A001004 + q * 0x10, 16, 16⟩
/-- KS_SEAL_Y.BASE, RW, 16 bits from 0. -/
def KS_SEAL_Y_BASE (q : Nat) : FRef := ⟨0x4A001008 + q * 0x10, 0, 16⟩
/-- KS_SEAL_Y.LEN, RW, 16 bits from 16. -/
def KS_SEAL_Y_LEN (q : Nat) : FRef := ⟨0x4A001008 + q * 0x10, 16, 16⟩
/-- KS_SEAL_CTL.LOCK, W1S, bit 0. -/
def KS_SEAL_CTL_LOCK (q : Nat) : FRef := ⟨0x4A00100C + q * 0x10, 0, 1⟩
/-- KS_SEAL_CTL.EMPTY, RO, bit 1. -/
def KS_SEAL_CTL_EMPTY (q : Nat) : FRef := ⟨0x4A00100C + q * 0x10, 1, 1⟩

/-! ### spec/07* (R260) -/

/-- MOD_CFG.EN, RW, bit 0. -/
def MOD_CFG_EN (c : Nat) : FRef := ⟨0x43000000 + c * 0x400, 0, 1⟩
/-- MOD_CFG.LOAD, RW, bit 1. -/
def MOD_CFG_LOAD (c : Nat) : FRef := ⟨0x43000000 + c * 0x400, 1, 1⟩
/-- MOD_CFG.RAIL, RW, 3 bits from 2. -/
def MOD_CFG_RAIL (c : Nat) : FRef := ⟨0x43000000 + c * 0x400, 2, 3⟩
/-- MOD_CFG.MINPW, RW, 8 bits from 8. -/
def MOD_CFG_MINPW (c : Nat) : FRef := ⟨0x43000000 + c * 0x400, 8, 8⟩
/-- MOD_VFS.VFS, RW, 16 bits from 0. -/
def MOD_VFS_VFS (c : Nat) : FRef := ⟨0x43000004 + c * 0x400, 0, 16⟩
/-- MOD_SRC.PREF, RW, bit 0. -/
def MOD_SRC_PREF (c : Nat) : FRef := ⟨0x43000008 + c * 0x400, 0, 1⟩
/-- MOD_SRC.AUTO, RW, bit 1. -/
def MOD_SRC_AUTO (c : Nat) : FRef := ⟨0x43000008 + c * 0x400, 1, 1⟩
/-- MOD_SRC.LAST, RO, 2 bits from 4. -/
def MOD_SRC_LAST (c : Nat) : FRef := ⟨0x43000008 + c * 0x400, 4, 2⟩
/-- MOD_CTL.MUTE, RW, bit 0. -/
def MOD_CTL_MUTE (c : Nat) : FRef := ⟨0x4300000C + c * 0x400, 0, 1⟩
/-- MOD_STAT.STATE, RO, 3 bits from 0. -/
def MOD_STAT_STATE (c : Nat) : FRef := ⟨0x43000010 + c * 0x400, 0, 3⟩
/-- MOD_STAT.MREQ, RO, 3 bits from 3. -/
def MOD_STAT_MREQ (c : Nat) : FRef := ⟨0x43000010 + c * 0x400, 3, 3⟩
/-- MOD_STAT.CLIP_SAT, W1C, bit 6. -/
def MOD_STAT_CLIP_SAT (c : Nat) : FRef := ⟨0x43000010 + c * 0x400, 6, 1⟩
/-- MOD_STAT.HOLD_SAT, W1C, bit 7. -/
def MOD_STAT_HOLD_SAT (c : Nat) : FRef := ⟨0x43000010 + c * 0x400, 7, 1⟩
/-- MOD_STAT.FFLOW_SAT, W1C, bit 8. -/
def MOD_STAT_FFLOW_SAT (c : Nat) : FRef := ⟨0x43000010 + c * 0x400, 8, 1⟩
/-- MOD_STAT.SWITCH_SAT, W1C, bit 9. -/
def MOD_STAT_SWITCH_SAT (c : Nat) : FRef := ⟨0x43000010 + c * 0x400, 9, 1⟩
/-- MOD_STAT.CFGERR, W1C, bit 10. -/
def MOD_STAT_CFGERR (c : Nat) : FRef := ⟨0x43000010 + c * 0x400, 10, 1⟩
/-- MOD_INDEX.M, RO, 16 bits from 0. -/
def MOD_INDEX_M (c : Nat) : FRef := ⟨0x43000014 + c * 0x400, 0, 16⟩
/-- MOD_INDEX.PHASE, RO, 16 bits from 16. -/
def MOD_INDEX_PHASE (c : Nat) : FRef := ⟨0x43000014 + c * 0x400, 16, 16⟩
/-- MOD_CNT.CLIP_COUNT, RW, 16 bits from 0. -/
def MOD_CNT_CLIP_COUNT (c : Nat) : FRef := ⟨0x43000018 + c * 0x400, 0, 16⟩
/-- MOD_CNT.HOLD_COUNT, RW, 16 bits from 16. -/
def MOD_CNT_HOLD_COUNT (c : Nat) : FRef := ⟨0x43000018 + c * 0x400, 16, 16⟩
/-- MOD_CNT2.FFLOW_COUNT, RW, 16 bits from 0. -/
def MOD_CNT2_FFLOW_COUNT (c : Nat) : FRef := ⟨0x4300001C + c * 0x400, 0, 16⟩
/-- MOD_CNT2.SWITCH_COUNT, RW, 16 bits from 16. -/
def MOD_CNT2_SWITCH_COUNT (c : Nat) : FRef := ⟨0x4300001C + c * 0x400, 16, 16⟩
/-- MODG_CFG.CARRIER, RW, 2 bits from 0. -/
def MODG_CFG_CARRIER (g : Nat) : FRef := ⟨0x43020000 + g * 0x40, 0, 2⟩
/-- MODG_CFG.IDLE_EN, RW, bit 2. -/
def MODG_CFG_IDLE_EN (g : Nat) : FRef := ⟨0x43020000 + g * 0x40, 2, 1⟩
/-- MODG_CFG.ACTGRP, RW, 6 bits from 4. -/
def MODG_CFG_ACTGRP (g : Nat) : FRef := ⟨0x43020000 + g * 0x40, 4, 6⟩
/-- MODG_WAKE.WAKE, RW, 8 bits from 0. -/
def MODG_WAKE_WAKE (g : Nat) : FRef := ⟨0x43020004 + g * 0x40, 0, 8⟩
/-- MODG_WAKE.PRECHG, RW, 8 bits from 8. -/
def MODG_WAKE_PRECHG (g : Nat) : FRef := ⟨0x43020004 + g * 0x40, 8, 8⟩
/-- MODG_WAKE.IDLE_DLY, RW, 16 bits from 16. -/
def MODG_WAKE_IDLE_DLY (g : Nat) : FRef := ⟨0x43020004 + g * 0x40, 16, 16⟩
/-- MODG_START.ZSET, RW, 8 bits from 0. -/
def MODG_START_ZSET (g : Nat) : FRef := ⟨0x43020008 + g * 0x40, 0, 8⟩
/-- MODG_START.MUTERAMP, RW, 11 bits from 10. -/
def MODG_START_MUTERAMP (g : Nat) : FRef := ⟨0x43020008 + g * 0x40, 10, 11⟩
/-- MODG_START.STARTRAMP, RW, 11 bits from 21. -/
def MODG_START_STARTRAMP (g : Nat) : FRef := ⟨0x43020008 + g * 0x40, 21, 11⟩
/-- MODG_STAT.STATE, RO, 3 bits from 0. -/
def MODG_STAT_STATE (g : Nat) : FRef := ⟨0x4302000C + g * 0x40, 0, 3⟩
/-- MODG_STAT.REQ, RO, bit 3. -/
def MODG_STAT_REQ (g : Nat) : FRef := ⟨0x4302000C + g * 0x40, 3, 1⟩
/-- MODG_STAT.LINE, RO, bit 4. -/
def MODG_STAT_LINE (g : Nat) : FRef := ⟨0x4302000C + g * 0x40, 4, 1⟩
/-- MODG_STAT.DRIVE, RO, bit 5. -/
def MODG_STAT_DRIVE (g : Nat) : FRef := ⟨0x4302000C + g * 0x40, 5, 1⟩
/-- MODG_STAT.WAKE_SAT, W1C, bit 6. -/
def MODG_STAT_WAKE_SAT (g : Nat) : FRef := ⟨0x4302000C + g * 0x40, 6, 1⟩
/-- MODG_STAT.LATE_SAT, W1C, bit 7. -/
def MODG_STAT_LATE_SAT (g : Nat) : FRef := ⟨0x4302000C + g * 0x40, 7, 1⟩
/-- MODG_STAT.FAULT_SAT, W1C, bit 8. -/
def MODG_STAT_FAULT_SAT (g : Nat) : FRef := ⟨0x4302000C + g * 0x40, 8, 1⟩
/-- MODG_STAT.CFGERR, W1C, bit 9. -/
def MODG_STAT_CFGERR (g : Nat) : FRef := ⟨0x4302000C + g * 0x40, 9, 1⟩
/-- MODG_CNT.WAKE_COUNT, RW, 16 bits from 0. -/
def MODG_CNT_WAKE_COUNT (g : Nat) : FRef := ⟨0x43020010 + g * 0x40, 0, 16⟩
/-- MODG_CNT.WAKE_LATE_COUNT, RW, 16 bits from 16. -/
def MODG_CNT_WAKE_LATE_COUNT (g : Nat) : FRef := ⟨0x43020010 + g * 0x40, 16, 16⟩
/-- MODG_CNT2.FAULT_COUNT, RW, 16 bits from 0. -/
def MODG_CNT2_FAULT_COUNT (g : Nat) : FRef := ⟨0x43020014 + g * 0x40, 0, 16⟩
/-- MOD_GCTL.RUN, RW, bit 0. -/
def MOD_GCTL_RUN : FRef := ⟨0x43030000, 0, 1⟩
/-- MOD_GCTL.DIV, RW, 7 bits from 8. -/
def MOD_GCTL_DIV : FRef := ⟨0x43030000, 8, 7⟩
/-- MOD_GCTL.SPREAD, RW, 2 bits from 16. -/
def MOD_GCTL_SPREAD : FRef := ⟨0x43030000, 16, 2⟩
/-- MOD_GCTL.SPRATE, RW, 6 bits from 24. -/
def MOD_GCTL_SPRATE : FRef := ⟨0x43030000, 24, 6⟩
/-- RAIL_CFG.EN, RW, bit 0. -/
def RAIL_CFG_EN (r : Nat) : FRef := ⟨0x43100000 + r * 0x100, 0, 1⟩
/-- RAIL_CFG.FORMAT, RW, bit 1. -/
def RAIL_CFG_FORMAT (r : Nat) : FRef := ⟨0x43100000 + r * 0x100, 1, 1⟩
/-- RAIL_CFG.QUIETEN, RW, bit 2. -/
def RAIL_CFG_QUIETEN (r : Nat) : FRef := ⟨0x43100000 + r * 0x100, 2, 1⟩
/-- RAIL_CFG.ACTGRP, RW, 6 bits from 4. -/
def RAIL_CFG_ACTGRP (r : Nat) : FRef := ⟨0x43100000 + r * 0x100, 4, 6⟩
/-- RAIL_SENSE.FS, RW, 16 bits from 0. -/
def RAIL_SENSE_FS (r : Nat) : FRef := ⟨0x43100004 + r * 0x100, 0, 16⟩
/-- RAIL_CMDFS.CMDFS, RW, 16 bits from 0. -/
def RAIL_CMDFS_CMDFS (r : Nat) : FRef := ⟨0x43100008 + r * 0x100, 0, 16⟩
/-- RAIL_VLIM.VMIN, RW, 16 bits from 0. -/
def RAIL_VLIM_VMIN (r : Nat) : FRef := ⟨0x4310000C + r * 0x100, 0, 16⟩
/-- RAIL_VLIM.VMAX, RW, 16 bits from 16. -/
def RAIL_VLIM_VMAX (r : Nat) : FRef := ⟨0x4310000C + r * 0x100, 16, 16⟩
/-- RAIL_VQ.VQUIET, RW, 16 bits from 0. -/
def RAIL_VQ_VQUIET (r : Nat) : FRef := ⟨0x43100010 + r * 0x100, 0, 16⟩
/-- RAIL_VQ.HEADROOM, RW, 16 bits from 16. -/
def RAIL_VQ_HEADROOM (r : Nat) : FRef := ⟨0x43100010 + r * 0x100, 16, 16⟩
/-- RAIL_SLEW.RISE, RW, 16 bits from 0. -/
def RAIL_SLEW_RISE (r : Nat) : FRef := ⟨0x43100014 + r * 0x100, 0, 16⟩
/-- RAIL_SLEW.FALL, RW, 16 bits from 16. -/
def RAIL_SLEW_FALL (r : Nat) : FRef := ⟨0x43100014 + r * 0x100, 16, 16⟩
/-- RAIL_HOLD.HOLD, RW, 16 bits from 0. -/
def RAIL_HOLD_HOLD (r : Nat) : FRef := ⟨0x43100018 + r * 0x100, 0, 16⟩
/-- RAIL_FF.VFFMIN, RW, 16 bits from 0. -/
def RAIL_FF_VFFMIN (r : Nat) : FRef := ⟨0x4310001C + r * 0x100, 0, 16⟩
/-- RAIL_CMDV.VCMD, RO, 16 bits from 0. -/
def RAIL_CMDV_VCMD (r : Nat) : FRef := ⟨0x43100020 + r * 0x100, 0, 16⟩
/-- RAIL_CMDV.SEQ, RO, 4 bits from 16. -/
def RAIL_CMDV_SEQ (r : Nat) : FRef := ⟨0x43100020 + r * 0x100, 16, 4⟩
/-- RAIL_CMDV.QUIET, RO, bit 20. -/
def RAIL_CMDV_QUIET (r : Nat) : FRef := ⟨0x43100020 + r * 0x100, 20, 1⟩
/-- RAIL_CMDV.ENABLE, RO, bit 21. -/
def RAIL_CMDV_ENABLE (r : Nat) : FRef := ⟨0x43100020 + r * 0x100, 21, 1⟩
/-- RAIL_MEAS.VMEAS, RO, 16 bits from 0. -/
def RAIL_MEAS_VMEAS (r : Nat) : FRef := ⟨0x43100024 + r * 0x100, 0, 16⟩
/-- RAIL_STAT.CFGERR, W1C, bit 0. -/
def RAIL_STAT_CFGERR (r : Nat) : FRef := ⟨0x43100028 + r * 0x100, 0, 1⟩
/-- RAIL_STAT.SHORT_SAT, W1C, bit 1. -/
def RAIL_STAT_SHORT_SAT (r : Nat) : FRef := ⟨0x43100028 + r * 0x100, 1, 1⟩
/-- RAIL_CNT.SHORT_COUNT, RW, 16 bits from 0. -/
def RAIL_CNT_SHORT_COUNT (r : Nat) : FRef := ⟨0x4310002C + r * 0x100, 0, 16⟩

/-! ### spec/08* (R276) -/

/-- SNS_CTL.RUN, RW, bit 0. -/
def SNS_CTL_RUN : FRef := ⟨0x43200000, 0, 1⟩
/-- SNS_CTL.ORATE, RW, bit 1. -/
def SNS_CTL_ORATE : FRef := ⟨0x43200000, 1, 1⟩
/-- SNS_CTL.EDGE, RW, bit 2. -/
def SNS_CTL_EDGE : FRef := ⟨0x43200000, 2, 1⟩
/-- SNS_STAT.VALID, RO, bit 0. -/
def SNS_STAT_VALID : FRef := ⟨0x43200004, 0, 1⟩
/-- SNS_STAT.CFGERR, W1C, bit 1. -/
def SNS_STAT_CFGERR : FRef := ⟨0x43200004, 1, 1⟩
/-- SNS_OUTIDX.IDX, RO, 32 bits from 0. -/
def SNS_OUTIDX_IDX : FRef := ⟨0x43200008, 0, 32⟩
/-- SNS_TLATCH.TIME, RO, 32 bits from 0. -/
def SNS_TLATCH_TIME : FRef := ⟨0x4320000C, 0, 32⟩
/-- SNS_STUCK.STUCK, RO, 32 bits from 0. -/
def SNS_STUCK_STUCK (i : Nat) : FRef := ⟨0x43200010 + i * 0x4, 0, 32⟩
/-- SNS_EVT.EVT, W1C, 32 bits from 0. -/
def SNS_EVT_EVT (i : Nat) : FRef := ⟨0x43200030 + i * 0x4, 0, 32⟩
/-- SNS_SETCFG.TAPS, RW, 9 bits from 0. -/
def SNS_SETCFG_TAPS (t : Nat) : FRef := ⟨0x43200100 + t * 0x8, 0, 9⟩
/-- SNS_SETCFG.KIND, RW, bit 9. -/
def SNS_SETCFG_KIND (t : Nat) : FRef := ⟨0x43200100 + t * 0x8, 9, 1⟩
/-- SNS_SETGD.GD, RWH, 24 bits from 0. -/
def SNS_SETGD_GD (t : Nat) : FRef := ⟨0x43200104 + t * 0x8, 0, 24⟩
/-- SNS_SCFG.EN, RW, bit 0. -/
def SNS_SCFG_EN (s : Nat) : FRef := ⟨0x43201000 + s * 0x20, 0, 1⟩
/-- SNS_SCFG.INV, RW, bit 1. -/
def SNS_SCFG_INV (s : Nat) : FRef := ⟨0x43201000 + s * 0x20, 1, 1⟩
/-- SNS_SCFG.SET, RW, 4 bits from 4. -/
def SNS_SCFG_SET (s : Nat) : FRef := ⟨0x43201000 + s * 0x20, 4, 4⟩
/-- SNS_SCFG.SH1, RW, 3 bits from 8. -/
def SNS_SCFG_SH1 (s : Nat) : FRef := ⟨0x43201000 + s * 0x20, 8, 3⟩
/-- SNS_SCFG.SH2, RW, 4 bits from 12. -/
def SNS_SCFG_SH2 (s : Nat) : FRef := ⟨0x43201000 + s * 0x20, 12, 4⟩
/-- SNS_FAST.HI, RW, 16 bits from 0. -/
def SNS_FAST_HI (s : Nat) : FRef := ⟨0x43201004 + s * 0x20, 0, 16⟩
/-- SNS_FAST.LO, RW, 16 bits from 16. -/
def SNS_FAST_LO (s : Nat) : FRef := ⟨0x43201004 + s * 0x20, 16, 16⟩
/-- SNS_SLOW.HI, RW, 16 bits from 0. -/
def SNS_SLOW_HI (s : Nat) : FRef := ⟨0x43201008 + s * 0x20, 0, 16⟩
/-- SNS_SLOW.LO, RW, 16 bits from 16. -/
def SNS_SLOW_LO (s : Nat) : FRef := ⟨0x43201008 + s * 0x20, 16, 16⟩
/-- SNS_HYST.FHYST, RW, 8 bits from 0. -/
def SNS_HYST_FHYST (s : Nat) : FRef := ⟨0x4320100C + s * 0x20, 0, 8⟩
/-- SNS_HYST.SHYST, RW, 8 bits from 8. -/
def SNS_HYST_SHYST (s : Nat) : FRef := ⟨0x4320100C + s * 0x20, 8, 8⟩
/-- SNS_FLAG.FHI, RO, bit 0. -/
def SNS_FLAG_FHI (s : Nat) : FRef := ⟨0x43201010 + s * 0x20, 0, 1⟩
/-- SNS_FLAG.FLO, RO, bit 1. -/
def SNS_FLAG_FLO (s : Nat) : FRef := ⟨0x43201010 + s * 0x20, 1, 1⟩
/-- SNS_FLAG.SHI, RO, bit 2. -/
def SNS_FLAG_SHI (s : Nat) : FRef := ⟨0x43201010 + s * 0x20, 2, 1⟩
/-- SNS_FLAG.SLO, RO, bit 3. -/
def SNS_FLAG_SLO (s : Nat) : FRef := ⟨0x43201010 + s * 0x20, 3, 1⟩
/-- SNS_FLAG.STUCK, RO, bit 4. -/
def SNS_FLAG_STUCK (s : Nat) : FRef := ⟨0x43201010 + s * 0x20, 4, 1⟩
/-- SNS_FLAG.VALID, RO, bit 5. -/
def SNS_FLAG_VALID (s : Nat) : FRef := ⟨0x43201010 + s * 0x20, 5, 1⟩
/-- SNS_FLAG.SAT1, W1C, bit 8. -/
def SNS_FLAG_SAT1 (s : Nat) : FRef := ⟨0x43201010 + s * 0x20, 8, 1⟩
/-- SNS_FLAG.SAT2, W1C, bit 9. -/
def SNS_FLAG_SAT2 (s : Nat) : FRef := ⟨0x43201010 + s * 0x20, 9, 1⟩
/-- SNS_FLAG.EVT_SAT, W1C, bit 10. -/
def SNS_FLAG_EVT_SAT (s : Nat) : FRef := ⟨0x43201010 + s * 0x20, 10, 1⟩
/-- SNS_FLAG.SATC_SAT, W1C, bit 11. -/
def SNS_FLAG_SATC_SAT (s : Nat) : FRef := ⟨0x43201010 + s * 0x20, 11, 1⟩
/-- SNS_FASTV.VALUE, RO, 24 bits from 0. -/
def SNS_FASTV_VALUE (s : Nat) : FRef := ⟨0x43201014 + s * 0x20, 0, 24⟩
/-- SNS_SLOWV.VALUE, RO, 24 bits from 0. -/
def SNS_SLOWV_VALUE (s : Nat) : FRef := ⟨0x43201018 + s * 0x20, 0, 24⟩
/-- SNS_CNT.EVT_COUNT, RW, 16 bits from 0. -/
def SNS_CNT_EVT_COUNT (s : Nat) : FRef := ⟨0x4320101C + s * 0x20, 0, 16⟩
/-- SNS_CNT.SAT_COUNT, RW, 16 bits from 16. -/
def SNS_CNT_SAT_COUNT (s : Nat) : FRef := ⟨0x4320101C + s * 0x20, 16, 16⟩

/-! ### spec/09* (R308) -/

/-- ROOK_STAT.STATE, RO, 2 bits from 0. -/
def ROOK_STAT_STATE : FRef := ⟨0x4F000000, 0, 2⟩
/-- ROOK_STAT.SAFECFG, RO, bit 2. -/
def ROOK_STAT_SAFECFG : FRef := ⟨0x4F000000, 2, 1⟩
/-- ROOK_STAT.LSOK, RO, bit 3. -/
def ROOK_STAT_LSOK : FRef := ⟨0x4F000000, 3, 1⟩
/-- ROOK_STAT.CLKOK, RO, bit 4. -/
def ROOK_STAT_CLKOK : FRef := ⟨0x4F000000, 4, 1⟩
/-- ROOK_STAT.RELAY, RO, bit 5. -/
def ROOK_STAT_RELAY : FRef := ⟨0x4F000000, 5, 1⟩
/-- ROOK_STAT.SYSMUTE, RO, bit 6. -/
def ROOK_STAT_SYSMUTE : FRef := ⟨0x4F000000, 6, 1⟩
/-- ROOK_STAT.EMUTE, RO, bit 7. -/
def ROOK_STAT_EMUTE : FRef := ⟨0x4F000000, 7, 1⟩
/-- ROOK_STAT.PA, RO, bit 8. -/
def ROOK_STAT_PA : FRef := ⟨0x4F000000, 8, 1⟩
/-- ROOK_STAT.CFGLOCK, W1C, bit 9. -/
def ROOK_STAT_CFGLOCK : FRef := ⟨0x4F000000, 9, 1⟩
/-- ROOK_SFIN.RAW, RO, 4 bits from 0. -/
def ROOK_SFIN_RAW : FRef := ⟨0x4F000004, 0, 4⟩
/-- ROOK_SFIN.ACT, RO, 4 bits from 4. -/
def ROOK_SFIN_ACT : FRef := ⟨0x4F000004, 4, 4⟩
/-- ROOK_SFIN.HOLD, RO, 4 bits from 8. -/
def ROOK_SFIN_HOLD : FRef := ⟨0x4F000004, 8, 4⟩
/-- ROOK_SFIN.STUCK, RO, 4 bits from 12. -/
def ROOK_SFIN_STUCK : FRef := ⟨0x4F000004, 12, 4⟩
/-- ROOK_SFCFG.POL, RW, 4 bits from 0. -/
def ROOK_SFCFG_POL : FRef := ⟨0x4F000008, 0, 4⟩
/-- ROOK_SFCFG.FN2, RW, 3 bits from 4. -/
def ROOK_SFCFG_FN2 : FRef := ⟨0x4F000008, 4, 3⟩
/-- ROOK_SFCFG.FN3, RW, 3 bits from 7. -/
def ROOK_SFCFG_FN3 : FRef := ⟨0x4F000008, 7, 3⟩
/-- ROOK_SFCFG.PAOVR, RW, bit 10. -/
def ROOK_SFCFG_PAOVR : FRef := ⟨0x4F000008, 10, 1⟩
/-- ROOK_TIMES.EMRAMP, RW, 8 bits from 0. -/
def ROOK_TIMES_EMRAMP : FRef := ⟨0x4F00000C, 0, 8⟩
/-- ROOK_TIMES.PAXF, RW, 8 bits from 8. -/
def ROOK_TIMES_PAXF : FRef := ⟨0x4F00000C, 8, 8⟩
/-- ROOK_TIMES.RLYON, RW, 8 bits from 16. -/
def ROOK_TIMES_RLYON : FRef := ⟨0x4F00000C, 16, 8⟩
/-- ROOK_WD.TWD, RW, 4 bits from 0. -/
def ROOK_WD_TWD : FRef := ⟨0x4F000010, 0, 4⟩
/-- ROOK_WD.CWDMS, RW, 8 bits from 8. -/
def ROOK_WD_CWDMS : FRef := ⟨0x4F000010, 8, 8⟩
/-- ROOK_WD.CWDEN, RW, 4 bits from 16. -/
def ROOK_WD_CWDEN : FRef := ⟨0x4F000010, 16, 4⟩
/-- ROOK_WD.TEMPO_OK, RO, bit 20. -/
def ROOK_WD_TEMPO_OK : FRef := ⟨0x4F000010, 20, 1⟩
/-- ROOK_WD.CC_OK, RO, 4 bits from 21. -/
def ROOK_WD_CC_OK : FRef := ⟨0x4F000010, 21, 4⟩
/-- ROOK_LAST.CODE, RO, 16 bits from 0. -/
def ROOK_LAST_CODE : FRef := ⟨0x4F000014, 0, 16⟩
/-- ROOK_LASTBSN.BSN, RO, 32 bits from 0. -/
def ROOK_LASTBSN_BSN : FRef := ⟨0x4F000018, 0, 32⟩
/-- ROOK_CNT.TRIP_COUNT, RW, 16 bits from 0. -/
def ROOK_CNT_TRIP_COUNT : FRef := ⟨0x4F00001C, 0, 16⟩
/-- ROOK_CNT.WD_COUNT, RW, 16 bits from 16. -/
def ROOK_CNT_WD_COUNT : FRef := ⟨0x4F00001C, 16, 16⟩
/-- ROOK_CNT2.XLATE_COUNT, RW, 16 bits from 0. -/
def ROOK_CNT2_XLATE_COUNT : FRef := ⟨0x4F000020, 0, 16⟩
/-- ROOK_EVT.TRIP_SAT, W1C, bit 0. -/
def ROOK_EVT_TRIP_SAT : FRef := ⟨0x4F000024, 0, 1⟩
/-- ROOK_EVT.WD_SAT, W1C, bit 1. -/
def ROOK_EVT_WD_SAT : FRef := ⟨0x4F000024, 1, 1⟩
/-- ROOK_EVT.XLATE_SAT, W1C, bit 2. -/
def ROOK_EVT_XLATE_SAT : FRef := ⟨0x4F000024, 2, 1⟩
/-- ROOK_RETRY.OCHOLD, RW, 16 bits from 0. -/
def ROOK_RETRY_OCHOLD : FRef := ⟨0x4F000028, 0, 16⟩
/-- ROOK_RETRY.OCMAX, RW, 4 bits from 16. -/
def ROOK_RETRY_OCMAX : FRef := ⟨0x4F000028, 16, 4⟩
/-- ROOK_RETRY.FLTMAX, RW, 4 bits from 20. -/
def ROOK_RETRY_FLTMAX : FRef := ⟨0x4F000028, 20, 4⟩
/-- ROOK_CH_CFG.EN, RW, bit 0. -/
def ROOK_CH_CFG_EN (c : Nat) : FRef := ⟨0x4F001000 + c * 0x40, 0, 1⟩
/-- ROOK_CH_CFG.DCI_EN, RW, bit 1. -/
def ROOK_CH_CFG_DCI_EN (c : Nat) : FRef := ⟨0x4F001000 + c * 0x40, 1, 1⟩
/-- ROOK_CH_CFG.DCO_EN, RW, bit 2. -/
def ROOK_CH_CFG_DCO_EN (c : Nat) : FRef := ⟨0x4F001000 + c * 0x40, 2, 1⟩
/-- ROOK_CH_CFG.OC_EN, RW, bit 3. -/
def ROOK_CH_CFG_OC_EN (c : Nat) : FRef := ⟨0x4F001000 + c * 0x40, 3, 1⟩
/-- ROOK_CH_CFG.TH_EN, RW, bit 4. -/
def ROOK_CH_CFG_TH_EN (c : Nat) : FRef := ⟨0x4F001000 + c * 0x40, 4, 1⟩
/-- ROOK_CH_CFG.X_EN, RW, bit 5. -/
def ROOK_CH_CFG_X_EN (c : Nat) : FRef := ⟨0x4F001000 + c * 0x40, 5, 1⟩
/-- ROOK_CH_CFG.PILOT, RW, bit 6. -/
def ROOK_CH_CFG_PILOT (c : Nat) : FRef := ⟨0x4F001000 + c * 0x40, 6, 1⟩
/-- ROOK_CH_CFG.LINEACT, RW, bit 7. -/
def ROOK_CH_CFG_LINEACT (c : Nat) : FRef := ⟨0x4F001000 + c * 0x40, 7, 1⟩
/-- ROOK_CH_CFG.CAB, RW, 6 bits from 8. -/
def ROOK_CH_CFG_CAB (c : Nat) : FRef := ⟨0x4F001000 + c * 0x40, 8, 6⟩
/-- ROOK_CH_DC.DCPCT, RW, 8 bits from 0. -/
def ROOK_CH_DC_DCPCT (c : Nat) : FRef := ⟨0x4F001004 + c * 0x40, 0, 8⟩
/-- ROOK_CH_DC.DCPERS, RW, 16 bits from 8. -/
def ROOK_CH_DC_DCPERS (c : Nat) : FRef := ⟨0x4F001004 + c * 0x40, 8, 16⟩
/-- ROOK_CH_DC.DCF, RW, 8 bits from 24. -/
def ROOK_CH_DC_DCF (c : Nat) : FRef := ⟨0x4F001004 + c * 0x40, 24, 8⟩
/-- ROOK_CH_VSFS.VSFS, RW, 16 bits from 0. -/
def ROOK_CH_VSFS_VSFS (c : Nat) : FRef := ⟨0x4F001008 + c * 0x40, 0, 16⟩
/-- ROOK_CH_VSFS.ISFS, RW, 16 bits from 16. -/
def ROOK_CH_VSFS_ISFS (c : Nat) : FRef := ⟨0x4F001008 + c * 0x40, 16, 16⟩
/-- ROOK_CH_TLIM.TLIM, RW, 16 bits from 0. -/
def ROOK_CH_TLIM_TLIM (c : Nat) : FRef := ⟨0x4F00100C + c * 0x40, 0, 16⟩
/-- ROOK_CH_TLIM.TKNEE, RW, 8 bits from 16. -/
def ROOK_CH_TLIM_TKNEE (c : Nat) : FRef := ⟨0x4F00100C + c * 0x40, 16, 8⟩
/-- ROOK_CH_TLIM.TMARGIN, RW, 8 bits from 24. -/
def ROOK_CH_TLIM_TMARGIN (c : Nat) : FRef := ⟨0x4F00100C + c * 0x40, 24, 8⟩
/-- ROOK_CH_RREF.RREF, RW, 16 bits from 0. -/
def ROOK_CH_RREF_RREF (c : Nat) : FRef := ⟨0x4F001010 + c * 0x40, 0, 16⟩
/-- ROOK_CH_RREF.ALPHA, RW, 16 bits from 16. -/
def ROOK_CH_RREF_ALPHA (c : Nat) : FRef := ⟨0x4F001010 + c * 0x40, 16, 16⟩
/-- ROOK_CH_X.XLIM, RW, 16 bits from 0. -/
def ROOK_CH_X_XLIM (c : Nat) : FRef := ⟨0x4F001014 + c * 0x40, 0, 16⟩
/-- ROOK_CH_X.XREL, RW, 16 bits from 16. -/
def ROOK_CH_X_XREL (c : Nat) : FRef := ⟨0x4F001014 + c * 0x40, 16, 16⟩
/-- ROOK_CH_ZLIM.ZLO, RW, 16 bits from 0. -/
def ROOK_CH_ZLIM_ZLO (c : Nat) : FRef := ⟨0x4F001018 + c * 0x40, 0, 16⟩
/-- ROOK_CH_ZLIM.ZHI, RW, 16 bits from 16. -/
def ROOK_CH_ZLIM_ZHI (c : Nat) : FRef := ⟨0x4F001018 + c * 0x40, 16, 16⟩
/-- ROOK_CH_PA.PASRC, RW, 12 bits from 0. -/
def ROOK_CH_PA_PASRC (c : Nat) : FRef := ⟨0x4F00101C + c * 0x40, 0, 12⟩
/-- ROOK_CH_PA.PAGAIN, RW, 16 bits from 12. -/
def ROOK_CH_PA_PAGAIN (c : Nat) : FRef := ⟨0x4F00101C + c * 0x40, 12, 16⟩
/-- ROOK_CH_GAIN.G, RO, 24 bits from 0. -/
def ROOK_CH_GAIN_G (c : Nat) : FRef := ⟨0x4F001020 + c * 0x40, 0, 24⟩
/-- ROOK_CH_TEMP.TC, RO, 16 bits from 0. -/
def ROOK_CH_TEMP_TC (c : Nat) : FRef := ⟨0x4F001024 + c * 0x40, 0, 16⟩
/-- ROOK_CH_TEMP.TM, RO, 16 bits from 16. -/
def ROOK_CH_TEMP_TM (c : Nat) : FRef := ⟨0x4F001024 + c * 0x40, 16, 16⟩
/-- ROOK_CH_Z.ZP, RO, 16 bits from 0. -/
def ROOK_CH_Z_ZP (c : Nat) : FRef := ⟨0x4F001028 + c * 0x40, 0, 16⟩
/-- ROOK_CH_Z.RM, RO, 16 bits from 16. -/
def ROOK_CH_Z_RM (c : Nat) : FRef := ⟨0x4F001028 + c * 0x40, 16, 16⟩
/-- ROOK_CH_STAT.DCI, RO, bit 0. -/
def ROOK_CH_STAT_DCI (c : Nat) : FRef := ⟨0x4F00102C + c * 0x40, 0, 1⟩
/-- ROOK_CH_STAT.DCO, RO, bit 1. -/
def ROOK_CH_STAT_DCO (c : Nat) : FRef := ⟨0x4F00102C + c * 0x40, 1, 1⟩
/-- ROOK_CH_STAT.OC, RO, bit 2. -/
def ROOK_CH_STAT_OC (c : Nat) : FRef := ⟨0x4F00102C + c * 0x40, 2, 1⟩
/-- ROOK_CH_STAT.LATCH, RO, bit 3. -/
def ROOK_CH_STAT_LATCH (c : Nat) : FRef := ⟨0x4F00102C + c * 0x40, 3, 1⟩
/-- ROOK_CH_STAT.LINE_OPEN, RO, bit 4. -/
def ROOK_CH_STAT_LINE_OPEN (c : Nat) : FRef := ⟨0x4F00102C + c * 0x40, 4, 1⟩
/-- ROOK_CH_STAT.LINE_SHORT, RO, bit 5. -/
def ROOK_CH_STAT_LINE_SHORT (c : Nat) : FRef := ⟨0x4F00102C + c * 0x40, 5, 1⟩
/-- ROOK_CH_STAT.THLIM, RO, bit 6. -/
def ROOK_CH_STAT_THLIM (c : Nat) : FRef := ⟨0x4F00102C + c * 0x40, 6, 1⟩
/-- ROOK_CH_STAT.THCUT, RO, bit 7. -/
def ROOK_CH_STAT_THCUT (c : Nat) : FRef := ⟨0x4F00102C + c * 0x40, 7, 1⟩
/-- ROOK_CH_STAT.XLIM, RO, bit 8. -/
def ROOK_CH_STAT_XLIM (c : Nat) : FRef := ⟨0x4F00102C + c * 0x40, 8, 1⟩
/-- ROOK_CH_STAT.SMUTE, RO, bit 9. -/
def ROOK_CH_STAT_SMUTE (c : Nat) : FRef := ⟨0x4F00102C + c * 0x40, 9, 1⟩
/-- ROOK_CH_STAT.PA, RO, bit 10. -/
def ROOK_CH_STAT_PA (c : Nat) : FRef := ⟨0x4F00102C + c * 0x40, 10, 1⟩
/-- ROOK_CH_STAT.TRIP_SAT, W1C, bit 11. -/
def ROOK_CH_STAT_TRIP_SAT (c : Nat) : FRef := ⟨0x4F00102C + c * 0x40, 11, 1⟩
/-- ROOK_CH_STAT.XLIM_SAT, W1C, bit 12. -/
def ROOK_CH_STAT_XLIM_SAT (c : Nat) : FRef := ⟨0x4F00102C + c * 0x40, 12, 1⟩
/-- ROOK_CH_STAT.OCN, RO, 4 bits from 16. -/
def ROOK_CH_STAT_OCN (c : Nat) : FRef := ⟨0x4F00102C + c * 0x40, 16, 4⟩
/-- ROOK_CH_CNT.TRIP_COUNT, RW, 16 bits from 0. -/
def ROOK_CH_CNT_TRIP_COUNT (c : Nat) : FRef := ⟨0x4F001030 + c * 0x40, 0, 16⟩
/-- ROOK_CH_CNT.XLIM_COUNT, RW, 16 bits from 16. -/
def ROOK_CH_CNT_XLIM_COUNT (c : Nat) : FRef := ⟨0x4F001030 + c * 0x40, 16, 16⟩
/-- ROOK_GRP_STAT.REQ, RO, bit 0. -/
def ROOK_GRP_STAT_REQ (g : Nat) : FRef := ⟨0x4F003000 + g * 0x10, 0, 1⟩
/-- ROOK_GRP_STAT.REL, RO, bit 1. -/
def ROOK_GRP_STAT_REL (g : Nat) : FRef := ⟨0x4F003000 + g * 0x10, 1, 1⟩
/-- ROOK_GRP_STAT.FLTN, RO, 4 bits from 2. -/
def ROOK_GRP_STAT_FLTN (g : Nat) : FRef := ⟨0x4F003000 + g * 0x10, 2, 4⟩
/-- ROOK_GRP_STAT.LATCH, RO, bit 6. -/
def ROOK_GRP_STAT_LATCH (g : Nat) : FRef := ⟨0x4F003000 + g * 0x10, 6, 1⟩
/-- ROOK_GRP_STAT.HOLDING, RO, bit 7. -/
def ROOK_GRP_STAT_HOLDING (g : Nat) : FRef := ⟨0x4F003000 + g * 0x10, 7, 1⟩
/-- ROOK_GRP_CFG.FLTHOLD, RW, 16 bits from 0. -/
def ROOK_GRP_CFG_FLTHOLD (g : Nat) : FRef := ⟨0x4F003004 + g * 0x10, 0, 16⟩
/-- ROOK_RAIL_STAT.DIP, RO, bit 0. -/
def ROOK_RAIL_STAT_DIP (r : Nat) : FRef := ⟨0x4F003200 + r * 0x10, 0, 1⟩
/-- ROOK_RAIL_STAT.STUCK, RO, bit 1. -/
def ROOK_RAIL_STAT_STUCK (r : Nat) : FRef := ⟨0x4F003200 + r * 0x10, 1, 1⟩
/-- ROOK_RAIL_CFG.RDCLR, RW, 16 bits from 0. -/
def ROOK_RAIL_CFG_RDCLR (r : Nat) : FRef := ⟨0x4F003204 + r * 0x10, 0, 16⟩

/-! ### spec/10* (R337) -/

/-- DRN_CFG.EN, RW, bit 0. -/
def DRN_CFG_EN : FRef := ⟨0x47000000, 0, 1⟩
/-- DRN_CFG.HOME, RW, bit 1. -/
def DRN_CFG_HOME : FRef := ⟨0x47000000, 1, 1⟩
/-- DRN_CFG.LLINE, RW, bit 2. -/
def DRN_CFG_LLINE : FRef := ⟨0x47000000, 2, 1⟩
/-- DRN_CFG.NETHB, RW, bit 3. -/
def DRN_CFG_NETHB : FRef := ⟨0x47000000, 3, 1⟩
/-- DRN_CFG.PRIO, RW, 8 bits from 8. -/
def DRN_CFG_PRIO : FRef := ⟨0x47000000, 8, 8⟩
/-- DRN_CFG.LEASE, RW, 8 bits from 16. -/
def DRN_CFG_LEASE : FRef := ⟨0x47000000, 16, 8⟩
/-- DRN_CFG.SHOLD, RW, 4 bits from 24. -/
def DRN_CFG_SHOLD : FRef := ⟨0x47000000, 24, 4⟩
/-- DRN_CFG2.REVERT, RW, 16 bits from 0. -/
def DRN_CFG2_REVERT : FRef := ⟨0x47000004, 0, 16⟩
/-- DRN_CFG2.CLEAD, RW, 8 bits from 16. -/
def DRN_CFG2_CLEAD : FRef := ⟨0x47000004, 16, 8⟩
/-- DRN_CFG2.PKSLOT, RW, 6 bits from 24. -/
def DRN_CFG2_PKSLOT : FRef := ⟨0x47000004, 24, 6⟩
/-- DRN_PAIRID.PAIRID, RW, 16 bits from 0. -/
def DRN_PAIRID_PAIRID : FRef := ⟨0x47000008, 0, 16⟩
/-- DRN_PAIRID.HBMAC0, RW, 4 bits from 16. -/
def DRN_PAIRID_HBMAC0 : FRef := ⟨0x47000008, 16, 4⟩
/-- DRN_PAIRID.HBMAC1, RW, 4 bits from 20. -/
def DRN_PAIRID_HBMAC1 : FRef := ⟨0x47000008, 20, 4⟩
/-- DRN_CTL.CASTLE, SC, bit 0. -/
def DRN_CTL_CASTLE : FRef := ⟨0x4700000C, 0, 1⟩
/-- DRN_CTL.UPDATE, RW, bit 1. -/
def DRN_CTL_UPDATE : FRef := ⟨0x4700000C, 1, 1⟩
/-- DRN_CTL.RESYNC, SC, bit 2. -/
def DRN_CTL_RESYNC : FRef := ⟨0x4700000C, 2, 1⟩
/-- DRN_STAT.ALIGN, RO, bit 0. -/
def DRN_STAT_ALIGN : FRef := ⟨0x47000010, 0, 1⟩
/-- DRN_STAT.MATCH, RO, bit 1. -/
def DRN_STAT_MATCH : FRef := ⟨0x47000010, 1, 1⟩
/-- DRN_STAT.LOCKSTEP, RO, bit 2. -/
def DRN_STAT_LOCKSTEP : FRef := ⟨0x47000010, 2, 1⟩
/-- DRN_STAT.SHARED, RO, bit 3. -/
def DRN_STAT_SHARED : FRef := ⟨0x47000010, 3, 1⟩
/-- DRN_STAT.COHERENT, RO, bit 4. -/
def DRN_STAT_COHERENT : FRef := ⟨0x47000010, 4, 1⟩
/-- DRN_STAT.ABLE, RO, bit 5. -/
def DRN_STAT_ABLE : FRef := ⟨0x47000010, 5, 1⟩
/-- DRN_STAT.HEALTHY, RO, bit 6. -/
def DRN_STAT_HEALTHY : FRef := ⟨0x47000010, 6, 1⟩
/-- DRN_STAT.PABLE, RO, bit 7. -/
def DRN_STAT_PABLE : FRef := ⟨0x47000010, 7, 1⟩
/-- DRN_STAT.CH, RO, 3 bits from 8. -/
def DRN_STAT_CH : FRef := ⟨0x47000010, 8, 3⟩
/-- DRN_STAT.KSTATE, RO, 3 bits from 11. -/
def DRN_STAT_KSTATE : FRef := ⟨0x47000010, 11, 3⟩
/-- DRN_STAT.HOMEACT, RO, bit 14. -/
def DRN_STAT_HOMEACT : FRef := ⟨0x47000010, 14, 1⟩
/-- DRN_STAT.REVWAIT, RO, bit 15. -/
def DRN_STAT_REVWAIT : FRef := ⟨0x47000010, 15, 1⟩
/-- DRN_STAT.CASTERR, W1C, bit 16. -/
def DRN_STAT_CASTERR : FRef := ⟨0x47000010, 16, 1⟩
/-- DRN_STAT.CFGERR, W1C, bit 17. -/
def DRN_STAT_CFGERR : FRef := ⟨0x47000010, 17, 1⟩
/-- DRN_KING.KSEQ, RO, 8 bits from 0. -/
def DRN_KING_KSEQ : FRef := ⟨0x47000014, 0, 8⟩
/-- DRN_KING.CAUSE, RO, 4 bits from 8. -/
def DRN_KING_CAUSE : FRef := ⟨0x47000014, 8, 4⟩
/-- DRN_KBSN.BSN, RO, 32 bits from 0. -/
def DRN_KBSN_BSN : FRef := ⟨0x47000018, 0, 32⟩
/-- DRN_DELAY.DELAY, RO, 16 bits from 0. -/
def DRN_DELAY_DELAY : FRef := ⟨0x4700001C, 0, 16⟩
/-- DRN_OFFSET.OFFSET, RO, 32 bits from 0. -/
def DRN_OFFSET_OFFSET : FRef := ⟨0x47000020, 0, 32⟩
/-- DRN_PDEV.ID, RO, 32 bits from 0. -/
def DRN_PDEV_ID (i : Nat) : FRef := ⟨0x47000024 + i * 0x4, 0, 32⟩
/-- DRN_CNT.CASTLE_COUNT, RW, 16 bits from 0. -/
def DRN_CNT_CASTLE_COUNT : FRef := ⟨0x4700002C, 0, 16⟩
/-- DRN_CNT.TAKE_COUNT, RW, 16 bits from 16. -/
def DRN_CNT_TAKE_COUNT : FRef := ⟨0x4700002C, 16, 16⟩
/-- DRN_CNT2.SPLIT_COUNT, RW, 16 bits from 0. -/
def DRN_CNT2_SPLIT_COUNT : FRef := ⟨0x47000030, 0, 16⟩
/-- DRN_CNT2.ALOSS_COUNT, RW, 16 bits from 16. -/
def DRN_CNT2_ALOSS_COUNT : FRef := ⟨0x47000030, 16, 16⟩
/-- DRN_CNT3.CRC_COUNT, RW, 16 bits from 0. -/
def DRN_CNT3_CRC_COUNT : FRef := ⟨0x47000034, 0, 16⟩
/-- DRN_CNT3.DIVERGE_COUNT, RW, 16 bits from 16. -/
def DRN_CNT3_DIVERGE_COUNT : FRef := ⟨0x47000034, 16, 16⟩
/-- DRN_CNT4.CANCEL_COUNT, RW, 16 bits from 0. -/
def DRN_CNT4_CANCEL_COUNT : FRef := ⟨0x47000038, 0, 16⟩
/-- DRN_CNT4.LATE_COUNT, RW, 16 bits from 16. -/
def DRN_CNT4_LATE_COUNT : FRef := ⟨0x47000038, 16, 16⟩
/-- DRN_EVT.CASTLE_SAT, W1C, bit 0. -/
def DRN_EVT_CASTLE_SAT : FRef := ⟨0x4700003C, 0, 1⟩
/-- DRN_EVT.TAKE_SAT, W1C, bit 1. -/
def DRN_EVT_TAKE_SAT : FRef := ⟨0x4700003C, 1, 1⟩
/-- DRN_EVT.SPLIT_SAT, W1C, bit 2. -/
def DRN_EVT_SPLIT_SAT : FRef := ⟨0x4700003C, 2, 1⟩
/-- DRN_EVT.ALOSS_SAT, W1C, bit 3. -/
def DRN_EVT_ALOSS_SAT : FRef := ⟨0x4700003C, 3, 1⟩
/-- DRN_EVT.CRC_SAT, W1C, bit 4. -/
def DRN_EVT_CRC_SAT : FRef := ⟨0x4700003C, 4, 1⟩
/-- DRN_EVT.DIVERGE_SAT, W1C, bit 5. -/
def DRN_EVT_DIVERGE_SAT : FRef := ⟨0x4700003C, 5, 1⟩
/-- DRN_EVT.CANCEL_SAT, W1C, bit 6. -/
def DRN_EVT_CANCEL_SAT : FRef := ⟨0x4700003C, 6, 1⟩
/-- DRN_EVT.LATE_SAT, W1C, bit 7. -/
def DRN_EVT_LATE_SAT : FRef := ⟨0x4700003C, 7, 1⟩

/-! ### spec/11* (R366) -/

/-- TB_CTL.PREF, RW, bit 0. -/
def TB_CTL_PREF : FRef := ⟨0x45000000, 0, 1⟩
/-- TB_CTL.REVERT, RW, bit 1. -/
def TB_CTL_REVERT : FRef := ⟨0x45000000, 1, 1⟩
/-- TB_CTL.PAIRFOL, RW, bit 2. -/
def TB_CTL_PAIRFOL : FRef := ⟨0x45000000, 2, 1⟩
/-- TB_CTL.FREESTART, RW, bit 3. -/
def TB_CTL_FREESTART : FRef := ⟨0x45000000, 3, 1⟩
/-- TB_CTL.GMPPS, RW, bit 4. -/
def TB_CTL_GMPPS : FRef := ⟨0x45000000, 4, 1⟩
/-- TB_CTL.PPSSRC, RW, 3 bits from 8. -/
def TB_CTL_PPSSRC : FRef := ⟨0x45000000, 8, 3⟩
/-- TB_CTL.SLEW, RW, 4 bits from 12. -/
def TB_CTL_SLEW : FRef := ⟨0x45000000, 12, 4⟩
/-- TB_CTL.WTR, RW, 8 bits from 16. -/
def TB_CTL_WTR : FRef := ⟨0x45000000, 16, 8⟩
/-- TB_CTL.ACQTO, RW, 8 bits from 24. -/
def TB_CTL_ACQTO : FRef := ⟨0x45000000, 24, 8⟩
/-- TB_STAT.STATE, RO, 3 bits from 0. -/
def TB_STAT_STATE : FRef := ⟨0x45000004, 0, 3⟩
/-- TB_STAT.SEL, RO, bit 3. -/
def TB_STAT_SEL : FRef := ⟨0x45000004, 3, 1⟩
/-- TB_STAT.FAR, RO, bit 4. -/
def TB_STAT_FAR : FRef := ⟨0x45000004, 4, 1⟩
/-- TB_STAT.DISAGREE, RO, bit 5. -/
def TB_STAT_DISAGREE : FRef := ⟨0x45000004, 5, 1⟩
/-- TB_STAT.STEP_SAT, W1C, bit 6. -/
def TB_STAT_STEP_SAT : FRef := ⟨0x45000004, 6, 1⟩
/-- TB_STAT.SWITCH_SAT, W1C, bit 7. -/
def TB_STAT_SWITCH_SAT : FRef := ⟨0x45000004, 7, 1⟩
/-- TB_STAT.CFGERR, W1C, bit 8. -/
def TB_STAT_CFGERR : FRef := ⟨0x45000004, 8, 1⟩
/-- TB_NS_LO.NS, RO, 32 bits from 0. -/
def TB_NS_LO_NS : FRef := ⟨0x45000008, 0, 32⟩
/-- TB_NS_HI.NS, RO, 32 bits from 0. -/
def TB_NS_HI_NS : FRef := ⟨0x4500000C, 0, 32⟩
/-- TB_FRAC.FRAC, RO, 32 bits from 0. -/
def TB_FRAC_FRAC : FRef := ⟨0x45000010, 0, 32⟩
/-- TB_RATE.Y, RO, 24 bits from 0. -/
def TB_RATE_Y : FRef := ⟨0x45000014, 0, 24⟩
/-- TB_SET_LO.NS, RW, 32 bits from 0. -/
def TB_SET_LO_NS : FRef := ⟨0x45000018, 0, 32⟩
/-- TB_SET_HI.NS, RW, 32 bits from 0. -/
def TB_SET_HI_NS : FRef := ⟨0x4500001C, 0, 32⟩
/-- TB_SET_CTL.GO, SC, bit 0. -/
def TB_SET_CTL_GO : FRef := ⟨0x45000020, 0, 1⟩
/-- TB_CNT.STEP_COUNT, RW, 16 bits from 0. -/
def TB_CNT_STEP_COUNT : FRef := ⟨0x45000024, 0, 16⟩
/-- TB_CNT.SWITCH_COUNT, RW, 16 bits from 16. -/
def TB_CNT_SWITCH_COUNT : FRef := ⟨0x45000024, 16, 16⟩
/-- TB_STEPTH.STEPTH, RW, 24 bits from 0. -/
def TB_STEPTH_STEPTH : FRef := ⟨0x45000028, 0, 24⟩
/-- TB_DCFG.EN, RW, bit 0. -/
def TB_DCFG_EN (d : Nat) : FRef := ⟨0x45000100 + d * 0x40, 0, 1⟩
/-- TB_DCFG.PROFILE, RW, 3 bits from 1. -/
def TB_DCFG_PROFILE (d : Nat) : FRef := ⟨0x45000100 + d * 0x40, 1, 3⟩
/-- TB_DCFG.DOMAIN, RW, 8 bits from 8. -/
def TB_DCFG_DOMAIN (d : Nat) : FRef := ⟨0x45000100 + d * 0x40, 8, 8⟩
/-- TB_DCFG.BW, RW, 3 bits from 16. -/
def TB_DCFG_BW (d : Nat) : FRef := ⟨0x45000100 + d * 0x40, 16, 3⟩
/-- TB_DCFG.LOCKTH, RW, 8 bits from 24. -/
def TB_DCFG_LOCKTH (d : Nat) : FRef := ⟨0x45000100 + d * 0x40, 24, 8⟩
/-- TB_DSTAT.STATE, RO, 3 bits from 0. -/
def TB_DSTAT_STATE (d : Nat) : FRef := ⟨0x45000104 + d * 0x40, 0, 3⟩
/-- TB_DOFF.OFFSET, RO, 32 bits from 0. -/
def TB_DOFF_OFFSET (d : Nat) : FRef := ⟨0x45000108 + d * 0x40, 0, 32⟩
/-- TB_DFREQ.FREQ, RO, 24 bits from 0. -/
def TB_DFREQ_FREQ (d : Nat) : FRef := ⟨0x4500010C + d * 0x40, 0, 24⟩
/-- TB_DMPD.MPD, RO, 24 bits from 0. -/
def TB_DMPD_MPD (d : Nat) : FRef := ⟨0x45000110 + d * 0x40, 0, 24⟩
/-- TB_DGM.GM, RO, 32 bits from 0. -/
def TB_DGM_GM (d i : Nat) : FRef := ⟨0x45000114 + d * 0x40 + i * 0x4, 0, 32⟩
/-- PTP_PCFG.EN, RW, bit 0. -/
def PTP_PCFG_EN (p : Nat) : FRef := ⟨0x45001000 + p * 0x40, 0, 1⟩
/-- PTP_PCFG.MAC, RW, 4 bits from 1. -/
def PTP_PCFG_MAC (p : Nat) : FRef := ⟨0x45001000 + p * 0x40, 1, 4⟩
/-- PTP_PCFG.DOM, RW, 2 bits from 5. -/
def PTP_PCFG_DOM (p : Nat) : FRef := ⟨0x45001000 + p * 0x40, 5, 2⟩
/-- PTP_PCFG.SHARED, RW, bit 7. -/
def PTP_PCFG_SHARED (p : Nat) : FRef := ⟨0x45001000 + p * 0x40, 7, 1⟩
/-- PTP_PCFG.ONESTEP, RW, bit 8. -/
def PTP_PCFG_ONESTEP (p : Nat) : FRef := ⟨0x45001000 + p * 0x40, 8, 1⟩
/-- PTP_PCFG.TRANS, RW, 2 bits from 9. -/
def PTP_PCFG_TRANS (p : Nat) : FRef := ⟨0x45001000 + p * 0x40, 9, 2⟩
/-- PTP_PCFG.MONLY, RW, bit 11. -/
def PTP_PCFG_MONLY (p : Nat) : FRef := ⟨0x45001000 + p * 0x40, 11, 1⟩
/-- PTP_PCFG.SONLY, RW, bit 12. -/
def PTP_PCFG_SONLY (p : Nat) : FRef := ⟨0x45001000 + p * 0x40, 12, 1⟩
/-- PTP_PCFG.LOGSYNC, RW, 4 bits from 16. -/
def PTP_PCFG_LOGSYNC (p : Nat) : FRef := ⟨0x45001000 + p * 0x40, 16, 4⟩
/-- PTP_PCFG.LOGANN, RW, 4 bits from 20. -/
def PTP_PCFG_LOGANN (p : Nat) : FRef := ⟨0x45001000 + p * 0x40, 20, 4⟩
/-- PTP_PCFG.LOGDREQ, RW, 4 bits from 24. -/
def PTP_PCFG_LOGDREQ (p : Nat) : FRef := ⟨0x45001000 + p * 0x40, 24, 4⟩
/-- PTP_PSTAT.STATE0, RO, 4 bits from 0. -/
def PTP_PSTAT_STATE0 (p : Nat) : FRef := ⟨0x45001004 + p * 0x40, 0, 4⟩
/-- PTP_PSTAT.STATE1, RO, 4 bits from 4. -/
def PTP_PSTAT_STATE1 (p : Nat) : FRef := ⟨0x45001004 + p * 0x40, 4, 4⟩
/-- PTP_PSTAT.TSERR_SAT, W1C, bit 8. -/
def PTP_PSTAT_TSERR_SAT (p : Nat) : FRef := ⟨0x45001004 + p * 0x40, 8, 1⟩
/-- PTP_PSTAT.BAD_SAT, W1C, bit 9. -/
def PTP_PSTAT_BAD_SAT (p : Nat) : FRef := ⟨0x45001004 + p * 0x40, 9, 1⟩
/-- PTP_PADJ.IN, RW, 16 bits from 0. -/
def PTP_PADJ_IN (p : Nat) : FRef := ⟨0x45001008 + p * 0x40, 0, 16⟩
/-- PTP_PADJ.EG, RW, 16 bits from 16. -/
def PTP_PADJ_EG (p : Nat) : FRef := ⟨0x45001008 + p * 0x40, 16, 16⟩
/-- PTP_PCNT.TSERR_COUNT, RW, 16 bits from 0. -/
def PTP_PCNT_TSERR_COUNT (p : Nat) : FRef := ⟨0x4500100C + p * 0x40, 0, 16⟩
/-- PTP_PCNT.BADMSG_COUNT, RW, 16 bits from 16. -/
def PTP_PCNT_BADMSG_COUNT (p : Nat) : FRef := ⟨0x4500100C + p * 0x40, 16, 16⟩
/-- CAP_CFG.EN, RW, bit 0. -/
def CAP_CFG_EN (u : Nat) : FRef := ⟨0x45002000 + u * 0x20, 0, 1⟩
/-- CAP_CFG.EDGE, RW, 2 bits from 1. -/
def CAP_CFG_EDGE (u : Nat) : FRef := ⟨0x45002000 + u * 0x20, 1, 2⟩
/-- CAP_CFG.SRC, RW, 7 bits from 8. -/
def CAP_CFG_SRC (u : Nat) : FRef := ⟨0x45002000 + u * 0x20, 8, 7⟩
/-- CAP_CFG.DIV, RW, 16 bits from 16. -/
def CAP_CFG_DIV (u : Nat) : FRef := ⟨0x45002000 + u * 0x20, 16, 16⟩
/-- CAP_STAT.LEVEL, RO, 3 bits from 0. -/
def CAP_STAT_LEVEL (u : Nat) : FRef := ⟨0x45002004 + u * 0x20, 0, 3⟩
/-- CAP_STAT.OVF_SAT, W1C, bit 3. -/
def CAP_STAT_OVF_SAT (u : Nat) : FRef := ⟨0x45002004 + u * 0x20, 3, 1⟩
/-- CAP_NS_LO.NS, RO, 32 bits from 0. -/
def CAP_NS_LO_NS (u : Nat) : FRef := ⟨0x45002008 + u * 0x20, 0, 32⟩
/-- CAP_NS_HI.NS, RO, 32 bits from 0. -/
def CAP_NS_HI_NS (u : Nat) : FRef := ⟨0x4500200C + u * 0x20, 0, 32⟩
/-- CAP_SUB.SUB, RO, 8 bits from 0. -/
def CAP_SUB_SUB (u : Nat) : FRef := ⟨0x45002010 + u * 0x20, 0, 8⟩
/-- CAP_POP.POP, SC, bit 0. -/
def CAP_POP_POP (u : Nat) : FRef := ⟨0x45002014 + u * 0x20, 0, 1⟩
/-- CAP_CNT.OVF_COUNT, RW, 16 bits from 0. -/
def CAP_CNT_OVF_COUNT (u : Nat) : FRef := ⟨0x45002018 + u * 0x20, 0, 16⟩
/-- CAP_CNT.EDGE_SEQUENCE, RW, 16 bits from 16. -/
def CAP_CNT_EDGE_SEQUENCE (u : Nat) : FRef := ⟨0x45002018 + u * 0x20, 16, 16⟩
/-- TRG_CFG.EN, RW, bit 0. -/
def TRG_CFG_EN (t : Nat) : FRef := ⟨0x45003000 + t * 0x20, 0, 1⟩
/-- TRG_CFG.PERIODIC, RW, bit 1. -/
def TRG_CFG_PERIODIC (t : Nat) : FRef := ⟨0x45003000 + t * 0x20, 1, 1⟩
/-- TRG_CFG.ACT, RW, 4 bits from 4. -/
def TRG_CFG_ACT (t : Nat) : FRef := ⟨0x45003000 + t * 0x20, 4, 4⟩
/-- TRG_CFG.OUT, RW, 3 bits from 8. -/
def TRG_CFG_OUT (t : Nat) : FRef := ⟨0x45003000 + t * 0x20, 8, 3⟩
/-- TRG_STAT.LATE, W1C, bit 0. -/
def TRG_STAT_LATE (t : Nat) : FRef := ⟨0x45003004 + t * 0x20, 0, 1⟩
/-- TRG_STAT.LATE_SAT, W1C, bit 1. -/
def TRG_STAT_LATE_SAT (t : Nat) : FRef := ⟨0x45003004 + t * 0x20, 1, 1⟩
/-- TRG_STAT.SKIP_SAT, W1C, bit 2. -/
def TRG_STAT_SKIP_SAT (t : Nat) : FRef := ⟨0x45003004 + t * 0x20, 2, 1⟩
/-- TRG_TGT_LO.NS, RWH, 32 bits from 0. -/
def TRG_TGT_LO_NS (t : Nat) : FRef := ⟨0x45003008 + t * 0x20, 0, 32⟩
/-- TRG_TGT_HI.NS, RWH, 32 bits from 0. -/
def TRG_TGT_HI_NS (t : Nat) : FRef := ⟨0x4500300C + t * 0x20, 0, 32⟩
/-- TRG_PER_NS.NS, RW, 32 bits from 0. -/
def TRG_PER_NS_NS (t : Nat) : FRef := ⟨0x45003010 + t * 0x20, 0, 32⟩
/-- TRG_PER_FRAC.FRAC, RW, 32 bits from 0. -/
def TRG_PER_FRAC_FRAC (t : Nat) : FRef := ⟨0x45003014 + t * 0x20, 0, 32⟩
/-- TRG_CNT.LATE_COUNT, RW, 16 bits from 0. -/
def TRG_CNT_LATE_COUNT (t : Nat) : FRef := ⟨0x45003018 + t * 0x20, 0, 16⟩
/-- TRG_CNT.SKIP_COUNT, RW, 16 bits from 16. -/
def TRG_CNT_SKIP_COUNT (t : Nat) : FRef := ⟨0x45003018 + t * 0x20, 16, 16⟩

/-! ### spec/11* (R367) -/

/-- DPLL_CTL.BW, RW, 3 bits from 0. -/
def DPLL_CTL_BW : FRef := ⟨0x45100000, 0, 3⟩
/-- DPLL_CTL.REVERT, RW, bit 4. -/
def DPLL_CTL_REVERT : FRef := ⟨0x45100000, 4, 1⟩
/-- DPLL_CTL.OPEN, RW, bit 5. -/
def DPLL_CTL_OPEN : FRef := ⟨0x45100000, 5, 1⟩
/-- DPLL_CTL.WTR, RW, 8 bits from 8. -/
def DPLL_CTL_WTR : FRef := ⟨0x45100000, 8, 8⟩
/-- DPLL_CTL.MAN, RW, 3 bits from 16. -/
def DPLL_CTL_MAN : FRef := ⟨0x45100000, 16, 3⟩
/-- DPLL_STAT.STATE, RO, 3 bits from 0. -/
def DPLL_STAT_STATE : FRef := ⟨0x45100004, 0, 3⟩
/-- DPLL_STAT.SEL, RO, 3 bits from 3. -/
def DPLL_STAT_SEL : FRef := ⟨0x45100004, 3, 3⟩
/-- DPLL_STAT.HIST, RO, bit 6. -/
def DPLL_STAT_HIST : FRef := ⟨0x45100004, 6, 1⟩
/-- DPLL_STAT.OPEN, RO, bit 7. -/
def DPLL_STAT_OPEN : FRef := ⟨0x45100004, 7, 1⟩
/-- DPLL_STAT.FCLAMP, W1C, bit 8. -/
def DPLL_STAT_FCLAMP : FRef := ⟨0x45100004, 8, 1⟩
/-- DPLL_STAT.SWITCH_SAT, W1C, bit 9. -/
def DPLL_STAT_SWITCH_SAT : FRef := ⟨0x45100004, 9, 1⟩
/-- DPLL_STAT.HOLD_SAT, W1C, bit 10. -/
def DPLL_STAT_HOLD_SAT : FRef := ⟨0x45100004, 10, 1⟩
/-- DPLL_STAT.CFGERR, W1C, bit 11. -/
def DPLL_STAT_CFGERR : FRef := ⟨0x45100004, 11, 1⟩
/-- DPLL_STAT.QUAL, RO, 8 bits from 16. -/
def DPLL_STAT_QUAL : FRef := ⟨0x45100004, 16, 8⟩
/-- DPLL_PRIO.PRI, RW, 4 bits from 4 * x. -/
def DPLL_PRIO_PRI (x : Nat) : FRef := ⟨0x45100008, 4 * x, 4⟩
/-- DPLL_FREQ.FREQ, RWH, 32 bits from 0. -/
def DPLL_FREQ_FREQ : FRef := ⟨0x4510000C, 0, 32⟩
/-- DPLL_PHASE.PHASE, RO, 32 bits from 0. -/
def DPLL_PHASE_PHASE : FRef := ⟨0x45100010, 0, 32⟩
/-- DPLL_LOCKT.LOCKT, RO, 16 bits from 0. -/
def DPLL_LOCKT_LOCKT : FRef := ⟨0x45100014, 0, 16⟩
/-- DPLL_CNT.SWITCH_COUNT, RW, 16 bits from 0. -/
def DPLL_CNT_SWITCH_COUNT : FRef := ⟨0x45100018, 0, 16⟩
/-- DPLL_CNT.HOLD_COUNT, RW, 16 bits from 16. -/
def DPLL_CNT_HOLD_COUNT : FRef := ⟨0x45100018, 16, 16⟩
/-- REF_CFG.FREQ, RW, 26 bits from 0. -/
def REF_CFG_FREQ (r : Nat) : FRef := ⟨0x45100100 + r * 0x10, 0, 26⟩
/-- REF_QUAL.QUALPPM, RW, 16 bits from 0. -/
def REF_QUAL_QUALPPM (r : Nat) : FRef := ⟨0x45100104 + r * 0x10, 0, 16⟩
/-- REF_QUAL.QUALT, RW, 8 bits from 16. -/
def REF_QUAL_QUALT (r : Nat) : FRef := ⟨0x45100104 + r * 0x10, 16, 8⟩
/-- REF_STAT.QUAL, RO, bit 0. -/
def REF_STAT_QUAL (r : Nat) : FRef := ⟨0x45100108 + r * 0x10, 0, 1⟩
/-- REF_STAT.MISS, RO, bit 1. -/
def REF_STAT_MISS (r : Nat) : FRef := ⟨0x45100108 + r * 0x10, 1, 1⟩
/-- REF_STAT.SLOWREF, RO, bit 2. -/
def REF_STAT_SLOWREF (r : Nat) : FRef := ⟨0x45100108 + r * 0x10, 2, 1⟩
/-- REF_STAT.DISQ_SAT, W1C, bit 3. -/
def REF_STAT_DISQ_SAT (r : Nat) : FRef := ⟨0x45100108 + r * 0x10, 3, 1⟩
/-- REF_STAT.FERR, RO, 24 bits from 8. -/
def REF_STAT_FERR (r : Nat) : FRef := ⟨0x45100108 + r * 0x10, 8, 24⟩
/-- REF_CNT.DISQ_COUNT, RW, 16 bits from 0. -/
def REF_CNT_DISQ_COUNT (r : Nat) : FRef := ⟨0x4510010C + r * 0x10, 0, 16⟩
/-- CKO_CFG.MODE, RW, 2 bits from 0. -/
def CKO_CFG_MODE (o : Nat) : FRef := ⟨0x45100200 + o * 0x20, 0, 2⟩
/-- CKO_CFG.SYN, RW, bit 2. -/
def CKO_CFG_SYN (o : Nat) : FRef := ⟨0x45100200 + o * 0x20, 2, 1⟩
/-- CKO_CFG.INV, RW, bit 3. -/
def CKO_CFG_INV (o : Nat) : FRef := ⟨0x45100200 + o * 0x20, 3, 1⟩
/-- CKO_CFG.WIDTH, RW, 16 bits from 8. -/
def CKO_CFG_WIDTH (o : Nat) : FRef := ⟨0x45100200 + o * 0x20, 8, 16⟩
/-- CKO_DIV.DIV, RW, 24 bits from 0. -/
def CKO_DIV_DIV (o : Nat) : FRef := ⟨0x45100204 + o * 0x20, 0, 24⟩
/-- CKO_ALIGN.MODE, RW, 2 bits from 0. -/
def CKO_ALIGN_MODE (o : Nat) : FRef := ⟨0x45100208 + o * 0x20, 0, 2⟩
/-- CKO_ALIGN.SRC, RW, 7 bits from 8. -/
def CKO_ALIGN_SRC (o : Nat) : FRef := ⟨0x45100208 + o * 0x20, 8, 7⟩
/-- CKO_ALIGN.GO, SC, bit 15. -/
def CKO_ALIGN_GO (o : Nat) : FRef := ⟨0x45100208 + o * 0x20, 15, 1⟩
/-- CKO_OFFSET.OFFSET, RW, 32 bits from 0. -/
def CKO_OFFSET_OFFSET (o : Nat) : FRef := ⟨0x4510020C + o * 0x20, 0, 32⟩
/-- CKO_STAT.RUN, RO, bit 0. -/
def CKO_STAT_RUN (o : Nat) : FRef := ⟨0x45100210 + o * 0x20, 0, 1⟩
/-- CKO_STAT.ALIGNED, RO, bit 1. -/
def CKO_STAT_ALIGNED (o : Nat) : FRef := ⟨0x45100210 + o * 0x20, 1, 1⟩
/-- CKO_STAT.AERR, RO, 16 bits from 16. -/
def CKO_STAT_AERR (o : Nat) : FRef := ⟨0x45100210 + o * 0x20, 16, 16⟩

/-! ### spec/12* (R396) -/

/-- LN_CFG.MODE, RW, 4 bits from 0. -/
def LN_CFG_MODE (n : Nat) : FRef := ⟨0x44000000 + n * 0x1000, 0, 4⟩
/-- LN_CFG.MAC, RW, 4 bits from 4. -/
def LN_CFG_MAC (n : Nat) : FRef := ⟨0x44000000 + n * 0x1000, 4, 4⟩
/-- LN_CFG.AN, RW, bit 8. -/
def LN_CFG_AN (n : Nat) : FRef := ⟨0x44000000 + n * 0x1000, 8, 1⟩
/-- LN_CFG.TXINV, RW, bit 9. -/
def LN_CFG_TXINV (n : Nat) : FRef := ⟨0x44000000 + n * 0x1000, 9, 1⟩
/-- LN_CFG.RXINV, RW, bit 10. -/
def LN_CFG_RXINV (n : Nat) : FRef := ⟨0x44000000 + n * 0x1000, 10, 1⟩
/-- LN_CFG.AUTOSUB, RW, bit 11. -/
def LN_CFG_AUTOSUB (n : Nat) : FRef := ⟨0x44000000 + n * 0x1000, 11, 1⟩
/-- LN_CTL.RESTART, SC, bit 0. -/
def LN_CTL_RESTART (n : Nat) : FRef := ⟨0x44000004 + n * 0x1000, 0, 1⟩
/-- LN_CTL.FAIL, SC, bit 1. -/
def LN_CTL_FAIL (n : Nat) : FRef := ⟨0x44000004 + n * 0x1000, 1, 1⟩
/-- LN_CTL.CLEAR, SC, bit 2. -/
def LN_CTL_CLEAR (n : Nat) : FRef := ⟨0x44000004 + n * 0x1000, 2, 1⟩
/-- LN_CTL.PRESET, SC, bit 3. -/
def LN_CTL_PRESET (n : Nat) : FRef := ⟨0x44000004 + n * 0x1000, 3, 1⟩
/-- LN_STAT.STATE, RO, 4 bits from 0. -/
def LN_STAT_STATE (n : Nat) : FRef := ⟨0x44000008 + n * 0x1000, 0, 4⟩
/-- LN_STAT.SIG, RO, bit 4. -/
def LN_STAT_SIG (n : Nat) : FRef := ⟨0x44000008 + n * 0x1000, 4, 1⟩
/-- LN_STAT.BLOCK, RO, bit 5. -/
def LN_STAT_BLOCK (n : Nat) : FRef := ⟨0x44000008 + n * 0x1000, 5, 1⟩
/-- LN_STAT.HIBER, RO, bit 6. -/
def LN_STAT_HIBER (n : Nat) : FRef := ⟨0x44000008 + n * 0x1000, 6, 1⟩
/-- LN_STAT.LLANE, RO, 2 bits from 7. -/
def LN_STAT_LLANE (n : Nat) : FRef := ⟨0x44000008 + n * 0x1000, 7, 2⟩
/-- LN_STAT.ROLEOF, RO, 4 bits from 9. -/
def LN_STAT_ROLEOF (n : Nat) : FRef := ⟨0x44000008 + n * 0x1000, 9, 4⟩
/-- LN_STAT.CFGERR, W1C, bit 13. -/
def LN_STAT_CFGERR (n : Nat) : FRef := ⟨0x44000008 + n * 0x1000, 13, 1⟩
/-- LN_STAT.LOCKLOSS_SAT, W1C, bit 14. -/
def LN_STAT_LOCKLOSS_SAT (n : Nat) : FRef := ⟨0x44000008 + n * 0x1000, 14, 1⟩
/-- LN_STAT.HBER_SAT, W1C, bit 15. -/
def LN_STAT_HBER_SAT (n : Nat) : FRef := ⟨0x44000008 + n * 0x1000, 15, 1⟩
/-- LN_STAT.TRAINFAIL_SAT, W1C, bit 16. -/
def LN_STAT_TRAINFAIL_SAT (n : Nat) : FRef := ⟨0x44000008 + n * 0x1000, 16, 1⟩
/-- LN_STAT.SUB_SAT, W1C, bit 17. -/
def LN_STAT_SUB_SAT (n : Nat) : FRef := ⟨0x44000008 + n * 0x1000, 17, 1⟩
/-- LN_STAT.ESCERR, W1C, bit 18. -/
def LN_STAT_ESCERR (n : Nat) : FRef := ⟨0x44000008 + n * 0x1000, 18, 1⟩
/-- LN_TXEQ.PRE, RWH, 4 bits from 0. -/
def LN_TXEQ_PRE (n : Nat) : FRef := ⟨0x4400000C + n * 0x1000, 0, 4⟩
/-- LN_TXEQ.POST, RWH, 5 bits from 8. -/
def LN_TXEQ_POST (n : Nat) : FRef := ⟨0x4400000C + n * 0x1000, 8, 5⟩
/-- LN_TXEQ.MAIN, RO, 6 bits from 16. -/
def LN_TXEQ_MAIN (n : Nat) : FRef := ⟨0x4400000C + n * 0x1000, 16, 6⟩
/-- LN_TXEQ.FIXED, RW, bit 31. -/
def LN_TXEQ_FIXED (n : Nat) : FRef := ⟨0x4400000C + n * 0x1000, 31, 1⟩
/-- LN_RXEQ.CTLE, RWH, 4 bits from 0. -/
def LN_RXEQ_CTLE (n : Nat) : FRef := ⟨0x44000010 + n * 0x1000, 0, 4⟩
/-- LN_RXEQ.FREEZE, RW, bit 4. -/
def LN_RXEQ_FREEZE (n : Nat) : FRef := ⟨0x44000010 + n * 0x1000, 4, 1⟩
/-- LN_DFE.TAP, RWH, 6 bits from 6 * x. -/
def LN_DFE_TAP (n x : Nat) : FRef := ⟨0x44000014 + n * 0x1000, 6 * x, 6⟩
/-- LN_ESCAN.PHASE, RW, 6 bits from 0. -/
def LN_ESCAN_PHASE (n : Nat) : FRef := ⟨0x44000018 + n * 0x1000, 0, 6⟩
/-- LN_ESCAN.VOFF, RW, 7 bits from 8. -/
def LN_ESCAN_VOFF (n : Nat) : FRef := ⟨0x44000018 + n * 0x1000, 8, 7⟩
/-- LN_ESCAN.DWELL, RW, 4 bits from 16. -/
def LN_ESCAN_DWELL (n : Nat) : FRef := ⟨0x44000018 + n * 0x1000, 16, 4⟩
/-- LN_ESCAN.DONE, RO, bit 30. -/
def LN_ESCAN_DONE (n : Nat) : FRef := ⟨0x44000018 + n * 0x1000, 30, 1⟩
/-- LN_ESCAN.GO, SC, bit 31. -/
def LN_ESCAN_GO (n : Nat) : FRef := ⟨0x44000018 + n * 0x1000, 31, 1⟩
/-- LN_ESCERR.ERRS, RO, 32 bits from 0. -/
def LN_ESCERR_ERRS (n : Nat) : FRef := ⟨0x4400001C + n * 0x1000, 0, 32⟩
/-- LN_CNT.LOCKLOSS_COUNT, RW, 16 bits from 0. -/
def LN_CNT_LOCKLOSS_COUNT (n : Nat) : FRef := ⟨0x44000020 + n * 0x1000, 0, 16⟩
/-- LN_CNT.HBER_COUNT, RW, 16 bits from 16. -/
def LN_CNT_HBER_COUNT (n : Nat) : FRef := ⟨0x44000020 + n * 0x1000, 16, 16⟩
/-- LN_CNT2.TRAINFAIL_COUNT, RW, 16 bits from 0. -/
def LN_CNT2_TRAINFAIL_COUNT (n : Nat) : FRef := ⟨0x44000024 + n * 0x1000, 0, 16⟩
/-- LN_CNT2.SUB_COUNT, RW, 16 bits from 16. -/
def LN_CNT2_SUB_COUNT (n : Nat) : FRef := ⟨0x44000024 + n * 0x1000, 16, 16⟩
/-- LN_SPCFG.FOR, RW, 16 bits from 0. -/
def LN_SPCFG_FOR (n : Nat) : FRef := ⟨0x44000028 + n * 0x1000, 0, 16⟩
/-- LN_TEST.PAT, RW, 2 bits from 0. -/
def LN_TEST_PAT (n : Nat) : FRef := ⟨0x4400002C + n * 0x1000, 0, 2⟩
/-- LN_TEST.LOOP, RW, bit 2. -/
def LN_TEST_LOOP (n : Nat) : FRef := ⟨0x4400002C + n * 0x1000, 2, 1⟩
/-- LN_TEST.RATE, RW, 11 bits from 8. -/
def LN_TEST_RATE (n : Nat) : FRef := ⟨0x4400002C + n * 0x1000, 8, 11⟩
/-- LN_TESTERR.ERRS, RW, 32 bits from 0. -/
def LN_TESTERR_ERRS (n : Nat) : FRef := ⟨0x44000030 + n * 0x1000, 0, 32⟩
/-- LN_DRMAP.LL0, RO, 4 bits from 0. -/
def LN_DRMAP_LL0 : FRef := ⟨0x44010000, 0, 4⟩
/-- LN_DRMAP.LL1, RO, 4 bits from 4. -/
def LN_DRMAP_LL1 : FRef := ⟨0x44010000, 4, 4⟩
/-- LN_DRMAP.LL2, RO, 4 bits from 8. -/
def LN_DRMAP_LL2 : FRef := ⟨0x44010000, 8, 4⟩
/-- LN_DRMAP.LL3, RO, 4 bits from 12. -/
def LN_DRMAP_LL3 : FRef := ⟨0x44010000, 12, 4⟩
/-- LN_FAILED.FAILED, RO, 16 bits from 0. -/
def LN_FAILED_FAILED : FRef := ⟨0x44010004, 0, 16⟩

/-! ### spec/13* (R427) -/

/-- ETH_CFG.EN, RW, bit 0. -/
def ETH_CFG_EN (m : Nat) : FRef := ⟨ethBase m + 0x0, 0, 1⟩
/-- ETH_CFG.MAXLEN, RW, 14 bits from 4. -/
def ETH_CFG_MAXLEN (m : Nat) : FRef := ⟨ethBase m + 0x0, 4, 14⟩
/-- ETH_ADDR_LO.ADDR, RW, 32 bits from 0. -/
def ETH_ADDR_LO_ADDR (m : Nat) : FRef := ⟨ethBase m + 0x4, 0, 32⟩
/-- ETH_ADDR_HI.ADDR, RW, 16 bits from 0. -/
def ETH_ADDR_HI_ADDR (m : Nat) : FRef := ⟨ethBase m + 0x8, 0, 16⟩
/-- ETH_ADDR_HI.PVID, RW, 12 bits from 16. -/
def ETH_ADDR_HI_PVID (m : Nat) : FRef := ⟨ethBase m + 0x8, 16, 12⟩
/-- ETH_PCPMAP.MAP, RW, 24 bits from 0. -/
def ETH_PCPMAP_MAP (m : Nat) : FRef := ⟨ethBase m + 0xC, 0, 24⟩
/-- ETH_VLAN.VID, RW, 12 bits from 0. -/
def ETH_VLAN_VID (m i : Nat) : FRef := ⟨ethBase m + 0x10 + i * 0x4, 0, 12⟩
/-- ETH_VLAN.EN, RW, bit 12. -/
def ETH_VLAN_EN (m i : Nat) : FRef := ⟨ethBase m + 0x10 + i * 0x4, 12, 1⟩
/-- ETH_FC.RXPAUSE, RW, bit 0. -/
def ETH_FC_RXPAUSE (m : Nat) : FRef := ⟨ethBase m + 0x30, 0, 1⟩
/-- ETH_FC.PFCEN, RW, 8 bits from 8. -/
def ETH_FC_PFCEN (m : Nat) : FRef := ⟨ethBase m + 0x30, 8, 8⟩
/-- ETH_FC.PAUSED, RO, 8 bits from 16. -/
def ETH_FC_PAUSED (m : Nat) : FRef := ⟨ethBase m + 0x30, 16, 8⟩
/-- ETH_TCCFG.LT, RW, bit 0. -/
def ETH_TCCFG_LT (m i : Nat) : FRef := ⟨ethBase m + 0x40 + i * 0x4, 0, 1⟩
/-- ETH_TCCFG.CBS, RW, bit 1. -/
def ETH_TCCFG_CBS (m i : Nat) : FRef := ⟨ethBase m + 0x40 + i * 0x4, 1, 1⟩
/-- ETH_TCCFG.IDLESLOPE, RW, 24 bits from 8. -/
def ETH_TCCFG_IDLESLOPE (m i : Nat) : FRef := ⟨ethBase m + 0x40 + i * 0x4, 8, 24⟩
/-- ETH_TSN.LTOL, RW, 14 bits from 0. -/
def ETH_TSN_LTOL (m : Nat) : FRef := ⟨ethBase m + 0x80, 0, 14⟩
/-- ETH_EEE.EN, RW, bit 0. -/
def ETH_EEE_EN (m : Nat) : FRef := ⟨ethBase m + 0x84, 0, 1⟩
/-- ETH_EEE.TWTX, RW, 16 bits from 16. -/
def ETH_EEE_TWTX (m : Nat) : FRef := ⟨ethBase m + 0x84, 16, 16⟩
/-- ETH_STAT.LINK, RO, bit 0. -/
def ETH_STAT_LINK (m : Nat) : FRef := ⟨ethBase m + 0x88, 0, 1⟩
/-- ETH_STAT.LPITX, RO, bit 1. -/
def ETH_STAT_LPITX (m : Nat) : FRef := ⟨ethBase m + 0x88, 1, 1⟩
/-- ETH_STAT.LPIRX, RO, bit 2. -/
def ETH_STAT_LPIRX (m : Nat) : FRef := ⟨ethBase m + 0x88, 2, 1⟩
/-- ETH_STAT.CFGERR, W1C, bit 8. -/
def ETH_STAT_CFGERR (m : Nat) : FRef := ⟨ethBase m + 0x88, 8, 1⟩
/-- ETH_STAT.FCS_SAT, W1C, bit 9. -/
def ETH_STAT_FCS_SAT (m : Nat) : FRef := ⟨ethBase m + 0x88, 9, 1⟩
/-- ETH_STAT.RXOVF_SAT, W1C, bit 10. -/
def ETH_STAT_RXOVF_SAT (m : Nat) : FRef := ⟨ethBase m + 0x88, 10, 1⟩
/-- ETH_STAT.LAUNCHDROP_SAT, W1C, bit 11. -/
def ETH_STAT_LAUNCHDROP_SAT (m : Nat) : FRef := ⟨ethBase m + 0x88, 11, 1⟩
/-- ETH_STAT.FLUSH_SAT, W1C, bit 12. -/
def ETH_STAT_FLUSH_SAT (m : Nat) : FRef := ⟨ethBase m + 0x88, 12, 1⟩
/-- ETH_STAT.CTLDROP_SAT, W1C, bit 13. -/
def ETH_STAT_CTLDROP_SAT (m : Nat) : FRef := ⟨ethBase m + 0x88, 13, 1⟩
/-- ETH_STAT.PAUSE_SAT, W1C, bit 14. -/
def ETH_STAT_PAUSE_SAT (m : Nat) : FRef := ⟨ethBase m + 0x88, 14, 1⟩
/-- ETH_STAT.LEN_SAT, W1C, bit 15. -/
def ETH_STAT_LEN_SAT (m : Nat) : FRef := ⟨ethBase m + 0x88, 15, 1⟩
/-- ETH_STAT.BADFMT_SAT, W1C, bit 16. -/
def ETH_STAT_BADFMT_SAT (m : Nat) : FRef := ⟨ethBase m + 0x88, 16, 1⟩
/-- ETH_STAT.UNMATCHED_SAT, W1C, bit 17. -/
def ETH_STAT_UNMATCHED_SAT (m : Nat) : FRef := ⟨ethBase m + 0x88, 17, 1⟩
/-- ETH_RXSEQ.RXFRAME_SEQUENCE, RW, 32 bits from 0. -/
def ETH_RXSEQ_RXFRAME_SEQUENCE (m : Nat) : FRef := ⟨ethBase m + 0x90, 0, 32⟩
/-- ETH_TXSEQ.TXFRAME_SEQUENCE, RW, 32 bits from 0. -/
def ETH_TXSEQ_TXFRAME_SEQUENCE (m : Nat) : FRef := ⟨ethBase m + 0x94, 0, 32⟩
/-- ETH_CNT.FCS_COUNT, RW, 16 bits from 0. -/
def ETH_CNT_FCS_COUNT (m : Nat) : FRef := ⟨ethBase m + 0x98, 0, 16⟩
/-- ETH_CNT.RXOVF_COUNT, RW, 16 bits from 16. -/
def ETH_CNT_RXOVF_COUNT (m : Nat) : FRef := ⟨ethBase m + 0x98, 16, 16⟩
/-- ETH_CNT2.LAUNCHDROP_COUNT, RW, 16 bits from 0. -/
def ETH_CNT2_LAUNCHDROP_COUNT (m : Nat) : FRef := ⟨ethBase m + 0x9C, 0, 16⟩
/-- ETH_CNT2.FLUSH_COUNT, RW, 16 bits from 16. -/
def ETH_CNT2_FLUSH_COUNT (m : Nat) : FRef := ⟨ethBase m + 0x9C, 16, 16⟩
/-- ETH_CNT3.CTLDROP_COUNT, RW, 16 bits from 0. -/
def ETH_CNT3_CTLDROP_COUNT (m : Nat) : FRef := ⟨ethBase m + 0xA0, 0, 16⟩
/-- ETH_CNT3.PAUSE_COUNT, RW, 16 bits from 16. -/
def ETH_CNT3_PAUSE_COUNT (m : Nat) : FRef := ⟨ethBase m + 0xA0, 16, 16⟩
/-- ETH_CNT4.LEN_COUNT, RW, 16 bits from 0. -/
def ETH_CNT4_LEN_COUNT (m : Nat) : FRef := ⟨ethBase m + 0xA4, 0, 16⟩
/-- ETH_CNT4.BADFMT_COUNT, RW, 16 bits from 16. -/
def ETH_CNT4_BADFMT_COUNT (m : Nat) : FRef := ⟨ethBase m + 0xA4, 16, 16⟩
/-- ETH_CNT5.UNMATCHED_COUNT, RW, 16 bits from 0. -/
def ETH_CNT5_UNMATCHED_COUNT (m : Nat) : FRef := ⟨ethBase m + 0xA8, 0, 16⟩
/-- MG_CFG.SPEED, RW, 2 bits from 0. -/
def MG_CFG_SPEED : FRef := ⟨0x44500400, 0, 2⟩
/-- MG_CFG.TXDLY, RW, bit 2. -/
def MG_CFG_TXDLY : FRef := ⟨0x44500400, 2, 1⟩
/-- MG_CFG.RXDLY, RW, bit 3. -/
def MG_CFG_RXDLY : FRef := ⟨0x44500400, 3, 1⟩
/-- MG_STAT.SPEEDNOW, RO, 2 bits from 0. -/
def MG_STAT_SPEEDNOW : FRef := ⟨0x44500404, 0, 2⟩
/-- MG_STAT.LINK, RO, bit 2. -/
def MG_STAT_LINK : FRef := ⟨0x44500404, 2, 1⟩
/-- MG_STAT.FDERR, RO, bit 3. -/
def MG_STAT_FDERR : FRef := ⟨0x44500404, 3, 1⟩

/-! ### spec/13* (R428) -/

/-- MS_CFG.EN, RW, bit 0. -/
def MS_CFG_EN (m : Nat) : FRef := ⟨0x44300000 + m * 0x200, 0, 1⟩
/-- MS_CFG.VALIDATE, RW, 2 bits from 1. -/
def MS_CFG_VALIDATE (m : Nat) : FRef := ⟨0x44300000 + m * 0x200, 1, 2⟩
/-- MS_CFG.REPLAY, RW, bit 3. -/
def MS_CFG_REPLAY (m : Nat) : FRef := ⟨0x44300000 + m * 0x200, 3, 1⟩
/-- MS_CFG.INCSCI, RW, bit 4. -/
def MS_CFG_INCSCI (m : Nat) : FRef := ⟨0x44300000 + m * 0x200, 4, 1⟩
/-- MS_WIN.WINDOW, RW, 32 bits from 0. -/
def MS_WIN_WINDOW (m : Nat) : FRef := ⟨0x44300004 + m * 0x200, 0, 32⟩
/-- MS_RXEN.EN, RW, 16 bits from 0. -/
def MS_RXEN_EN (m : Nat) : FRef := ⟨0x44300008 + m * 0x200, 0, 16⟩
/-- MS_TXSTAT.AN, RO, 2 bits from 0. -/
def MS_TXSTAT_AN (m : Nat) : FRef := ⟨0x4430000C + m * 0x200, 0, 2⟩
/-- MS_TXSTAT.ACTIVE, RO, bit 2. -/
def MS_TXSTAT_ACTIVE (m : Nat) : FRef := ⟨0x4430000C + m * 0x200, 2, 1⟩
/-- MS_TXSTAT.REKEYDUE, W1C, bit 3. -/
def MS_TXSTAT_REKEYDUE (m : Nat) : FRef := ⟨0x4430000C + m * 0x200, 3, 1⟩
/-- MS_TXSTAT.STOPPED, RO, bit 4. -/
def MS_TXSTAT_STOPPED (m : Nat) : FRef := ⟨0x4430000C + m * 0x200, 4, 1⟩
/-- MS_TXSTAT.XPN, RO, bit 5. -/
def MS_TXSTAT_XPN (m : Nat) : FRef := ⟨0x4430000C + m * 0x200, 5, 1⟩
/-- MS_TXPN_LO.PN, RO, 32 bits from 0. -/
def MS_TXPN_LO_PN (m : Nat) : FRef := ⟨0x44300010 + m * 0x200, 0, 32⟩
/-- MS_TXPN_HI.PN, RO, 32 bits from 0. -/
def MS_TXPN_HI_PN (m : Nat) : FRef := ⟨0x44300014 + m * 0x200, 0, 32⟩
/-- MS_CNT.DROP_COUNT, RW, 16 bits from 0. -/
def MS_CNT_DROP_COUNT (m : Nat) : FRef := ⟨0x44300018 + m * 0x200, 0, 16⟩
/-- MS_CNT.BADICV_COUNT, RW, 16 bits from 16. -/
def MS_CNT_BADICV_COUNT (m : Nat) : FRef := ⟨0x44300018 + m * 0x200, 16, 16⟩
/-- MS_CNT2.REPLAY_COUNT, RW, 16 bits from 0. -/
def MS_CNT2_REPLAY_COUNT (m : Nat) : FRef := ⟨0x4430001C + m * 0x200, 0, 16⟩
/-- MS_CNT2.NOSA_COUNT, RW, 16 bits from 16. -/
def MS_CNT2_NOSA_COUNT (m : Nat) : FRef := ⟨0x4430001C + m * 0x200, 16, 16⟩
/-- MS_EVT.DROP_SAT, W1C, bit 0. -/
def MS_EVT_DROP_SAT (m : Nat) : FRef := ⟨0x44300020 + m * 0x200, 0, 1⟩
/-- MS_EVT.BADICV_SAT, W1C, bit 1. -/
def MS_EVT_BADICV_SAT (m : Nat) : FRef := ⟨0x44300020 + m * 0x200, 1, 1⟩
/-- MS_EVT.REPLAY_SAT, W1C, bit 2. -/
def MS_EVT_REPLAY_SAT (m : Nat) : FRef := ⟨0x44300020 + m * 0x200, 2, 1⟩
/-- MS_EVT.NOSA_SAT, W1C, bit 3. -/
def MS_EVT_NOSA_SAT (m : Nat) : FRef := ⟨0x44300020 + m * 0x200, 3, 1⟩
/-- MS_SCI_LO.SCI, RW, 32 bits from 0. -/
def MS_SCI_LO_SCI (m i : Nat) : FRef := ⟨0x44300040 + m * 0x200 + i * 0x8, 0, 32⟩
/-- MS_SCI_HI.SCI, RW, 32 bits from 0. -/
def MS_SCI_HI_SCI (m i : Nat) : FRef := ⟨0x44300044 + m * 0x200 + i * 0x8, 0, 32⟩

/-! ### spec/13* (R429) -/

/-- SIN_CFG.EN, RW, bit 0. -/
def SIN_CFG_EN (i : Nat) : FRef := ⟨0x44200000 + i * 0x40, 0, 1⟩
/-- SIN_CFG.FMT, RW, bit 1. -/
def SIN_CFG_FMT (i : Nat) : FRef := ⟨0x44200000 + i * 0x40, 1, 1⟩
/-- SIN_CFG.MERGE, RW, bit 2. -/
def SIN_CFG_MERGE (i : Nat) : FRef := ⟨0x44200000 + i * 0x40, 2, 1⟩
/-- SIN_CFG.TAINT, RW, bit 3. -/
def SIN_CFG_TAINT (i : Nat) : FRef := ⟨0x44200000 + i * 0x40, 3, 1⟩
/-- SIN_CFG.SHARED, RW, bit 4. -/
def SIN_CFG_SHARED (i : Nat) : FRef := ⟨0x44200000 + i * 0x40, 4, 1⟩
/-- SIN_CFG.SRCCHK, RW, bit 5. -/
def SIN_CFG_SRCCHK (i : Nat) : FRef := ⟨0x44200000 + i * 0x40, 5, 1⟩
/-- SIN_CFG.MACA, RW, 4 bits from 8. -/
def SIN_CFG_MACA (i : Nat) : FRef := ⟨0x44200000 + i * 0x40, 8, 4⟩
/-- SIN_CFG.MACB, RW, 4 bits from 12. -/
def SIN_CFG_MACB (i : Nat) : FRef := ⟨0x44200000 + i * 0x40, 12, 4⟩
/-- SIN_CFG.CH_FIRST, RW, 11 bits from 16. -/
def SIN_CFG_CH_FIRST (i : Nat) : FRef := ⟨0x44200000 + i * 0x40, 16, 11⟩
/-- SIN_FMT.NCH, RW, 7 bits from 0. -/
def SIN_FMT_NCH (i : Nat) : FRef := ⟨0x44200004 + i * 0x40, 0, 7⟩
/-- SIN_FMT.PTIME, RW, 3 bits from 8. -/
def SIN_FMT_PTIME (i : Nat) : FRef := ⟨0x44200004 + i * 0x40, 8, 3⟩
/-- SIN_FMT.DLY, RW, 6 bits from 16. -/
def SIN_FMT_DLY (i : Nat) : FRef := ⟨0x44200004 + i * 0x40, 16, 6⟩
/-- SIN_KEYA.KEY, RW, 32 bits from 0. -/
def SIN_KEYA_KEY (i j : Nat) : FRef := ⟨0x44200008 + i * 0x40 + j * 0x4, 0, 32⟩
/-- SIN_KEYB.KEY, RW, 32 bits from 0. -/
def SIN_KEYB_KEY (i j : Nat) : FRef := ⟨0x44200010 + i * 0x40 + j * 0x4, 0, 32⟩
/-- SIN_SRCA.ADDR, RW, 32 bits from 0. -/
def SIN_SRCA_ADDR (i : Nat) : FRef := ⟨0x44200018 + i * 0x40, 0, 32⟩
/-- SIN_SRCB.ADDR, RW, 32 bits from 0. -/
def SIN_SRCB_ADDR (i : Nat) : FRef := ⟨0x4420001C + i * 0x40, 0, 32⟩
/-- SIN_VLAN.VIDA, RW, 12 bits from 0. -/
def SIN_VLAN_VIDA (i : Nat) : FRef := ⟨0x44200020 + i * 0x40, 0, 12⟩
/-- SIN_VLAN.VIDB, RW, 12 bits from 16. -/
def SIN_VLAN_VIDB (i : Nat) : FRef := ⟨0x44200020 + i * 0x40, 16, 12⟩
/-- SIN_AGE.AGE, RW, 16 bits from 0. -/
def SIN_AGE_AGE (i : Nat) : FRef := ⟨0x44200024 + i * 0x40, 0, 16⟩
/-- SIN_OFFS.O, RW, 32 bits from 0. -/
def SIN_OFFS_O (i : Nat) : FRef := ⟨0x44200028 + i * 0x40, 0, 32⟩
/-- SIN_CTL.COMMIT, SC, bit 0. -/
def SIN_CTL_COMMIT (i : Nat) : FRef := ⟨0x4420002C + i * 0x40, 0, 1⟩
/-- SIN_STAT.STATE, RO, 2 bits from 0. -/
def SIN_STAT_STATE (i : Nat) : FRef := ⟨0x44200030 + i * 0x40, 0, 2⟩
/-- SIN_STAT.LEGA, RO, bit 2. -/
def SIN_STAT_LEGA (i : Nat) : FRef := ⟨0x44200030 + i * 0x40, 2, 1⟩
/-- SIN_STAT.LEGB, RO, bit 3. -/
def SIN_STAT_LEGB (i : Nat) : FRef := ⟨0x44200030 + i * 0x40, 3, 1⟩
/-- SIN_STAT.PEND, RO, bit 4. -/
def SIN_STAT_PEND (i : Nat) : FRef := ⟨0x44200030 + i * 0x40, 4, 1⟩
/-- SIN_STAT.LOST_SAT, W1C, bit 8. -/
def SIN_STAT_LOST_SAT (i : Nat) : FRef := ⟨0x44200030 + i * 0x40, 8, 1⟩
/-- SIN_STAT.TIME_SAT, W1C, bit 9. -/
def SIN_STAT_TIME_SAT (i : Nat) : FRef := ⟨0x44200030 + i * 0x40, 9, 1⟩
/-- SIN_STAT.LEGLOSS_SAT, W1C, bit 10. -/
def SIN_STAT_LEGLOSS_SAT (i : Nat) : FRef := ⟨0x44200030 + i * 0x40, 10, 1⟩
/-- SIN_STAT.STALE_SAT, W1C, bit 11. -/
def SIN_STAT_STALE_SAT (i : Nat) : FRef := ⟨0x44200030 + i * 0x40, 11, 1⟩
/-- SIN_CNT.LOST_COUNT, RW, 16 bits from 0. -/
def SIN_CNT_LOST_COUNT (i : Nat) : FRef := ⟨0x44200034 + i * 0x40, 0, 16⟩
/-- SIN_CNT.TIME_COUNT, RW, 16 bits from 16. -/
def SIN_CNT_TIME_COUNT (i : Nat) : FRef := ⟨0x44200034 + i * 0x40, 16, 16⟩
/-- SIN_CNT2.LEGLOSS_COUNT, RW, 16 bits from 0. -/
def SIN_CNT2_LEGLOSS_COUNT (i : Nat) : FRef := ⟨0x44200038 + i * 0x40, 0, 16⟩
/-- SIN_CNT2.STALE_COUNT, RW, 16 bits from 16. -/
def SIN_CNT2_STALE_COUNT (i : Nat) : FRef := ⟨0x44200038 + i * 0x40, 16, 16⟩
/-- SIN_SEQ.RXA_SEQUENCE, RW, 16 bits from 0. -/
def SIN_SEQ_RXA_SEQUENCE (i : Nat) : FRef := ⟨0x4420003C + i * 0x40, 0, 16⟩
/-- SIN_SEQ.RXB_SEQUENCE, RW, 16 bits from 16. -/
def SIN_SEQ_RXB_SEQUENCE (i : Nat) : FRef := ⟨0x4420003C + i * 0x40, 16, 16⟩
/-- SOUT_CFG.EN, RW, bit 0. -/
def SOUT_CFG_EN (e : Nat) : FRef := ⟨0x44208000 + e * 0x40, 0, 1⟩
/-- SOUT_CFG.FMT, RW, bit 1. -/
def SOUT_CFG_FMT (e : Nat) : FRef := ⟨0x44208000 + e * 0x40, 1, 1⟩
/-- SOUT_CFG.SHARED, RW, bit 2. -/
def SOUT_CFG_SHARED (e : Nat) : FRef := ⟨0x44208000 + e * 0x40, 2, 1⟩
/-- SOUT_CFG.TAG, RW, bit 3. -/
def SOUT_CFG_TAG (e : Nat) : FRef := ⟨0x44208000 + e * 0x40, 3, 1⟩
/-- SOUT_CFG.MAC, RW, 4 bits from 4. -/
def SOUT_CFG_MAC (e : Nat) : FRef := ⟨0x44208000 + e * 0x40, 4, 4⟩
/-- SOUT_CFG.TC, RW, 3 bits from 8. -/
def SOUT_CFG_TC (e : Nat) : FRef := ⟨0x44208000 + e * 0x40, 8, 3⟩
/-- SOUT_CFG.CH_FIRST, RW, 11 bits from 16. -/
def SOUT_CFG_CH_FIRST (e : Nat) : FRef := ⟨0x44208000 + e * 0x40, 16, 11⟩
/-- SOUT_FMT.NCH, RW, 7 bits from 0. -/
def SOUT_FMT_NCH (e : Nat) : FRef := ⟨0x44208004 + e * 0x40, 0, 7⟩
/-- SOUT_FMT.PTIME, RW, 3 bits from 8. -/
def SOUT_FMT_PTIME (e : Nat) : FRef := ⟨0x44208004 + e * 0x40, 8, 3⟩
/-- SOUT_FMT.LAUNCH, RW, 16 bits from 16. -/
def SOUT_FMT_LAUNCH (e : Nat) : FRef := ⟨0x44208004 + e * 0x40, 16, 16⟩
/-- SOUT_DA_LO.DA, RW, 32 bits from 0. -/
def SOUT_DA_LO_DA (e : Nat) : FRef := ⟨0x44208008 + e * 0x40, 0, 32⟩
/-- SOUT_DA_HI.DA, RW, 16 bits from 0. -/
def SOUT_DA_HI_DA (e : Nat) : FRef := ⟨0x4420800C + e * 0x40, 0, 16⟩
/-- SOUT_SID_LO.SID, RW, 32 bits from 0. -/
def SOUT_SID_LO_SID (e : Nat) : FRef := ⟨0x44208010 + e * 0x40, 0, 32⟩
/-- SOUT_SID_HI.SID, RW, 32 bits from 0. -/
def SOUT_SID_HI_SID (e : Nat) : FRef := ⟨0x44208014 + e * 0x40, 0, 32⟩
/-- SOUT_IP.DST, RW, 32 bits from 0. -/
def SOUT_IP_DST (e : Nat) : FRef := ⟨0x44208018 + e * 0x40, 0, 32⟩
/-- SOUT_UDP.DPORT, RW, 16 bits from 0. -/
def SOUT_UDP_DPORT (e : Nat) : FRef := ⟨0x4420801C + e * 0x40, 0, 16⟩
/-- SOUT_UDP.SPORT, RW, 16 bits from 16. -/
def SOUT_UDP_SPORT (e : Nat) : FRef := ⟨0x4420801C + e * 0x40, 16, 16⟩
/-- SOUT_RTP.PT, RW, 7 bits from 0. -/
def SOUT_RTP_PT (e : Nat) : FRef := ⟨0x44208020 + e * 0x40, 0, 7⟩
/-- SOUT_RTP.TTL, RW, 8 bits from 8. -/
def SOUT_RTP_TTL (e : Nat) : FRef := ⟨0x44208020 + e * 0x40, 8, 8⟩
/-- SOUT_RTP.DSCP, RW, 6 bits from 16. -/
def SOUT_RTP_DSCP (e : Nat) : FRef := ⟨0x44208020 + e * 0x40, 16, 6⟩
/-- SOUT_VLAN.VID, RW, 12 bits from 0. -/
def SOUT_VLAN_VID (e : Nat) : FRef := ⟨0x44208024 + e * 0x40, 0, 12⟩
/-- SOUT_VLAN.PCP, RW, 3 bits from 12. -/
def SOUT_VLAN_PCP (e : Nat) : FRef := ⟨0x44208024 + e * 0x40, 12, 3⟩
/-- SOUT_OFFS.O, RW, 32 bits from 0. -/
def SOUT_OFFS_O (e : Nat) : FRef := ⟨0x44208028 + e * 0x40, 0, 32⟩
/-- SOUT_CTL.COMMIT, SC, bit 0. -/
def SOUT_CTL_COMMIT (e : Nat) : FRef := ⟨0x4420802C + e * 0x40, 0, 1⟩
/-- SOUT_STAT.STATE, RO, 2 bits from 0. -/
def SOUT_STAT_STATE (e : Nat) : FRef := ⟨0x44208030 + e * 0x40, 0, 2⟩
/-- SOUT_STAT.ZERO, RO, bit 2. -/
def SOUT_STAT_ZERO (e : Nat) : FRef := ⟨0x44208030 + e * 0x40, 2, 1⟩
/-- SOUT_STAT.PEND, RO, bit 3. -/
def SOUT_STAT_PEND (e : Nat) : FRef := ⟨0x44208030 + e * 0x40, 3, 1⟩
/-- SOUT_STAT.DROP_SAT, W1C, bit 4. -/
def SOUT_STAT_DROP_SAT (e : Nat) : FRef := ⟨0x44208030 + e * 0x40, 4, 1⟩
/-- SOUT_CNT.DROP_COUNT, RW, 16 bits from 0. -/
def SOUT_CNT_DROP_COUNT (e : Nat) : FRef := ⟨0x44208034 + e * 0x40, 0, 16⟩
/-- SOUT_SEQ.TX_SEQUENCE, RW, 32 bits from 0. -/
def SOUT_SEQ_TX_SEQUENCE (e : Nat) : FRef := ⟨0x44208038 + e * 0x40, 0, 32⟩
/-- ST_STAT.CFGERR, W1C, bit 0. -/
def ST_STAT_CFGERR : FRef := ⟨0x44210000, 0, 1⟩
/-- ST_LIVE.LIVE, RO, 32 bits from 0. -/
def ST_LIVE_LIVE (i : Nat) : FRef := ⟨0x44210010 + i * 0x4, 0, 32⟩
/-- ST_STALE.STALE, RO, 32 bits from 0. -/
def ST_STALE_STALE (i : Nat) : FRef := ⟨0x44210050 + i * 0x4, 0, 32⟩

/-! ### spec/14* (R438) -/

/-- FB_CFG.EN, RW, bit 0. -/
def FB_CFG_EN (p : Nat) : FRef := ⟨0x44400000 + p * 0x100, 0, 1⟩
/-- FB_CFG.PLCA, RW, bit 1. -/
def FB_CFG_PLCA (p : Nat) : FRef := ⟨0x44400000 + p * 0x100, 1, 1⟩
/-- FB_CFG.NODEID, RW, 8 bits from 8. -/
def FB_CFG_NODEID (p : Nat) : FRef := ⟨0x44400000 + p * 0x100, 8, 8⟩
/-- FB_CFG.NODECNT, RW, 8 bits from 16. -/
def FB_CFG_NODECNT (p : Nat) : FRef := ⟨0x44400000 + p * 0x100, 16, 8⟩
/-- FB_PLCA.TOTMR, RW, 8 bits from 0. -/
def FB_PLCA_TOTMR (p : Nat) : FRef := ⟨0x44400004 + p * 0x100, 0, 8⟩
/-- FB_PLCA.BURSTCNT, RW, 8 bits from 8. -/
def FB_PLCA_BURSTCNT (p : Nat) : FRef := ⟨0x44400004 + p * 0x100, 8, 8⟩
/-- FB_PLCA.BURSTTMR, RW, 8 bits from 16. -/
def FB_PLCA_BURSTTMR (p : Nat) : FRef := ⟨0x44400004 + p * 0x100, 16, 8⟩
/-- FB_ADDR_LO.ADDR, RW, 32 bits from 0. -/
def FB_ADDR_LO_ADDR (p : Nat) : FRef := ⟨0x44400008 + p * 0x100, 0, 32⟩
/-- FB_ADDR_HI.ADDR, RW, 16 bits from 0. -/
def FB_ADDR_HI_ADDR (p : Nat) : FRef := ⟨0x4440000C + p * 0x100, 0, 16⟩
/-- FB_STAT.PLCAOK, RO, bit 0. -/
def FB_STAT_PLCAOK (p : Nat) : FRef := ⟨0x44400010 + p * 0x100, 0, 1⟩
/-- FB_STAT.CFGERR, W1C, bit 1. -/
def FB_STAT_CFGERR (p : Nat) : FRef := ⟨0x44400010 + p * 0x100, 1, 1⟩
/-- FB_STAT.COLL_SAT, W1C, bit 2. -/
def FB_STAT_COLL_SAT (p : Nat) : FRef := ⟨0x44400010 + p * 0x100, 2, 1⟩
/-- FB_STAT.EXCOLL_SAT, W1C, bit 3. -/
def FB_STAT_EXCOLL_SAT (p : Nat) : FRef := ⟨0x44400010 + p * 0x100, 3, 1⟩
/-- FB_STAT.BADRPT_SAT, W1C, bit 4. -/
def FB_STAT_BADRPT_SAT (p : Nat) : FRef := ⟨0x44400010 + p * 0x100, 4, 1⟩
/-- FB_STAT.RXOVF_SAT, W1C, bit 5. -/
def FB_STAT_RXOVF_SAT (p : Nat) : FRef := ⟨0x44400010 + p * 0x100, 5, 1⟩
/-- FB_CNT.COLL_COUNT, RW, 16 bits from 0. -/
def FB_CNT_COLL_COUNT (p : Nat) : FRef := ⟨0x44400014 + p * 0x100, 0, 16⟩
/-- FB_CNT.EXCOLL_COUNT, RW, 16 bits from 16. -/
def FB_CNT_EXCOLL_COUNT (p : Nat) : FRef := ⟨0x44400014 + p * 0x100, 16, 16⟩
/-- FB_CNT2.BADRPT_COUNT, RW, 16 bits from 0. -/
def FB_CNT2_BADRPT_COUNT (p : Nat) : FRef := ⟨0x44400018 + p * 0x100, 0, 16⟩
/-- FB_CNT2.RXOVF_COUNT, RW, 16 bits from 16. -/
def FB_CNT2_RXOVF_COUNT (p : Nat) : FRef := ⟨0x44400018 + p * 0x100, 16, 16⟩
/-- FB_SEQ.REPORT_SEQUENCE, RW, 32 bits from 0. -/
def FB_SEQ_REPORT_SEQUENCE (p : Nat) : FRef := ⟨0x4440001C + p * 0x100, 0, 32⟩
/-- FB_TXCTL.LEN, RW, 11 bits from 0. -/
def FB_TXCTL_LEN (p : Nat) : FRef := ⟨0x44400020 + p * 0x100, 0, 11⟩
/-- FB_TXCTL.GO, SC, bit 31. -/
def FB_TXCTL_GO (p : Nat) : FRef := ⟨0x44400020 + p * 0x100, 31, 1⟩
/-- CAB_BIND.EN, RW, bit 0. -/
def CAB_BIND_EN (c : Nat) : FRef := ⟨0x44401000 + c * 0x20, 0, 1⟩
/-- CAB_BIND.PORT, RW, 2 bits from 1. -/
def CAB_BIND_PORT (c : Nat) : FRef := ⟨0x44401000 + c * 0x20, 1, 2⟩
/-- CAB_IDENT_LO.IDENT, RW, 32 bits from 0. -/
def CAB_IDENT_LO_IDENT (c : Nat) : FRef := ⟨0x44401004 + c * 0x20, 0, 32⟩
/-- CAB_IDENT_HI.IDENT, RW, 32 bits from 0. -/
def CAB_IDENT_HI_IDENT (c : Nat) : FRef := ⟨0x44401008 + c * 0x20, 0, 32⟩
/-- CAB_SEQ.SEQ, RO, 16 bits from 0. -/
def CAB_SEQ_SEQ (c : Nat) : FRef := ⟨0x4440100C + c * 0x20, 0, 16⟩
/-- CAB_SEQ.FLAGS, RO, 16 bits from 16. -/
def CAB_SEQ_FLAGS (c : Nat) : FRef := ⟨0x4440100C + c * 0x20, 16, 16⟩
/-- CAB_TEMP.TAMB, RO, 16 bits from 0. -/
def CAB_TEMP_TAMB (c : Nat) : FRef := ⟨0x44401010 + c * 0x20, 0, 16⟩
/-- CAB_TEMP.TSINK, RO, 16 bits from 16. -/
def CAB_TEMP_TSINK (c : Nat) : FRef := ⟨0x44401010 + c * 0x20, 16, 16⟩
/-- CAB_TILT.PITCH, RO, 16 bits from 0. -/
def CAB_TILT_PITCH (c : Nat) : FRef := ⟨0x44401014 + c * 0x20, 0, 16⟩
/-- CAB_TILT.ROLL, RO, 16 bits from 16. -/
def CAB_TILT_ROLL (c : Nat) : FRef := ⟨0x44401014 + c * 0x20, 16, 16⟩
/-- CAB_FAN.FAN0, RO, 16 bits from 0. -/
def CAB_FAN_FAN0 (c : Nat) : FRef := ⟨0x44401018 + c * 0x20, 0, 16⟩
/-- CAB_FAN.FAN1, RO, 16 bits from 16. -/
def CAB_FAN_FAN1 (c : Nat) : FRef := ⟨0x44401018 + c * 0x20, 16, 16⟩
/-- CAB_AGE.AGE, RO, 16 bits from 0. -/
def CAB_AGE_AGE (c : Nat) : FRef := ⟨0x4440101C + c * 0x20, 0, 16⟩

/-! ### spec/15* (R452) -/

/-- TDM_CFG.EN, RW, bit 0. -/
def TDM_CFG_EN (p : Nat) : FRef := ⟨0x46000000 + p * 0x400, 0, 1⟩
/-- TDM_CFG.RXEN, RW, bit 1. -/
def TDM_CFG_RXEN (p : Nat) : FRef := ⟨0x46000000 + p * 0x400, 1, 1⟩
/-- TDM_CFG.TXEN, RW, bit 2. -/
def TDM_CFG_TXEN (p : Nat) : FRef := ⟨0x46000000 + p * 0x400, 2, 1⟩
/-- TDM_CFG.CKEDGE, RW, bit 3. -/
def TDM_CFG_CKEDGE (p : Nat) : FRef := ⟨0x46000000 + p * 0x400, 3, 1⟩
/-- TDM_CFG.FSPOL, RW, bit 4. -/
def TDM_CFG_FSPOL (p : Nat) : FRef := ⟨0x46000000 + p * 0x400, 4, 1⟩
/-- TDM_CFG.TXHIZ, RW, bit 5. -/
def TDM_CFG_TXHIZ (p : Nat) : FRef := ⟨0x46000000 + p * 0x400, 5, 1⟩
/-- TDM_CFG.SLOTS, RW, 6 bits from 8. -/
def TDM_CFG_SLOTS (p : Nat) : FRef := ⟨0x46000000 + p * 0x400, 8, 6⟩
/-- TDM_CFG.SWIDTH, RW, 2 bits from 16. -/
def TDM_CFG_SWIDTH (p : Nat) : FRef := ⟨0x46000000 + p * 0x400, 16, 2⟩
/-- TDM_CFG.DWIDTH, RW, 5 bits from 20. -/
def TDM_CFG_DWIDTH (p : Nat) : FRef := ⟨0x46000000 + p * 0x400, 20, 5⟩
/-- TDM_CFG.OFFSET, RW, 5 bits from 27. -/
def TDM_CFG_OFFSET (p : Nat) : FRef := ⟨0x46000000 + p * 0x400, 27, 5⟩
/-- TDM_FS.FSW, RW, 11 bits from 0. -/
def TDM_FS_FSW (p : Nat) : FRef := ⟨0x46000004 + p * 0x400, 0, 11⟩
/-- TDM_RXMASK.MASK, RW, 32 bits from 0. -/
def TDM_RXMASK_MASK (p : Nat) : FRef := ⟨0x46000008 + p * 0x400, 0, 32⟩
/-- TDM_TXMASK.MASK, RW, 32 bits from 0. -/
def TDM_TXMASK_MASK (p : Nat) : FRef := ⟨0x4600000C + p * 0x400, 0, 32⟩
/-- TDM_CTL.RESYNC, SC, bit 0. -/
def TDM_CTL_RESYNC (p : Nat) : FRef := ⟨0x46000010 + p * 0x400, 0, 1⟩
/-- TDM_STAT.STATE, RO, 2 bits from 0. -/
def TDM_STAT_STATE (p : Nat) : FRef := ⟨0x46000014 + p * 0x400, 0, 2⟩
/-- TDM_STAT.GAIN, RO, 2 bits from 2. -/
def TDM_STAT_GAIN (p : Nat) : FRef := ⟨0x46000014 + p * 0x400, 2, 2⟩
/-- TDM_STAT.FAULT, RO, bit 4. -/
def TDM_STAT_FAULT (p : Nat) : FRef := ⟨0x46000014 + p * 0x400, 4, 1⟩
/-- TDM_STAT.CLKLOSS, RO, bit 5. -/
def TDM_STAT_CLKLOSS (p : Nat) : FRef := ⟨0x46000014 + p * 0x400, 5, 1⟩
/-- TDM_STAT.CFGERR, W1C, bit 6. -/
def TDM_STAT_CFGERR (p : Nat) : FRef := ⟨0x46000014 + p * 0x400, 6, 1⟩
/-- TDM_STAT.SYNC_SAT, W1C, bit 7. -/
def TDM_STAT_SYNC_SAT (p : Nat) : FRef := ⟨0x46000014 + p * 0x400, 7, 1⟩
/-- TDM_STAT.XRUN_SAT, W1C, bit 8. -/
def TDM_STAT_XRUN_SAT (p : Nat) : FRef := ⟨0x46000014 + p * 0x400, 8, 1⟩
/-- TDM_STAT.CLKLOSS_SAT, W1C, bit 9. -/
def TDM_STAT_CLKLOSS_SAT (p : Nat) : FRef := ⟨0x46000014 + p * 0x400, 9, 1⟩
/-- TDM_MEAS.BPF, RO, 11 bits from 0. -/
def TDM_MEAS_BPF (p : Nat) : FRef := ⟨0x46000018 + p * 0x400, 0, 11⟩
/-- TDM_MEAS.GOOD, RO, 16 bits from 16. -/
def TDM_MEAS_GOOD (p : Nat) : FRef := ⟨0x46000018 + p * 0x400, 16, 16⟩
/-- TDM_CNT.SYNC_COUNT, RW, 16 bits from 0. -/
def TDM_CNT_SYNC_COUNT (p : Nat) : FRef := ⟨0x4600001C + p * 0x400, 0, 16⟩
/-- TDM_CNT.XRUN_COUNT, RW, 16 bits from 16. -/
def TDM_CNT_XRUN_COUNT (p : Nat) : FRef := ⟨0x4600001C + p * 0x400, 16, 16⟩
/-- TDM_CNT2.CLKLOSS_COUNT, RW, 16 bits from 0. -/
def TDM_CNT2_CLKLOSS_COUNT (p : Nat) : FRef := ⟨0x46000020 + p * 0x400, 0, 16⟩
/-- TDM_FRAME.FRAME_SEQUENCE, RW, 32 bits from 0. -/
def TDM_FRAME_FRAME_SEQUENCE (p : Nat) : FRef := ⟨0x46000024 + p * 0x400, 0, 32⟩

/-! ### spec/16* (R468) -/

/-- XB_CTL.QOSEN, RW, bit 0. -/
def XB_CTL_QOSEN : FRef := ⟨0x48000000, 0, 1⟩
/-- XB_CTL.FBCLR, SC, bit 1. -/
def XB_CTL_FBCLR : FRef := ⟨0x48000000, 1, 1⟩
/-- XB_CTL.AGE_STEP, RW, 16 bits from 8. -/
def XB_CTL_AGE_STEP : FRef := ⟨0x48000000, 8, 16⟩
/-- XB_STAT.FALLBACK, RO, bit 0. -/
def XB_STAT_FALLBACK : FRef := ⟨0x48000004, 0, 1⟩
/-- XB_STAT.SHED, RO, bit 1. -/
def XB_STAT_SHED : FRef := ⟨0x48000004, 1, 1⟩
/-- XB_STAT.CFGERR, W1C, bit 2. -/
def XB_STAT_CFGERR : FRef := ⟨0x48000004, 2, 1⟩
/-- XB_STAT.DECERR_SAT, W1C, bit 3. -/
def XB_STAT_DECERR_SAT : FRef := ⟨0x48000004, 3, 1⟩
/-- XB_STAT.TIMEOUT_SAT, W1C, bit 4. -/
def XB_STAT_TIMEOUT_SAT : FRef := ⟨0x48000004, 4, 1⟩
/-- XB_STAT.FWREF_SAT, W1C, bit 5. -/
def XB_STAT_FWREF_SAT : FRef := ⟨0x48000004, 5, 1⟩
/-- XB_STAT.SHED_SAT, W1C, bit 6. -/
def XB_STAT_SHED_SAT : FRef := ⟨0x48000004, 6, 1⟩
/-- XB_TAGS.INUSE, RO, 14 bits from 0. -/
def XB_TAGS_INUSE : FRef := ⟨0x48000008, 0, 14⟩
/-- XB_TAGS.HWM, RWH, 14 bits from 16. -/
def XB_TAGS_HWM : FRef := ⟨0x48000008, 16, 14⟩
/-- XB_CNT.DECERR_COUNT, RW, 16 bits from 0. -/
def XB_CNT_DECERR_COUNT : FRef := ⟨0x4800000C, 0, 16⟩
/-- XB_CNT.TIMEOUT_COUNT, RW, 16 bits from 16. -/
def XB_CNT_TIMEOUT_COUNT : FRef := ⟨0x4800000C, 16, 16⟩
/-- XB_CNT2.FWREF_COUNT, RW, 16 bits from 0. -/
def XB_CNT2_FWREF_COUNT : FRef := ⟨0x48000010, 0, 16⟩
/-- XB_CNT2.SHED_COUNT, RW, 16 bits from 16. -/
def XB_CNT2_SHED_COUNT : FRef := ⟨0x48000010, 16, 16⟩
/-- XB_DECERR_LO.ADDR, RO, 32 bits from 0. -/
def XB_DECERR_LO_ADDR : FRef := ⟨0x48000014, 0, 32⟩
/-- XB_DECERR_HI.ADDR, RO, 8 bits from 0. -/
def XB_DECERR_HI_ADDR : FRef := ⟨0x48000018, 0, 8⟩
/-- XB_DECERR_HI.MASTER, RO, 6 bits from 8. -/
def XB_DECERR_HI_MASTER : FRef := ⟨0x48000018, 8, 6⟩
/-- XB_TIMEOUT.TO, RW, 16 bits from 0. -/
def XB_TIMEOUT_TO : FRef := ⟨0x4800001C, 0, 16⟩
/-- XB_BW.GUAR, RO, 16 bits from 0. -/
def XB_BW_GUAR : FRef := ⟨0x48000020, 0, 16⟩
/-- XB_BW.RESSUM, RO, 16 bits from 16. -/
def XB_BW_RESSUM : FRef := ⟨0x48000020, 16, 16⟩
/-- XB_SHED.CAP, RO, 16 bits from 0. -/
def XB_SHED_CAP : FRef := ⟨0x48000024, 0, 16⟩
/-- XB_SHED.FREC, RO, 16 bits from 16. -/
def XB_SHED_FREC : FRef := ⟨0x48000024, 16, 16⟩
/-- FW_CTL.LOCK, W1S, bit 0. -/
def FW_CTL_LOCK : FRef := ⟨0x48000040, 0, 1⟩
/-- XB_MCFG.QOS, RW, 4 bits from 0. -/
def XB_MCFG_QOS (m : Nat) : FRef := ⟨0x48000100 + m * 0x10, 0, 4⟩
/-- XB_MCFG.QOVER, RW, 4 bits from 4. -/
def XB_MCFG_QOVER (m : Nat) : FRef := ⟨0x48000100 + m * 0x10, 4, 4⟩
/-- XB_MCFG.FPRI, RW, 6 bits from 8. -/
def XB_MCFG_FPRI (m : Nat) : FRef := ⟨0x48000100 + m * 0x10, 8, 6⟩
/-- XB_MCFG.TAGS, RW, 14 bits from 16. -/
def XB_MCFG_TAGS (m : Nat) : FRef := ⟨0x48000100 + m * 0x10, 16, 14⟩
/-- XB_MRES.RES, RW, 16 bits from 0. -/
def XB_MRES_RES (m : Nat) : FRef := ⟨0x48000104 + m * 0x10, 0, 16⟩
/-- XB_MSTAT.OUT, RO, 14 bits from 0. -/
def XB_MSTAT_OUT (m : Nat) : FRef := ⟨0x48000108 + m * 0x10, 0, 14⟩
/-- XB_MSTAT.TAGWAIT_SAT, W1C, bit 14. -/
def XB_MSTAT_TAGWAIT_SAT (m : Nat) : FRef := ⟨0x48000108 + m * 0x10, 14, 1⟩
/-- XB_MSTAT.OVER_SAT, W1C, bit 15. -/
def XB_MSTAT_OVER_SAT (m : Nat) : FRef := ⟨0x48000108 + m * 0x10, 15, 1⟩
/-- XB_MCNT.TAGWAIT_COUNT, RW, 16 bits from 0. -/
def XB_MCNT_TAGWAIT_COUNT (m : Nat) : FRef := ⟨0x4800010C + m * 0x10, 0, 16⟩
/-- XB_MCNT.OVER_COUNT, RW, 16 bits from 16. -/
def XB_MCNT_OVER_COUNT (m : Nat) : FRef := ⟨0x4800010C + m * 0x10, 16, 16⟩
/-- FW_BASE.BASE, RW, 28 bits from 0. -/
def FW_BASE_BASE (r : Nat) : FRef := ⟨0x48001000 + r * 0x20, 0, 28⟩
/-- FW_LIMIT.LIMIT, RW, 28 bits from 0. -/
def FW_LIMIT_LIMIT (r : Nat) : FRef := ⟨0x48001004 + r * 0x20, 0, 28⟩
/-- FW_RMASK_LO.MASK, RW, 32 bits from 0. -/
def FW_RMASK_LO_MASK (r : Nat) : FRef := ⟨0x48001008 + r * 0x20, 0, 32⟩
/-- FW_RMASK_HI.MASK, RW, 32 bits from 0. -/
def FW_RMASK_HI_MASK (r : Nat) : FRef := ⟨0x4800100C + r * 0x20, 0, 32⟩
/-- FW_WMASK_LO.MASK, RW, 32 bits from 0. -/
def FW_WMASK_LO_MASK (r : Nat) : FRef := ⟨0x48001010 + r * 0x20, 0, 32⟩
/-- FW_WMASK_HI.MASK, RW, 32 bits from 0. -/
def FW_WMASK_HI_MASK (r : Nat) : FRef := ⟨0x48001014 + r * 0x20, 0, 32⟩
/-- FW_ATTR.EN, RW, bit 0. -/
def FW_ATTR_EN (r : Nat) : FRef := ⟨0x48001018 + r * 0x20, 0, 1⟩
/-- FW_ATTR.SUPR, RW, bit 1. -/
def FW_ATTR_SUPR (r : Nat) : FRef := ⟨0x48001018 + r * 0x20, 1, 1⟩

/-! ### spec/16* (R469) -/

/-- DRC_CFG.EN, RW, bit 0. -/
def DRC_CFG_EN (n : Nat) : FRef := ⟨0x48100000 + n * 0x1000, 0, 1⟩
/-- DRC_CFG.RATE, RW, 2 bits from 1. -/
def DRC_CFG_RATE (n : Nat) : FRef := ⟨0x48100000 + n * 0x1000, 1, 2⟩
/-- DRC_CFG.RANKS, RW, bit 3. -/
def DRC_CFG_RANKS (n : Nat) : FRef := ⟨0x48100000 + n * 0x1000, 3, 1⟩
/-- DRC_CFG.DENS, RW, 2 bits from 4. -/
def DRC_CFG_DENS (n : Nat) : FRef := ⟨0x48100000 + n * 0x1000, 4, 2⟩
/-- DRC_STAT.STATE, RO, 2 bits from 0. -/
def DRC_STAT_STATE (n : Nat) : FRef := ⟨0x48100004 + n * 0x1000, 0, 2⟩
/-- DRC_STAT.RMULT, RO, 2 bits from 2. -/
def DRC_STAT_RMULT (n : Nat) : FRef := ⟨0x48100004 + n * 0x1000, 2, 2⟩
/-- DRC_STAT.RPRFULL, W1C, bit 4. -/
def DRC_STAT_RPRFULL (n : Nat) : FRef := ⟨0x48100004 + n * 0x1000, 4, 1⟩
/-- DRC_STAT.CFGERR, W1C, bit 5. -/
def DRC_STAT_CFGERR (n : Nat) : FRef := ⟨0x48100004 + n * 0x1000, 5, 1⟩
/-- DRC_STAT.CE_SAT, W1C, bit 6. -/
def DRC_STAT_CE_SAT (n : Nat) : FRef := ⟨0x48100004 + n * 0x1000, 6, 1⟩
/-- DRC_STAT.UE_SAT, W1C, bit 7. -/
def DRC_STAT_UE_SAT (n : Nat) : FRef := ⟨0x48100004 + n * 0x1000, 7, 1⟩
/-- DRC_CNT.CE_COUNT, RW, 16 bits from 0. -/
def DRC_CNT_CE_COUNT (n : Nat) : FRef := ⟨0x48100008 + n * 0x1000, 0, 16⟩
/-- DRC_CNT.UE_COUNT, RW, 16 bits from 16. -/
def DRC_CNT_UE_COUNT (n : Nat) : FRef := ⟨0x48100008 + n * 0x1000, 16, 16⟩
/-- DRC_ERRADDR_LO.ADDR, RO, 32 bits from 0. -/
def DRC_ERRADDR_LO_ADDR (n : Nat) : FRef := ⟨0x4810000C + n * 0x1000, 0, 32⟩
/-- DRC_ERRADDR_HI.ADDR, RO, 8 bits from 0. -/
def DRC_ERRADDR_HI_ADDR (n : Nat) : FRef := ⟨0x48100010 + n * 0x1000, 0, 8⟩
/-- DRC_ERRADDR_HI.UE, RO, bit 8. -/
def DRC_ERRADDR_HI_UE (n : Nat) : FRef := ⟨0x48100010 + n * 0x1000, 8, 1⟩
/-- DRC_SCRUB.PERIOD, RW, 8 bits from 0. -/
def DRC_SCRUB_PERIOD (n : Nat) : FRef := ⟨0x48100014 + n * 0x1000, 0, 8⟩
/-- DRC_SCRUB.PASS_SEQUENCE, RW, 16 bits from 16. -/
def DRC_SCRUB_PASS_SEQUENCE (n : Nat) : FRef := ⟨0x48100014 + n * 0x1000, 16, 16⟩
/-- DRC_RPR.VALID, RO, bit 0. -/
def DRC_RPR_VALID (n i : Nat) : FRef := ⟨0x48100020 + n * 0x1000 + i * 0x4, 0, 1⟩
/-- DRC_RPR.RANK, RO, bit 1. -/
def DRC_RPR_RANK (n i : Nat) : FRef := ⟨0x48100020 + n * 0x1000 + i * 0x4, 1, 1⟩
/-- DRC_RPR.BANK, RO, 4 bits from 2. -/
def DRC_RPR_BANK (n i : Nat) : FRef := ⟨0x48100020 + n * 0x1000 + i * 0x4, 2, 4⟩
/-- DRC_RPR.ROW, RO, 18 bits from 6. -/
def DRC_RPR_ROW (n i : Nat) : FRef := ⟨0x48100020 + n * 0x1000 + i * 0x4, 6, 18⟩
/-- DRC_RPR.DONE, RO, bit 24. -/
def DRC_RPR_DONE (n i : Nat) : FRef := ⟨0x48100020 + n * 0x1000 + i * 0x4, 24, 1⟩
/-- DRC_RPR.FAILED, RO, bit 25. -/
def DRC_RPR_FAILED (n i : Nat) : FRef := ⟨0x48100020 + n * 0x1000 + i * 0x4, 25, 1⟩
/-- DRC_MAP.ILV, RW, bit 0. -/
def DRC_MAP_ILV : FRef := ⟨0x48102000, 0, 1⟩
/-- DRC_MAP.TOP, RO, 16 bits from 8. -/
def DRC_MAP_TOP : FRef := ⟨0x48102000, 8, 16⟩

/-! ### spec/17* (R497) -/

/-- FL_CTL.BGEN, RW, bit 0. -/
def FL_CTL_BGEN : FRef := ⟨0x49000000, 0, 1⟩
/-- FL_CTL.CAPFULL, RW, bit 1. -/
def FL_CTL_CAPFULL : FRef := ⟨0x49000000, 1, 1⟩
/-- FL_CTL.LOGFLUSH, RW, 8 bits from 8. -/
def FL_CTL_LOGFLUSH : FRef := ⟨0x49000000, 8, 8⟩
/-- FL_STAT.STATE, RO, 3 bits from 0. -/
def FL_STAT_STATE : FRef := ⟨0x49000004, 0, 3⟩
/-- FL_STAT.CAP, RO, 2 bits from 3. -/
def FL_STAT_CAP : FRef := ⟨0x49000004, 3, 2⟩
/-- FL_STAT.REC, RO, bit 5. -/
def FL_STAT_REC : FRef := ⟨0x49000004, 5, 1⟩
/-- FL_STAT.LIFELOW, RO, bit 6. -/
def FL_STAT_LIFELOW : FRef := ⟨0x49000004, 6, 1⟩
/-- FL_STAT.CFGERR, W1C, bit 7. -/
def FL_STAT_CFGERR : FRef := ⟨0x49000004, 7, 1⟩
/-- FL_STAT.RETRY_SAT, W1C, bit 8. -/
def FL_STAT_RETRY_SAT : FRef := ⟨0x49000004, 8, 1⟩
/-- FL_STAT.UNCORR_SAT, W1C, bit 9. -/
def FL_STAT_UNCORR_SAT : FRef := ⟨0x49000004, 9, 1⟩
/-- FL_STAT.GROWN_SAT, W1C, bit 10. -/
def FL_STAT_GROWN_SAT : FRef := ⟨0x49000004, 10, 1⟩
/-- FL_STAT.REFRESH_SAT, W1C, bit 11. -/
def FL_STAT_REFRESH_SAT : FRef := ⟨0x49000004, 11, 1⟩
/-- FL_STAT.CAPDROP_SAT, W1C, bit 12. -/
def FL_STAT_CAPDROP_SAT : FRef := ⟨0x49000004, 12, 1⟩
/-- FL_STAT.RECDROP_SAT, W1C, bit 13. -/
def FL_STAT_RECDROP_SAT : FRef := ⟨0x49000004, 13, 1⟩
/-- FL_STAT.LOGDROP_SAT, W1C, bit 14. -/
def FL_STAT_LOGDROP_SAT : FRef := ⟨0x49000004, 14, 1⟩
/-- FL_STAT.URGENT_SAT, W1C, bit 15. -/
def FL_STAT_URGENT_SAT : FRef := ⟨0x49000004, 15, 1⟩
/-- FL_GEOM.DIES, RO, 7 bits from 0. -/
def FL_GEOM_DIES : FRef := ⟨0x49000008, 0, 7⟩
/-- FL_GEOM.PLANES, RO, 3 bits from 8. -/
def FL_GEOM_PLANES : FRef := ⟨0x49000008, 8, 3⟩
/-- FL_GEOM.CAPDIES, RO, 7 bits from 12. -/
def FL_GEOM_CAPDIES : FRef := ⟨0x49000008, 12, 7⟩
/-- FL_GEOM.RECDIES, RO, 7 bits from 19. -/
def FL_GEOM_RECDIES : FRef := ⟨0x49000008, 19, 7⟩
/-- FL_JOB_LO.ADDR, RW, 32 bits from 0. -/
def FL_JOB_LO_ADDR : FRef := ⟨0x49000010, 0, 32⟩
/-- FL_JOB_HI.ADDR, RW, 8 bits from 0. -/
def FL_JOB_HI_ADDR : FRef := ⟨0x49000014, 0, 8⟩
/-- FL_JOB_LEN.LEN, RW, 32 bits from 0. -/
def FL_JOB_LEN_LEN : FRef := ⟨0x49000018, 0, 32⟩
/-- FL_JOB_CTL.OP, RW, 8 bits from 0. -/
def FL_JOB_CTL_OP : FRef := ⟨0x4900001C, 0, 8⟩
/-- FL_JOB_CTL.ARG, RW, 23 bits from 8. -/
def FL_JOB_CTL_ARG : FRef := ⟨0x4900001C, 8, 23⟩
/-- FL_JOB_CTL.GO, SC, bit 31. -/
def FL_JOB_CTL_GO : FRef := ⟨0x4900001C, 31, 1⟩
/-- FL_JOB_RES.DONE, W1C, bit 0. -/
def FL_JOB_RES_DONE : FRef := ⟨0x49000020, 0, 1⟩
/-- FL_JOB_RES.ERR, RO, 8 bits from 8. -/
def FL_JOB_RES_ERR : FRef := ⟨0x49000020, 8, 8⟩
/-- FL_CAP.CAPID, RO, 32 bits from 0. -/
def FL_CAP_CAPID : FRef := ⟨0x49000024, 0, 32⟩
/-- FL_BACKLOG.CAP, RO, 16 bits from 0. -/
def FL_BACKLOG_CAP : FRef := ⟨0x49000028, 0, 16⟩
/-- FL_BACKLOG.REC, RO, 16 bits from 16. -/
def FL_BACKLOG_REC : FRef := ⟨0x49000028, 16, 16⟩
/-- FL_SPACE.FREE, RO, 32 bits from 0. -/
def FL_SPACE_FREE : FRef := ⟨0x4900002C, 0, 32⟩
/-- FL_WEAR.USED, RO, 16 bits from 0. -/
def FL_WEAR_USED : FRef := ⟨0x49000030, 0, 16⟩
/-- FL_WEAR.BUDGET, RO, 16 bits from 16. -/
def FL_WEAR_BUDGET : FRef := ⟨0x49000030, 16, 16⟩
/-- FL_LIFE.REMAIN, RO, 8 bits from 0. -/
def FL_LIFE_REMAIN : FRef := ⟨0x49000034, 0, 8⟩
/-- FL_LIFE.SPARE, RO, 8 bits from 8. -/
def FL_LIFE_SPARE : FRef := ⟨0x49000034, 8, 8⟩
/-- FL_LIFE.DAYS, RO, 16 bits from 16. -/
def FL_LIFE_DAYS : FRef := ⟨0x49000034, 16, 16⟩
/-- FL_SLOTA.SEQ, RO, 32 bits from 0. -/
def FL_SLOTA_SEQ : FRef := ⟨0x49000038, 0, 32⟩
/-- FL_SLOTB.SEQ, RO, 32 bits from 0. -/
def FL_SLOTB_SEQ : FRef := ⟨0x4900003C, 0, 32⟩
/-- FL_SLOTST.ACOMMIT, RO, bit 0. -/
def FL_SLOTST_ACOMMIT : FRef := ⟨0x49000040, 0, 1⟩
/-- FL_SLOTST.BCOMMIT, RO, bit 1. -/
def FL_SLOTST_BCOMMIT : FRef := ⟨0x49000040, 1, 1⟩
/-- FL_SLOTST.BOOTED, RO, bit 2. -/
def FL_SLOTST_BOOTED : FRef := ⟨0x49000040, 2, 1⟩
/-- FL_SLOTST.WRITING, RO, bit 3. -/
def FL_SLOTST_WRITING : FRef := ⟨0x49000040, 3, 1⟩
/-- FL_LOGSEQ.SEQUENCE, RO, 32 bits from 0. -/
def FL_LOGSEQ_SEQUENCE : FRef := ⟨0x49000044, 0, 32⟩
/-- FL_JOB_ARG.VALUE, RW, 32 bits from 0. -/
def FL_JOB_ARG_VALUE : FRef := ⟨0x49000048, 0, 32⟩
/-- FL_CNT.RETRY_COUNT, RW, 16 bits from 0. -/
def FL_CNT_RETRY_COUNT : FRef := ⟨0x49000050, 0, 16⟩
/-- FL_CNT.UNCORR_COUNT, RW, 16 bits from 16. -/
def FL_CNT_UNCORR_COUNT : FRef := ⟨0x49000050, 16, 16⟩
/-- FL_CNT2.GROWN_COUNT, RW, 16 bits from 0. -/
def FL_CNT2_GROWN_COUNT : FRef := ⟨0x49000054, 0, 16⟩
/-- FL_CNT2.REFRESH_COUNT, RW, 16 bits from 16. -/
def FL_CNT2_REFRESH_COUNT : FRef := ⟨0x49000054, 16, 16⟩
/-- FL_CNT3.CAPDROP_COUNT, RW, 16 bits from 0. -/
def FL_CNT3_CAPDROP_COUNT : FRef := ⟨0x49000058, 0, 16⟩
/-- FL_CNT3.RECDROP_COUNT, RW, 16 bits from 16. -/
def FL_CNT3_RECDROP_COUNT : FRef := ⟨0x49000058, 16, 16⟩
/-- FL_CNT4.LOGDROP_COUNT, RW, 16 bits from 0. -/
def FL_CNT4_LOGDROP_COUNT : FRef := ⟨0x4900005C, 0, 16⟩
/-- FL_CNT4.URGENT_COUNT, RW, 16 bits from 16. -/
def FL_CNT4_URGENT_COUNT : FRef := ⟨0x4900005C, 16, 16⟩
/-- FLC_CFG.EN, RO, bit 0. -/
def FLC_CFG_EN (c : Nat) : FRef := ⟨0x49001000 + c * 0x100, 0, 1⟩
/-- FLC_CFG.CEMASK, RO, 4 bits from 1. -/
def FLC_CFG_CEMASK (c : Nat) : FRef := ⟨0x49001000 + c * 0x100, 1, 4⟩
/-- FLC_CFG.RATE, RO, 3 bits from 8. -/
def FLC_CFG_RATE (c : Nat) : FRef := ⟨0x49001000 + c * 0x100, 8, 3⟩
/-- FLC_STAT.STATE, RO, 2 bits from 0. -/
def FLC_STAT_STATE (c : Nat) : FRef := ⟨0x49001004 + c * 0x100, 0, 2⟩
/-- FLC_STAT.DIES, RO, 5 bits from 2. -/
def FLC_STAT_DIES (c : Nat) : FRef := ⟨0x49001004 + c * 0x100, 2, 5⟩
/-- FLC_STAT.BUSY, RO, bit 7. -/
def FLC_STAT_BUSY (c : Nat) : FRef := ⟨0x49001004 + c * 0x100, 7, 1⟩
/-- FLC_STAT.PFAIL_SAT, W1C, bit 8. -/
def FLC_STAT_PFAIL_SAT (c : Nat) : FRef := ⟨0x49001004 + c * 0x100, 8, 1⟩
/-- FLC_STAT.EFAIL_SAT, W1C, bit 9. -/
def FLC_STAT_EFAIL_SAT (c : Nat) : FRef := ⟨0x49001004 + c * 0x100, 9, 1⟩
/-- FLC_CNT.PFAIL_COUNT, RW, 16 bits from 0. -/
def FLC_CNT_PFAIL_COUNT (c : Nat) : FRef := ⟨0x49001008 + c * 0x100, 0, 16⟩
/-- FLC_CNT.EFAIL_COUNT, RW, 16 bits from 16. -/
def FLC_CNT_EFAIL_COUNT (c : Nat) : FRef := ⟨0x49001008 + c * 0x100, 16, 16⟩

/-! ### spec/18* (R531) -/

/-- PWR_STAT.STATE, RO, 3 bits from 0. -/
def PWR_STAT_STATE : FRef := ⟨0x4B000000, 0, 3⟩
/-- PWR_STAT.STEP, RO, 4 bits from 3. -/
def PWR_STAT_STEP : FRef := ⟨0x4B000000, 3, 4⟩
/-- PWR_STAT.ATTEMPT, RO, 2 bits from 7. -/
def PWR_STAT_ATTEMPT : FRef := ⟨0x4B000000, 7, 2⟩
/-- PWR_STAT.FAULT, RO, bit 9. -/
def PWR_STAT_FAULT : FRef := ⟨0x4B000000, 9, 1⟩
/-- PWR_STAT.PG, RO, 12 bits from 16. -/
def PWR_STAT_PG : FRef := ⟨0x4B000000, 16, 12⟩
/-- PWR_CTL.STANDBY, SC, bit 0. -/
def PWR_CTL_STANDBY : FRef := ⟨0x4B000004, 0, 1⟩
/-- PWR_CTL.RUN, SC, bit 1. -/
def PWR_CTL_RUN : FRef := ⟨0x4B000004, 1, 1⟩
/-- PWR_CTL.RESTART, SC, bit 2. -/
def PWR_CTL_RESTART : FRef := ⟨0x4B000004, 2, 1⟩
/-- PWR_CFG.AUTO, RW, bit 0. -/
def PWR_CFG_AUTO : FRef := ⟨0x4B000008, 0, 1⟩
/-- PWR_CFG.QEN, RW, bit 1. -/
def PWR_CFG_QEN : FRef := ⟨0x4B000008, 1, 1⟩
/-- PWR_CFG.AVSEN, RW, bit 2. -/
def PWR_CFG_AVSEN : FRef := ⟨0x4B000008, 2, 1⟩
/-- PWR_CFG.QDLY, RW, 16 bits from 16. -/
def PWR_CFG_QDLY : FRef := ⟨0x4B000008, 16, 16⟩
/-- PWR_START.STARTTO, RW, 8 bits from 0. -/
def PWR_START_STARTTO : FRef := ⟨0x4B00000C, 0, 8⟩
/-- PWR_FAULT.CODE, RO, 16 bits from 0. -/
def PWR_FAULT_CODE : FRef := ⟨0x4B000010, 0, 16⟩
/-- PWR_FAULT.LOGN, RO, 4 bits from 16. -/
def PWR_FAULT_LOGN : FRef := ⟨0x4B000010, 16, 4⟩
/-- PWR_FLOG.NEWER, RO, 16 bits from 0. -/
def PWR_FLOG_NEWER (i : Nat) : FRef := ⟨0x4B000014 + i * 0x4, 0, 16⟩
/-- PWR_FLOG.OLDER, RO, 16 bits from 16. -/
def PWR_FLOG_OLDER (i : Nat) : FRef := ⟨0x4B000014 + i * 0x4, 16, 16⟩
/-- PWR_OSC.FERR, RO, 16 bits from 0. -/
def PWR_OSC_FERR : FRef := ⟨0x4B000024, 0, 16⟩
/-- PWR_OSC.AMPOK, RO, bit 16. -/
def PWR_OSC_AMPOK : FRef := ⟨0x4B000024, 16, 1⟩
/-- PWR_OSC.FREQOK, RO, bit 17. -/
def PWR_OSC_FREQOK : FRef := ⟨0x4B000024, 17, 1⟩
/-- PWR_AVS.VSET, RWH, 10 bits from 0. -/
def PWR_AVS_VSET : FRef := ⟨0x4B000028, 0, 10⟩
/-- PWR_PMB.RATE0, RW, bit 0. -/
def PWR_PMB_RATE0 : FRef := ⟨0x4B00002C, 0, 1⟩
/-- PWR_PMB.RATE1, RW, bit 1. -/
def PWR_PMB_RATE1 : FRef := ⟨0x4B00002C, 1, 1⟩
/-- PWR_PMB.PEC, RW, bit 2. -/
def PWR_PMB_PEC : FRef := ⟨0x4B00002C, 2, 1⟩
/-- PWR_PMB.DADDR, RW, 7 bits from 8. -/
def PWR_PMB_DADDR : FRef := ⟨0x4B00002C, 8, 7⟩
/-- PWR_BOOT.SLOT, RO, bit 0. -/
def PWR_BOOT_SLOT : FRef := ⟨0x4B000030, 0, 1⟩
/-- PWR_BOOT.TRIED, RO, 2 bits from 1. -/
def PWR_BOOT_TRIED : FRef := ⟨0x4B000030, 1, 2⟩
/-- PWR_BOOT.FAILS, RO, 3 bits from 3. -/
def PWR_BOOT_FAILS : FRef := ⟨0x4B000030, 3, 3⟩
/-- PWR_BOOT.NOIMAGE, RO, bit 6. -/
def PWR_BOOT_NOIMAGE : FRef := ⟨0x4B000030, 6, 1⟩
/-- PWR_CNT.RETRY_COUNT, RW, 16 bits from 0. -/
def PWR_CNT_RETRY_COUNT : FRef := ⟨0x4B000034, 0, 16⟩
/-- PWR_CNT.QUIET_COUNT, RW, 16 bits from 16. -/
def PWR_CNT_QUIET_COUNT : FRef := ⟨0x4B000034, 16, 16⟩
/-- PWR_EVT.RETRY_SAT, W1C, bit 0. -/
def PWR_EVT_RETRY_SAT : FRef := ⟨0x4B000038, 0, 1⟩
/-- PWR_EVT.QUIET_SAT, W1C, bit 1. -/
def PWR_EVT_QUIET_SAT : FRef := ⟨0x4B000038, 1, 1⟩
/-- PWR_ENT_CFG.EN, RW, bit 0. -/
def PWR_ENT_CFG_EN (e : Nat) : FRef := ⟨0x4B000100 + e * 0x10, 0, 1⟩
/-- PWR_ENT_CFG.QOFF, RW, bit 1. -/
def PWR_ENT_CFG_QOFF (e : Nat) : FRef := ⟨0x4B000100 + e * 0x10, 1, 1⟩
/-- PWR_ENT_CFG.PMB, RW, bit 2. -/
def PWR_ENT_CFG_PMB (e : Nat) : FRef := ⟨0x4B000100 + e * 0x10, 2, 1⟩
/-- PWR_ENT_CFG.PORT, RW, bit 3. -/
def PWR_ENT_CFG_PORT (e : Nat) : FRef := ⟨0x4B000100 + e * 0x10, 3, 1⟩
/-- PWR_ENT_CFG.ADDR, RW, 7 bits from 8. -/
def PWR_ENT_CFG_ADDR (e : Nat) : FRef := ⟨0x4B000100 + e * 0x10, 8, 7⟩
/-- PWR_ENT_CFG.PAGE, RW, 8 bits from 16. -/
def PWR_ENT_CFG_PAGE (e : Nat) : FRef := ⟨0x4B000100 + e * 0x10, 16, 8⟩
/-- PWR_ENT_CFG.TIMEOUT, RW, 8 bits from 24. -/
def PWR_ENT_CFG_TIMEOUT (e : Nat) : FRef := ⟨0x4B000100 + e * 0x10, 24, 8⟩
/-- PWR_ENT_SET.DLY, RW, 8 bits from 0. -/
def PWR_ENT_SET_DLY (e : Nat) : FRef := ⟨0x4B000104 + e * 0x10, 0, 8⟩
/-- PWR_ENT_SET.VNOM, RW, 16 bits from 16. -/
def PWR_ENT_SET_VNOM (e : Nat) : FRef := ⟨0x4B000104 + e * 0x10, 16, 16⟩
/-- PWR_ENT_TEL.VOUT, RO, 16 bits from 0. -/
def PWR_ENT_TEL_VOUT (e : Nat) : FRef := ⟨0x4B000108 + e * 0x10, 0, 16⟩
/-- PWR_ENT_TEL.IOUT, RO, 16 bits from 16. -/
def PWR_ENT_TEL_IOUT (e : Nat) : FRef := ⟨0x4B000108 + e * 0x10, 16, 16⟩
/-- PWR_ENT_STAT.PEN, RO, bit 0. -/
def PWR_ENT_STAT_PEN (e : Nat) : FRef := ⟨0x4B00010C + e * 0x10, 0, 1⟩
/-- PWR_ENT_STAT.PG, RO, bit 1. -/
def PWR_ENT_STAT_PG (e : Nat) : FRef := ⟨0x4B00010C + e * 0x10, 1, 1⟩
/-- PWR_ENT_STAT.FAIL, RO, bit 2. -/
def PWR_ENT_STAT_FAIL (e : Nat) : FRef := ⟨0x4B00010C + e * 0x10, 2, 1⟩
/-- PWR_ENT_STAT.TEMP, RO, 16 bits from 16. -/
def PWR_ENT_STAT_TEMP (e : Nat) : FRef := ⟨0x4B00010C + e * 0x10, 16, 16⟩

/-! ### spec/20* (R580) -/

/-- FEU_CTL.IRQCORE, RW, 2 bits from 0. -/
def FEU_CTL_IRQCORE : FRef := ⟨0x4C000000, 0, 2⟩
/-- FEU_STAT.DROP_SAT, W1C, bit 0. -/
def FEU_STAT_DROP_SAT : FRef := ⟨0x4C000004, 0, 1⟩
/-- FEU_SEQ.SEQUENCE, RO, 32 bits from 0. -/
def FEU_SEQ_SEQUENCE : FRef := ⟨0x4C000008, 0, 32⟩
/-- FEU_IRQMASK.CLASS, RW, 16 bits from 0. -/
def FEU_IRQMASK_CLASS : FRef := ⟨0x4C00000C, 0, 16⟩
/-- FEU_IRQMASK.SAT, RW, bit 16. -/
def FEU_IRQMASK_SAT : FRef := ⟨0x4C00000C, 16, 1⟩
/-- FEU_PEND.CLASS, W1C, 16 bits from 0. -/
def FEU_PEND_CLASS : FRef := ⟨0x4C000010, 0, 16⟩
/-- FEU_CNT.DROP_COUNT, RW, 16 bits from 0. -/
def FEU_CNT_DROP_COUNT : FRef := ⟨0x4C000014, 0, 16⟩
/-- FEU_RAISE.CODE, WO, 16 bits from 0. -/
def FEU_RAISE_CODE : FRef := ⟨0x4C000018, 0, 16⟩
/-- FEU_RAISEARG.ARG, RW, 32 bits from 0. -/
def FEU_RAISEARG_ARG : FRef := ⟨0x4C00001C, 0, 32⟩
/-- FEU_LASTREC.DATA, RO, 32 bits from 0. -/
def FEU_LASTREC_DATA (i : Nat) : FRef := ⟨0x4C000020 + i * 0x4, 0, 32⟩
/-- FEU_CCNT.LO_COUNT, RW, 16 bits from 0. -/
def FEU_CCNT_LO_COUNT (i : Nat) : FRef := ⟨0x4C000040 + i * 0x4, 0, 16⟩
/-- FEU_CCNT.HI_COUNT, RW, 16 bits from 16. -/
def FEU_CCNT_HI_COUNT (i : Nat) : FRef := ⟨0x4C000040 + i * 0x4, 16, 16⟩
/-- FEU_CSAT.SAT, W1C, 16 bits from 0. -/
def FEU_CSAT_SAT : FRef := ⟨0x4C000060, 0, 16⟩
/-- FEU_SATPEND.ISL, W1C, 32 bits from 0. -/
def FEU_SATPEND_ISL (i : Nat) : FRef := ⟨0x4C000080 + i * 0x4, 0, 32⟩
/-- ISL_STAT.STATE, RO, 2 bits from 0. -/
def ISL_STAT_STATE (n : Nat) : FRef := ⟨0x4C001000 + n * 0x10, 0, 2⟩
/-- ISL_STAT.COLLIDE, W1C, bit 2. -/
def ISL_STAT_COLLIDE (n : Nat) : FRef := ⟨0x4C001000 + n * 0x10, 2, 1⟩
/-- ISL_STAT.RST_SAT, W1C, bit 3. -/
def ISL_STAT_RST_SAT (n : Nat) : FRef := ⟨0x4C001000 + n * 0x10, 3, 1⟩
/-- ISL_CTL.RESET, SC, bit 0. -/
def ISL_CTL_RESET (n : Nat) : FRef := ⟨0x4C001004 + n * 0x10, 0, 1⟩
/-- ISL_COLL.ADDR, RO, 28 bits from 0. -/
def ISL_COLL_ADDR (n : Nat) : FRef := ⟨0x4C001008 + n * 0x10, 0, 28⟩
/-- ISL_CNT.RST_COUNT, RW, 16 bits from 0. -/
def ISL_CNT_RST_COUNT (n : Nat) : FRef := ⟨0x4C00100C + n * 0x10, 0, 16⟩

/-! ### spec/04* (R167) -/

/-- MTR_REC.DATA, RO, 32 bits from 0. -/
def MTR_REC_DATA (m i : Nat) : FRef := ⟨0x41068000 + m * 0x20 + i * 0x4, 0, 32⟩
/-- SG_ACTMAP.MAP, RW, 32 bits from 0. -/
def SG_ACTMAP_MAP (g i : Nat) : FRef := ⟨0x41300000 + g * 0x200 + i * 0x4, 0, 32⟩
/-- SG_GATES.GATE, RO, 32 bits from 0. -/
def SG_GATES_GATE (i : Nat) : FRef := ⟨0x41308000 + i * 0x4, 0, 32⟩

/-! ### spec/08* (R276) -/

/-- SNS_COEF.COEF, RW, 24 bits from 0. -/
def SNS_COEF_COEF (t i : Nat) : FRef := ⟨0x43204000 + t * 0x800 + i * 0x4, 0, 24⟩

end Sys2Proof.Machine
end

