-- ==== Sys2Proof/Machine/RegRows.lean ====
section
/-! DEFINITION. The register map as rows: for each register of spec/ its address, its instances, its reset word and
the access type (R562) of each of its fields. The blocks and spans are those of R558. A register that a table gives
no row reads 0 and ignores writes (R558). -/

namespace Sys2Proof.Machine


/-- Reset of `XB_MCFG` of master `m`: QOS and FPRI by the table of R453, QOVER 1, TAGS 0x80. -/
def resetXbMcfg (a : Nat) : Nat :=
  let m := (a - 0x48000100) / 0x10
  let q := if m < 4 then 6 else if m = 4 then 15 else if m = 5 then 2 else if m = 6 then 10 else if m < 10 then 12
    else if m = 10 then 8 else if m = 11 then 12 else if m = 12 then 6 else if m = 13 then 10 else if m = 14 then 6
    else if m < 0x20 then 12 else 4
  let f := if m < 4 then 0x20 + m else if m = 4 then 0 else if m = 5 then 0x3F else if m = 6 then 3 else if m = 7 then 1
    else if m = 8 then 2 else if m = 9 then 4 else if m = 10 then 7 else if m = 11 then 5 else if m = 12 then 0x24
    else if m = 13 then 6 else if m = 14 then 0x25 else if m < 0x20 then 8 + (m - 16) else 0x30 + (m - 0x20)
  q + 0x10 + f * 0x100 + 0x80 * 0x10000

/-- Reset of `LN_CFG` of lane `n` (R396). -/
def resetLnCfg (a : Nat) : Nat :=
  let n := (a - 0x44000000) / 0x1000
  (if n < 8 then 3 else if n < 12 then 7 else 6) + (if n < 8 then n else 0xF) * 0x10 + 0x100 + 0x800

/-- Reset of `LN_STAT` of lane `n`: ROLEOF is the lane itself (R396). -/
def resetLnStat (a : Nat) : Nat := ((a - 0x44000000) / 0x1000) * 0x200

/-- Reset of `LN_SPCFG` of lane `n` (R396). -/
def resetLnSpcfg (a : Nat) : Nat :=
  let n := (a - 0x44000000) / 0x1000
  if 8 ≤ n ∧ n < 12 then 0xF0FF else 0

/-- Reset of `ETH_TCCFG0`-`7`: LT is 1 for TC6 and TC7 (R427). -/
def resetTccfg (a : Nat) : Nat := if a % 0x20 < 0x18 then 0 else 1

/-- Reset of `PWR_ENT_CFG` of entry `e`: EN is 1 on entries 0-8 (R531). -/
def resetPwrEnt (a : Nat) : Nat := (if (a - 0x4B000100) / 0x10 < 9 then 1 else 0) + 0x32000000

/-- Registers of the block Global. -/
def rowsGlobal : List RegRow := [
  ⟨0x40000000, [], fun _ => 0x8004FB1, [⟨16, 16, .ro⟩, ⟨8, 8, .ro⟩, ⟨0, 8, .ro⟩]⟩,
  ⟨0x40000004, [], fun _ => 0x100113, [⟨0, 9, .ro⟩, ⟨16, 5, .ro⟩]⟩,
  ⟨0x40000008, [], fun _ => 0x0, [⟨0, 32, .rw⟩]⟩,
  ⟨0x4000000C, [], fun _ => 0x1, [⟨0, 1, .ro⟩, ⟨1, 1, .ro⟩]⟩,
  ⟨0x40000010, [], fun _ => 0x0, [⟨0, 32, .ro⟩]⟩,
  ⟨0x40000014, [], fun _ => 0x0, [⟨0, 17, .ro⟩]⟩,
  ⟨0x40000018, [], fun _ => 0x0, [⟨0, 1, .ro⟩, ⟨1, 1, .ro⟩, ⟨8, 1, .w1c⟩, ⟨9, 1, .w1c⟩, ⟨10, 1, .w1c⟩, ⟨11, 1, .w1c⟩, ⟨12, 1, .w1c⟩, ⟨13, 1, .w1c⟩]⟩,
  ⟨0x4000001C, [], fun _ => 0x0, [⟨0, 16, .ro⟩, ⟨16, 9, .ro⟩]⟩,
  ⟨0x40000020, [], fun _ => 0x0, [⟨0, 16, .rw⟩, ⟨16, 16, .rw⟩]⟩,
  ⟨0x40000024, [], fun _ => 0x0, [⟨0, 16, .rw⟩, ⟨16, 16, .rw⟩]⟩,
  ⟨0x40000028, [], fun _ => 0x0, [⟨0, 16, .rw⟩, ⟨16, 16, .rw⟩]⟩]

/-- Registers of the block Tempo. -/
def rowsTempo : List RegRow := [
  ⟨0x40100000, [], fun _ => 0x2, [⟨0, 1, .rw⟩, ⟨1, 1, .rw⟩]⟩,
  ⟨0x40100004, [], fun _ => 0x0, [⟨0, 7, .ro⟩, ⟨8, 1, .w1c⟩, ⟨9, 1, .w1c⟩, ⟨10, 1, .w1c⟩]⟩,
  ⟨0x40100008, [], fun _ => 0x0, [⟨0, 16, .rw⟩, ⟨16, 16, .rw⟩]⟩,
  ⟨0x4010000C, [], fun _ => 0x0, [⟨0, 8, .rwh⟩]⟩,
  ⟨0x40100010, [], fun _ => 0x0, [⟨0, 1, .sc⟩]⟩,
  ⟨0x40100014, [], fun _ => 0x0, [⟨0, 32, .ro⟩]⟩,
  ⟨0x40100018, [], fun _ => 0x0, [⟨0, 4, .ro⟩, ⟨4, 4, .ro⟩, ⟨8, 6, .ro⟩, ⟨16, 4, .ro⟩, ⟨20, 3, .ro⟩]⟩,
  ⟨0x4010001C, [], fun _ => 0x0, [⟨0, 16, .ro⟩, ⟨16, 16, .ro⟩]⟩,
  ⟨0x40100020, [], fun _ => 0x0, [⟨0, 32, .ro⟩]⟩]

/-- Registers of the block Pods, part 0. -/
def rowsPods0 : List RegRow := [
  ⟨0x40200000, [(0x10000, 16)], fun _ => 0x2, [⟨0, 1, .rw⟩, ⟨1, 1, .rw⟩]⟩,
  ⟨0x40200004, [(0x10000, 16)], fun _ => 0xF000, [⟨0, 9, .ro⟩, ⟨12, 4, .ro⟩, ⟨16, 1, .ro⟩, ⟨17, 1, .w1c⟩, ⟨18, 1, .w1c⟩]⟩,
  ⟨0x40200008, [(0x10000, 16)], fun _ => 0x0, [⟨0, 8, .rw⟩, ⟨8, 8, .rw⟩]⟩,
  ⟨0x4020000C, [(0x10000, 16)], fun _ => 0x0, [⟨0, 14, .rw⟩, ⟨16, 15, .rw⟩]⟩,
  ⟨0x40200010, [(0x10000, 16)], fun _ => 0x0, [⟨0, 16, .rw⟩, ⟨16, 16, .rw⟩]⟩,
  ⟨0x40200014, [(0x10000, 16)], fun _ => 0x0, [⟨0, 16, .rw⟩, ⟨16, 16, .rw⟩]⟩,
  ⟨0x40200018, [(0x10000, 16)], fun _ => 0x0, [⟨0, 4, .rw⟩, ⟨8, 1, .sc⟩]⟩,
  ⟨0x40200040, [(0x10000, 16)], fun _ => 0x400000, [⟨0, 20, .rw⟩, ⟨20, 4, .rw⟩, ⟨31, 1, .rw⟩]⟩,
  ⟨0x40200044, [(0x10000, 16)], fun _ => 0x0, [⟨0, 10, .ro⟩]⟩,
  ⟨0x40200048, [(0x10000, 16)], fun _ => 0x0, [⟨0, 10, .rw⟩]⟩,
  ⟨0x4020004C, [(0x10000, 16)], fun _ => 0x0, [⟨0, 1, .ro⟩, ⟨1, 1, .w1c⟩, ⟨16, 10, .ro⟩]⟩,
  ⟨0x40201000, [(0x10000, 16), (0x1000, 9), (0x20, 64)], fun _ => 0x0, [⟨0, 1, .rw⟩, ⟨1, 1, .rw⟩, ⟨2, 1, .rw⟩, ⟨3, 1, .rw⟩, ⟨4, 2, .rw⟩, ⟨8, 6, .rw⟩, ⟨16, 14, .rw⟩]⟩,
  ⟨0x40201004, [(0x10000, 16), (0x1000, 9), (0x20, 64)], fun _ => 0x0, [⟨0, 16, .rw⟩, ⟨16, 16, .rw⟩]⟩,
  ⟨0x40201008, [(0x10000, 16), (0x1000, 9), (0x20, 64)], fun _ => 0x0, [⟨0, 9, .rw⟩, ⟨10, 10, .rw⟩]⟩,
  ⟨0x4020100C, [(0x10000, 16), (0x1000, 9), (0x20, 64)], fun _ => 0x0, [⟨0, 20, .rw⟩]⟩,
  ⟨0x40201010, [(0x10000, 16), (0x1000, 9), (0x20, 64)], fun _ => 0x0, [⟨0, 6, .rw⟩, ⟨8, 6, .rw⟩, ⟨16, 6, .rw⟩, ⟨24, 6, .rw⟩]⟩]

/-- Registers of the block Pods, part 1. -/
def rowsPods1 : List RegRow := [
  ⟨0x40201014, [(0x10000, 16), (0x1000, 9), (0x20, 64)], fun _ => 0xF1803, [⟨0, 4, .rw⟩, ⟨8, 8, .rw⟩, ⟨16, 4, .rw⟩, ⟨24, 6, .rw⟩]⟩,
  ⟨0x40201018, [(0x10000, 16), (0x1000, 9), (0x20, 64)], fun _ => 0x0, [⟨0, 6, .rwh⟩, ⟨8, 6, .rwh⟩, ⟨16, 6, .rwh⟩, ⟨24, 6, .rwh⟩, ⟨6, 1, .w1c⟩, ⟨14, 1, .w1c⟩, ⟨22, 1, .w1c⟩, ⟨30, 1, .w1c⟩]⟩,
  ⟨0x4020101C, [(0x10000, 16), (0x1000, 9), (0x20, 64)], fun _ => 0x0, [⟨0, 1, .sc⟩, ⟨8, 1, .ro⟩, ⟨9, 1, .ro⟩, ⟨10, 1, .ro⟩, ⟨16, 6, .w1c⟩, ⟨24, 1, .w1c⟩, ⟨25, 1, .w1c⟩]⟩,
  ⟨0x40201800, [(0x10000, 16), (0x1000, 9), (0x4, 64)], fun _ => 0x0, [⟨0, 16, .rw⟩, ⟨16, 16, .rw⟩]⟩,
  ⟨0x40201900, [(0x10000, 16), (0x1000, 9), (0x4, 64)], fun _ => 0x0, [⟨0, 1, .rw⟩, ⟨4, 4, .rw⟩, ⟨8, 4, .rw⟩, ⟨16, 6, .rw⟩, ⟨24, 2, .rw⟩]⟩,
  ⟨0x40201A00, [(0x10000, 16), (0x1000, 9)], fun _ => 0x0, [⟨0, 2, .ro⟩, ⟨2, 1, .w1c⟩, ⟨3, 1, .w1c⟩, ⟨4, 1, .w1c⟩, ⟨5, 1, .w1c⟩, ⟨8, 6, .ro⟩, ⟨16, 16, .ro⟩]⟩,
  ⟨0x40201A04, [(0x10000, 16), (0x1000, 9)], fun _ => 0x0, [⟨0, 16, .rw⟩, ⟨16, 16, .rw⟩]⟩,
  ⟨0x40201A08, [(0x10000, 16), (0x1000, 9)], fun _ => 0x0, [⟨0, 16, .rw⟩, ⟨16, 16, .rw⟩]⟩]

/-- Registers of the block SignalGraph, part 0. -/
def rowsSignalGraph0 : List RegRow := [
  ⟨0x41000000, [], fun _ => 0x0, [⟨0, 1, .rw⟩]⟩,
  ⟨0x41000004, [], fun _ => 0x0, [⟨0, 1, .w1c⟩, ⟨1, 1, .w1c⟩, ⟨2, 4, .w1c⟩, ⟨6, 1, .w1c⟩, ⟨7, 1, .w1c⟩]⟩,
  ⟨0x41000008, [], fun _ => 0x0, [⟨0, 32, .rw⟩]⟩,
  ⟨0x4100000C, [], fun _ => 0x0, [⟨0, 1, .rw⟩, ⟨1, 1, .sc⟩, ⟨4, 2, .ro⟩]⟩,
  ⟨0x41000010, [(0x4, 4)], fun _ => 0xA0000000, [⟨0, 16, .rw⟩, ⟨16, 16, .rw⟩]⟩,
  ⟨0x41000020, [(0x4, 2)], fun _ => 0xFFFFFFFF, [⟨0, 32, .rw⟩]⟩,
  ⟨0x41000028, [], fun _ => 0x1, [⟨0, 1, .ro⟩]⟩,
  ⟨0x41000030, [(0x4, 2)], fun _ => 0x0, [⟨0, 32, .ro⟩]⟩,
  ⟨0x41000040, [], fun _ => 0x0, [⟨0, 16, .rw⟩, ⟨16, 16, .rw⟩]⟩,
  ⟨0x41010000, [(0x4, 4096)], fun _ => 0x0, [⟨0, 3, .rw⟩, ⟨3, 13, .rw⟩, ⟨16, 1, .ro⟩]⟩,
  ⟨0x41020000, [(0x10, 4096)], fun _ => 0x2BFF0000, [⟨0, 1, .rw⟩, ⟨1, 3, .rw⟩, ⟨4, 12, .rw⟩, ⟨16, 10, .rw⟩, ⟨26, 1, .rw⟩, ⟨27, 5, .rw⟩]⟩,
  ⟨0x41020004, [(0x10, 4096)], fun _ => 0x0, [⟨0, 14, .rw⟩]⟩,
  ⟨0x41020008, [(0x10, 4096)], fun _ => 0x640000, [⟨0, 16, .rw⟩, ⟨16, 15, .rw⟩, ⟨31, 1, .rw⟩]⟩,
  ⟨0x4102000C, [(0x10, 4096)], fun _ => 0x0, [⟨0, 1, .ro⟩, ⟨1, 1, .ro⟩]⟩,
  ⟨0x41030000, [(0x8, 512)], fun _ => 0x0, [⟨0, 1, .rw⟩, ⟨1, 12, .ro⟩]⟩,
  ⟨0x41030004, [(0x8, 512)], fun _ => 0x0, [⟨0, 4, .rw⟩, ⟨4, 4, .rw⟩, ⟨8, 6, .rw⟩, ⟨16, 2, .rw⟩]⟩]

/-- Registers of the block SignalGraph, part 1. -/
def rowsSignalGraph1 : List RegRow := [
  ⟨0x41040000, [(0x10, 3072)], fun _ => 0x35A01, [⟨0, 1, .rw⟩, ⟨1, 3, .rw⟩, ⟨4, 2, .rw⟩, ⟨6, 1, .rw⟩, ⟨8, 7, .rw⟩, ⟨16, 3, .rw⟩]⟩,
  ⟨0x41040004, [(0x10, 3072)], fun _ => 0x640000, [⟨0, 16, .rw⟩, ⟨16, 15, .rw⟩, ⟨31, 1, .rw⟩]⟩,
  ⟨0x41040008, [(0x10, 3072)], fun _ => 0x7D0, [⟨0, 22, .rw⟩]⟩,
  ⟨0x4104000C, [(0x10, 3072)], fun _ => 0x0, [⟨0, 1, .ro⟩, ⟨1, 1, .ro⟩, ⟨8, 24, .ro⟩]⟩,
  ⟨0x41050000, [(0x10, 256)], fun _ => 0xC800, [⟨0, 1, .rw⟩, ⟨1, 2, .rw⟩, ⟨3, 1, .rw⟩, ⟨4, 2, .rw⟩, ⟨8, 15, .rw⟩]⟩,
  ⟨0x41050004, [(0x10, 256)], fun _ => 0x0, [⟨0, 18, .rw⟩, ⟨18, 11, .rw⟩]⟩,
  ⟨0x41050008, [(0x10, 256)], fun _ => 0x640000, [⟨0, 16, .rw⟩, ⟨16, 15, .rw⟩, ⟨31, 1, .rw⟩]⟩,
  ⟨0x4105000C, [(0x10, 256)], fun _ => 0x0, [⟨0, 16, .rw⟩, ⟨16, 11, .ro⟩, ⟨27, 1, .w1c⟩]⟩,
  ⟨0x41080000, [(0x8, 262144)], fun _ => 0x0, [⟨0, 12, .rw⟩, ⟨12, 1, .rw⟩, ⟨13, 1, .rw⟩, ⟨14, 1, .rw⟩]⟩,
  ⟨0x41080004, [(0x8, 262144)], fun _ => 0x640000, [⟨0, 16, .rw⟩, ⟨16, 15, .rw⟩, ⟨31, 1, .rw⟩]⟩,
  ⟨0x41060000, [(0x8, 1024)], fun _ => 0x9600000, [⟨0, 1, .rw⟩, ⟨1, 1, .rw⟩, ⟨16, 16, .rw⟩]⟩,
  ⟨0x41060004, [(0x8, 1024)], fun _ => 0x7FFFFF, [⟨0, 24, .rw⟩]⟩,
  ⟨0x41068000, [(0x20, 1024), (0x4, 8)], fun _ => 0x0, [⟨0, 32, .ro⟩]⟩,
  ⟨0x41300000, [(0x200, 64), (0x4, 96)], fun _ => 0x0, [⟨0, 32, .rw⟩]⟩,
  ⟨0x41308000, [(0x4, 96)], fun _ => 0x0, [⟨0, 32, .ro⟩]⟩]

/-- Registers of the block Bridges. -/
def rowsBridges : List RegRow := [
  ⟨0x42000000, [(0x40, 64)], fun _ => 0x530, [⟨0, 1, .rw⟩, ⟨1, 2, .rw⟩, ⟨3, 1, .rw⟩, ⟨4, 3, .rw⟩, ⟨8, 8, .rw⟩]⟩,
  ⟨0x42000004, [(0x40, 64)], fun _ => 0x0, [⟨0, 3, .ro⟩, ⟨3, 1, .ro⟩, ⟨8, 1, .w1c⟩, ⟨9, 1, .w1c⟩, ⟨10, 1, .w1c⟩]⟩,
  ⟨0x42000008, [(0x40, 64)], fun _ => 0x0, [⟨0, 24, .ro⟩]⟩,
  ⟨0x4200000C, [(0x40, 64)], fun _ => 0x0, [⟨0, 16, .ro⟩, ⟨16, 16, .ro⟩]⟩,
  ⟨0x42000010, [(0x40, 64)], fun _ => 0x0, [⟨0, 24, .ro⟩]⟩,
  ⟨0x42000014, [(0x40, 64)], fun _ => 0x0, [⟨0, 16, .rw⟩, ⟨16, 16, .rw⟩]⟩,
  ⟨0x42001000, [], fun _ => 0x0, [⟨0, 1, .ro⟩, ⟨1, 1, .w1c⟩, ⟨2, 1, .w1c⟩]⟩,
  ⟨0x42001004, [], fun _ => 0x0, [⟨0, 24, .ro⟩]⟩,
  ⟨0x42001008, [], fun _ => 0x0, [⟨0, 24, .ro⟩]⟩,
  ⟨0x4200100C, [], fun _ => 0x0, [⟨0, 16, .rw⟩, ⟨16, 16, .rw⟩]⟩,
  ⟨0x42002000, [], fun _ => 0x0, [⟨0, 32, .ro⟩]⟩,
  ⟨0x42002004, [], fun _ => 0x0, [⟨0, 32, .ro⟩]⟩]

/-- Registers of the block Modulators. -/
def rowsModulators : List RegRow := [
  ⟨0x43000000, [(0x400, 72)], fun _ => 0x2800, [⟨0, 1, .rw⟩, ⟨1, 1, .rw⟩, ⟨2, 3, .rw⟩, ⟨8, 8, .rw⟩]⟩,
  ⟨0x43000004, [(0x400, 72)], fun _ => 0x2710, [⟨0, 16, .rw⟩]⟩,
  ⟨0x43000008, [(0x400, 72)], fun _ => 0x2, [⟨0, 1, .rw⟩, ⟨1, 1, .rw⟩, ⟨4, 2, .ro⟩]⟩,
  ⟨0x4300000C, [(0x400, 72)], fun _ => 0x0, [⟨0, 1, .rw⟩]⟩,
  ⟨0x43000010, [(0x400, 72)], fun _ => 0x0, [⟨0, 3, .ro⟩, ⟨3, 3, .ro⟩, ⟨6, 1, .w1c⟩, ⟨7, 1, .w1c⟩, ⟨8, 1, .w1c⟩, ⟨9, 1, .w1c⟩, ⟨10, 1, .w1c⟩]⟩,
  ⟨0x43000014, [(0x400, 72)], fun _ => 0x0, [⟨0, 16, .ro⟩, ⟨16, 16, .ro⟩]⟩,
  ⟨0x43000018, [(0x400, 72)], fun _ => 0x0, [⟨0, 16, .rw⟩, ⟨16, 16, .rw⟩]⟩,
  ⟨0x4300001C, [(0x400, 72)], fun _ => 0x0, [⟨0, 16, .rw⟩, ⟨16, 16, .rw⟩]⟩,
  ⟨0x43020000, [(0x40, 18)], fun _ => 0x0, [⟨0, 2, .rw⟩, ⟨2, 1, .rw⟩, ⟨4, 6, .rw⟩]⟩,
  ⟨0x43020004, [(0x40, 18)], fun _ => 0x641464, [⟨0, 8, .rw⟩, ⟨8, 8, .rw⟩, ⟨16, 16, .rw⟩]⟩,
  ⟨0x43020008, [(0x40, 18)], fun _ => 0x3E80140A, [⟨0, 8, .rw⟩, ⟨10, 11, .rw⟩, ⟨21, 11, .rw⟩]⟩,
  ⟨0x4302000C, [(0x40, 18)], fun _ => 0x20, [⟨0, 3, .ro⟩, ⟨3, 1, .ro⟩, ⟨4, 1, .ro⟩, ⟨5, 1, .ro⟩, ⟨6, 1, .w1c⟩, ⟨7, 1, .w1c⟩, ⟨8, 1, .w1c⟩, ⟨9, 1, .w1c⟩]⟩,
  ⟨0x43020010, [(0x40, 18)], fun _ => 0x0, [⟨0, 16, .rw⟩, ⟨16, 16, .rw⟩]⟩,
  ⟨0x43020014, [(0x40, 18)], fun _ => 0x0, [⟨0, 16, .rw⟩]⟩,
  ⟨0x43030000, [], fun _ => 0xA004800, [⟨0, 1, .rw⟩, ⟨8, 7, .rw⟩, ⟨16, 2, .rw⟩, ⟨24, 6, .rw⟩]⟩]

/-- Registers of the block Rails. -/
def rowsRails : List RegRow := [
  ⟨0x43100000, [(0x100, 8)], fun _ => 0x0, [⟨0, 1, .rw⟩, ⟨1, 1, .rw⟩, ⟨2, 1, .rw⟩, ⟨4, 6, .rw⟩]⟩,
  ⟨0x43100004, [(0x100, 8)], fun _ => 0x0, [⟨0, 16, .rw⟩]⟩,
  ⟨0x43100008, [(0x100, 8)], fun _ => 0x0, [⟨0, 16, .rw⟩]⟩,
  ⟨0x4310000C, [(0x100, 8)], fun _ => 0x0, [⟨0, 16, .rw⟩, ⟨16, 16, .rw⟩]⟩,
  ⟨0x43100010, [(0x100, 8)], fun _ => 0x12C0000, [⟨0, 16, .rw⟩, ⟨16, 16, .rw⟩]⟩,
  ⟨0x43100014, [(0x100, 8)], fun _ => 0x271003E8, [⟨0, 16, .rw⟩, ⟨16, 16, .rw⟩]⟩,
  ⟨0x43100018, [(0x100, 8)], fun _ => 0x1F4, [⟨0, 16, .rw⟩]⟩,
  ⟨0x4310001C, [(0x100, 8)], fun _ => 0x3E8, [⟨0, 16, .rw⟩]⟩,
  ⟨0x43100020, [(0x100, 8)], fun _ => 0x0, [⟨0, 16, .ro⟩, ⟨16, 4, .ro⟩, ⟨20, 1, .ro⟩, ⟨21, 1, .ro⟩]⟩,
  ⟨0x43100024, [(0x100, 8)], fun _ => 0x0, [⟨0, 16, .ro⟩]⟩,
  ⟨0x43100028, [(0x100, 8)], fun _ => 0x0, [⟨0, 1, .w1c⟩, ⟨1, 1, .w1c⟩]⟩,
  ⟨0x4310002C, [(0x100, 8)], fun _ => 0x0, [⟨0, 16, .rw⟩]⟩]

/-- Registers of the block Sense, part 0. -/
def rowsSense0 : List RegRow := [
  ⟨0x43200000, [], fun _ => 0x0, [⟨0, 1, .rw⟩, ⟨1, 1, .rw⟩, ⟨2, 1, .rw⟩]⟩,
  ⟨0x43200004, [], fun _ => 0x0, [⟨0, 1, .ro⟩, ⟨1, 1, .w1c⟩]⟩,
  ⟨0x43200008, [], fun _ => 0x0, [⟨0, 32, .ro⟩]⟩,
  ⟨0x4320000C, [], fun _ => 0x0, [⟨0, 32, .ro⟩]⟩,
  ⟨0x43200010, [(0x4, 5)], fun _ => 0x0, [⟨0, 32, .ro⟩]⟩,
  ⟨0x43200030, [(0x4, 5)], fun _ => 0x0, [⟨0, 32, .w1c⟩]⟩,
  ⟨0x43200100, [(0x8, 8)], fun _ => 0x0, [⟨0, 9, .rw⟩, ⟨9, 1, .rw⟩]⟩,
  ⟨0x43200104, [(0x8, 8)], fun _ => 0x0, [⟨0, 24, .rwh⟩]⟩,
  ⟨0x43201000, [(0x20, 152)], fun _ => 0x300, [⟨0, 1, .rw⟩, ⟨1, 1, .rw⟩, ⟨4, 4, .rw⟩, ⟨8, 3, .rw⟩, ⟨12, 4, .rw⟩]⟩,
  ⟨0x43201004, [(0x20, 152)], fun _ => 0x80000000, [⟨0, 16, .rw⟩, ⟨16, 16, .rw⟩]⟩,
  ⟨0x43201008, [(0x20, 152)], fun _ => 0x80000000, [⟨0, 16, .rw⟩, ⟨16, 16, .rw⟩]⟩,
  ⟨0x4320100C, [(0x20, 152)], fun _ => 0x808, [⟨0, 8, .rw⟩, ⟨8, 8, .rw⟩]⟩,
  ⟨0x43201010, [(0x20, 152)], fun _ => 0x0, [⟨0, 1, .ro⟩, ⟨1, 1, .ro⟩, ⟨2, 1, .ro⟩, ⟨3, 1, .ro⟩, ⟨4, 1, .ro⟩, ⟨5, 1, .ro⟩, ⟨8, 1, .w1c⟩, ⟨9, 1, .w1c⟩, ⟨10, 1, .w1c⟩, ⟨11, 1, .w1c⟩]⟩,
  ⟨0x43201014, [(0x20, 152)], fun _ => 0x0, [⟨0, 24, .ro⟩]⟩,
  ⟨0x43201018, [(0x20, 152)], fun _ => 0x0, [⟨0, 24, .ro⟩]⟩,
  ⟨0x4320101C, [(0x20, 152)], fun _ => 0x0, [⟨0, 16, .rw⟩, ⟨16, 16, .rw⟩]⟩]

/-- Registers of the block Sense, part 1. -/
def rowsSense1 : List RegRow := [
  ⟨0x43204000, [(0x800, 8), (0x4, 512)], fun _ => 0x0, [⟨0, 24, .rw⟩]⟩]

/-- Registers of the block Lanes. -/
def rowsLanes : List RegRow := [
  ⟨0x44000000, [(0x1000, 16)], resetLnCfg, [⟨0, 4, .rw⟩, ⟨4, 4, .rw⟩, ⟨8, 1, .rw⟩, ⟨9, 1, .rw⟩, ⟨10, 1, .rw⟩, ⟨11, 1, .rw⟩]⟩,
  ⟨0x44000004, [(0x1000, 16)], fun _ => 0x0, [⟨0, 1, .sc⟩, ⟨1, 1, .sc⟩, ⟨2, 1, .sc⟩, ⟨3, 1, .sc⟩]⟩,
  ⟨0x44000008, [(0x1000, 16)], resetLnStat, [⟨0, 4, .ro⟩, ⟨4, 1, .ro⟩, ⟨5, 1, .ro⟩, ⟨6, 1, .ro⟩, ⟨7, 2, .ro⟩, ⟨9, 4, .ro⟩, ⟨13, 1, .w1c⟩, ⟨14, 1, .w1c⟩, ⟨15, 1, .w1c⟩, ⟨16, 1, .w1c⟩, ⟨17, 1, .w1c⟩, ⟨18, 1, .w1c⟩]⟩,
  ⟨0x4400000C, [(0x1000, 16)], fun _ => 0x380602, [⟨0, 4, .rwh⟩, ⟨8, 5, .rwh⟩, ⟨16, 6, .ro⟩, ⟨31, 1, .rw⟩]⟩,
  ⟨0x44000010, [(0x1000, 16)], fun _ => 0x6, [⟨0, 4, .rwh⟩, ⟨4, 1, .rw⟩]⟩,
  ⟨0x44000014, [(0x1000, 16)], fun _ => 0x0, [⟨0, 6, .rwh⟩, ⟨6, 6, .rwh⟩, ⟨12, 6, .rwh⟩, ⟨18, 6, .rwh⟩, ⟨24, 6, .rwh⟩]⟩,
  ⟨0x44000018, [(0x1000, 16)], fun _ => 0x0, [⟨0, 6, .rw⟩, ⟨8, 7, .rw⟩, ⟨16, 4, .rw⟩, ⟨30, 1, .ro⟩, ⟨31, 1, .sc⟩]⟩,
  ⟨0x4400001C, [(0x1000, 16)], fun _ => 0x0, [⟨0, 32, .ro⟩]⟩,
  ⟨0x44000020, [(0x1000, 16)], fun _ => 0x0, [⟨0, 16, .rw⟩, ⟨16, 16, .rw⟩]⟩,
  ⟨0x44000024, [(0x1000, 16)], fun _ => 0x0, [⟨0, 16, .rw⟩, ⟨16, 16, .rw⟩]⟩,
  ⟨0x44000028, [(0x1000, 16)], resetLnSpcfg, [⟨0, 16, .rw⟩]⟩,
  ⟨0x4400002C, [(0x1000, 16)], fun _ => 0x40801, [⟨0, 2, .rw⟩, ⟨2, 1, .rw⟩, ⟨8, 11, .rw⟩]⟩,
  ⟨0x44000030, [(0x1000, 16)], fun _ => 0x0, [⟨0, 32, .rw⟩]⟩,
  ⟨0x44010000, [], fun _ => 0xFEDC, [⟨0, 4, .ro⟩, ⟨4, 4, .ro⟩, ⟨8, 4, .ro⟩, ⟨12, 4, .ro⟩]⟩,
  ⟨0x44010004, [], fun _ => 0x0, [⟨0, 16, .ro⟩]⟩]

/-- Registers of the block Macs, part 0. -/
def rowsMacs0 : List RegRow := [
  ⟨0x44100000, [(0x400, 12)], fun _ => 0x5F20, [⟨0, 1, .rw⟩, ⟨4, 14, .rw⟩]⟩,
  ⟨0x44100004, [(0x400, 12)], fun _ => 0x0, [⟨0, 32, .rw⟩]⟩,
  ⟨0x44100008, [(0x400, 12)], fun _ => 0x10000, [⟨0, 16, .rw⟩, ⟨16, 12, .rw⟩]⟩,
  ⟨0x4410000C, [(0x400, 12)], fun _ => 0xFAC688, [⟨0, 24, .rw⟩]⟩,
  ⟨0x44100010, [(0x400, 12), (0x4, 8)], fun _ => 0x0, [⟨0, 12, .rw⟩, ⟨12, 1, .rw⟩]⟩,
  ⟨0x44100030, [(0x400, 12)], fun _ => 0x0, [⟨0, 1, .rw⟩, ⟨8, 8, .rw⟩, ⟨16, 8, .ro⟩]⟩,
  ⟨0x44100040, [(0x400, 12), (0x4, 8)], resetTccfg, [⟨0, 1, .rw⟩, ⟨1, 1, .rw⟩, ⟨8, 24, .rw⟩]⟩,
  ⟨0x44100080, [(0x400, 12)], fun _ => 0x3E8, [⟨0, 14, .rw⟩]⟩,
  ⟨0x44100084, [(0x400, 12)], fun _ => 0x0, [⟨0, 1, .rw⟩, ⟨16, 16, .rw⟩]⟩,
  ⟨0x44100088, [(0x400, 12)], fun _ => 0x0, [⟨0, 1, .ro⟩, ⟨1, 1, .ro⟩, ⟨2, 1, .ro⟩, ⟨8, 1, .w1c⟩, ⟨9, 1, .w1c⟩, ⟨10, 1, .w1c⟩, ⟨11, 1, .w1c⟩, ⟨12, 1, .w1c⟩, ⟨13, 1, .w1c⟩, ⟨14, 1, .w1c⟩, ⟨15, 1, .w1c⟩, ⟨16, 1, .w1c⟩, ⟨17, 1, .w1c⟩]⟩,
  ⟨0x44100090, [(0x400, 12)], fun _ => 0x0, [⟨0, 32, .rw⟩]⟩,
  ⟨0x44100094, [(0x400, 12)], fun _ => 0x0, [⟨0, 32, .rw⟩]⟩,
  ⟨0x44100098, [(0x400, 12)], fun _ => 0x0, [⟨0, 16, .rw⟩, ⟨16, 16, .rw⟩]⟩,
  ⟨0x4410009C, [(0x400, 12)], fun _ => 0x0, [⟨0, 16, .rw⟩, ⟨16, 16, .rw⟩]⟩,
  ⟨0x441000A0, [(0x400, 12)], fun _ => 0x0, [⟨0, 16, .rw⟩, ⟨16, 16, .rw⟩]⟩,
  ⟨0x441000A4, [(0x400, 12)], fun _ => 0x0, [⟨0, 16, .rw⟩, ⟨16, 16, .rw⟩]⟩]

/-- Registers of the block Macs, part 1. -/
def rowsMacs1 : List RegRow := [
  ⟨0x441000A8, [(0x400, 12)], fun _ => 0x0, [⟨0, 16, .rw⟩]⟩]

/-- Registers of the block Streams, part 0. -/
def rowsStreams0 : List RegRow := [
  ⟨0x44200000, [(0x40, 512)], fun _ => 0x0, [⟨0, 1, .rw⟩, ⟨1, 1, .rw⟩, ⟨2, 1, .rw⟩, ⟨3, 1, .rw⟩, ⟨4, 1, .rw⟩, ⟨5, 1, .rw⟩, ⟨8, 4, .rw⟩, ⟨12, 4, .rw⟩, ⟨16, 11, .rw⟩]⟩,
  ⟨0x44200004, [(0x40, 512)], fun _ => 0x20000, [⟨0, 7, .rw⟩, ⟨8, 3, .rw⟩, ⟨16, 6, .rw⟩]⟩,
  ⟨0x44200008, [(0x40, 512), (0x4, 2)], fun _ => 0x0, [⟨0, 32, .rw⟩]⟩,
  ⟨0x44200010, [(0x40, 512), (0x4, 2)], fun _ => 0x0, [⟨0, 32, .rw⟩]⟩,
  ⟨0x44200018, [(0x40, 512)], fun _ => 0x0, [⟨0, 32, .rw⟩]⟩,
  ⟨0x4420001C, [(0x40, 512)], fun _ => 0x0, [⟨0, 32, .rw⟩]⟩,
  ⟨0x44200020, [(0x40, 512)], fun _ => 0x0, [⟨0, 12, .rw⟩, ⟨16, 12, .rw⟩]⟩,
  ⟨0x44200024, [(0x40, 512)], fun _ => 0x32, [⟨0, 16, .rw⟩]⟩,
  ⟨0x44200028, [(0x40, 512)], fun _ => 0x0, [⟨0, 32, .rw⟩]⟩,
  ⟨0x4420002C, [(0x40, 512)], fun _ => 0x0, [⟨0, 1, .sc⟩]⟩,
  ⟨0x44200030, [(0x40, 512)], fun _ => 0x0, [⟨0, 2, .ro⟩, ⟨2, 1, .ro⟩, ⟨3, 1, .ro⟩, ⟨4, 1, .ro⟩, ⟨8, 1, .w1c⟩, ⟨9, 1, .w1c⟩, ⟨10, 1, .w1c⟩, ⟨11, 1, .w1c⟩]⟩,
  ⟨0x44200034, [(0x40, 512)], fun _ => 0x0, [⟨0, 16, .rw⟩, ⟨16, 16, .rw⟩]⟩,
  ⟨0x44200038, [(0x40, 512)], fun _ => 0x0, [⟨0, 16, .rw⟩, ⟨16, 16, .rw⟩]⟩,
  ⟨0x4420003C, [(0x40, 512)], fun _ => 0x0, [⟨0, 16, .rw⟩, ⟨16, 16, .rw⟩]⟩,
  ⟨0x44208000, [(0x40, 512)], fun _ => 0x600, [⟨0, 1, .rw⟩, ⟨1, 1, .rw⟩, ⟨2, 1, .rw⟩, ⟨3, 1, .rw⟩, ⟨4, 4, .rw⟩, ⟨8, 3, .rw⟩, ⟨16, 11, .rw⟩]⟩,
  ⟨0x44208004, [(0x40, 512)], fun _ => 0x0, [⟨0, 7, .rw⟩, ⟨8, 3, .rw⟩, ⟨16, 16, .rw⟩]⟩]

/-- Registers of the block Streams, part 1. -/
def rowsStreams1 : List RegRow := [
  ⟨0x44208008, [(0x40, 512)], fun _ => 0x0, [⟨0, 32, .rw⟩]⟩,
  ⟨0x4420800C, [(0x40, 512)], fun _ => 0x0, [⟨0, 16, .rw⟩]⟩,
  ⟨0x44208010, [(0x40, 512)], fun _ => 0x0, [⟨0, 32, .rw⟩]⟩,
  ⟨0x44208014, [(0x40, 512)], fun _ => 0x0, [⟨0, 32, .rw⟩]⟩,
  ⟨0x44208018, [(0x40, 512)], fun _ => 0x0, [⟨0, 32, .rw⟩]⟩,
  ⟨0x4420801C, [(0x40, 512)], fun _ => 0x138C138C, [⟨0, 16, .rw⟩, ⟨16, 16, .rw⟩]⟩,
  ⟨0x44208020, [(0x40, 512)], fun _ => 0x222060, [⟨0, 7, .rw⟩, ⟨8, 8, .rw⟩, ⟨16, 6, .rw⟩]⟩,
  ⟨0x44208024, [(0x40, 512)], fun _ => 0x3000, [⟨0, 12, .rw⟩, ⟨12, 3, .rw⟩]⟩,
  ⟨0x44208028, [(0x40, 512)], fun _ => 0x0, [⟨0, 32, .rw⟩]⟩,
  ⟨0x4420802C, [(0x40, 512)], fun _ => 0x0, [⟨0, 1, .sc⟩]⟩,
  ⟨0x44208030, [(0x40, 512)], fun _ => 0x0, [⟨0, 2, .ro⟩, ⟨2, 1, .ro⟩, ⟨3, 1, .ro⟩, ⟨4, 1, .w1c⟩]⟩,
  ⟨0x44208034, [(0x40, 512)], fun _ => 0x0, [⟨0, 16, .rw⟩]⟩,
  ⟨0x44208038, [(0x40, 512)], fun _ => 0x0, [⟨0, 32, .rw⟩]⟩,
  ⟨0x44210000, [], fun _ => 0x0, [⟨0, 1, .w1c⟩]⟩,
  ⟨0x44210010, [(0x4, 16)], fun _ => 0x0, [⟨0, 32, .ro⟩]⟩,
  ⟨0x44210050, [(0x4, 16)], fun _ => 0x0, [⟨0, 32, .ro⟩]⟩]

/-- Registers of the block Macsec. -/
def rowsMacsec : List RegRow := [
  ⟨0x44300000, [(0x200, 12)], fun _ => 0x1C, [⟨0, 1, .rw⟩, ⟨1, 2, .rw⟩, ⟨3, 1, .rw⟩, ⟨4, 1, .rw⟩]⟩,
  ⟨0x44300004, [(0x200, 12)], fun _ => 0x0, [⟨0, 32, .rw⟩]⟩,
  ⟨0x44300008, [(0x200, 12)], fun _ => 0x0, [⟨0, 16, .rw⟩]⟩,
  ⟨0x4430000C, [(0x200, 12)], fun _ => 0x0, [⟨0, 2, .ro⟩, ⟨2, 1, .ro⟩, ⟨3, 1, .w1c⟩, ⟨4, 1, .ro⟩, ⟨5, 1, .ro⟩]⟩,
  ⟨0x44300010, [(0x200, 12)], fun _ => 0x0, [⟨0, 32, .ro⟩]⟩,
  ⟨0x44300014, [(0x200, 12)], fun _ => 0x0, [⟨0, 32, .ro⟩]⟩,
  ⟨0x44300018, [(0x200, 12)], fun _ => 0x0, [⟨0, 16, .rw⟩, ⟨16, 16, .rw⟩]⟩,
  ⟨0x4430001C, [(0x200, 12)], fun _ => 0x0, [⟨0, 16, .rw⟩, ⟨16, 16, .rw⟩]⟩,
  ⟨0x44300020, [(0x200, 12)], fun _ => 0x0, [⟨0, 1, .w1c⟩, ⟨1, 1, .w1c⟩, ⟨2, 1, .w1c⟩, ⟨3, 1, .w1c⟩]⟩,
  ⟨0x44300040, [(0x200, 12), (0x8, 16)], fun _ => 0x0, [⟨0, 32, .rw⟩]⟩,
  ⟨0x44300044, [(0x200, 12), (0x8, 16)], fun _ => 0x0, [⟨0, 32, .rw⟩]⟩]

/-- Registers of the block FieldBus, part 0. -/
def rowsFieldBus0 : List RegRow := [
  ⟨0x44400000, [(0x100, 4)], fun _ => 0x80000, [⟨0, 1, .rw⟩, ⟨1, 1, .rw⟩, ⟨8, 8, .rw⟩, ⟨16, 8, .rw⟩]⟩,
  ⟨0x44400004, [(0x100, 4)], fun _ => 0x800020, [⟨0, 8, .rw⟩, ⟨8, 8, .rw⟩, ⟨16, 8, .rw⟩]⟩,
  ⟨0x44400008, [(0x100, 4)], fun _ => 0x0, [⟨0, 32, .rw⟩]⟩,
  ⟨0x4440000C, [(0x100, 4)], fun _ => 0x0, [⟨0, 16, .rw⟩]⟩,
  ⟨0x44400010, [(0x100, 4)], fun _ => 0x0, [⟨0, 1, .ro⟩, ⟨1, 1, .w1c⟩, ⟨2, 1, .w1c⟩, ⟨3, 1, .w1c⟩, ⟨4, 1, .w1c⟩, ⟨5, 1, .w1c⟩]⟩,
  ⟨0x44400014, [(0x100, 4)], fun _ => 0x0, [⟨0, 16, .rw⟩, ⟨16, 16, .rw⟩]⟩,
  ⟨0x44400018, [(0x100, 4)], fun _ => 0x0, [⟨0, 16, .rw⟩, ⟨16, 16, .rw⟩]⟩,
  ⟨0x4440001C, [(0x100, 4)], fun _ => 0x0, [⟨0, 32, .rw⟩]⟩,
  ⟨0x44400020, [(0x100, 4)], fun _ => 0x0, [⟨0, 11, .rw⟩, ⟨31, 1, .sc⟩]⟩,
  ⟨0x44401000, [(0x20, 63)], fun _ => 0x0, [⟨0, 1, .rw⟩, ⟨1, 2, .rw⟩]⟩,
  ⟨0x44401004, [(0x20, 63)], fun _ => 0x0, [⟨0, 32, .rw⟩]⟩,
  ⟨0x44401008, [(0x20, 63)], fun _ => 0x0, [⟨0, 32, .rw⟩]⟩,
  ⟨0x4440100C, [(0x20, 63)], fun _ => 0x0, [⟨0, 16, .ro⟩, ⟨16, 16, .ro⟩]⟩,
  ⟨0x44401010, [(0x20, 63)], fun _ => 0x0, [⟨0, 16, .ro⟩, ⟨16, 16, .ro⟩]⟩,
  ⟨0x44401014, [(0x20, 63)], fun _ => 0x0, [⟨0, 16, .ro⟩, ⟨16, 16, .ro⟩]⟩,
  ⟨0x44401018, [(0x20, 63)], fun _ => 0x0, [⟨0, 16, .ro⟩, ⟨16, 16, .ro⟩]⟩]

/-- Registers of the block FieldBus, part 1. -/
def rowsFieldBus1 : List RegRow := [
  ⟨0x4440101C, [(0x20, 63)], fun _ => 0xFFFF, [⟨0, 16, .ro⟩]⟩]

/-- Registers of the block Mgmt, part 0. -/
def rowsMgmt0 : List RegRow := [
  ⟨0x44500000, [], fun _ => 0x5F20, [⟨0, 1, .rw⟩, ⟨4, 14, .rw⟩]⟩,
  ⟨0x44500004, [], fun _ => 0x0, [⟨0, 32, .rw⟩]⟩,
  ⟨0x44500008, [], fun _ => 0x10000, [⟨0, 16, .rw⟩, ⟨16, 12, .rw⟩]⟩,
  ⟨0x4450000C, [], fun _ => 0xFAC688, [⟨0, 24, .rw⟩]⟩,
  ⟨0x44500010, [(0x4, 8)], fun _ => 0x0, [⟨0, 12, .rw⟩, ⟨12, 1, .rw⟩]⟩,
  ⟨0x44500030, [], fun _ => 0x0, [⟨0, 1, .rw⟩, ⟨8, 8, .rw⟩, ⟨16, 8, .ro⟩]⟩,
  ⟨0x44500040, [(0x4, 8)], resetTccfg, [⟨0, 1, .rw⟩, ⟨1, 1, .rw⟩, ⟨8, 24, .rw⟩]⟩,
  ⟨0x44500080, [], fun _ => 0x3E8, [⟨0, 14, .rw⟩]⟩,
  ⟨0x44500084, [], fun _ => 0x0, [⟨0, 1, .rw⟩, ⟨16, 16, .rw⟩]⟩,
  ⟨0x44500088, [], fun _ => 0x0, [⟨0, 1, .ro⟩, ⟨1, 1, .ro⟩, ⟨2, 1, .ro⟩, ⟨8, 1, .w1c⟩, ⟨9, 1, .w1c⟩, ⟨10, 1, .w1c⟩, ⟨11, 1, .w1c⟩, ⟨12, 1, .w1c⟩, ⟨13, 1, .w1c⟩, ⟨14, 1, .w1c⟩, ⟨15, 1, .w1c⟩, ⟨16, 1, .w1c⟩, ⟨17, 1, .w1c⟩]⟩,
  ⟨0x44500090, [], fun _ => 0x0, [⟨0, 32, .rw⟩]⟩,
  ⟨0x44500094, [], fun _ => 0x0, [⟨0, 32, .rw⟩]⟩,
  ⟨0x44500098, [], fun _ => 0x0, [⟨0, 16, .rw⟩, ⟨16, 16, .rw⟩]⟩,
  ⟨0x4450009C, [], fun _ => 0x0, [⟨0, 16, .rw⟩, ⟨16, 16, .rw⟩]⟩,
  ⟨0x445000A0, [], fun _ => 0x0, [⟨0, 16, .rw⟩, ⟨16, 16, .rw⟩]⟩,
  ⟨0x445000A4, [], fun _ => 0x0, [⟨0, 16, .rw⟩, ⟨16, 16, .rw⟩]⟩]

/-- Registers of the block Mgmt, part 1. -/
def rowsMgmt1 : List RegRow := [
  ⟨0x445000A8, [], fun _ => 0x0, [⟨0, 16, .rw⟩]⟩,
  ⟨0x44500400, [], fun _ => 0x3, [⟨0, 2, .rw⟩, ⟨2, 1, .rw⟩, ⟨3, 1, .rw⟩]⟩,
  ⟨0x44500404, [], fun _ => 0x0, [⟨0, 2, .ro⟩, ⟨2, 1, .ro⟩, ⟨3, 1, .ro⟩]⟩]

/-- Registers of the block Timebase, part 0. -/
def rowsTimebase0 : List RegRow := [
  ⟨0x45000000, [], fun _ => 0xA1EA002, [⟨0, 1, .rw⟩, ⟨1, 1, .rw⟩, ⟨2, 1, .rw⟩, ⟨3, 1, .rw⟩, ⟨4, 1, .rw⟩, ⟨8, 3, .rw⟩, ⟨12, 4, .rw⟩, ⟨16, 8, .rw⟩, ⟨24, 8, .rw⟩]⟩,
  ⟨0x45000004, [], fun _ => 0x0, [⟨0, 3, .ro⟩, ⟨3, 1, .ro⟩, ⟨4, 1, .ro⟩, ⟨5, 1, .ro⟩, ⟨6, 1, .w1c⟩, ⟨7, 1, .w1c⟩, ⟨8, 1, .w1c⟩]⟩,
  ⟨0x45000008, [], fun _ => 0x0, [⟨0, 32, .ro⟩]⟩,
  ⟨0x4500000C, [], fun _ => 0x0, [⟨0, 32, .ro⟩]⟩,
  ⟨0x45000010, [], fun _ => 0x0, [⟨0, 32, .ro⟩]⟩,
  ⟨0x45000014, [], fun _ => 0x0, [⟨0, 24, .ro⟩]⟩,
  ⟨0x45000018, [], fun _ => 0x0, [⟨0, 32, .rw⟩]⟩,
  ⟨0x4500001C, [], fun _ => 0x0, [⟨0, 32, .rw⟩]⟩,
  ⟨0x45000020, [], fun _ => 0x0, [⟨0, 1, .sc⟩]⟩,
  ⟨0x45000024, [], fun _ => 0x0, [⟨0, 16, .rw⟩, ⟨16, 16, .rw⟩]⟩,
  ⟨0x45000028, [], fun _ => 0x2710, [⟨0, 24, .rw⟩]⟩,
  ⟨0x45000100, [(0x40, 2)], fun _ => 0xA020000, [⟨0, 1, .rw⟩, ⟨1, 3, .rw⟩, ⟨8, 8, .rw⟩, ⟨16, 3, .rw⟩, ⟨24, 8, .rw⟩]⟩,
  ⟨0x45000104, [(0x40, 2)], fun _ => 0x0, [⟨0, 3, .ro⟩]⟩,
  ⟨0x45000108, [(0x40, 2)], fun _ => 0x0, [⟨0, 32, .ro⟩]⟩,
  ⟨0x4500010C, [(0x40, 2)], fun _ => 0x0, [⟨0, 24, .ro⟩]⟩,
  ⟨0x45000110, [(0x40, 2)], fun _ => 0x0, [⟨0, 24, .ro⟩]⟩]

/-- Registers of the block Timebase, part 1. -/
def rowsTimebase1 : List RegRow := [
  ⟨0x45000114, [(0x40, 2), (0x4, 2)], fun _ => 0x0, [⟨0, 32, .ro⟩]⟩,
  ⟨0x45001000, [(0x40, 8)], fun _ => 0xD1D0220, [⟨0, 1, .rw⟩, ⟨1, 4, .rw⟩, ⟨5, 2, .rw⟩, ⟨7, 1, .rw⟩, ⟨8, 1, .rw⟩, ⟨9, 2, .rw⟩, ⟨11, 1, .rw⟩, ⟨12, 1, .rw⟩, ⟨16, 4, .rw⟩, ⟨20, 4, .rw⟩, ⟨24, 4, .rw⟩]⟩,
  ⟨0x45001004, [(0x40, 8)], fun _ => 0x0, [⟨0, 4, .ro⟩, ⟨4, 4, .ro⟩, ⟨8, 1, .w1c⟩, ⟨9, 1, .w1c⟩]⟩,
  ⟨0x45001008, [(0x40, 8)], fun _ => 0x0, [⟨0, 16, .rw⟩, ⟨16, 16, .rw⟩]⟩,
  ⟨0x4500100C, [(0x40, 8)], fun _ => 0x0, [⟨0, 16, .rw⟩, ⟨16, 16, .rw⟩]⟩,
  ⟨0x45002000, [(0x20, 32)], fun _ => 0x0, [⟨0, 1, .rw⟩, ⟨1, 2, .rw⟩, ⟨8, 7, .rw⟩, ⟨16, 16, .rw⟩]⟩,
  ⟨0x45002004, [(0x20, 32)], fun _ => 0x0, [⟨0, 3, .ro⟩, ⟨3, 1, .w1c⟩]⟩,
  ⟨0x45002008, [(0x20, 32)], fun _ => 0x0, [⟨0, 32, .ro⟩]⟩,
  ⟨0x4500200C, [(0x20, 32)], fun _ => 0x0, [⟨0, 32, .ro⟩]⟩,
  ⟨0x45002010, [(0x20, 32)], fun _ => 0x0, [⟨0, 8, .ro⟩]⟩,
  ⟨0x45002014, [(0x20, 32)], fun _ => 0x0, [⟨0, 1, .sc⟩]⟩,
  ⟨0x45002018, [(0x20, 32)], fun _ => 0x0, [⟨0, 16, .rw⟩, ⟨16, 16, .rw⟩]⟩,
  ⟨0x45003000, [(0x20, 32)], fun _ => 0x0, [⟨0, 1, .rw⟩, ⟨1, 1, .rw⟩, ⟨4, 4, .rw⟩, ⟨8, 3, .rw⟩]⟩,
  ⟨0x45003004, [(0x20, 32)], fun _ => 0x0, [⟨0, 1, .w1c⟩, ⟨1, 1, .w1c⟩, ⟨2, 1, .w1c⟩]⟩,
  ⟨0x45003008, [(0x20, 32)], fun _ => 0x0, [⟨0, 32, .rwh⟩]⟩,
  ⟨0x4500300C, [(0x20, 32)], fun _ => 0x0, [⟨0, 32, .rwh⟩]⟩]

/-- Registers of the block Timebase, part 2. -/
def rowsTimebase2 : List RegRow := [
  ⟨0x45003010, [(0x20, 32)], fun _ => 0x0, [⟨0, 32, .rw⟩]⟩,
  ⟨0x45003014, [(0x20, 32)], fun _ => 0x0, [⟨0, 32, .rw⟩]⟩,
  ⟨0x45003018, [(0x20, 32)], fun _ => 0x0, [⟨0, 16, .rw⟩, ⟨16, 16, .rw⟩]⟩]

/-- Registers of the block Dpll. -/
def rowsDpll : List RegRow := [
  ⟨0x45100000, [], fun _ => 0x60A12, [⟨0, 3, .rw⟩, ⟨4, 1, .rw⟩, ⟨5, 1, .rw⟩, ⟨8, 8, .rw⟩, ⟨16, 3, .rw⟩]⟩,
  ⟨0x45100004, [], fun _ => 0x0, [⟨0, 3, .ro⟩, ⟨3, 3, .ro⟩, ⟨6, 1, .ro⟩, ⟨7, 1, .ro⟩, ⟨8, 1, .w1c⟩, ⟨9, 1, .w1c⟩, ⟨10, 1, .w1c⟩, ⟨11, 1, .w1c⟩, ⟨16, 8, .ro⟩]⟩,
  ⟨0x45100008, [], fun _ => 0xFFFFFFFF, [⟨0, 4, .rw⟩, ⟨4, 4, .rw⟩, ⟨8, 4, .rw⟩, ⟨12, 4, .rw⟩, ⟨16, 4, .rw⟩, ⟨20, 4, .rw⟩, ⟨24, 4, .rw⟩, ⟨28, 4, .rw⟩]⟩,
  ⟨0x4510000C, [], fun _ => 0x0, [⟨0, 32, .rwh⟩]⟩,
  ⟨0x45100010, [], fun _ => 0x0, [⟨0, 32, .ro⟩]⟩,
  ⟨0x45100014, [], fun _ => 0x0, [⟨0, 16, .ro⟩]⟩,
  ⟨0x45100018, [], fun _ => 0x0, [⟨0, 16, .rw⟩, ⟨16, 16, .rw⟩]⟩,
  ⟨0x45100100, [(0x10, 8)], fun _ => 0x0, [⟨0, 26, .rw⟩]⟩,
  ⟨0x45100104, [(0x10, 8)], fun _ => 0x20064, [⟨0, 16, .rw⟩, ⟨16, 8, .rw⟩]⟩,
  ⟨0x45100108, [(0x10, 8)], fun _ => 0x0, [⟨0, 1, .ro⟩, ⟨1, 1, .ro⟩, ⟨2, 1, .ro⟩, ⟨3, 1, .w1c⟩, ⟨8, 24, .ro⟩]⟩,
  ⟨0x4510010C, [(0x10, 8)], fun _ => 0x0, [⟨0, 16, .rw⟩]⟩,
  ⟨0x45100200, [(0x20, 6)], fun _ => 0x100, [⟨0, 2, .rw⟩, ⟨2, 1, .rw⟩, ⟨3, 1, .rw⟩, ⟨8, 16, .rw⟩]⟩,
  ⟨0x45100204, [(0x20, 6)], fun _ => 0x4000, [⟨0, 24, .rw⟩]⟩,
  ⟨0x45100208, [(0x20, 6)], fun _ => 0x0, [⟨0, 2, .rw⟩, ⟨8, 7, .rw⟩, ⟨15, 1, .sc⟩]⟩,
  ⟨0x4510020C, [(0x20, 6)], fun _ => 0x0, [⟨0, 32, .rw⟩]⟩,
  ⟨0x45100210, [(0x20, 6)], fun _ => 0x0, [⟨0, 1, .ro⟩, ⟨1, 1, .ro⟩, ⟨16, 16, .ro⟩]⟩]

/-- Registers of the block Tdm. -/
def rowsTdm : List RegRow := [
  ⟨0x46000000, [(0x400, 32)], fun _ => 0x9820800, [⟨0, 1, .rw⟩, ⟨1, 1, .rw⟩, ⟨2, 1, .rw⟩, ⟨3, 1, .rw⟩, ⟨4, 1, .rw⟩, ⟨5, 1, .rw⟩, ⟨8, 6, .rw⟩, ⟨16, 2, .rw⟩, ⟨20, 5, .rw⟩, ⟨27, 5, .rw⟩]⟩,
  ⟨0x46000004, [(0x400, 32)], fun _ => 0x0, [⟨0, 11, .rw⟩]⟩,
  ⟨0x46000008, [(0x400, 32)], fun _ => 0x0, [⟨0, 32, .rw⟩]⟩,
  ⟨0x4600000C, [(0x400, 32)], fun _ => 0x0, [⟨0, 32, .rw⟩]⟩,
  ⟨0x46000010, [(0x400, 32)], fun _ => 0x0, [⟨0, 1, .sc⟩]⟩,
  ⟨0x46000014, [(0x400, 32)], fun _ => 0x0, [⟨0, 2, .ro⟩, ⟨2, 2, .ro⟩, ⟨4, 1, .ro⟩, ⟨5, 1, .ro⟩, ⟨6, 1, .w1c⟩, ⟨7, 1, .w1c⟩, ⟨8, 1, .w1c⟩, ⟨9, 1, .w1c⟩]⟩,
  ⟨0x46000018, [(0x400, 32)], fun _ => 0x0, [⟨0, 11, .ro⟩, ⟨16, 16, .ro⟩]⟩,
  ⟨0x4600001C, [(0x400, 32)], fun _ => 0x0, [⟨0, 16, .rw⟩, ⟨16, 16, .rw⟩]⟩,
  ⟨0x46000020, [(0x400, 32)], fun _ => 0x0, [⟨0, 16, .rw⟩]⟩,
  ⟨0x46000024, [(0x400, 32)], fun _ => 0x0, [⟨0, 32, .rw⟩]⟩]

/-- Registers of the block Dranan. -/
def rowsDranan : List RegRow := [
  ⟨0x47000000, [], fun _ => 0x8060000, [⟨0, 1, .rw⟩, ⟨1, 1, .rw⟩, ⟨2, 1, .rw⟩, ⟨3, 1, .rw⟩, ⟨8, 8, .rw⟩, ⟨16, 8, .rw⟩, ⟨24, 4, .rw⟩]⟩,
  ⟨0x47000004, [], fun _ => 0x3018003C, [⟨0, 16, .rw⟩, ⟨16, 8, .rw⟩, ⟨24, 6, .rw⟩]⟩,
  ⟨0x47000008, [], fun _ => 0xFF0000, [⟨0, 16, .rw⟩, ⟨16, 4, .rw⟩, ⟨20, 4, .rw⟩]⟩,
  ⟨0x4700000C, [], fun _ => 0x0, [⟨0, 1, .sc⟩, ⟨1, 1, .rw⟩, ⟨2, 1, .sc⟩]⟩,
  ⟨0x47000010, [], fun _ => 0x0, [⟨0, 1, .ro⟩, ⟨1, 1, .ro⟩, ⟨2, 1, .ro⟩, ⟨3, 1, .ro⟩, ⟨4, 1, .ro⟩, ⟨5, 1, .ro⟩, ⟨6, 1, .ro⟩, ⟨7, 1, .ro⟩, ⟨8, 3, .ro⟩, ⟨11, 3, .ro⟩, ⟨14, 1, .ro⟩, ⟨15, 1, .ro⟩, ⟨16, 1, .w1c⟩, ⟨17, 1, .w1c⟩]⟩,
  ⟨0x47000014, [], fun _ => 0x0, [⟨0, 8, .ro⟩, ⟨8, 4, .ro⟩]⟩,
  ⟨0x47000018, [], fun _ => 0x0, [⟨0, 32, .ro⟩]⟩,
  ⟨0x4700001C, [], fun _ => 0x0, [⟨0, 16, .ro⟩]⟩,
  ⟨0x47000020, [], fun _ => 0x0, [⟨0, 32, .ro⟩]⟩,
  ⟨0x47000024, [(0x4, 2)], fun _ => 0x0, [⟨0, 32, .ro⟩]⟩,
  ⟨0x4700002C, [], fun _ => 0x0, [⟨0, 16, .rw⟩, ⟨16, 16, .rw⟩]⟩,
  ⟨0x47000030, [], fun _ => 0x0, [⟨0, 16, .rw⟩, ⟨16, 16, .rw⟩]⟩,
  ⟨0x47000034, [], fun _ => 0x0, [⟨0, 16, .rw⟩, ⟨16, 16, .rw⟩]⟩,
  ⟨0x47000038, [], fun _ => 0x0, [⟨0, 16, .rw⟩, ⟨16, 16, .rw⟩]⟩,
  ⟨0x4700003C, [], fun _ => 0x0, [⟨0, 1, .w1c⟩, ⟨1, 1, .w1c⟩, ⟨2, 1, .w1c⟩, ⟨3, 1, .w1c⟩, ⟨4, 1, .w1c⟩, ⟨5, 1, .w1c⟩, ⟨6, 1, .w1c⟩, ⟨7, 1, .w1c⟩]⟩]

/-- Registers of the block Crossbar, part 0. -/
def rowsCrossbar0 : List RegRow := [
  ⟨0x48000000, [], fun _ => 0x10001, [⟨0, 1, .rw⟩, ⟨1, 1, .sc⟩, ⟨8, 16, .rw⟩]⟩,
  ⟨0x48000004, [], fun _ => 0x0, [⟨0, 1, .ro⟩, ⟨1, 1, .ro⟩, ⟨2, 1, .w1c⟩, ⟨3, 1, .w1c⟩, ⟨4, 1, .w1c⟩, ⟨5, 1, .w1c⟩, ⟨6, 1, .w1c⟩]⟩,
  ⟨0x48000008, [], fun _ => 0x0, [⟨0, 14, .ro⟩, ⟨16, 14, .rwh⟩]⟩,
  ⟨0x4800000C, [], fun _ => 0x0, [⟨0, 16, .rw⟩, ⟨16, 16, .rw⟩]⟩,
  ⟨0x48000010, [], fun _ => 0x0, [⟨0, 16, .rw⟩, ⟨16, 16, .rw⟩]⟩,
  ⟨0x48000014, [], fun _ => 0x0, [⟨0, 32, .ro⟩]⟩,
  ⟨0x48000018, [], fun _ => 0x3F00, [⟨0, 8, .ro⟩, ⟨8, 6, .ro⟩]⟩,
  ⟨0x4800001C, [], fun _ => 0x64, [⟨0, 16, .rw⟩]⟩,
  ⟨0x48000020, [], fun _ => 0x0, [⟨0, 16, .ro⟩, ⟨16, 16, .ro⟩]⟩,
  ⟨0x48000024, [], fun _ => 0x0, [⟨0, 16, .ro⟩, ⟨16, 16, .ro⟩]⟩,
  ⟨0x48000040, [], fun _ => 0x0, [⟨0, 1, .w1s⟩]⟩,
  ⟨0x48000100, [(0x10, 15)], resetXbMcfg, [⟨0, 4, .rw⟩, ⟨4, 4, .rw⟩, ⟨8, 6, .rw⟩, ⟨16, 14, .rw⟩]⟩,
  ⟨0x48000200, [(0x10, 18)], resetXbMcfg, [⟨0, 4, .rw⟩, ⟨4, 4, .rw⟩, ⟨8, 6, .rw⟩, ⟨16, 14, .rw⟩]⟩,
  ⟨0x48000104, [(0x10, 15)], fun _ => 0x0, [⟨0, 16, .rw⟩]⟩,
  ⟨0x48000204, [(0x10, 18)], fun _ => 0x0, [⟨0, 16, .rw⟩]⟩,
  ⟨0x48000108, [(0x10, 15)], fun _ => 0x0, [⟨0, 14, .ro⟩, ⟨14, 1, .w1c⟩, ⟨15, 1, .w1c⟩]⟩,
  ⟨0x48000208, [(0x10, 18)], fun _ => 0x0, [⟨0, 14, .ro⟩, ⟨14, 1, .w1c⟩, ⟨15, 1, .w1c⟩]⟩,
  ⟨0x4800010C, [(0x10, 15)], fun _ => 0x0, [⟨0, 16, .rw⟩, ⟨16, 16, .rw⟩]⟩,
  ⟨0x4800020C, [(0x10, 18)], fun _ => 0x0, [⟨0, 16, .rw⟩, ⟨16, 16, .rw⟩]⟩,
  ⟨0x48001000, [(0x20, 64)], fun _ => 0x0, [⟨0, 28, .rw⟩]⟩]

/-- Registers of the block Crossbar, part 1. -/
def rowsCrossbar1 : List RegRow := [
  ⟨0x48001004, [(0x20, 64)], fun _ => 0x0, [⟨0, 28, .rw⟩]⟩,
  ⟨0x48001008, [(0x20, 64)], fun _ => 0x0, [⟨0, 32, .rw⟩]⟩,
  ⟨0x4800100C, [(0x20, 64)], fun _ => 0x0, [⟨0, 32, .rw⟩]⟩,
  ⟨0x48001010, [(0x20, 64)], fun _ => 0x0, [⟨0, 32, .rw⟩]⟩,
  ⟨0x48001014, [(0x20, 64)], fun _ => 0x0, [⟨0, 32, .rw⟩]⟩,
  ⟨0x48001018, [(0x20, 64)], fun _ => 0x0, [⟨0, 1, .rw⟩, ⟨1, 1, .rw⟩]⟩]

/-- Registers of the block Drc. -/
def rowsDrc : List RegRow := [
  ⟨0x48100000, [(0x1000, 2)], fun _ => 0x24, [⟨0, 1, .rw⟩, ⟨1, 2, .rw⟩, ⟨3, 1, .rw⟩, ⟨4, 2, .rw⟩]⟩,
  ⟨0x48100004, [(0x1000, 2)], fun _ => 0x0, [⟨0, 2, .ro⟩, ⟨2, 2, .ro⟩, ⟨4, 1, .w1c⟩, ⟨5, 1, .w1c⟩, ⟨6, 1, .w1c⟩, ⟨7, 1, .w1c⟩]⟩,
  ⟨0x48100008, [(0x1000, 2)], fun _ => 0x0, [⟨0, 16, .rw⟩, ⟨16, 16, .rw⟩]⟩,
  ⟨0x4810000C, [(0x1000, 2)], fun _ => 0x0, [⟨0, 32, .ro⟩]⟩,
  ⟨0x48100010, [(0x1000, 2)], fun _ => 0x0, [⟨0, 8, .ro⟩, ⟨8, 1, .ro⟩]⟩,
  ⟨0x48100014, [(0x1000, 2)], fun _ => 0x18, [⟨0, 8, .rw⟩, ⟨16, 16, .rw⟩]⟩,
  ⟨0x48100020, [(0x1000, 2), (0x4, 8)], fun _ => 0x0, [⟨0, 1, .ro⟩, ⟨1, 1, .ro⟩, ⟨2, 4, .ro⟩, ⟨6, 18, .ro⟩, ⟨24, 1, .ro⟩, ⟨25, 1, .ro⟩]⟩,
  ⟨0x48102000, [], fun _ => 0x1, [⟨0, 1, .rw⟩, ⟨8, 16, .ro⟩]⟩]

/-- Registers of the block Flash, part 0. -/
def rowsFlash0 : List RegRow := [
  ⟨0x49000000, [], fun _ => 0x6401, [⟨0, 1, .rw⟩, ⟨1, 1, .rw⟩, ⟨8, 8, .rw⟩]⟩,
  ⟨0x49000004, [], fun _ => 0x0, [⟨0, 3, .ro⟩, ⟨3, 2, .ro⟩, ⟨5, 1, .ro⟩, ⟨6, 1, .ro⟩, ⟨7, 1, .w1c⟩, ⟨8, 1, .w1c⟩, ⟨9, 1, .w1c⟩, ⟨10, 1, .w1c⟩, ⟨11, 1, .w1c⟩, ⟨12, 1, .w1c⟩, ⟨13, 1, .w1c⟩, ⟨14, 1, .w1c⟩, ⟨15, 1, .w1c⟩]⟩,
  ⟨0x49000008, [], fun _ => 0x0, [⟨0, 7, .ro⟩, ⟨8, 3, .ro⟩, ⟨12, 7, .ro⟩, ⟨19, 7, .ro⟩]⟩,
  ⟨0x49000010, [], fun _ => 0x0, [⟨0, 32, .rw⟩]⟩,
  ⟨0x49000014, [], fun _ => 0x0, [⟨0, 8, .rw⟩]⟩,
  ⟨0x49000018, [], fun _ => 0x0, [⟨0, 32, .rw⟩]⟩,
  ⟨0x4900001C, [], fun _ => 0x0, [⟨0, 8, .rw⟩, ⟨8, 23, .rw⟩, ⟨31, 1, .sc⟩]⟩,
  ⟨0x49000020, [], fun _ => 0x0, [⟨0, 1, .w1c⟩, ⟨8, 8, .ro⟩]⟩,
  ⟨0x49000024, [], fun _ => 0xFFFFFFFF, [⟨0, 32, .ro⟩]⟩,
  ⟨0x49000028, [], fun _ => 0x0, [⟨0, 16, .ro⟩, ⟨16, 16, .ro⟩]⟩,
  ⟨0x4900002C, [], fun _ => 0x0, [⟨0, 32, .ro⟩]⟩,
  ⟨0x49000030, [], fun _ => 0x0, [⟨0, 16, .ro⟩, ⟨16, 16, .ro⟩]⟩,
  ⟨0x49000034, [], fun _ => 0xFFFF0000, [⟨0, 8, .ro⟩, ⟨8, 8, .ro⟩, ⟨16, 16, .ro⟩]⟩,
  ⟨0x49000038, [], fun _ => 0x0, [⟨0, 32, .ro⟩]⟩,
  ⟨0x4900003C, [], fun _ => 0x0, [⟨0, 32, .ro⟩]⟩,
  ⟨0x49000040, [], fun _ => 0x0, [⟨0, 1, .ro⟩, ⟨1, 1, .ro⟩, ⟨2, 1, .ro⟩, ⟨3, 1, .ro⟩]⟩]

/-- Registers of the block Flash, part 1. -/
def rowsFlash1 : List RegRow := [
  ⟨0x49000044, [], fun _ => 0x0, [⟨0, 32, .ro⟩]⟩,
  ⟨0x49000048, [], fun _ => 0x0, [⟨0, 32, .rw⟩]⟩,
  ⟨0x49000050, [], fun _ => 0x0, [⟨0, 16, .rw⟩, ⟨16, 16, .rw⟩]⟩,
  ⟨0x49000054, [], fun _ => 0x0, [⟨0, 16, .rw⟩, ⟨16, 16, .rw⟩]⟩,
  ⟨0x49000058, [], fun _ => 0x0, [⟨0, 16, .rw⟩, ⟨16, 16, .rw⟩]⟩,
  ⟨0x4900005C, [], fun _ => 0x0, [⟨0, 16, .rw⟩, ⟨16, 16, .rw⟩]⟩,
  ⟨0x49001000, [(0x100, 4)], fun _ => 0x0, [⟨0, 1, .ro⟩, ⟨1, 4, .ro⟩, ⟨8, 3, .ro⟩]⟩,
  ⟨0x49001004, [(0x100, 4)], fun _ => 0x0, [⟨0, 2, .ro⟩, ⟨2, 5, .ro⟩, ⟨7, 1, .ro⟩, ⟨8, 1, .w1c⟩, ⟨9, 1, .w1c⟩]⟩,
  ⟨0x49001008, [(0x100, 4)], fun _ => 0x0, [⟨0, 16, .rw⟩, ⟨16, 16, .rw⟩]⟩]

/-- Registers of the block KeyStore, part 0. -/
def rowsKeyStore0 : List RegRow := [
  ⟨0x4A000000, [], fun _ => 0x0, [⟨0, 2, .ro⟩, ⟨2, 1, .ro⟩, ⟨3, 1, .ro⟩, ⟨4, 2, .ro⟩, ⟨6, 7, .ro⟩, ⟨13, 1, .ro⟩, ⟨14, 1, .w1c⟩, ⟨15, 1, .ro⟩, ⟨16, 1, .ro⟩]⟩,
  ⟨0x4A000004, [], fun _ => 0x0, [⟨0, 16, .ro⟩]⟩,
  ⟨0x4A000008, [(0x4, 2)], fun _ => 0x0, [⟨0, 32, .ro⟩]⟩,
  ⟨0x4A000040, [(0x4, 12)], fun _ => 0x0, [⟨0, 32, .ro⟩]⟩,
  ⟨0x4A000080, [(0x4, 12)], fun _ => 0x0, [⟨0, 32, .ro⟩]⟩,
  ⟨0x4A000100, [], fun _ => 0x0, [⟨0, 8, .rw⟩, ⟨8, 6, .rw⟩, ⟨31, 1, .sc⟩]⟩,
  ⟨0x4A000104, [], fun _ => 0x0, [⟨0, 32, .rw⟩]⟩,
  ⟨0x4A000108, [], fun _ => 0x0, [⟨0, 8, .rw⟩]⟩,
  ⟨0x4A00010C, [], fun _ => 0x0, [⟨0, 24, .rw⟩]⟩,
  ⟨0x4A000120, [], fun _ => 0x0, [⟨0, 1, .w1c⟩, ⟨8, 8, .ro⟩]⟩,
  ⟨0x4A000130, [(0x4, 2)], fun _ => 0x0, [⟨0, 32, .ro⟩]⟩,
  ⟨0x4A000140, [], fun _ => 0x0, [⟨0, 16, .rw⟩, ⟨16, 16, .rw⟩]⟩,
  ⟨0x4A000144, [], fun _ => 0x0, [⟨0, 16, .rw⟩]⟩,
  ⟨0x4A000148, [], fun _ => 0x0, [⟨0, 1, .w1c⟩, ⟨1, 1, .w1c⟩, ⟨2, 1, .w1c⟩, ⟨3, 1, .w1c⟩]⟩,
  ⟨0x4A000400, [(0x4, 128)], fun _ => 0x0, [⟨0, 32, .ro⟩]⟩,
  ⟨0x4A001000, [(0x10, 144)], fun _ => 0x0, [⟨0, 14, .rw⟩, ⟨16, 15, .rw⟩]⟩]

/-- Registers of the block KeyStore, part 1. -/
def rowsKeyStore1 : List RegRow := [
  ⟨0x4A001004, [(0x10, 144)], fun _ => 0x0, [⟨0, 16, .rw⟩, ⟨16, 16, .rw⟩]⟩,
  ⟨0x4A001008, [(0x10, 144)], fun _ => 0x0, [⟨0, 16, .rw⟩, ⟨16, 16, .rw⟩]⟩,
  ⟨0x4A00100C, [(0x10, 144)], fun _ => 0x2, [⟨0, 1, .w1s⟩, ⟨1, 1, .ro⟩]⟩]

/-- Registers of the block Pawn. -/
def rowsPawn : List RegRow := [
  ⟨0x4B000000, [], fun _ => 0x78, [⟨0, 3, .ro⟩, ⟨3, 4, .ro⟩, ⟨7, 2, .ro⟩, ⟨9, 1, .ro⟩, ⟨16, 12, .ro⟩]⟩,
  ⟨0x4B000004, [], fun _ => 0x0, [⟨0, 1, .sc⟩, ⟨1, 1, .sc⟩, ⟨2, 1, .sc⟩]⟩,
  ⟨0x4B000008, [], fun _ => 0x2580001, [⟨0, 1, .rw⟩, ⟨1, 1, .rw⟩, ⟨2, 1, .rw⟩, ⟨16, 16, .rw⟩]⟩,
  ⟨0x4B00000C, [], fun _ => 0xA, [⟨0, 8, .rw⟩]⟩,
  ⟨0x4B000010, [], fun _ => 0x0, [⟨0, 16, .ro⟩, ⟨16, 4, .ro⟩]⟩,
  ⟨0x4B000014, [(0x4, 4)], fun _ => 0x0, [⟨0, 16, .ro⟩, ⟨16, 16, .ro⟩]⟩,
  ⟨0x4B000024, [], fun _ => 0x0, [⟨0, 16, .ro⟩, ⟨16, 1, .ro⟩, ⟨17, 1, .ro⟩]⟩,
  ⟨0x4B000028, [], fun _ => 0x320, [⟨0, 10, .rwh⟩]⟩,
  ⟨0x4B00002C, [], fun _ => 0x5A07, [⟨0, 1, .rw⟩, ⟨1, 1, .rw⟩, ⟨2, 1, .rw⟩, ⟨8, 7, .rw⟩]⟩,
  ⟨0x4B000030, [], fun _ => 0x0, [⟨0, 1, .ro⟩, ⟨1, 2, .ro⟩, ⟨3, 3, .ro⟩, ⟨6, 1, .ro⟩]⟩,
  ⟨0x4B000034, [], fun _ => 0x0, [⟨0, 16, .rw⟩, ⟨16, 16, .rw⟩]⟩,
  ⟨0x4B000038, [], fun _ => 0x0, [⟨0, 1, .w1c⟩, ⟨1, 1, .w1c⟩]⟩,
  ⟨0x4B000100, [(0x10, 12)], resetPwrEnt, [⟨0, 1, .rw⟩, ⟨1, 1, .rw⟩, ⟨2, 1, .rw⟩, ⟨3, 1, .rw⟩, ⟨8, 7, .rw⟩, ⟨16, 8, .rw⟩, ⟨24, 8, .rw⟩]⟩,
  ⟨0x4B000104, [(0x10, 12)], fun _ => 0x1, [⟨0, 8, .rw⟩, ⟨16, 16, .rw⟩]⟩,
  ⟨0x4B000108, [(0x10, 12)], fun _ => 0x0, [⟨0, 16, .ro⟩, ⟨16, 16, .ro⟩]⟩,
  ⟨0x4B00010C, [(0x10, 12)], fun _ => 0x0, [⟨0, 1, .ro⟩, ⟨1, 1, .ro⟩, ⟨2, 1, .ro⟩, ⟨16, 16, .ro⟩]⟩]

/-- Registers of the block Feu. -/
def rowsFeu : List RegRow := [
  ⟨0x4C000000, [], fun _ => 0x0, [⟨0, 2, .rw⟩]⟩,
  ⟨0x4C000004, [], fun _ => 0x0, [⟨0, 1, .w1c⟩]⟩,
  ⟨0x4C000008, [], fun _ => 0x0, [⟨0, 32, .ro⟩]⟩,
  ⟨0x4C00000C, [], fun _ => 0x0, [⟨0, 16, .rw⟩, ⟨16, 1, .rw⟩]⟩,
  ⟨0x4C000010, [], fun _ => 0x0, [⟨0, 16, .w1c⟩]⟩,
  ⟨0x4C000014, [], fun _ => 0x0, [⟨0, 16, .rw⟩]⟩,
  ⟨0x4C000018, [], fun _ => 0x0, [⟨0, 16, .wo⟩]⟩,
  ⟨0x4C00001C, [], fun _ => 0x0, [⟨0, 32, .rw⟩]⟩,
  ⟨0x4C000020, [(0x4, 8)], fun _ => 0x0, [⟨0, 32, .ro⟩]⟩,
  ⟨0x4C000040, [(0x4, 8)], fun _ => 0x0, [⟨0, 16, .rw⟩, ⟨16, 16, .rw⟩]⟩,
  ⟨0x4C000060, [], fun _ => 0x0, [⟨0, 16, .w1c⟩]⟩,
  ⟨0x4C000080, [(0x4, 9)], fun _ => 0x0, [⟨0, 32, .w1c⟩]⟩,
  ⟨0x4C001000, [(0x10, 275)], fun _ => 0x0, [⟨0, 2, .ro⟩, ⟨2, 1, .w1c⟩, ⟨3, 1, .w1c⟩]⟩,
  ⟨0x4C001004, [(0x10, 275)], fun _ => 0x0, [⟨0, 1, .sc⟩]⟩,
  ⟨0x4C001008, [(0x10, 275)], fun _ => 0x0, [⟨0, 28, .ro⟩]⟩,
  ⟨0x4C00100C, [(0x10, 275)], fun _ => 0x0, [⟨0, 16, .rw⟩]⟩]

/-- Registers of the block Rook, part 0. -/
def rowsRook0 : List RegRow := [
  ⟨0x4F000000, [], fun _ => 0x48, [⟨0, 2, .ro⟩, ⟨2, 1, .ro⟩, ⟨3, 1, .ro⟩, ⟨4, 1, .ro⟩, ⟨5, 1, .ro⟩, ⟨6, 1, .ro⟩, ⟨7, 1, .ro⟩, ⟨8, 1, .ro⟩, ⟨9, 1, .w1c⟩]⟩,
  ⟨0x4F000004, [], fun _ => 0x0, [⟨0, 4, .ro⟩, ⟨4, 4, .ro⟩, ⟨8, 4, .ro⟩, ⟨12, 4, .ro⟩]⟩,
  ⟨0x4F000008, [], fun _ => 0x0, [⟨0, 4, .rw⟩, ⟨4, 3, .rw⟩, ⟨7, 3, .rw⟩, ⟨10, 1, .rw⟩]⟩,
  ⟨0x4F00000C, [], fun _ => 0x141405, [⟨0, 8, .rw⟩, ⟨8, 8, .rw⟩, ⟨16, 8, .rw⟩]⟩,
  ⟨0x4F000010, [], fun _ => 0x6403, [⟨0, 4, .rw⟩, ⟨8, 8, .rw⟩, ⟨16, 4, .rw⟩, ⟨20, 1, .ro⟩, ⟨21, 4, .ro⟩]⟩,
  ⟨0x4F000014, [], fun _ => 0x0, [⟨0, 16, .ro⟩]⟩,
  ⟨0x4F000018, [], fun _ => 0x0, [⟨0, 32, .ro⟩]⟩,
  ⟨0x4F00001C, [], fun _ => 0x0, [⟨0, 16, .rw⟩, ⟨16, 16, .rw⟩]⟩,
  ⟨0x4F000020, [], fun _ => 0x0, [⟨0, 16, .rw⟩]⟩,
  ⟨0x4F000024, [], fun _ => 0x0, [⟨0, 1, .w1c⟩, ⟨1, 1, .w1c⟩, ⟨2, 1, .w1c⟩]⟩,
  ⟨0x4F000028, [], fun _ => 0x3303E8, [⟨0, 16, .rw⟩, ⟨16, 4, .rw⟩, ⟨20, 4, .rw⟩]⟩,
  ⟨0x4F001000, [(0x40, 72)], fun _ => 0x3F0E, [⟨0, 1, .rw⟩, ⟨1, 1, .rw⟩, ⟨2, 1, .rw⟩, ⟨3, 1, .rw⟩, ⟨4, 1, .rw⟩, ⟨5, 1, .rw⟩, ⟨6, 1, .rw⟩, ⟨7, 1, .rw⟩, ⟨8, 6, .rw⟩]⟩,
  ⟨0x4F001004, [(0x40, 72)], fun _ => 0xA006432, [⟨0, 8, .rw⟩, ⟨8, 16, .rw⟩, ⟨24, 8, .rw⟩]⟩,
  ⟨0x4F001008, [(0x40, 72)], fun _ => 0x0, [⟨0, 16, .rw⟩, ⟨16, 16, .rw⟩]⟩,
  ⟨0x4F00100C, [(0x40, 72)], fun _ => 0xA140000, [⟨0, 16, .rw⟩, ⟨16, 8, .rw⟩, ⟨24, 8, .rw⟩]⟩,
  ⟨0x4F001010, [(0x40, 72)], fun _ => 0xF5A0000, [⟨0, 16, .rw⟩, ⟨16, 16, .rw⟩]⟩]

/-- Registers of the block Rook, part 1. -/
def rowsRook1 : List RegRow := [
  ⟨0x4F001014, [(0x40, 72)], fun _ => 0xC80000, [⟨0, 16, .rw⟩, ⟨16, 16, .rw⟩]⟩,
  ⟨0x4F001018, [(0x40, 72)], fun _ => 0xFFFF0000, [⟨0, 16, .rw⟩, ⟨16, 16, .rw⟩]⟩,
  ⟨0x4F00101C, [(0x40, 72)], fun _ => 0xFFF, [⟨0, 12, .rw⟩, ⟨12, 16, .rw⟩]⟩,
  ⟨0x4F001020, [(0x40, 72)], fun _ => 0x0, [⟨0, 24, .ro⟩]⟩,
  ⟨0x4F001024, [(0x40, 72)], fun _ => 0x0, [⟨0, 16, .ro⟩, ⟨16, 16, .ro⟩]⟩,
  ⟨0x4F001028, [(0x40, 72)], fun _ => 0x0, [⟨0, 16, .ro⟩, ⟨16, 16, .ro⟩]⟩,
  ⟨0x4F00102C, [(0x40, 72)], fun _ => 0x0, [⟨0, 1, .ro⟩, ⟨1, 1, .ro⟩, ⟨2, 1, .ro⟩, ⟨3, 1, .ro⟩, ⟨4, 1, .ro⟩, ⟨5, 1, .ro⟩, ⟨6, 1, .ro⟩, ⟨7, 1, .ro⟩, ⟨8, 1, .ro⟩, ⟨9, 1, .ro⟩, ⟨10, 1, .ro⟩, ⟨11, 1, .w1c⟩, ⟨12, 1, .w1c⟩, ⟨16, 4, .ro⟩]⟩,
  ⟨0x4F001030, [(0x40, 72)], fun _ => 0x0, [⟨0, 16, .rw⟩, ⟨16, 16, .rw⟩]⟩,
  ⟨0x4F003000, [(0x10, 18)], fun _ => 0x0, [⟨0, 1, .ro⟩, ⟨1, 1, .ro⟩, ⟨2, 4, .ro⟩, ⟨6, 1, .ro⟩, ⟨7, 1, .ro⟩]⟩,
  ⟨0x4F003004, [(0x10, 18)], fun _ => 0x1F4, [⟨0, 16, .rw⟩]⟩,
  ⟨0x4F003200, [(0x10, 8)], fun _ => 0x0, [⟨0, 1, .ro⟩, ⟨1, 1, .ro⟩]⟩,
  ⟨0x4F003204, [(0x10, 8)], fun _ => 0xA, [⟨0, 16, .rw⟩]⟩]

/-- The register blocks, their bases and spans (R558). -/
def regBlocks : List RegBlock := [
  ⟨0x40000000, 0x10000, rowsGlobal⟩,
  ⟨0x40100000, 0x1000, rowsTempo⟩,
  ⟨0x40200000, 0x100000, rowsPods0 ++ rowsPods1⟩,
  ⟨0x41000000, 0x1000000, rowsSignalGraph0 ++ rowsSignalGraph1⟩,
  ⟨0x42000000, 0x10000, rowsBridges⟩,
  ⟨0x43000000, 0x40000, rowsModulators⟩,
  ⟨0x43100000, 0x1000, rowsRails⟩,
  ⟨0x43200000, 0x8000, rowsSense0 ++ rowsSense1⟩,
  ⟨0x44000000, 0x11000, rowsLanes⟩,
  ⟨0x44100000, 0x4000, rowsMacs0 ++ rowsMacs1⟩,
  ⟨0x44200000, 0x11000, rowsStreams0 ++ rowsStreams1⟩,
  ⟨0x44300000, 0x2000, rowsMacsec⟩,
  ⟨0x44400000, 0x1A000, rowsFieldBus0 ++ rowsFieldBus1⟩,
  ⟨0x44500000, 0x800, rowsMgmt0 ++ rowsMgmt1⟩,
  ⟨0x45000000, 0x4000, rowsTimebase0 ++ rowsTimebase1 ++ rowsTimebase2⟩,
  ⟨0x45100000, 0x1000, rowsDpll⟩,
  ⟨0x46000000, 0x8000, rowsTdm⟩,
  ⟨0x47000000, 0x1000, rowsDranan⟩,
  ⟨0x48000000, 0x2000, rowsCrossbar0 ++ rowsCrossbar1⟩,
  ⟨0x48100000, 0x3000, rowsDrc⟩,
  ⟨0x49000000, 0x2000, rowsFlash0 ++ rowsFlash1⟩,
  ⟨0x4A000000, 0x2000, rowsKeyStore0 ++ rowsKeyStore1⟩,
  ⟨0x4B000000, 0x1000, rowsPawn⟩,
  ⟨0x4C000000, 0x4000, rowsFeu⟩,
  ⟨0x4F000000, 0x4000, rowsRook0 ++ rowsRook1⟩]

/-- Does the address, given as a distance from a row's base, name an instance of a row with these strides? -/
def inDims : List (Nat × Nat) → Nat → Bool
  | [], d => d == 0
  | (st, n) :: r, d => if r.isEmpty then d % st == 0 && d / st < n else d / st < n && inDims r (d % st)

/-- Does the row describe the register at this address? -/
def rowHas (r : RegRow) (a : Nat) : Bool := Nat.ble r.base a && inDims r.dims (a - r.base)

/-- The block whose span holds the address (R558). -/
def blockOf (a : Nat) : Option RegBlock := regBlocks.find? fun b => Nat.ble b.base a && Nat.blt a (b.base + b.span)

/-- The row that describes the register at this address; none where the tables assign no register (R558). -/
def rowOf (a : Nat) : Option RegRow :=
  match blockOf a with
  | none => none
  | some b => b.rows.find? fun r => rowHas r a

/-- What the register at this address holds at reset; an address with no register reads 0 (R558). -/
def regReset (a : Nat) : Word :=
  match rowOf a with
  | none => 0
  | some r => BitVec.ofNat 32 (r.reset a)

end Sys2Proof.Machine
end

