-- ==== Sys2Proof/Machine/State.lean ====
section
/-! DEFINITION. The state of the block: every register, memory, queue, counter and mode the spec gives it, as plain
data, and the queue of waiting commands. Registers (R558) are one sparse table keyed by address; an unlisted register
reads as its reset value. Per-instance state is kept in sparse tables keyed by the instance's number. -/

namespace Sys2Proof.Machine

/-- Why a command's effect stops the model.
`illFormed`: raised by `Sys2Proof.Machine.step`'s meanings when an operand lies outside what the spec admits (the
check of `Sys2Proof.WellFormed` refuses it); safe, since the hardware never sees such a command. -/
inductive Fault where
  | illFormed
  deriving DecidableEq, Repr

/-- Why a command is refused.
`notModelled`: an arm of `exec` that has no meaning yet; safe. -/
inductive Refusal where
  | notModelled (mnemonic : String)
  deriving DecidableEq, Repr

/-- What a write in flight will write (R59). -/
inductive Tgt where
  | d (i : Nat) | a (i : Nat) | p (i : Nat) | n (i : Nat) | m (i : Nat) | w (i : Nat)
  | lc | ls | le | rot | psw | qreg
  | flags (mask : BitVec 24)
  | sticky
  | memX (addr : Nat) | memY (addr : Nat)
  deriving DecidableEq, Repr

/-- A write in flight: the bundles still to issue before it is visible, what it writes, the value, and whether the
MAC slot issued it (a MAC into the same accumulator sees it one bundle earlier, R59). -/
structure Flight where
  left : Nat
  tgt : Tgt
  val : BitVec 56
  mac : Bool
  deriving DecidableEq, Repr

/-- The active hardware loop: whether it rotates, its count `c` (R63) and how many iterations have begun. -/
structure LoopSt where
  rotating : Bool
  count : Nat
  begun : Nat
  deriving DecidableEq, Repr

/-- A crossbar load that waits for its response (R81): the physical numbers of the D pair, how many writes were in
flight before it, and the program counter, branch and loop state of before it, which an error response brings back. -/
structure LoadWait where
  hi : Nat
  lo : Nat
  nFlight : Nat
  pc : BitVec 14
  branch : Option (BitVec 14 × Nat)
  loop : Option LoopSt
  lc : BitVec 17
  rot : BitVec 4
  qreg : BitVec 8
  addr : BitVec 40
  deriving DecidableEq, Repr

/-- Why a core with the control extension stands still (R43). -/
inductive Stall where
  | none
  | load (w : LoadWait)
  | fence
  | wfi
  | halted
  deriving DecidableEq, Repr

/-- The registers of a core (R43-R45, R83); `psw` holds the bits that no other field shows: LACT, LROT and RSD are read
from `loop` and `stack`, and `slots` counts down past a branch that is not taken (R61). -/
structure Pea where
  d : List (Nat × DWord)
  a : List (Nat × Acc56)
  p : List (Nat × BitVec 20)
  n : List (Nat × BitVec 20)
  m : List (Nat × BitVec 16)
  w : List (Nat × BitVec 20)
  qreg : BitVec 8
  lc : BitVec 17
  ls : BitVec 14
  le : BitVec 14
  rot : BitVec 4
  psw : BitVec 24
  pc : BitVec 14
  stack : List (BitVec 14)
  loop : Option LoopSt
  branch : Option (BitVec 14 × Nat)
  slots : Nat
  flight : List Flight
  banks : List (List Nat)
  csr : List (Nat × Word)
  stall : Stall
  posted : List (BitVec 40 × BitVec 32)
  unreturned : Bool
  nmiIn : Bool
  deriving DecidableEq, Repr

/-- A core after reset (R45). -/
def Pea.reset : Pea where
  d := []
  a := []
  p := []
  n := []
  m := []
  w := []
  qreg := 0xFF
  lc := 0
  ls := 0
  le := 0
  rot := 0
  psw := 0
  pc := 0
  stack := []
  loop := none
  branch := none
  slots := 0
  flight := []
  banks := []
  csr := []
  stall := .none
  posted := []
  unreturned := false
  nmiIn := false

/-- How a task ended (R104, R105). -/
inductive EndStatus where
  | normal | budget | illegal | bank | abort
  deriving DecidableEq, Repr

/-- A completion on its way to Tempo (R104): task, status, stamp, sticky flags, and the block of its dispatch. -/
structure Completion where
  pea : Nat
  task : Nat
  status : EndStatus
  stamp : BitVec 16
  flags : BitVec 6
  block : BitVec 49
  stray : Bool
  deriving DecidableEq, Repr

/-- What a pod pea runs: the entry, the BCYC and the block of its dispatch, how it ended if it has, and the counts of R120. -/
structure PeaRun where
  task : Option Nat
  start : Nat
  block : BitVec 49
  ended : Option Completion
  bad : Nat
  good : Nat
  hangRun : Nat
  deriving DecidableEq, Repr

/-- A pea that runs nothing. -/
def PeaRun.reset : PeaRun := ⟨none, 0, 0, none, 0, 0, 0⟩

/-- What Tempo and the pod keep of a task beside its table entry: the block of its last dispatch plus one (0: none),
the block a ready instance is assigned to, the blocks of its last misses, and the spare entry it was moved to plus
one (0: not moved). -/
structure TaskDyn where
  dispatched : Nat
  settled : Nat
  readyFor : BitVec 49
  misses : List Nat
  movedTo : Nat
  deriving DecidableEq, Repr

/-- A task that nothing has happened to. -/
def TaskDyn.reset : TaskDyn := ⟨0, 0, 0, [], 0⟩

/-- A repair or migration under way (R127): the source pea, the copied entries (source entry, spare entry), the block
of the declaration, and whether the load is complete. -/
structure Repair where
  src : Nat
  copies : List (Nat × Nat)
  block : BitVec 49
  loaded : Bool
  deriving DecidableEq, Repr

/-- Pods and Tempo beside their registers (R89-R132). `fifo`: completions of each pod (R116); `marks`: for each output
slot and block number modulo 4, the block plus one in which the slot was last valid (R121); `events`: events posted
and not yet arrived (pod, pea, task, input); `missRecs`: the FIFO of R132, oldest first. -/
structure PodSt where
  run : List (Nat × PeaRun)
  tasks : List (Nat × TaskDyn)
  fifo : List (Nat × List Completion)
  marks : List (Nat × Nat)
  repairs : List (Nat × List Repair)
  events : List (Nat × Nat × Nat × Nat)
  missRecs : List (List Word)
  ceLog : List (Nat × BitVec 49)
  deriving DecidableEq, Repr

/-- Pods and Tempo at reset. -/
def PodSt.reset : PodSt := ⟨[], [], [], [], [], [], [], []⟩

/-- The memories inside the engine (R46, R89): X and Y words and program bundles keyed by core number times the size
plus the address, shared-memory words keyed by pod times 2^20 plus the word index, and the golden copies of the peas'
images (R126), keyed as the memories are. -/
structure MemSt where
  x : List (Nat × DWord)
  y : List (Nat × DWord)
  prog : List (Nat × Bundle64)
  shared : List (Nat × Word)
  goldX : List (Nat × DWord)
  goldY : List (Nat × DWord)
  goldProg : List (Nat × Bundle64)
  dram : List Host.Cell
  deriving DecidableEq, Repr

/-- Memories at reset: nothing listed. -/
def MemSt.reset : MemSt := ⟨[], [], [], [], [], [], [], []⟩

/-- The timeline (R14, R23-R28): the absolute block number, the pending changes in the order of acceptance, and the GEN in
force for the data blocks in hand. -/
structure TimelineSt where
  k : BitVec 49
  pend : List Change
  gens : List (Nat × BitVec 16)
  deriving DecidableEq, Repr

/-- The timeline at reset. -/
def TimelineSt.reset : TimelineSt := ⟨0, [], []⟩

/-- The fault and event unit beside its registers (R575): the islands' queues, the island served last, the records
dropped in the current run of drops, and the islands whose supply is low (R588). -/
structure FeuSt where
  queues : List (Nat × List FaultRec)
  served : Nat
  dropRun : Nat
  dipped : List Nat
  deriving DecidableEq, Repr

/-- The fault and event unit at reset. -/
def FeuSt.reset : FeuSt := ⟨[], 0, 0, []⟩

/-- A gain element in a ramp (R148-R151): from factor `g0` to `g1` in Q4.19, sample `i` of `len`, in dB when `shape`; `now`: the
factor of the last sample. -/
structure GainSt where
  g0 : Nat
  g1 : Nat
  i : Nat
  len : Nat
  shape : Bool
  now : Nat
  deriving DecidableEq, Repr

/-- A source crossfade of a destination (R141): the old source entry, sample `i` of `len`. -/
structure XfadeSt where
  old : Nat
  i : Nat
  len : Nat
  deriving DecidableEq, Repr

/-- The output guard of a slot (R122, R128): the last sample presented for a valid block, the missed blocks in a row, the
samples of a fade-in done (`fading`), a crossfade from the partner, and the data block evaluated last plus one. -/
structure GuardSt where
  last : Int
  run : Nat
  fading : Option Nat
  cross : Option Nat
  evaluated : Nat
  deriving DecidableEq, Repr

/-- A silence detector (R152): samples in a row below THRESH − HYST, whether a sample other than 0 has come, and the data block after
the last one of which a sample was tested. -/
structure DetSt where
  below : Nat
  dirty : Bool
  upTo : Nat
  deriving DecidableEq, Repr

/-- A meter's window in progress (R162-R164, R31-R33, R212); `gr`: the largest reduction, rounded up to a step of 0.01 dB. -/
structure MeterSt where
  first : Nat
  count : Nat
  peak : Nat
  sumSq : Nat
  samples : Nat
  clip : Nat
  gr : Nat
  gen : BitVec 16
  mixed : Bool
  partly : Bool
  tainted : Bool
  deriving DecidableEq, Repr

/-- A meter record formed and not yet published (R164): its meter, its words 0 to 6 without SEQ, its last data block. -/
structure MeterRec where
  meter : Nat
  words : List Word
  last : Nat
  deriving DecidableEq, Repr

/-- The scaling gain of a bus (R161): the N and the SCALE that it last took, and its ramp in dB, which stands at its end when settled. -/
structure ScaleSt where
  n : Nat
  mode : Nat
  ramp : GainSt
  deriving DecidableEq, Repr

/-- A scaling gain of 0 dB. -/
def ScaleSt.reset : ScaleSt := ⟨0, 0, ⟨524288, 524288, 0, 0, true, 524288⟩⟩

/-- An entry of the export policy (R209). -/
structure PolicyEntry where
  kind : Nat
  mode : Nat
  first : Nat
  last : Nat
  deriving DecidableEq, Repr

/-- The signal graph beside its registers (R133-R166). `samp`, `done`: samples and deliveries of the data blocks in hand,
by block, kind and index; `openGates`: the front-end channels whose gate is open; `actLast`, `actFirst`: for each
activity group the data block plus one in which it was active last, and first since its wake request; `queue`: the table
writes queued by R140; `ahead`, `behind`: front-end words already in force for the detectors, and output words still in force for the data block being put out (R137); `later`: changes of output words that act at the next
boundary. -/
structure GraphSt where
  samp : List (Nat × DWord)
  done : List (Nat × Nat)
  gains : List (Nat × GainSt)
  xfades : List (Nat × XfadeSt)
  guards : List (Nat × GuardSt)
  dets : List (Nat × DetSt)
  feFade : List (Nat × Nat)
  openGates : List Nat
  actLast : List (Nat × Nat)
  actFirst : List (Nat × Nat)
  meters : List (Nat × MeterSt)
  ready : List MeterRec
  scales : List (Nat × ScaleSt)
  queue : List Change
  ahead : List (Nat × Word)
  behind : List (Nat × Word)
  later : List (Nat × Word × Word)
  deriving DecidableEq, Repr

/-- The graph at reset. -/
def GraphSt.reset : GraphSt := ⟨[], [], [], [], [], [], [], [], [], [], [], [], [], [], [], [], []⟩

/-- A modulator channel beside its registers (R232-R251): whether its start is a wake that is not over, whether an input sample other than
0 has come, the periods it has switched, the high times of its legs in edge steps, whether a hard stop stands; the held
path (last sample, held blocks in a row, samples of the crossfade back). -/
structure ModSt where
  wake : Bool
  dirty : Bool
  periods : Nat
  legA : Nat
  legB : Nat
  hard : Bool
  last : Int
  held : Nat
  heldAt : Nat
  back : Option Nat
  deriving DecidableEq, Repr

/-- A channel at reset. -/
def ModSt.reset : ModSt := ⟨false, false, 0, 0, 0, false, 0, 0, 0, none⟩

/-- A rail planner beside its registers (R255, R256): the required voltages of the data blocks of the hold time, the
target in 1/240 of 0.01 V, the setpoint planned and whether its floor is the quiet one. -/
structure RailSt where
  hist : List (Nat × Nat)
  target : Nat
  setpoint : Nat
  quiet : Bool
  deriving DecidableEq, Repr

/-- A planner at reset. -/
def RailSt.reset : RailSt := ⟨[], 0, 0, false⟩

/-- The modulators and rails beside their registers. `quietStop`: groups that idle because Pawn left RUN (R252);
`old`: words written
since, with their address, the first data block of the new word and the word before (R259); `waking`: groups between a wake request and ACTIVE (R250); `lateWake`: groups whose wake is counted late (R251). -/
structure ModsSt where
  chans : List (Nat × ModSt)
  rails : List (Nat × RailSt)
  quietStop : Bool
  old : List (Nat × Nat × Word)
  waking : List Nat
  lateWake : List Nat
  deriving DecidableEq, Repr

/-- Modulators at reset. -/
def ModsSt.reset : ModsSt := ⟨[], [], false, [], [], []⟩

/-- What the running image gives beside the registers (R192-R193, R206-R219, R521-R525, R547). `taintIn`: front-end
channels that the image marks TAINT; `policy`, `exportKey`: the export policy; `qstep`, `qrate`: the meter quantisation;
`owner`: an owner image is loaded; `epoch`, `force`: its EPOCH and FORCE_EPOCH; `other`: the EPOCH of the valid image in
the other slot; `masks`, `grants`, `revoked`: the roles section; `scenes`, `params`: the owner's scenes and parameters;
`started`: the absolute block of audio start; `lastBad`: the absolute block of the last fault of class 0x1 or 0x2, plus
one; `digest`: its configuration digest;
`recChans`: the egress and TDM channels that the flight recorder keeps (R491); `records`: its register writes, which a recovery writes again (R591). -/
structure ImageSt where
  taintIn : List Nat
  policy : List PolicyEntry
  exportKey : Bool
  qstep : Nat
  qrate : Nat
  owner : Bool
  epoch : Nat
  force : Bool
  other : Option Nat
  masks : List (BitVec 16)
  grants : List Grant
  revoked : List (BitVec 32)
  scenes : List (Nat × List ParamElem)
  params : List OwnerParam
  started : Option Nat
  lastBad : Nat
  digest : BitVec 384
  recChans : List (Nat × Nat)
  records : List (Nat × Word)
  deriving DecidableEq, Repr

/-- No image. -/
def ImageSt.reset : ImageSt where
  taintIn := []
  policy := []
  exportKey := false
  qstep := 5
  qrate := 10
  owner := false
  epoch := 0
  force := false
  other := none
  masks := []
  grants := []
  revoked := []
  scenes := []
  params := []
  started := none
  lastBad := 0
  digest := 0
  recChans := []
  records := []


/-- A bridge beside its registers (R170-R180): φ at entry to locked mode in 1/65,536 of an N sample, the 100 ms updates
since the last crossfade or start, the block in which the last crossfade to tracking ended plus one, the partner's standing
decision to enter locked mode, and whether the own one has been sent. -/
structure BridgeSt where
  phi0 : Int
  phi : Int
  updates : Nat
  leftAt : Nat
  partnerAt : Option Nat
  asked : Bool
  deriving DecidableEq, Repr

/-- A bridge at reset. -/
def BridgeSt.reset : BridgeSt := ⟨0, 0, 0, 0, none, false⟩

/-- A TDM port beside its registers (R444-R450): consecutive good frames in HUNT; whether the episode included loss of
clock; the frames of the fade or ramp done, and the frame of a full fade from which the fade began; the slots of the last
good frame; the slots sent last; the number of the last N sample its input bridge gave, plus one. -/
structure TdmSt where
  hunt : Nat
  lost : Bool
  pos : Nat
  lastGood : List DWord
  sent : List DWord
  lastN : Nat
  deriving DecidableEq, Repr

/-- A port at reset. -/
def TdmSt.reset : TdmSt := ⟨0, false, 0, [], [], 0⟩

/-- Bridges and TDM ports. -/
structure EdgeSt where
  bridges : List (Nat × BridgeSt)
  ports : List (Nat × TdmSt)
  deriving DecidableEq, Repr

/-- Bridges and ports at reset. -/
def EdgeSt.reset : EdgeSt := ⟨[], []⟩

/-- The transmit side of a MAC's MACsec (R226, R227): the AN in use, the AN that takes over at a BSN, the AN that waits to be
retired, and RETIRE in seconds. -/
structure SecSt where
  tx : Option Nat
  next : Option (Nat × BitVec 32)
  old : Option Nat
  retire : Nat
  deriving DecidableEq, Repr

/-- No association. -/
def SecSt.reset : SecSt := ⟨none, none, none, 10⟩

/-- What a running key-store command will do at its completion (R229). -/
inductive KsJob where
  | unwrap (slot : Nat) (record : Bool) (tagOk : Bool) (key : BitVec 256)
  | decrypt (slot : Nat) (tagOk : Bool) (dst : Nat) (plain : List Byte)
  | golden (slot : Nat) (tagOk : Bool) (at_ : Nat) (words : List Word)
  | session (num : Nat) (key : BitVec 256)
  | sak (slot : Nat) (r : SakRecord) (apply : BitVec 32)
  | clear (slot : Nat)
  | zeroise
  | epoch (verify : List Bool)
  | provision (production : Bool) (owner safety : BitVec 384)
  | random
  | killJtag (owner : Bool)
  deriving DecidableEq, Repr

/-- The key store beside its registers (R186-R230). `owned`, `fa`, `epochBits`: fuses (JKILL and the identity stand in
registers); `secret`: the device secret is derived; `gck`: the golden-copy key is drawn; `keys`: the keys in the slots;
`saks`: the records of SAK slots; `golden`: the golden chunks in DRAM by chunk number, as their plain words (the
encryption is symbolic, log entry 27: DESIGN CHOICE); `job`: the running command; `zeroing`: the peas being zeroised; `opening`: the
JTAG scope that opens when zeroisation completes; `nonce`: the challenge in force; `quietUntil`: no nonce is issued
before this time; `fails`: failed responses since power-on reset; `jtagReg`: the instruction selected, 0 IDCODE, 1
BYPASS, 2 UNLOCK_CHAL, 3 UNLOCK_RESP; `jtagOut`:
what the data register shows; `chal`: the challenge read last; `sec`: each MAC's transmit association. -/
structure KeySt where
  owned : Bool
  fa : Bool
  epochBits : BitVec 64
  secret : Bool
  gck : Bool
  keys : List (Nat × BitVec 256)
  saks : List (Nat × SakRecord)
  golden : List (Nat × List Word)
  job : Option KsJob
  zeroing : List Nat
  opening : Nat
  nonce : Option (BitVec 256)
  quietUntil : Nat
  fails : Nat
  jtagReg : Nat
  jtagOut : BitVec 64
  chal : Option (BitVec 64 × Nat × BitVec 256)
  sec : List (Nat × SecSt)
  deriving DecidableEq, Repr

/-- The key store at reset. -/
def KeySt.reset : KeySt where
  owned := false
  fa := false
  epochBits := 0
  secret := false
  gck := false
  keys := []
  saks := []
  golden := []
  job := none
  zeroing := []
  opening := 0
  nonce := none
  quietUntil := 0
  fails := 0
  jtagReg := 0
  jtagOut := 0
  chal := none
  sec := []


/-- A sense stream beside its registers (R265-R274): the CIC's integrators and combs, the fast values newest first, the
CIC outputs since RUN, the last input bit, the CIC periods in a row with a transition while stuck, the fast values in a
row over HI (R297), the last ten bits of the dip path newest first, the dip values since RUN and those in a row
below LO. -/
structure StreamSt where
  integ : List (BitVec 24)
  comb : List (BitVec 24)
  hist : List Int
  fastN : Nat
  last : Bool
  calm : Nat
  hiRun : Nat
  dipBits : List Int
  dipN : Nat
  below : Nat
  deriving DecidableEq, Repr

/-- A stream whose histories are clear (R274). -/
def StreamSt.reset : StreamSt := ⟨[0, 0, 0, 0], [0, 0, 0, 0], [], 0, false, 0, 0, [], 0, 0⟩

/-- A linear ramp from one Q1.23 gain to another, `i` of `len` samples done (R288). -/
structure RampSt where
  g0 : Nat
  g1 : Nat
  i : Nat
  len : Nat
  deriving DecidableEq, Repr

/-- A ramp that stands at a gain. -/
def RampSt.at (g : Nat) : RampSt := ⟨g, g, 0, 0⟩

/-- Rook's part of a channel beside its registers (R281-R302): the causes that safe-mute it, the mute factor and why it
last went to 0 (0 not, 1 emergency, 2 Tempo, 3 announcement, 4 safe mute), the thermal gain and its attenuation in 0.001
dB, whether the thermal target is off, the excursion gain, the mix of the priority source, the temperatures in 0.001 °C
once set, the squares of the slow current values since the last update and their number, the OC trips of the last 60 s,
and the pilot windows in a row outside (open, short) and inside the range. -/
structure RookCh where
  causes : Nat
  mf : RampSt
  why : Nat
  gth : RampSt
  att : Nat
  off : Bool
  gx : Nat
  pa : RampSt
  temp : Option (Int × Int)
  sumI2 : Nat
  nI : Nat
  oc : List Nat
  zOpen : Nat
  zShort : Nat
  zIn : Nat
  deriving DecidableEq, Repr

/-- A channel of Rook at reset. -/
def RookCh.reset : RookCh where
  causes := 0
  mf := RampSt.at 0
  why := 4
  gth := RampSt.at 0x800000
  att := 0
  off := false
  gx := 0x800000
  pa := RampSt.at 0
  temp := none
  sumI2 := 0
  nI := 0
  oc := []
  zOpen := 0
  zShort := 0
  zIn := 0

/-- A safety input (R300): the samples in a row that were active, and those that were not. -/
structure SfSt where
  on : Nat
  off : Nat
  deriving DecidableEq, Repr

/-- Rook beside its registers (R277-R308). `consts`, `tamax`, `beats`: what the safety section puts into its SRAM; `hw`: the
hardware safe state holds; `clkBad`: the clock monitor holds it; `lastEvent`: when an event of R282 last came;
`rlyon`: RLYON has passed since the relay closed; `hold`: a JTAG unlock holds the relay open (R222); `latchCh`, `latchDc`,
`latchGr`: the retained store of latched trips (R277): channels, channels with a DC trip, groups; `flt`: power-stage
faults of each group in the last 60 s; `sf`: the safety inputs; `tempoMiss`, `tempoRun`, `tempoMute`: heartbeats of
Tempo; `words`, `stale`: the control cores' heartbeat words and the reads that found them unchanged; `ta`: each
cabinet's last usable TAMB in 0.1 °C; `fresh`: cabinets that had reported within 2 s before arming (R291). -/
structure RookSt where
  chans : List (Nat × RookCh)
  consts : List (Nat × RookConst)
  tamax : Int
  beats : List (BitVec 40)
  hw : Bool
  clkBad : Bool
  lastEvent : Option Nat
  rlyon : Bool
  hold : Bool
  latchCh : List Nat
  latchDc : List Nat
  latchGr : List Nat
  flt : List (Nat × List Nat)
  sf : List (Nat × SfSt)
  tempoMiss : Nat
  tempoRun : Nat
  tempoMute : Bool
  words : List (Nat × Word)
  stale : List (Nat × Nat)
  ta : List (Nat × Int)
  fresh : List Nat
  deriving DecidableEq, Repr

/-- Rook at reset: the hardware safe state (R281). -/
def RookSt.reset : RookSt where
  chans := []
  consts := []
  tamax := 0
  beats := []
  hw := true
  clkBad := false
  lastEvent := none
  rlyon := false
  hold := false
  latchCh := []
  latchDc := []
  latchGr := []
  flt := []
  sf := []
  tempoMiss := 0
  tempoRun := 0
  tempoMute := false
  words := []
  stale := []
  ta := []
  fresh := []


/-- What a logical Dranan lane's framer holds (R313): 0 HUNT, 1 CONFIRM, 2 ALIGNED; the expected markers seen, the BSN
of the last marker, the misses in a row, and the logical lane its markers name. -/
structure Framer where
  ll : Nat
  state : Nat
  seen : Nat
  bsn : BitVec 32
  misses : Nat
  deriving DecidableEq, Repr

/-- A framer at reset: HUNT. -/
def Framer.reset : Framer := ⟨0, 0, 0, 0, 0⟩

/-- The partner's latest status frame: the frame, the absolute block it was sent in, and its END as an absolute block
(R327, R614). -/
structure Heard where
  frame : StatusFrame
  block : Nat
  fin : Nat
  deriving DecidableEq, Repr

/-- A castling in progress (R334): its block, whether this engine is the holder, and whether ACCEPT and COMMIT have
passed; `cause` is what `DRN_KING.CAUSE` will record. -/
structure Castling where
  block : Nat
  holder : Bool
  accepted : Bool
  committed : Bool
  cause : Nat
  deriving DecidableEq, Repr

/-- The pair and the king beside their registers (R309-R336). `framers`: by physical lane; `heardNow`: the channels heard
in the block in progress; `last`: the partner's latest status frame; `beat`: its latest HEARTBEAT; `ownRequest`: a
castling request of an own CASTLE-class task stands; `yieldNext`: the engine yields at the next block boundary (R329,
R330); `splitSeen`: the split in progress is counted; `wantRevert`: the request sent is a revert; `healthySince`,
`since`: the blocks since which the engine is HEALTHY and has been waiting; `markerNs`: when the own last marker was
sent; `sentType`, `sentEnd`: the status frame sent in this block; `mirrorOut`: entries not yet acknowledged, with their
sequence number and block; `mirrorNext`, `mirrorGot`: the next sequence number to send and the last received in order;
`gather`: the resync being gathered; `staged`: the resync that waits for its block (R323); `mirrored`: the changes of
the message that is not closed yet; `resyncAt`: the BSN of the resync being sent; `kout`, `koutNext`: king-governed
outputs and decisions that wait for their block (R324); `bridgeNext`: bridge decisions (R180), `bridgeIn`: the partner's that have come in this record; `feeds`, `ownFeeds`:
modulator feeds of the partner and the own ones by data block; `slots`: the partner's output slots; `kingSent`: KING
records sent; `equalRun`: blocks of equal feeds in a row. -/
structure PairSt where
  framers : List (Nat × Framer)
  heardNow : BitVec 3
  last : Option Heard
  beat : Option Heartbeat
  castling : Option Castling
  ownRequest : Bool
  yieldNext : Bool
  splitSeen : Bool
  wantRevert : Bool
  healthySince : Option Nat
  since : Nat
  markerNs : BitVec 64
  sentType : BitVec 2
  sentEnd : BitVec 32
  mirrorOut : List (BitVec 32 × Nat × MirrorEntry)
  mirrorNext : BitVec 32
  mirrorGot : BitVec 32
  gather : Option (BitVec 32 × BitVec 16 × List Change)
  staged : Option (BitVec 32 × BitVec 16 × List Change)
  mirrored : List Change
  needResync : Bool
  resyncAt : Option (BitVec 32)
  kout : List (Nat × BitVec 16)
  koutNext : List (Nat × Nat × BitVec 16)
  bridgeNext : List (Nat × Nat × Bool)
  bridgeIn : List (Nat × Nat × Bool)
  feeds : List (Nat × List (BitVec 32))
  ownFeeds : List (Nat × List (BitVec 32))
  slots : List (Nat × List (BitVec 32))
  kingSent : List (KingCode × BitVec 24)
  equalRun : Nat
  deriving DecidableEq, Repr

/-- The pair at reset: no partner is known. -/
def PairSt.reset : PairSt where
  framers := []
  heardNow := 0
  last := none
  beat := none
  castling := none
  ownRequest := false
  yieldNext := false
  splitSeen := false
  wantRevert := false
  healthySince := none
  since := 0
  markerNs := 0
  sentType := 2
  sentEnd := 0
  mirrorOut := []
  mirrorNext := 0
  mirrorGot := 0
  gather := none
  staged := none
  mirrored := []
  needResync := false
  resyncAt := none
  kout := []
  koutNext := []
  bridgeNext := []
  bridgeIn := []
  feeds := []
  ownFeeds := []
  slots := []
  kingSent := []
  equalRun := 0

/-- A domain servo beside its registers (R346): the model's offset in ns, the Syncs in a row within LOCKTH and those beyond
1,000 ns, and whether it has been LOCKED. -/
structure DomSt where
  offset : Int
  good : Nat
  bad : Nat
  locked : Bool
  deriving DecidableEq, Repr

/-- A servo at reset. -/
def DomSt.reset : DomSt := ⟨0, 0, 0, false⟩

/-- A capture unit (R352, R353): its stamps, oldest first, in ns and 2^-8 ns; the qualifying edges since the last stamp; and
whether a drop since the FIFO was last empty has been logged. -/
structure CapSt where
  stamps : List (BitVec 64 × BitVec 8)
  edges : Nat
  dropped : Bool
  deriving DecidableEq, Repr

/-- A capture unit at reset. -/
def CapSt.reset : CapSt := ⟨[], 0, false⟩

/-- A trigger (R354, R355): the target's fraction in 2^-32 ns, and whether its target has been reached and fired. -/
structure TrgSt where
  frac : Nat
  fired : Bool
  deriving DecidableEq, Repr

/-- A trigger at reset. -/
def TrgSt.reset : TrgSt := ⟨0, false⟩

/-- The timebase, PTP and the DPLL beside their registers (R338-R364): the servos, capture units and triggers; interrupt lines
raised by triggers, last first; the PPS servo's edges in a row within the lock threshold and beyond 1,000 ns, and whether
it has locked once; the clockClass advertised (R344); the timebase time at which VALID rose (R528); whether the DPLL has selected a reference since reset; pulses
emitted by each CKOUT; the stamps taken of event messages by direction of each port and not yet read (R350). -/
structure TimeSt where
  doms : List (Nat × DomSt)
  caps : List (Nat × CapSt)
  trgs : List (Nat × TrgSt)
  irqs : List Nat
  ppsGood : Nat
  ppsBad : Nat
  ppsOnce : Bool
  clockClass : Nat
  validAt : Int
  selected : Bool
  pulses : List (Nat × Nat)
  stamps : List (Nat × List (BitVec 64 × BitVec 2))
  deriving DecidableEq, Repr

/-- Time at reset. -/
def TimeSt.reset : TimeSt := ⟨[], [], [], [], 0, 0, false, 248, 0, false, [], []⟩


/-- A Dranan substitution under way on a spare (R389, R390): the swap block, the logical lane, the lane replaced, whether the
own engine asks, whether the partner asks, and whether it has answered. -/
structure SwapSt where
  block : Nat
  ll : Nat
  src : Nat
  mine : Bool
  theirs : Bool
  acked : Bool
  deriving DecidableEq, Repr

/-- A serial lane beside its registers (R372-R392): whether its receiver has been adapted since power-on reset, and whether
the next training starts from preset; training failures in a row; termination found on so many probes in a row, and
whether it is found; whether a DETECT timeout has been logged; the own RX_READY and the frames in a row with the
partner's; the status sent for each tap; the last capability word accepted, whether a valid word has come, and whether
the second of two equal words had ACK; the capability word sent; the times of block-lock losses; windows in a row with
HIBER; the block of a loss that still lasts; the TRAIN control word answers; and a substitution on the lane as spare. -/
structure LaneSt where
  adapted : Bool
  preset : Bool
  fails : Nat
  probes : Nat
  term : Bool
  logged : Bool
  ready : Bool
  run : Nat
  stPre : Nat
  stPost : Nat
  cap : List (BitVec 64)
  got : Bool
  capOut : List (BitVec 64)
  losses : List Nat
  hiberRun : Nat
  lossAt : Option Nat
  swap : Option SwapSt
  deriving DecidableEq, Repr

/-- A lane at reset. -/
def LaneSt.reset : LaneSt := ⟨false, false, 0, 0, false, false, false, 0, 0, 0, [], false, [], [], 0, none, none⟩

/-- An audio-class frame in a transmit queue (R401, R402, R413): its class, launch instant and entry, its length, and what
it carries: the data block of its first sample, sequence number, timestamp, and the samples of its channels, sample by
sample; `shared`: of a SHARED entry; `zeroed`: it carries zeros by R210. -/
structure TxFrame where
  tc : Nat
  launch : Nat
  entry : Nat
  bytes : Nat
  block : Nat
  seq : Nat
  time : Nat
  shared : Bool
  zeroed : Bool
  samples : List (BitVec 24)
  deriving DecidableEq, Repr

/-- A MAC beside its registers (R400-R409, R423): audio-class frames queued; control-class frames with the time of their
queuing; when it went down; whether PAUSE stops it, and the priorities that PFC stops; whether a PAUSE or PFC acted on
has been logged since it came up; the frames in its media region and in its control region (lengths, oldest first); the
highest packet number received by receive channel and AN; and the frame sent last, if it was of the audio class. -/
structure MacSt where
  audio : List TxFrame
  ctl : List (Nat × CtlFrame)
  downAt : Nat
  stopAll : Bool
  stopPfc : List Nat
  fcLogged : Bool
  rxMedia : List Nat
  rxCtl : List Nat
  rxPn : List (Nat × Nat)
  sent : Option TxFrame
  deriving DecidableEq, Repr

/-- A MAC at reset. -/
def MacSt.reset : MacSt := ⟨[], [], 0, false, [], false, [], [], [], none⟩

/-- An ingress entry beside its registers (R415-R420): the configuration words in force and those before the latest commit
(none: the reset words); the sequence numbers on record and the newest; the samples that wait for their data block, by
block, channel and place; the data blocks that each leg has delivered samples for; the first data block with samples since
the entry became LIVE; each channel's guard, whose `last` is the last sample; and the samples done of a stale fade. -/
structure SinSt where
  words : List (BitVec 32)
  old : List (BitVec 32)
  seen : List Nat
  newest : Option Nat
  store : List (Nat × BitVec 24)
  legA : List Nat
  legB : List Nat
  first : Option Nat
  guards : List GuardSt
  fade : Nat
  deriving DecidableEq, Repr

/-- An ingress entry at reset. -/
def SinSt.reset : SinSt := ⟨[], [], [], none, [], [], [], none, [], 0⟩

/-- Ethernet and the streams beside their registers: the MACs, the ingress entries, the configuration words in force of the
egress entries, the data blocks of egress entries that R210 zeroed, and the data block up to which ingress windows have
closed. -/
structure EthSt where
  macs : List (Nat × MacSt)
  sins : List (Nat × SinSt)
  souts : List (Nat × List (BitVec 32))
  zeroed : List (Nat × Nat)
  closed : Nat
  deriving DecidableEq, Repr

/-- Ethernet at reset. -/
def EthSt.reset : EthSt := ⟨[], [], [], [], 0⟩

/-- The field bus beside its registers (R430-R437): frames in the receive windows, oldest first; the bytes of the transmit
windows, by address; the frame each port sent last; the attempts of the frame on its way and the backoff slots it waits
for; cabinets of which a report has been accepted; cabinets with a usable report since their last lapse; and the times of
accepted reports. -/
structure FbSt where
  rx : List (Nat × List (List (BitVec 8)))
  tx : List (Nat × BitVec 8)
  sent : List (Nat × List (BitVec 8))
  attempts : List (Nat × Nat)
  backoff : List (Nat × Nat)
  seen : List Nat
  live : List Nat
  times : List (Nat × List Nat)
  deriving DecidableEq, Repr

/-- The field bus at reset. -/
def FbSt.reset : FbSt := ⟨[], [], [], [], [], [], [], []⟩

/-- A transaction outstanding in the crossbar (R457-R462): its number, the request, when it was issued, the bytes done, the
data read so far, whether its response is an error, whether it is complete, and whether its tag has been freed by a timeout. -/
structure XbTrans where
  id : Nat
  req : XbReq
  issued : Nat
  at_ : Nat
  data : List (BitVec 8)
  err : Bool
  done : Bool
  freed : Bool
  deriving DecidableEq, Repr

/-- A piece that waits at a target (R455, R457): the transaction, the target (0 register space; 1 + n the shared memory of
pod n; 17 + n DRAM controller n), its address and length, its master, its arrival, its effective QoS, and whether it is
within its master's reservation. -/
structure XbPiece where
  id : Nat
  target : Nat
  addr : Nat
  len : Nat
  master : Nat
  arr : Nat
  qos : Nat
  within : Bool
  deriving DecidableEq, Repr

/-- A response that the crossbar has returned (R461). -/
structure XbResp where
  master : Nat
  addr : Nat
  data : List (BitVec 8)
  err : Bool
  deriving DecidableEq, Repr

/-- The crossbar and the DRAM controllers beside their registers (R453-R467): transactions in issue order; pieces that wait;
requests that wait for a tag; counters of transactions and arrivals; credits, and the masters whose credit ran out in the
block; the response returned last; the refresh multiplier in force for shedding and the block since which the reported one
has been lower; the time of each controller's last logged correctable error; and the correctable errors of the last 24 h
by controller, with address, row and time. -/
structure XbSt where
  trans : List XbTrans
  pieces : List XbPiece
  waiting : List XbReq
  nextId : Nat
  arrivals : Nat
  credit : List (Nat × Nat)
  overSeen : List Nat
  out : Option XbResp
  mult : Nat
  lowSince : Option Nat
  ceLog : List (Nat × Nat)
  ces : List (Nat × DramErr × Nat)
  deriving DecidableEq, Repr

/-- The crossbar at reset. -/
def XbSt.reset : XbSt := ⟨[], [], [], 0, 0, [], [], none, 0, none, [], []⟩

/-- A configuration slot (R484): the image's bytes, its SEQ, and whether it is committed. -/
structure SlotSt where
  bytes : List (BitVec 8)
  seq : BitVec 32
  committed : Bool
  deriving DecidableEq, Repr

/-- An erased slot. -/
def SlotSt.reset : SlotSt := ⟨[], 0, false⟩

/-- A chunk (R488): its header and its samples; `series`: quantised meter records (channel, PEAK, RMS, index) of channels
that are stored only as these (R491). -/
structure Chunk where
  recorder : Bool
  id : Nat
  index : Nat
  first : BitVec 32
  blocks : Nat
  gen : BitVec 16
  nch : Nat
  rate : Nat
  encrypted : Bool
  gap : Bool
  mixed : Bool
  meterOnly : Bool
  time : BitVec 64
  samples : List (BitVec 24)
  series : List (Nat × Nat × Nat × Nat)
  deriving DecidableEq, Repr

/-- A capture of the catalogue (R489): its identifier, first and last BSN, channels, rate, flags, bytes and chunks. -/
structure Capture where
  id : Nat
  first : BitVec 32
  last : BitVec 32
  nch : Nat
  rate : Nat
  encrypted : Bool
  protect : Bool
  truncated : Bool
  recording : Bool
  bytes : Nat
  chunks : List Chunk
  deriving DecidableEq, Repr

/-- A capture window (R34-R37, R552): the capture, its start and stop blocks, and its destinations' channels. -/
structure CapWindow where
  id : Nat
  start : Nat
  stop : Nat
  protect : Bool
  deriving DecidableEq, Repr

/-- A writer of chunks (R486, R491): the identifier, the index of the next chunk, whether that chunk follows a gap, whether a
run of drops lasts, the blocks of the chunk in hand (block, samples, tainted), the chunks staged, meter sums of channels
(channel, peak, squares, samples), the meter records of the chunk in hand and the next record index. -/
structure Writer where
  id : Nat
  index : Nat
  gap : Bool
  dropping : Bool
  cur : List (Nat × List (BitVec 24))
  staged : List Chunk
  sums : List (Nat × Nat × Nat × Nat)
  series : List (Nat × Nat × Nat × Nat)
  seriesAt : Nat
  deriving DecidableEq, Repr

/-- An idle writer. -/
def Writer.reset : Writer := ⟨0, 0, false, false, [], [], [], [], 0⟩

/-- A flash job in hand (R497). -/
inductive FlashJob where
  | imgWrite (slot addr len seq : Nat)
  | imgRead (slot addr len : Nat)
  | logRead (first addr len : Nat)
  | capDelete (id : Nat)
  | capProtect (id : Nat) (on : Bool)
  | format (d : FlashDesc) (bad : List (Nat × Nat))
  | scan
  | life (addr len : Nat)
  deriving DecidableEq, Repr

/-- A background job (R481, R482): 0 refresh, 1 static levelling, 2 retention scan; its die and block, its deadline in ns,
and whether it is urgent. -/
structure BgJob where
  kind : Nat
  die : Nat
  block : Nat
  deadline : Nat
  urgent : Bool
  deriving DecidableEq, Repr

/-- The flash store. What power loss leaves (R494): whether it is formatted, the descriptor, the slots, the pages of the
event log, the catalogue, the next identifier, the wear of captures by time, the bad-block tables, the erase and read
counts by die × 65,536 + block, the spare blocks used by die, the recorder's ring, its sessions with a wrapped key, the
checkpoint, and the rows to repair that the event log lists (R467: controller, rank, bank, row). What it does not: the log buffer and the records lost, the job, background jobs, the dies' queues, the window,
the writers, and whether low life has been logged. -/
structure FlashSt where
  formatted : Bool
  desc : Option FlashDesc
  slots : List (Nat × SlotSt)
  pages : List (List (Nat × FaultRec))
  captures : List Capture
  nextId : Nat
  wear : List (Nat × Nat)
  factory : List (Nat × Nat)
  grown : List (Nat × Nat)
  erases : List (Nat × Nat)
  reads : List (Nat × Nat)
  spareUsed : List (Nat × Nat)
  ring : List Chunk
  recKeys : List Nat
  ckpt : Option (Nat × Nat)
  logBuf : List (Nat × FaultRec)
  logLost : Nat
  job : Option FlashJob
  bg : List BgJob
  queues : List (Nat × List NandOp)
  window : Option CapWindow
  cap : Writer
  recw : Writer
  lifeLogged : Bool
  repairs : List (Nat × Nat × Nat × Nat)
  deriving DecidableEq, Repr

/-- An empty flash store. -/
def FlashSt.reset : FlashSt where
  formatted := false
  desc := none
  slots := []
  pages := []
  captures := []
  nextId := 0
  wear := []
  factory := []
  grown := []
  erases := []
  reads := []
  spareUsed := []
  ring := []
  recKeys := []
  ckpt := none
  logBuf := []
  logLost := 0
  job := none
  bg := []
  queues := []
  window := none
  cap := Writer.reset
  recw := Writer.reset
  lifeLogged := false
  repairs := []

/-- Pawn beside its registers (R498-R513, R583). `words`: entry words in force since the last wake; `phase` of the step: 0
none, 1 VOUT_COMMAND on its way, 2 waiting for power-good or oscillator windows, 3 STATUS_WORD on its way, 4 DLY, 5 waiting
for the retry, 6 waiting to wake after a power-good loss; `windows`: good oscillator windows in a row; `quietSince`: the
block since which `SG_QUIET.QUIET` has been 1; `leaving`: QUIET is being left; `runNext`: RUN is entered at the next block
boundary; `loss`: STOPPING follows a power-good loss; `stopAudio`: audio stops at the next block boundary; `pmbBad`: entries
in an episode of PMBus faults; `low`: entries whose power-good is lost; `avsLogged`: detail 0x080 is logged; `out`: the
bytes that the last diagnostic command returned; `copies`: the boot copies in the order of R475; `booted`: the owner
runtime runs; `failed`: slots that failed at this start; `skew`: timebase less power-on count. -/
structure PawnSt where
  words : List (Nat × Word)
  phase : Nat
  windows : Nat
  quietSince : Option Nat
  leaving : Bool
  runNext : Bool
  loss : Bool
  stopAudio : Bool
  pmbBad : List Nat
  low : List Nat
  avsLogged : Bool
  out : List (BitVec 8)
  copies : List BootCopy
  booted : Bool
  failed : List Nat
  skew : Int
  deriving DecidableEq, Repr

/-- Pawn at reset. -/
def PawnSt.reset : PawnSt where
  words := []
  phase := 0
  windows := 0
  quietSince := none
  leaving := false
  runNext := false
  loss := false
  stopAudio := false
  pmbBad := []
  low := []
  avsLogged := false
  out := []
  copies := []
  booted := false
  failed := []
  skew := 0


/-- A message that the engine sends (R533, R540): TYPE, SESSION, SEQ, MORE, the response prefix and the words that follow it.
ACCEPT, the DEVCERT response and EVENT have no prefix: theirs is all words. -/
structure HalvonOut where
  typ : Nat
  session : Nat
  seq : Nat
  more : Bool
  reqSeq : Nat
  status : Nat
  late : Bool
  stopLate : Bool
  trunc : Bool
  errIdx : Nat
  acceptBsn : Nat
  applyBsn : Nat
  body : List (BitVec 32)
  deriving DecidableEq, Repr

/-- A session (R536-R539, R549-R551): its certificate's data, whether it has opened, the highest SEQ accepted and those
accepted at or below it within the window, the responses kept for repetition (first: of a request under the replaced key),
the engine's own last SEQ, the window
under the replaced key while that is still accepted, the meters subscribed with DIV and the records counted, the fault
classes subscribed, the records that wait for an EVENT with the records dropped of each kind, and when the EVENTs
of the last second were sent. -/
structure Session where
  num : Nat
  role : Nat
  serial : BitVec 32
  notBefore : BitVec 64
  notAfter : BitVec 64
  opened : Bool
  high : Nat
  seen : List Nat
  replies : List (Bool × Nat × List HalvonOut)
  tx : Nat
  old : Option (Nat × List Nat)
  meters : List (Nat × Nat × Nat)
  mask : BitVec 16
  queue : List (EventKind × List Word)
  dropMeter : Nat
  dropFault : Nat
  sent : List Nat
  deriving DecidableEq, Repr

/-- Halvon (R532-R557): the sessions; the messages that the last command sent; the counts of R543 (tag failures, replays,
discarded HELLO and DEVCERT requests, dropped records); the times of the HELLO and DEVCERT requests and of the discards of the
last second; when the faults of R557 were last logged (plus one); and the sessions' castling requests that wait (R553). -/
structure HalvonSt where
  sessions : List Session
  out : List HalvonOut
  tagFails : Nat
  replays : Nat
  helloDrops : Nat
  eventDrops : Nat
  helloTimes : List Nat
  discTimes : List Nat
  helloLog : Nat
  discLog : Nat
  castle : List (Nat × Nat)
  deriving DecidableEq, Repr

/-- Halvon at reset: no session. -/
def HalvonSt.reset : HalvonSt := ⟨[], [], 0, 0, 0, 0, [], [], 0, 0, []⟩


/-- The state of the block. `regs`: every register of the register map; `ns`, `frac`: the timebase (R338), and before
it is set the power-on count (R583); `nS`: samples per block in the N domain (R13), which the image sets; `freeCtr`: the model's own count of free values taken (log entry 2: DESIGN CHOICE);
`sense`, `senseAt`: the sense streams and the instant of the latest slow value of stream 0 (R268);
`pending`: the commands waiting, first in first out. -/
structure State where
  regs : List (Nat × Word)
  cores : List (Nat × Pea)
  mem : MemSt
  pods : PodSt
  ns : BitVec 64
  frac : BitVec 32
  tl : TimelineSt
  feu : FeuSt
  pair : PairSt
  nS : Nat
  image : ImageSt
  graph : GraphSt
  mods : ModsSt
  edge : EdgeSt
  sense : List (Nat × StreamSt)
  senseAt : BitVec 64
  rook : RookSt
  ks : KeySt
  time : TimeSt
  halv : HalvonSt
  eth : EthSt
  fb : FbSt
  xb : XbSt
  flash : FlashSt
  pawn : PawnSt
  lanes : List (Nat × LaneSt)
  freeCtr : Nat
  pending : List Instr
  deriving DecidableEq, Repr

/-- The block right after reset. -/
def State.reset : State where
  regs := []
  cores := []
  mem := MemSt.reset
  pods := PodSt.reset
  ns := 0
  frac := 0
  tl := TimelineSt.reset
  feu := FeuSt.reset
  pair := PairSt.reset
  nS := 4
  image := ImageSt.reset
  graph := GraphSt.reset
  mods := ModsSt.reset
  edge := EdgeSt.reset
  sense := []
  senseAt := 0
  rook := RookSt.reset
  ks := KeySt.reset
  time := TimeSt.reset
  halv := HalvonSt.reset
  eth := EthSt.reset
  fb := FbSt.reset
  xb := XbSt.reset
  flash := FlashSt.reset
  pawn := PawnSt.reset
  lanes := []
  freeCtr := 0
  pending := []

end Sys2Proof.Machine
end

