-- ==== Sys2Proof/Machine/Ops.lean ====
section
/-! DEFINITION. The named operations over registers, counters, fault records, time and memories. -/

namespace Sys2Proof.Machine

/-- The outcome of a command. -/
abbrev Out := Host.Outcome State Fault Refusal

/-- Bits `lo` to `lo + w - 1` of a register word, as a mask. -/
def fieldMask (lo w : Nat) : Word := BitVec.ofNat 32 (2 ^ w - 1) <<< lo

/-- Put a value into a field of a word; the other bits keep theirs. -/
def putField (x : Word) (lo w v : Nat) : Word :=
  (x &&& ~~~ fieldMask lo w) ||| ((BitVec.ofNat 32 v <<< lo) &&& fieldMask lo w)

/-- A field of a word. -/
def getField (x : Word) (lo w : Nat) : Nat := (x.toNat / 2 ^ lo) % 2 ^ w

/-- The word of the register at an address (R558, R562): its stored word. -/
def rdReg (a : Nat) (s : State) : Word := mapGet regReset s.regs a

/-- Store a word in the register at an address. -/
def wrReg (a : Nat) (v : Word) (s : State) : State := { s with regs := mapSet regReset s.regs a v }

/-- The value of a register field. -/
def rd (f : FRef) (s : State) : Nat := getField (rdReg f.addr s) f.lo f.w

/-- Is a one-bit field 1, or a wider field not 0? -/
def rdB (f : FRef) (s : State) : Bool := rd f s != 0

/-- A field read as two's complement. -/
def rdI (f : FRef) (s : State) : Int := toSigned f.w (rd f s)

/-- Write a register field (R568: the other fields of the register keep their values). -/
def wr (f : FRef) (v : Nat) (s : State) : State := wrReg f.addr (putField (rdReg f.addr s) f.lo f.w v) s

/-- Write a Boolean into a one-bit field. -/
def wrB (f : FRef) (b : Bool) (s : State) : State := wr f (if b then 1 else 0) s

/-- Write a signed value into a field, as two's complement. -/
def wrI (f : FRef) (i : Int) (s : State) : State := wr f (ofSigned f.w i) s

/-- One bit of a field. -/
def bitOf (f : FRef) (i : Nat) : FRef := ⟨f.addr, f.lo + i, 1⟩

/-- Write a field whose value may exceed it: it holds its maximum (R571). -/
def wrSat (f : FRef) (v : Nat) (s : State) : State := wr f (min v (2 ^ f.w - 1)) s

/-- The next free value, `w` bits wide (log entry 2: DESIGN CHOICE). -/
def freeVal (w : Nat) (s : State) : BitVec w := Config.free w s.freeCtr

/-- Count the free values on. -/
def freeNext (s : State) : State := { s with freeCtr := s.freeCtr + 1 }

/-- Is the timebase set, so that blocks are numbered (R40)? -/
def tlValid (s : State) : Bool := rdB GLB_TLSTAT_VALID s

/-- Does the audio pipeline run (R40)? -/
def tlRun (s : State) : Bool := rdB GLB_TLSTAT_RUN s

/-- The BSN of the block in progress; 0 until blocks are numbered (R14, R40). -/
def bsnNow (s : State) : Nat := if tlValid s then s.tl.k.toNat % 2 ^ 32 else 0

/-- A SAT event of an island sets its bit in `FEU_SATPEND` (R569, R580). -/
def satEvent (isl : Nat) (s : State) : State := wr (bitOf (FEU_SATPEND_ISL (isl / 32)) (isl % 32)) 1 s

/-- Count one more in a saturating counter (R569): an increment that would carry it past its maximum leaves it there,
sets its SAT bit, and the bit's rising edge raises a SAT event of the island. -/
def count (cnt sat : FRef) (isl : Nat) (s : State) : State :=
  if rd cnt s + 1 < 2 ^ cnt.w then wr cnt (rd cnt s + 1) s
  else if rdB sat s then s
  else satEvent isl (wr sat 1 s)

/-- Count `n` more in one cycle (R569: increments add together). -/
def countN (n : Nat) (cnt sat : FRef) (isl : Nat) (s : State) : State :=
  if rd cnt s + n < 2 ^ cnt.w then wr cnt (rd cnt s + n) s
  else if rdB sat s then wr cnt (2 ^ cnt.w - 1) s
  else satEvent isl (wr sat 1 (wr cnt (2 ^ cnt.w - 1) s))

/-- Count a wrapping sequence on (R570). -/
def seqNext (f : FRef) (s : State) : State := wr f (rd f s + 1) s

/-- Is Pawn in QUIET? -/
def inQuiet (s : State) : Bool := rd PWR_STAT_STATE s == 3

/-- The records waiting on an island (R575). -/
def feuQueue (isl : Nat) (s : State) : List FaultRec := mapGet (fun _ => []) s.feu.queues isl

/-- Set the records waiting on an island. -/
def setFeuQueue (isl : Nat) (q : List FaultRec) (s : State) : State :=
  { s with feu := { s.feu with queues := mapSet (fun _ => []) s.feu.queues isl q } }

/-- An island queues a record; one that finds the queue of 4 full is dropped and counted (R575). -/
def raiseOn (isl : Nat) (r : FaultRec) (s : State) : State :=
  let q := feuQueue isl s
  if q.length < 4 then setFeuQueue isl (q ++ [r]) s
  else
    let s1 := count FEU_CNT_DROP_COUNT FEU_STAT_DROP_SAT 265 s
    { s1 with feu := { s1.feu with dropRun := s1.feu.dropRun + 1 } }

/-- The island that a record names queues it. -/
def raiseRec (r : FaultRec) (s : State) : State := raiseOn r.island r s

/-- A record of an island with its own stamp, caused by no access (R575, R581). -/
def mkRec (isl code arg : Nat) (s : State) : FaultRec where
  code := BitVec.ofNat 16 code
  arg := BitVec.ofNat 32 arg
  island := isl
  bsn := BitVec.ofNat 32 (bsnNow s)
  ns := s.ns
  tsv := tlValid s
  master := 0x3F
  write := false
  user := false
  addrHi := 0
  pair := false
  lost := false

/-- Island `isl` raises a record with this code and argument (R575). -/
def raise (isl code arg : Nat) (s : State) : State := raiseRec (mkRec isl code arg s) s

/-- An access that is refused raises a class 0x6 record with the master and the address (R582, R615). -/
def raiseAccess (isl detail master : Nat) (write user : Bool) (addr : Nat) (s : State) : State :=
  raiseRec { mkRec isl (0x6000 + detail) (addr % 2 ^ 32) s with
    master := BitVec.ofNat 6 master, write := write, user := user, addrHi := BitVec.ofNat 8 (addr / 2 ^ 32) } s

/-- Is an island in domain reset (R580)? -/
def inReset (isl : Nat) (s : State) : Bool := rd (ISL_STAT_STATE isl) s == 2

/-! Memories. An unlisted word reads 0 (log entry 5: DESIGN CHOICE). -/

/-- A word of a core's X memory (R46). -/
def rdX (c a : Nat) (s : State) : DWord := mapGet (fun _ => 0) s.mem.x (c * 65536 + a % 65536)
/-- Write a word of a core's X memory. -/
def wrX (c a : Nat) (v : DWord) (s : State) : State :=
  { s with mem := { s.mem with x := mapSet (fun _ => 0) s.mem.x (c * 65536 + a % 65536) v } }
/-- A word of a core's Y memory (R46). -/
def rdY (c a : Nat) (s : State) : DWord := mapGet (fun _ => 0) s.mem.y (c * 65536 + a % 65536)
/-- Write a word of a core's Y memory. -/
def wrY (c a : Nat) (v : DWord) (s : State) : State :=
  { s with mem := { s.mem with y := mapSet (fun _ => 0) s.mem.y (c * 65536 + a % 65536) v } }
/-- A bundle of a core's program memory (R46). -/
def rdProg (c a : Nat) (s : State) : Bundle64 := mapGet (fun _ => 0) s.mem.prog (c * 16384 + a % 16384)
/-- Write a bundle of a core's program memory. -/
def wrProg (c a : Nat) (v : Bundle64) (s : State) : State :=
  { s with mem := { s.mem with prog := mapSet (fun _ => 0) s.mem.prog (c * 16384 + a % 16384) v } }
/-- A word of a pod's shared memory (R89). -/
def rdShared (n a : Nat) (s : State) : Word := mapGet (fun _ => 0) s.mem.shared (n * 1048576 + a % 1048576)
/-- Write a word of a pod's shared memory. -/
def wrShared (n a : Nat) (v : Word) (s : State) : State :=
  { s with mem := { s.mem with shared := mapSet (fun _ => 0) s.mem.shared (n * 1048576 + a % 1048576) v } }
/-- A byte of DRAM, by its offset in the DRAM range (R454). -/
def rdDram (a : Nat) (s : State) : Byte := mapGet (fun _ => 0) s.mem.dram a
/-- Write a byte of DRAM. -/
def wrDram (a : Nat) (v : Byte) (s : State) : State :=
  { s with mem := { s.mem with dram := mapSet (fun _ => 0) s.mem.dram a v } }

/-- A word of DRAM, little-endian (log entry 6: DEDUCED). -/
def rdDramW (a : Nat) (s : State) : Word :=
  rdDram (a + 3) s ++ rdDram (a + 2) s ++ rdDram (a + 1) s ++ rdDram a s

/-- Write a word of DRAM, little-endian (log entry 6: DEDUCED). -/
def wrDramW (a : Nat) (v : Word) (s : State) : State :=
  wrDram (a + 3) (v.extractLsb' 24 8) (wrDram (a + 2) (v.extractLsb' 16 8)
    (wrDram (a + 1) (v.extractLsb' 8 8) (wrDram a (v.extractLsb' 0 8) s)))

end Sys2Proof.Machine
end

