-- ==== Sys2Proof/Machine/PeaCore.lean ====
section
/-! DEFINITION. The pea core between its slots: registers and their mapping (R43, R44), writes in flight and their
landing (R59, R60), the program counter with branches and loops (R61-R65), illegal bundles (R79), and on cores with the
control extension privilege, memory protection and exceptions (R80-R88). A command of the table's pea rows is one
bundle that a core issues (log entry 7: DESIGN CHOICE). -/

namespace Sys2Proof.Machine

/-- The registers of a core. -/
def getPea (c : Nat) (s : State) : Pea := mapGet (fun _ => Pea.reset) s.cores c

/-- Set the registers of a core. -/
def setPea (c : Nat) (p : Pea) (s : State) : State := { s with cores := mapSet (fun _ => Pea.reset) s.cores c p }

/-- Change the registers of a core. -/
def onPea (c : Nat) (f : Pea → Pea) (s : State) : State := setPea c (f (getPea c s)) s

/-- What a pod pea runs; the key is pod × 9 + pea. -/
def getRun (q : Nat) (s : State) : PeaRun := mapGet (fun _ => PeaRun.reset) s.pods.run q

/-- Set what a pod pea runs. -/
def setRun (q : Nat) (r : PeaRun) (s : State) : State :=
  { s with pods := { s.pods with run := mapSet (fun _ => PeaRun.reset) s.pods.run q r } }

/-- Does the core have the control extension (R42)? -/
def isCtl (c : Nat) : Bool := Nat.ble 144 c

/-! ### Registers -/

/-- The reset value of a control-extension register (R83, R84). -/
def csrReset (i : Nat) : Word := if i = 0 then 1 else if i = 0x40 then 2 else 0

/-- A control-extension register of a core (R83). -/
def rdCsr (c i : Nat) (s : State) : Word := mapGet csrReset (getPea c s).csr i

/-- Write a control-extension register of a core. -/
def wrCsr (c i : Nat) (v : Word) (s : State) : State := onPea c (fun p => { p with csr := mapSet csrReset p.csr i v }) s

/-- A field of a control-extension register. -/
def csrField (c i lo w : Nat) (s : State) : Nat := getField (rdCsr c i s) lo w

/-- Write a field of a control-extension register. -/
def wrCsrField (c i lo w v : Nat) (s : State) : State := wrCsr c i (putField (rdCsr c i s) lo w v) s

/-- Is the core in supervisor mode (R80)? -/
def isSuper (c : Nat) (s : State) : Bool := csrField c 0 0 1 s == 1

/-- The physical number of a logical D register (R44). -/
def physD (p : Pea) (r : Nat) : Nat := if r < 16 then r else 16 + (r - 16 + p.rot.toNat) % 16

/-- The status word as a program reads it: the stored bits with LACT, LROT and RSD (R78). -/
def pswRead (p : Pea) : BitVec 24 :=
  (p.psw &&& 0x1F3F)
    ||| (if p.loop.isSome then 0x2000 else 0)
    ||| (match p.loop with | some l => if l.rotating then 0x4000 else 0 | none => 0)
    ||| (BitVec.ofNat 24 p.stack.length <<< 16)

/-- A flag of the status word. -/
def pswBit (p : Pea) (i : Nat) : Bool := (p.psw.toNat / 2 ^ i) % 2 == 1

/-- Set sticky flags of the status word (R78). -/
def setSticky (c : Nat) (m : BitVec 24) (s : State) : State := onPea c (fun p => { p with psw := p.psw ||| m }) s

/-- The sticky flags (R78). -/
def stSAT : BitVec 24 := 1
/-- See `stSAT`. -/
def stAOV : BitVec 24 := 2
/-- See `stSAT`. -/
def stMODV : BitVec 24 := 4
/-- See `stSAT`. -/
def stWCOL : BitVec 24 := 8
/-- See `stSAT`. -/
def stLNEST : BitVec 24 := 16
/-- See `stSAT`. -/
def stSOV : BitVec 24 := 32

/-- A register that a core with the control extension reads while a write to it is in flight holds a free value
(R82, log entry 2: DESIGN CHOICE); a pod pea reads the old value (R59). -/
def inFlight (c : Nat) (p : Pea) (t : Tgt) : Bool := isCtl c && p.flight.any fun f => f.tgt == t

/-- Read a D register by its logical number. -/
def rdD (c r : Nat) (s : State) : DWord :=
  let p := getPea c s
  let i := physD p r
  if inFlight c p (.d i) then Config.free 24 (s.freeCtr + i) else mapGet (fun _ => 0) p.d i

/-- Read an accumulator as an ALU operation or a move does. -/
def rdA (c i : Nat) (s : State) : Acc56 :=
  let p := getPea c s
  if inFlight c p (.a i) then Config.free 56 (s.freeCtr + 32 + i) else mapGet (fun _ => 0) p.a i

/-- Read an accumulator as a MAC into it does: the newest MAC result, landed or not (R59: latency 1). -/
def rdAMac (c i : Nat) (s : State) : Acc56 :=
  let p := getPea c s
  match (p.flight.filter fun f => f.mac && f.tgt == .a i).getLast? with
  | some f => f.val
  | none => if inFlight c p (.a i) then Config.free 56 (s.freeCtr + 32 + i) else mapGet (fun _ => 0) p.a i

/-- Read an address pointer. -/
def rdP (c i : Nat) (s : State) : BitVec 20 := mapGet (fun _ => 0) (getPea c s).p i
/-- Read an offset register. -/
def rdN (c i : Nat) (s : State) : BitVec 20 := mapGet (fun _ => 0) (getPea c s).n i
/-- Read a modulo length. -/
def rdM (c i : Nat) (s : State) : BitVec 16 := mapGet (fun _ => 0) (getPea c s).m i
/-- Read a window start. -/
def rdW (c i : Nat) (s : State) : BitVec 20 := mapGet (fun _ => 0) (getPea c s).w i

/-- Is stage predicate `j` 1 (R63)? -/
def rdQ (c j : Nat) (s : State) : Bool := ((getPea c s).qreg.toNat / 2 ^ j) % 2 == 1

/-- A control register by its index (R73), as MOVR reads it, zero-extended. -/
def rdCtl (c i : Nat) (s : State) : DWord :=
  let p := getPea c s
  let fv := Config.free 24 (s.freeCtr + 64 + i)
  if i < 8 then (rdP c i s).setWidth 24
  else if i < 16 then (rdN c (i - 8) s).setWidth 24
  else if i < 24 then (rdM c (i - 16) s).setWidth 24
  else if i = 24 then if inFlight c p .lc then fv else p.lc.setWidth 24
  else if i = 25 then if inFlight c p .ls then fv else p.ls.setWidth 24
  else if i = 26 then if inFlight c p .le then fv else p.le.setWidth 24
  else if i = 27 then if inFlight c p .rot then fv else p.rot.setWidth 24
  else if i = 28 then if inFlight c p .psw then fv else pswRead p
  else if i = 29 then if inFlight c p .qreg then fv else p.qreg.setWidth 24
  else 0

/-! ### Writes in flight -/

/-- Put a write in flight: it is visible to the bundle issued `k` bundles later (R59). -/
def fly (c k : Nat) (t : Tgt) (v : BitVec 56) (s : State) : State :=
  onPea c (fun p => { p with flight := p.flight ++ [⟨k, t, v, false⟩] }) s

/-- Put a MAC result in flight: visible after 2 bundles, to a MAC after 1 (R59). -/
def flyMac (c i : Nat) (v : Acc56) (s : State) : State :=
  onPea c (fun p => { p with flight := p.flight ++ [⟨2, .a i, v, true⟩] }) s

/-- Set sticky flags from the next bundle on. -/
def flySticky (c : Nat) (m : BitVec 24) (s : State) : State := fly c 1 .sticky (m.setWidth 56) s

/-- Write a control register (R73): pointers after 1 bundle, loop registers, PSW and QREG after 2 (R59); the low bits
of the source that fit the register. -/
def flyCtl (c i : Nat) (v : DWord) (s : State) : State :=
  let x := v.setWidth 56
  if i < 8 then fly c 1 (.p i) x s
  else if i < 16 then fly c 1 (.n (i - 8)) x s
  else if i < 24 then fly c 1 (.m (i - 16)) x s
  else if i = 24 then fly c 2 .lc x s
  else if i = 25 then fly c 2 .ls x s
  else if i = 26 then fly c 2 .le x s
  else if i = 27 then fly c 2 .rot x s
  else if i = 28 then fly c 2 .psw x s
  else if i = 29 then fly c 2 .qreg x s
  else if i = 30 then fly c 1 (.w ((v.toNat / 2 ^ 20) % 8)) x s
  else s

/-- A write lands (R59, R60). -/
def landFlight (c : Nat) (f : Flight) (s : State) : State :=
  match f.tgt with
  | .d i => onPea c (fun p => { p with d := mapSet (fun _ => 0) p.d i (f.val.setWidth 24) }) s
  | .a i => onPea c (fun p => { p with a := mapSet (fun _ => 0) p.a i f.val }) s
  | .p i => onPea c (fun p => { p with p := mapSet (fun _ => 0) p.p i (f.val.setWidth 20) }) s
  | .n i => onPea c (fun p => { p with n := mapSet (fun _ => 0) p.n i (f.val.setWidth 20) }) s
  | .m i => onPea c (fun p => { p with m := mapSet (fun _ => 0) p.m i (f.val.setWidth 16) }) s
  | .w i => onPea c (fun p => { p with w := mapSet (fun _ => 0) p.w i (f.val.setWidth 20) }) s
  | .lc => onPea c (fun p => { p with lc := f.val.setWidth 17 }) s
  | .ls => onPea c (fun p => { p with ls := f.val.setWidth 14 }) s
  | .le => onPea c (fun p => { p with le := f.val.setWidth 14 }) s
  | .rot => onPea c (fun p => { p with rot := f.val.setWidth 4 }) s
  | .psw => onPea c (fun p => { p with psw := f.val.setWidth 24 &&& 0x1F3F }) s
  | .qreg => onPea c (fun p => { p with qreg := f.val.setWidth 8 }) s
  | .flags m => onPea c (fun p => { p with psw := (p.psw &&& ~~~m) ||| (f.val.setWidth 24 &&& m) }) s
  | .sticky => setSticky c (f.val.setWidth 24) s
  | .memX a => wrX c a (f.val.setWidth 24) s
  | .memY a => wrY c a (f.val.setWidth 24) s

/-- Is the target one register that two writes can collide on (R60)? -/
def isReg : Tgt → Bool
  | .flags _ => false
  | .sticky => false
  | .memX _ => false
  | .memY _ => false
  | _ => true

/-- Do two of these writes reach one register? -/
def collide : List Flight → Bool
  | [] => false
  | f :: r => (isReg f.tgt && r.any fun g => g.tgt == f.tgt) || collide r

/-- Land a list of writes that arrive together: a whole write of PSW first, then in order of issue, so that the later
bundle, and within a bundle the YMOVE, the move or slot 1, stands (R60, R78). -/
def landAll (c : Nat) (fs : List Flight) (s : State) : State :=
  let s1 := forEach (fs.filter fun f => f.tgt == .psw) (landFlight c) s
  let s2 := forEach (fs.filter fun f => f.tgt != .psw) (landFlight c) s1
  onlyIf (collide fs) (setSticky c stWCOL) s2

/-- One bundle time passes on a core: the writes that become visible land (R59). -/
def land (c : Nat) (s : State) : State :=
  let fs := (getPea c s).flight.map fun f => { f with left := f.left - 1 }
  landAll c (fs.filter fun f => f.left == 0)
    (onPea c (fun p => { p with flight := fs.filter fun f => f.left != 0 }) s)

/-- Every issued write lands, cycle by cycle in the order of R59 (R82, R104); no write is more than 12 bundles away. -/
def drain (c : Nat) (s : State) : State := forEach (List.range 12) (fun _ t => land c t) s

/-! ### Exceptions of the control extension -/

/-- Enter an exception (R86, R87): wait for every issued write, save PL and IE, write cause and value, save the return
address and a pending branch, and jump to the vector. A second NMI before ERET sets NEST and is not entered. -/
def enterException (c code : Nat) (tval : Word) (imprecise nmi : Bool) (s : State) : State :=
  let p := getPea c s
  if nmi && p.nmiIn then wrCsrField c 0 6 1 1 s
  else
    let s1 := drain c s
    let s2 := onlyIf p.unreturned (wrCsrField c 0 6 1 1) s1
    let pl := csrField c 0 0 1 s2
    let ie := csrField c 0 2 1 s2
    let s3 := wrCsrField c 0 0 1 1 (wrCsrField c 0 1 1 pl (wrCsrField c 0 2 1 0 (wrCsrField c 0 3 1 ie s2)))
    let s4 := wrCsr c 2 (BitVec.ofNat 32 (code + if imprecise then 256 else 0)) (wrCsr c 3 tval s3)
    let s5 := wrCsr c 1 (p.pc.setWidth 32) s4
    let s6 := match p.branch with
      | some (t, k) => wrCsrField c 0 4 2 k (wrCsr c 5 (t.setWidth 32) s5)
      | none => wrCsrField c 0 4 2 0 s5
    let vb := (rdCsr c 4 s6).toNat % 16384
    onPea c (fun q => { q with
      pc := BitVec.ofNat 14 (vb + if nmi then 32 else 0)
      branch := none
      slots := 0
      stall := .none
      unreturned := true
      nmiIn := q.nmiIn || nmi }) s6

/-- The exception codes of R85. -/
def exILL : Nat := 0x01
/-- See `exILL`. -/
def exPRIV : Nat := 0x02
/-- See `exILL`. -/
def exFMPU : Nat := 0x03
/-- See `exILL`. -/
def exDMPU : Nat := 0x04
/-- See `exILL`. -/
def exXERR : Nat := 0x05
/-- See `exILL`. -/
def exTRAP : Nat := 0x06
/-- See `exILL`. -/
def exSTK : Nat := 0x07
/-- See `exILL`. -/
def exNMI : Nat := 0x0F

/-- What an access of the memory protection unit is (R84). -/
inductive MpuKind where
  | read | write | fetch
  deriving DecidableEq, Repr

/-- Does an enabled region match a 256-byte granule in a space (R84)? -/
def mpuMatch (c : Nat) (xbar : Bool) (granule r : Nat) (s : State) : Bool :=
  let at' := rdCsr c (0x30 + r) s
  getField at' 0 1 == 1 && (getField at' 1 1 == 1) == xbar &&
    Nat.ble (rdCsr c (0x10 + r) s).toNat granule && Nat.ble granule (rdCsr c (0x20 + r) s).toNat

/-- Does the memory protection unit allow an access (R84)? -/
def mpuAllows (c : Nat) (xbar : Bool) (addr : Nat) (k : MpuKind) (s : State) : Bool :=
  if csrField c 0x40 0 1 s == 0 then true
  else
    let sup := isSuper c s
    match (List.range 16).reverse.find? fun r => mpuMatch c xbar (addr / 256) r s with
    | none => sup && csrField c 0x40 1 1 s == 1
    | some r =>
      let b := match k with
        | .read => 2
        | .write => 3
        | .fetch => 4
      getField (rdCsr c (0x30 + r) s) (b + if sup then 3 else 0) 1 == 1

/-- The interrupt lines that the fault and event unit drives on a control core (R576): IRQ0 in bit 0, IRQ1 in bit 1. -/
def feuLines (c : Nat) (s : State) : Nat :=
  if isCtl c && c - 144 == rd FEU_CTL_IRQCORE s then
    (if rd FEU_PEND_CLASS s &&& rd FEU_IRQMASK_CLASS s != 0 then 1 else 0) +
    (if rdB FEU_IRQMASK_SAT s && (List.range 9).any fun i => rdB (FEU_SATPEND_ISL i) s then 2 else 0)
  else 0

/-- The pending lines of a core, 0-63 (R83): those stored and those the fault and event unit drives. -/
def pendingLines (c : Nat) (s : State) : Nat :=
  ((rdCsr c 8 s).toNat + (rdCsr c 9 s).toNat * 2 ^ 32) ||| feuLines c s

/-- The enabled lines of a core. -/
def enabledLines (c : Nat) (s : State) : Nat := (rdCsr c 6 s).toNat + (rdCsr c 7 s).toNat * 2 ^ 32

/-- The first pending timer or enabled line, as an exception code (R85: timers before lines, the lower number first).
Beside the CSRs of R83 the table of a core holds what pends on it: index 0x100 + t a timer's interrupt, 0x102 and 0x103
an imprecise XERR and its address, 0x104 an NMI. -/
def pendingIrq (c : Nat) (s : State) : Option Nat :=
  if rdCsr c 0x100 s != 0 then some 0x10
  else if rdCsr c 0x101 s != 0 then some 0x11
  else ((List.range 64).find? fun i => (pendingLines c s &&& enabledLines c s) / 2 ^ i % 2 == 1).map (0x40 + ·)

/-- An interrupt that is taken no longer pends. -/
def clearIrq (c code : Nat) (s : State) : State :=
  if code = 0x10 then wrCsr c 0x100 0 s
  else if code = 0x11 then wrCsr c 0x101 0 s
  else if code < 0x60 then wrCsrField c 8 (code - 0x40) 1 0 s
  else wrCsrField c 9 (code - 0x60) 1 0 s

/-- Does the next bundle stand outside the two delay slots of a branch, taken or not (R61, log entry 91: DEDUCED)? -/
def outsideSlots (p : Pea) : Bool := p.branch.isNone && p.slots == 0

/-- Can a core take an interrupt between bundles now: IE is 1 and no delay slot is due (R87)? -/
def irqOpen (c : Nat) (s : State) : Bool := csrField c 0 2 1 s == 1 && outsideSlots (getPea c s)

/-- Take what pends on a core that stands between bundles, the highest priority first (R85): NMI, an imprecise XERR,
then interrupts while IE is 1 and no delay slot is due (R87). None: nothing is taken. -/
def takePending (c : Nat) (s : State) : Option State :=
  if rdCsr c 0x104 s != 0 then some (enterException c exNMI 0 false true (wrCsr c 0x104 0 s))
  else if rdCsr c 0x102 s != 0 then some (enterException c exXERR (rdCsr c 0x103 s) true false (wrCsr c 0x102 0 s))
  else if irqOpen c s then
    match pendingIrq c s with
    | some code => some (enterException c code 0 false false (clearIrq c code s))
    | none => none
  else none

/-! ### Abandoning a task -/

/-- A pod pea abandons its task at this cycle (R105): the completion waits until every issued write has landed. -/
def abandon (c : Nat) (st : EndStatus) (s : State) : State :=
  let r := getRun c s
  match r.task with
  | none => s
  | some e =>
    if r.ended.isSome then s
    else setRun c { r with ended := some ⟨c % 9, e, st, BitVec.ofNat 16 (rd (PEA_STAT_BCYC (c / 9) (c % 9)) s), 0, r.block,
      st == .abort⟩ } s

/-- An illegal bundle: a pod pea counts it and abandons its task (R79, R105), a core with the control extension takes
ILL (R85). -/
def illegalBundle (c : Nat) (s : State) : State :=
  if isCtl c then enterException c exILL 0 false false s
  else abandon c .illegal
    (count (PEA_CNT_ILL_COUNT (c / 9) (c % 9)) (PEA_STAT_ILL_SAT (c / 9) (c % 9)) (102 + 10 * (c / 9) + c % 9) s)

/-- A broken bank rule (R93, R105). -/
def bankBreach (c : Nat) (s : State) : State :=
  abandon c .bank
    (count (PEA_CNT_BANK_COUNT (c / 9) (c % 9)) (PEA_STAT_BANK_SAT (c / 9) (c % 9)) (102 + 10 * (c / 9) + c % 9) s)

/-! ### The program counter -/

/-- End of a rotating loop (R63, R65). -/
def endLoop (p : Pea) : Pea :=
  match p.loop with
  | some l => if l.rotating then { p with qreg := 0xFF, loop := none } else { p with loop := none }
  | none => p

/-- The rotation after the bundle at LE of an iteration (R63). -/
def rotate (l : LoopSt) (p : Pea) : Pea :=
  { p with
    rot := p.rot - 1
    qreg := (p.qreg <<< 1) ||| (if l.begun < l.count then 1 else 0)
    loop := some { l with begun := l.begun + 1 } }

/-- The loop test after the bundle at LE (R62, R63): the core with its loop state changed and the next address. -/
def loopTest (p : Pea) (l : LoopSt) : Pea × BitVec 14 :=
  let p1 := if l.rotating then rotate l p else p
  if 1 < p.lc.toNat then ({ p1 with lc := p.lc - 1 }, p.ls)
  else (endLoop { p1 with lc := 0 }, p.pc + 1)

/-- Where the core goes after the bundle at `pc`. `before` is the pending branch from before the bundle: its delay slots count
down (R61); the loop test is made after the bundle at LE unless a taken branch is pending (R65); `jump` is where a loop
bundle with count 0 goes at once (R64). -/
def movePc (before : Option (BitVec 14 × Nat)) (jump : Option (BitVec 14)) (p : Pea) : Pea :=
  match before with
  | some (t, k) =>
    if k ≤ 1 then { p with pc := t, branch := none }
    else { p with pc := jump.getD (p.pc + 1), branch := some (t, k - 1) }
  | none =>
    match jump with
    | some a => { p with pc := a }
    | none =>
      match p.loop with
      | some l => if p.pc = p.le && p.branch.isNone then let r := loopTest p l; { r.1 with pc := r.2 } else { p with pc := p.pc + 1 }
      | none => { p with pc := p.pc + 1 }

/-- The bundle at `pc` has issued: the program counter moves on, and the delay slots of a branch that is not taken count
down. -/
def stepPc (c : Nat) (before : Option (BitVec 14 × Nat)) (jump : Option (BitVec 14)) (s : State) : State :=
  onPea c (fun p => movePc before jump { p with slots := p.slots - 1 }) s

/-! ### Issue of a bundle -/

/-- What is checked of a bundle before its slots act: whether it is legal on the core, whether it is privileged (R80),
whether it meets a return stack that is full or empty (R66), the data accesses it makes (crossbar or not, address, write or read)
with the shared-memory banks among them (R93), and the code of a TRAP whose condition holds (R76). -/
structure Checks where
  legal : Bool
  priv : Bool
  stk : Bool
  accesses : List (Bool × Nat × Bool)
  banks : List Nat
  trap : Option Word
  deriving DecidableEq, Repr

/-- A bundle with nothing to check but its legality. -/
def plainChecks (legal : Bool) : Checks := ⟨legal, false, false, [], [], none⟩

/-- Can the core issue a bundle: a pod pea is running a task that has not ended, a core with the control extension does
not stand still (R43, R104)? -/
def canIssue (c : Nat) (s : State) : Bool :=
  if isCtl c then (getPea c s).stall == .none || ((getPea c s).stall == .wfi && (pendingIrq c s).isSome)
  else rd (PEA_STAT_STATE (c / 9) (c % 9)) s == 1 && (getRun c s).ended.isNone

/-- A cycle of the pod clock passes on a pod pea (R90). -/
def tickBcyc (c : Nat) (s : State) : State :=
  if isCtl c then s
  else wrSat (PEA_STAT_BCYC (c / 9) (c % 9)) (rd (PEA_STAT_BCYC (c / 9) (c % 9)) s + 1) s

/-- Count the free values a bundle may have used on a core with the control extension (R82). -/
def freeBundle (c : Nat) (s : State) : State := if isCtl c then { s with freeCtr := s.freeCtr + 128 } else s

/-- Do two banks of a list agree? -/
def dupNat : List Nat → Bool
  | [] => false
  | a :: r => r.contains a || dupNat r

/-- Does the bundle break the bank rule with the nine bundles before it (R93)? -/
def bankRule (c : Nat) (bs : List Nat) (s : State) : Bool :=
  dupNat bs || bs.any fun b => ((getPea c s).banks.take 9).flatten.contains b

/-- Enter the bundle's banks in the core's history. -/
def noteBanks (c : Nat) (bs : List Nat) (s : State) : State :=
  onPea c (fun p => { p with banks := (bs :: p.banks).take 9 }) s

/-- The core as the bundle finds it: the writes that are now visible have landed, and WFI has ended. -/
def atIssue (c : Nat) (s : State) : State :=
  land c (onlyIf ((getPea c s).stall == .wfi) (onPea c (fun p => { p with stall := .none })) s)

/-- A core issues a bundle (R43): the visible writes land; then, in the order of R85, an NMI, the exceptions of the bundle, and
what else pends (R87); and if none stops it the slots act and the program counter moves on. -/
def issue (c : Nat) (ck : State → Checks) (body : State → State) (jump : State → Option (BitVec 14)) (s : State) : State :=
  if !canIssue c s then s
  else
    let s1 := atIssue c s
    let k := ck s1
    if isCtl c then
      if rdCsr c 0x104 s1 != 0 then enterException c exNMI 0 false true (wrCsr c 0x104 0 s1)
      else if !mpuAllows c false (0x80000 + 8 * (getPea c s1).pc.toNat) .fetch s1 then
        enterException c exFMPU (BitVec.ofNat 32 (0x80000 + 8 * (getPea c s1).pc.toNat)) false false s1
      else if !k.legal then enterException c exILL 0 false false s1
      else if k.priv && !isSuper c s1 then enterException c exPRIV 0 false false s1
      else if k.stk then enterException c exSTK 0 false false s1
      else
        match k.accesses.find? fun a => !mpuAllows c a.1 a.2.1 (if a.2.2 then .write else .read) s1 with
        | some a => enterException c exDMPU (BitVec.ofNat 32 a.2.1) false false s1
        | none =>
        match k.trap with
        | some v => enterException c exTRAP v false false s1
        | none =>
        match takePending c s1 with
        | some t => t
        | none => freeBundle c (stepPc c (getPea c s1).branch (jump s1) (body s1))
    else if !k.legal then illegalBundle c s1
    else if bankRule c k.banks s1 then bankBreach c s1
    else tickBcyc c (stepPc c (getPea c s1).branch (jump s1) (noteBanks c k.banks (body s1)))

/-- No jump beside the branches and loops. -/
def noJump : State → Option (BitVec 14) := fun _ => none

end Sys2Proof.Machine
end

