-- ==== Sys2Proof/Machine/Operands.lean ====
section
/-! DEFINITION. The operand forms of the pea core: the modulo rule (R49), the addressing modes (R48), pairs (R50), short
and long moves (R69, R71), accumulator transfers (R55), and the sources of the ALU (R70). -/

namespace Sys2Proof.Machine

/-- The modulo rule (R49): the pointer after a step `δ` in the window of `m` words from `w`, and whether the result
lies outside the window. -/
def modStep (p w m : Nat) (δ : Int) : BitVec 20 × Bool :=
  let q : Int := (p : Int) + δ
  if m = 0 then (BitVec.ofInt 20 q, false)
  else
    let q1 : Int := if (w : Int) + m ≤ q then q - m else if q < w then q + m else q
    (BitVec.ofInt 20 q1, q1 < w || (w : Int) + m ≤ q1)

/-- The modulo rule with the window of pointer `i` of a core. -/
def modPtr (c i : Nat) (p : BitVec 20) (δ : Int) (s : State) : BitVec 20 × Bool :=
  modStep p.toNat (rdW c i s).toNat (rdM c i s).toNat δ

/-- What a move does with its pointer: the first and second word address, the new pointer if it changes, and whether a
modulo result left its buffer. -/
structure Addrs where
  a : Nat
  a2 : Nat
  upd : Option (BitVec 20)
  modv : Bool
  deriving DecidableEq, Repr

/-- The addresses and the pointer update of a move (R48, R50); `two` marks a two-word access. -/
def moveAddrs (c : Nat) (ptr : Nat) (mode : AMode) (abs : BitVec 16) (two : Bool) (s : State) : Addrs :=
  let p := rdP c ptr s
  let n := (rdN c ptr s).toInt
  let step : Int := if two then 2 else 1
  match mode with
  | .absolute => ⟨abs.toNat, (abs + 1).toNat, none, false⟩
  | .plain =>
    let r2 := modPtr c ptr p 1 s
    ⟨p.toNat, r2.1.toNat, none, two && r2.2⟩
  | .indexN =>
    let r := modPtr c ptr p n s
    let r2 := modPtr c ptr r.1 1 s
    ⟨r.1.toNat, r2.1.toNat, none, r.2 || (two && r2.2)⟩
  | .postN =>
    let r := modPtr c ptr p n s
    let r2 := modPtr c ptr p 1 s
    ⟨p.toNat, r2.1.toNat, some r.1, r.2 || (two && r2.2)⟩
  | .postInc =>
    let r := modPtr c ptr p step s
    let r2 := modPtr c ptr p 1 s
    ⟨p.toNat, r2.1.toNat, some r.1, r.2 || (two && r2.2)⟩
  | .postDec =>
    let r := modPtr c ptr p (-step) s
    let r2 := modPtr c ptr p 1 s
    ⟨p.toNat, r2.1.toNat, some r.1, r.2 || (two && r2.2)⟩

/-- Does a kind of long move access two words? -/
def twoWords : LKind → Bool
  | .ldp => true
  | .stp => true
  | .st2 => true
  | .lda => true
  | _ => false

/-- Does a kind of long move store? -/
def isStore : LKind → Bool
  | .st => true
  | .stp => true
  | .str => true
  | .st2 => true
  | _ => false

/-- Is a long move legal on a core (R42, R67, R71)? A control core has no pod, so the pod's space is no legal space
on it (log entry 8: DEDUCED). -/
def moveLegal (c : Nat) (k : LKind) (m : MoveArgs) : Bool :=
  (m.mode == .absolute || m.addr == 0) &&
  (match k with
    | .none => true
    | .str => Nat.blt m.reg.val 8
    | .st2 => Nat.blt m.reg.val 8
    | .lda => Nat.blt m.reg.val 8
    | _ => true) &&
  (k == .none ||
    (match m.space with
      | .x => true
      | .y => true
      | .shared => !isCtl c
      | .crossbar => isCtl c && (k == .ld || k == .st)))

/-- The even register of a D pair (R50). -/
def evenReg (r : Nat) : Nat := r / 2 * 2

/-! ### Accumulator transfers -/

/-- An accumulator as a 24-bit word (R55): shift left, round to bit 24 (to nearest even, or truncate), saturate; and
whether it saturated. -/
def roundAcc (a : Acc56) (sh : Nat) (truncate : Bool) : DWord × Bool :=
  let t : Int := a.toInt * (2 ^ sh : Nat)
  let q := t / (2 ^ 24 : Nat)
  let r := t % (2 ^ 24 : Nat)
  let up := !truncate && (r > 2 ^ 23 || (r == 2 ^ 23 && q % 2 == 1))
  let x := satI 24 (if up then q + 1 else q)
  (BitVec.ofInt 24 x.1, x.2)

/-- An accumulator saturated to 48 bits, as its high and low words (ST2, MVA2), and whether it saturated. -/
def sat48 (a : Acc56) : DWord × DWord × Bool :=
  let x := satI 48 a.toInt
  let v := BitVec.ofInt 48 x.1
  (v.extractLsb' 24 24, v.extractLsb' 0 24, x.2)

/-- Two words as an accumulator, sign-filled (LDA, MVPA). -/
def pairAcc (hi lo : DWord) : Acc56 := (hi ++ lo).signExtend 56

/-- Is rounding by truncation (`PSW.RMODE`)? -/
def rmode (c : Nat) (s : State) : Bool := pswBit (getPea c s) 12

/-! ### Spaces -/

/-- The shared-memory word a pea's access names: a word inside the block-buffer window is mapped to the copy of the
block in which the running task was dispatched (R96). -/
def bbufMap (c w : Nat) (s : State) : Nat :=
  let n := c / 9
  let base := rd (POD_BBUF_BASE n) s * 4096
  let size := rd (POD_BBUF_SIZE n) s * 4096
  if base ≤ w ∧ w < base + size then w + ((getRun c s).block.toNat + 2) % 3 * size else w

/-- A word of a space, as a load takes it (R47, R52). -/
def loadWord (c : Nat) (sp : Space) (a : Nat) (s : State) : DWord :=
  match sp with
  | .x => rdX c a s
  | .y => rdY c a s
  | .shared => (rdShared (c / 9) (bbufMap c (a % 1048576) s) s).setWidth 24
  | .crossbar => 0

/-- The latency of a load (R59). -/
def loadLatency : Space → Nat
  | .shared => 12
  | _ => 2

/-- Store a word (R52, R59): to X or Y it is seen by loads 4 bundles later; to shared memory it is performed in issue
order (R51; log entry 10: DESIGN CHOICE), sign-extended to 32 bits. -/
def storeWord (c : Nat) (sp : Space) (a : Nat) (v : DWord) (s : State) : State :=
  match sp with
  | .x => fly c 4 (.memX (a % 65536)) (v.setWidth 56) s
  | .y => fly c 4 (.memY (a % 65536)) (v.setWidth 56) s
  | .shared => wrShared (c / 9) (bbufMap c (a % 1048576) s) (v.signExtend 32) s
  | .crossbar => s

/-- The crossbar byte address of a move (R47). -/
def xbarAddr (c a : Nat) (s : State) : BitVec 40 :=
  BitVec.ofNat 40 (csrField c 0x0A 0 18 s * 2 ^ 22 + a % 1048576 * 4)

/-- A move that executes (R69, R71): `r` is the state the bundle reads, `s` the state its writes are put on. -/
def doMove (c : Nat) (k : LKind) (m : MoveArgs) (r s : State) : State :=
  if k == .none || !rdQ c m.stg.val r then s
  else
    let ad := moveAddrs c m.ptr.val m.mode m.addr (twoWords k) r
    let s1 := match ad.upd with
      | some p => fly c 1 (.p m.ptr.val) (p.setWidth 56) s
      | none => s
    let s2 := onlyIf ad.modv (flySticky c stMODV) s1
    let pea := getPea c r
    let lat := loadLatency m.space
    let even := evenReg m.reg.val
    match k with
    | .none => s2
    | .ld =>
      if m.space == .crossbar then
        onPea c (fun p => { p with stall := .load ⟨physD pea even, physD pea (even + 1), pea.flight.length, pea.pc,
          pea.branch, pea.loop, pea.lc, pea.rot, pea.qreg, xbarAddr c ad.a r⟩ }) s2
      else fly c lat (.d (physD pea m.reg.val)) ((loadWord c m.space ad.a r).setWidth 56) s2
    | .ldp =>
      fly c lat (.d (physD pea (even + 1))) ((loadWord c m.space ad.a2 r).setWidth 56)
        (fly c lat (.d (physD pea even)) ((loadWord c m.space ad.a r).setWidth 56) s2)
    | .st =>
      if m.space == .crossbar then
        let v : BitVec 32 := (rdD c even r).extractLsb' 0 16 ++ (rdD c (even + 1) r).extractLsb' 0 16
        onPea c (fun p => { p with posted := p.posted ++ [(xbarAddr c ad.a r, v)] }) s2
      else storeWord c m.space ad.a (rdD c m.reg.val r) s2
    | .stp => storeWord c m.space ad.a2 (rdD c (even + 1) r) (storeWord c m.space ad.a (rdD c even r) s2)
    | .str =>
      let v := roundAcc (rdA c m.reg.val r) 0 (rmode c r)
      onlyIf v.2 (flySticky c stSAT) (storeWord c m.space ad.a v.1 s2)
    | .st2 =>
      let v := sat48 (rdA c m.reg.val r)
      onlyIf v.2.2 (flySticky c stSAT) (storeWord c m.space ad.a2 v.2.1 (storeWord c m.space ad.a v.1 s2))
    | .lda =>
      fly c lat (.a m.reg.val) (pairAcc (loadWord c m.space ad.a r) (loadWord c m.space ad.a2 r)) s2

/-- A short move as the long move it is (R69): on X memory for the XMOVE, on Y memory for the YMOVE. -/
def shortKind : SKind → LKind
  | .none => .none
  | .ld => .ld
  | .ldp => .ldp
  | .st => .st
  | .stp => .stp

/-- See `shortKind`. -/
def shortArgs (sp : Space) (m : ShortMove) : MoveArgs where
  space := sp
  reg := m.reg
  ptr := m.ptr
  mode := if m.mode.val = 0 then .postN else if m.mode.val = 1 then .postInc else if m.mode.val = 2 then .postDec else .indexN
  stg := ⟨m.stg.val, by omega⟩
  addr := 0

/-- The data accesses of a move, for the memory protection unit (R84): crossbar or not, address, write or read. -/
def moveAccesses (c : Nat) (k : LKind) (m : MoveArgs) (s : State) : List (Bool × Nat × Bool) :=
  if k == .none || !rdQ c m.stg.val s then []
  else
    let ad := moveAddrs c m.ptr.val m.mode m.addr (twoWords k) s
    let as := if twoWords k then [ad.a, ad.a2] else [ad.a]
    match m.space with
    | .x => as.map fun a => (false, 4 * (a % 65536), isStore k)
    | .y => as.map fun a => (false, 0x40000 + 4 * (a % 65536), isStore k)
    | .shared => []
    | .crossbar => [(true, (xbarAddr c ad.a s).toNat, isStore k)]

/-- The shared-memory banks a move uses (R91, R93). -/
def moveBanks (c : Nat) (k : LKind) (m : MoveArgs) (s : State) : List Nat :=
  if k == .none || !rdQ c m.stg.val s || m.space != .shared then []
  else
    let ad := moveAddrs c m.ptr.val m.mode m.addr (twoWords k) s
    if twoWords k then [ad.a % 16, ad.a2 % 16] else [ad.a % 16]

/-- The checks of a bundle whose one memory slot is a long move. -/
def moveChecks (c : Nat) (legal : Bool) (priv : Bool) (k : LKind) (m : MoveArgs) (s : State) : Checks :=
  ⟨legal && moveLegal c k m, priv, false, moveAccesses c k m s, moveBanks c k m s, none⟩

/-! ### Sources of the ALU (R70) -/

/-- The second source of an arithmetic operation: a D register, or the 5-bit immediate, sign-extended. -/
def aluB (c : Nat) (a : AluSlots) (s : State) : DWord :=
  if a.imm then (BitVec.ofNat 5 a.srcb.val).signExtend 24 else rdD c a.srcb.val s

/-- The count of a shift: an unsigned 24-bit value of a D register, or the immediate as 0-31 (R72). -/
def aluCount (c : Nat) (a : AluSlots) (s : State) : Nat := if a.imm then a.srcb.val else (rdD c a.srcb.val s).toNat

/-- The MVPA source, a D pair: the even register is the high word. -/
def aluPair (c r : Nat) (s : State) : Acc56 := pairAcc (rdD c (evenReg r) s) (rdD c (evenReg r + 1) s)

end Sys2Proof.Machine
end

