-- ==== Sys2Proof/Machine/Flags.lean ====
section
/-! DEFINITION. The flag computations of the ALU (R72), the products of the multipliers (R53-R58) and the conditions
of control bundles (R77). -/

namespace Sys2Proof.Machine

/-- The flag bits of PSW (R78). -/
def flZ : BitVec 24 := 0x100
/-- See `flZ`. -/
def flN : BitVec 24 := 0x200
/-- See `flZ`. -/
def flC : BitVec 24 := 0x400
/-- See `flZ`. -/
def flV : BitVec 24 := 0x800

/-- A flag bit if a condition holds. -/
def flag (b : Bool) (f : BitVec 24) : BitVec 24 := if b then f else 0

/-- What an ALU operation gives: the value, the flags it writes (mask and values), and the sticky flags it sets. -/
structure AluRes (w : Nat) where
  val : BitVec w
  mask : BitVec 24
  flags : BitVec 24
  sticky : BitVec 24
  deriving DecidableEq, Repr

/-- Z and N of a result. -/
def zn {w : Nat} (v : BitVec w) : BitVec 24 := flag (v == 0) flZ ||| flag v.msb flN

/-- ADD and ADDS (R72): C is the carry out of bit 23 of the unsaturated sum, V a signed overflow. -/
def aluAdd (sat : Bool) (a b : DWord) : AluRes 24 :=
  let t := a.toInt + b.toInt
  let x := satI 24 t
  let v := if sat then BitVec.ofInt 24 x.1 else a + b
  ⟨v, flZ ||| flN ||| flC ||| flV, zn v ||| flag (2 ^ 24 ≤ a.toNat + b.toNat) flC ||| flag x.2 flV,
    flag (sat && x.2) stSAT⟩

/-- SUB, SUBS and CMP (R72): C is the carry out of SRCA + NOT SRCB + 1. -/
def aluSub (sat : Bool) (a b : DWord) : AluRes 24 :=
  let t := a.toInt - b.toInt
  let x := satI 24 t
  let v := if sat then BitVec.ofInt 24 x.1 else a - b
  ⟨v, flZ ||| flN ||| flC ||| flV, zn v ||| flag (2 ^ 24 ≤ a.toNat + (~~~b).toNat + 1) flC ||| flag x.2 flV,
    flag (sat && x.2) stSAT⟩

/-- The bitwise operations: Z and N of the result, C and V cleared. -/
def aluBits (v : DWord) : AluRes 24 := ⟨v, flZ ||| flN ||| flC ||| flV, zn v, 0⟩

/-- A result whose Z and N alone are written. -/
def aluZN (v : DWord) : AluRes 24 := ⟨v, flZ ||| flN, zn v, 0⟩

/-- ASL: shift left, wrapping; 24 places or more give zero. -/
def aluAsl (a : DWord) (n : Nat) : AluRes 24 := aluZN (if 24 ≤ n then 0 else a <<< n)

/-- ASLS: shift left, saturating. -/
def aluAsls (a : DWord) (n : Nat) : AluRes 24 :=
  let x := satI 24 (a.toInt * (2 ^ min n 24 : Nat))
  let v := BitVec.ofInt 24 x.1
  ⟨v, flZ ||| flN, zn v, flag x.2 stSAT⟩

/-- ASR: arithmetic shift right; 24 places or more give all sign bits. -/
def aluAsr (a : DWord) (n : Nat) : AluRes 24 := aluZN (a.sshiftRight (min n 24))

/-- LSR: logical shift right; 24 places or more give zero. -/
def aluLsr (a : DWord) (n : Nat) : AluRes 24 := aluZN (if 24 ≤ n then 0 else a >>> n)

/-- ABS and NEG, saturating: 0x80_0000 sets V and SAT. -/
def aluSatNeg (t : Int) : AluRes 24 :=
  let x := satI 24 t
  let v := BitVec.ofInt 24 x.1
  ⟨v, flZ ||| flN ||| flV, zn v ||| flag x.2 flV, flag x.2 stSAT⟩

/-- The redundant sign bits of a word, 0-23 (CLS). -/
def redundantSigns (a : DWord) : Nat :=
  ((List.range 23).takeWhile fun i => (a.toNat / 2 ^ (22 - i)) % 2 == (if a.msb then 1 else 0)).length

/-- CLS writes Z alone. -/
def aluCls (a : DWord) : AluRes 24 :=
  let v := BitVec.ofNat 24 (redundantSigns a)
  ⟨v, flZ, flag (v == 0) flZ, 0⟩

/-- ADDA, SUBA, NEGA, ABSA and CMPA (R54, R72): the result wraps modulo 2^56, and a true result outside sets V and
AOV. -/
def accRes (t : Int) : AluRes 56 :=
  let v := BitVec.ofInt 56 t
  let o := v.toInt != t
  ⟨v, flZ ||| flN ||| flV, zn v ||| flag o flV, flag o stAOV⟩

/-- ASHA: left if positive, wrapping and setting AOV when significant bits are lost; arithmetic right if negative; V is
unchanged. -/
def accShift (a : Acc56) (n : Int) : AluRes 56 :=
  if 0 ≤ n then
    let t := a.toInt * (2 ^ n.toNat : Nat)
    let v := BitVec.ofInt 56 t
    ⟨v, flZ ||| flN, zn v, flag (v.toInt != t) stAOV⟩
  else
    let v := a.sshiftRight (-n).toNat
    ⟨v, flZ ||| flN, zn v, 0⟩

/-! ### Products -/

/-- The accumulator of the product x`h`·y`i` under base `a` (R57). -/
def accIndex (a i h : Nat) : Nat := 4 * ((a / 4 + h) % 2) + (a + i) % 4

/-- The routed products of the single-word opcodes (R53, R57): the accumulators and the contributions in units of
2^-47; `q1` marks Q1.22 coefficients. -/
def products (q1 : Bool) (route a : Nat) (x0 x1 y0 y1 : DWord) : List (Nat × Int) :=
  let k : Int := if q1 then 4 else 2
  let p00 := x0.toInt * y0.toInt * k
  let p01 := x0.toInt * y1.toInt * k
  let p10 := x1.toInt * y0.toInt * k
  let p11 := x1.toInt * y1.toInt * k
  if route = 0 then [(accIndex a 0 0, p00), (accIndex a 1 0, p01), (accIndex a 0 1, p10), (accIndex a 1 1, p11)]
  else if route = 1 then [(accIndex a 0 0, p00), (accIndex a 0 1, p11)]
  else if route = 2 then [(accIndex a 0 0, p00 + p11), (accIndex a 0 1, p01 + p10)]
  else [(accIndex a 0 0, p00 - p11), (accIndex a 0 1, p01 + p10)]

/-- The double-word product (R56): high part exact, low part towards minus infinity. -/
def dprod (hi lo c : DWord) : Int := hi.toInt * c.toInt * 2 + ((lo.toNat : Int) * c.toInt) / (2 ^ 23 : Nat)

/-- The routed products of the double-word opcodes (R56, R58); routes 2 and 3 are illegal. -/
def dproducts (route a : Nat) (x0 x1 y0 y1 : DWord) : List (Nat × Int) :=
  if route = 0 then [(accIndex a 0 0, dprod x0 x1 y0)]
  else [(accIndex a 0 0, dprod x0 x1 y0), (accIndex a 1 0, dprod x0 x1 y1)]

/-- What a MAC opcode does to an accumulator with a routed product: load it, add it or subtract it (R57, R58). -/
inductive MacMode where
  | set | add | sub
  deriving DecidableEq, Repr

/-- The new accumulator (R54: modulo 2^56) and whether the true result lay outside. -/
def accApply (m : MacMode) (old : Acc56) (p : Int) : Acc56 × Bool :=
  let t : Int := match m with
    | .set => p
    | .add => old.toInt + p
    | .sub => old.toInt - p
  let v := BitVec.ofInt 56 t
  (v, v.toInt != t)

/-! ### Conditions -/

/-- Does a condition hold on the flags and predicates visible to the bundle (R61, R77)? -/
def condHolds (c : Nat) (k : BitVec 4) (s : State) : Bool :=
  let p := getPea c s
  let z := pswBit p 8
  let n := pswBit p 9
  let v := pswBit p 11
  match k.toNat with
  | 0 => true
  | 1 => z
  | 2 => !z
  | 3 => n != v
  | 4 => n == v
  | 5 => !z && n == v
  | 6 => z || n != v
  | 7 => pswBit p 0
  | j => rdQ c (j - 8) s

end Sys2Proof.Machine
end

