-- ==== Sys2Proof/Machine/CtlRows.lean ====
section
/-! DEFINITION. The control bundles of the pea core (R61-R66, R75, R76), the control extension (R80-R88) and what
reaches a core from outside: crossbar responses, interrupts, NMI and timers. -/

namespace Sys2Proof.Machine

/-- A control bundle. -/
def ctlBundle (c : Nat) (ck : State → Checks) (body : State → State) (jump : State → Option (BitVec 14)) (s : State) : Out :=
  .next (issue c ck body jump s)

/-- A control bundle of every core, legal wherever it stands. -/
def anyCtl : State → Checks := fun _ => plainChecks true

/-- NOP of the control format (R76). -/
def execCtlNop (c : CoreId) (s : State) : Out := ctlBundle c.val anyCtl (fun r => r) noJump s

/-! ### Branches (R61, R66) -/

/-- A branch is illegal in a delay slot (R61). -/
def branchLegal (c : Nat) (r : State) : Bool := outsideSlots (getPea c r)

/-- Take a branch after two delay slots. -/
def branchTo (c : Nat) (t : BitVec 14) (s : State) : State := onPea c (fun p => { p with branch := some (t, 2) }) s

/-- A branch whose condition fails has its two delay slots too (R61, log entry 91: DEDUCED); the count takes in the branch
itself until it has issued. -/
def branchPast (c : Nat) (s : State) : State := onPea c (fun p => { p with slots := 3 }) s

/-- BR (R61, R77). -/
def execBr (c : CoreId) (cond : BitVec 4) (tgt : BitVec 14) (s : State) : Out :=
  ctlBundle c.val (fun r => plainChecks (branchLegal c.val r))
    (fun r => if condHolds c.val cond r then branchTo c.val tgt r else branchPast c.val r) noJump s

/-- Push the return address of a CALL; on a pod pea with the stack full the oldest entry goes and SOV sets (R66). -/
def pushReturn (c : Nat) (s : State) : State :=
  let p := getPea c s
  onlyIf (Nat.ble 8 p.stack.length) (flySticky c stSOV)
    (onPea c (fun p => { p with stack := (p.pc + 3) :: p.stack.take 7 }) s)

/-- CALL (R66): a full stack raises STK on a core with the control extension. -/
def execCall (c : CoreId) (cond : BitVec 4) (tgt : BitVec 14) (s : State) : Out :=
  ctlBundle c.val
    (fun r => { plainChecks (branchLegal c.val r) with
      stk := isCtl c.val && condHolds c.val cond r && Nat.ble 8 (getPea c.val r).stack.length })
    (fun r => if condHolds c.val cond r then branchTo c.val tgt (pushReturn c.val r) else branchPast c.val r) noJump s

/-- RET (R66): with the stack empty an illegal bundle on a pod pea, STK on a core with the control extension. -/
def execRet (c : CoreId) (cond : BitVec 4) (s : State) : Out :=
  ctlBundle c.val
    (fun r =>
      let empty := condHolds c.val cond r && (getPea c.val r).stack.isEmpty
      { plainChecks (branchLegal c.val r && (isCtl c.val || !empty)) with stk := isCtl c.val && empty })
    (fun r =>
      if condHolds c.val cond r then
        match (getPea c.val r).stack with
        | t :: rest => branchTo c.val t (onPea c.val (fun p => { p with stack := rest }) r)
        | [] => r
      else branchPast c.val r) noJump s

/-! ### Loops (R62-R65) -/

/-- LE must lie after the loop bundle (R62). -/
def loopLegal (c : Nat) (tgt : BitVec 14) (r : State) : Bool := Nat.blt (getPea c r).pc.toNat tgt.toNat

/-- Two more cycles of a core's time: writes in flight land (R59), and BCYC counts (R90). -/
def twoCycles (c : Nat) (s : State) : State := tickBcyc c (land c (tickBcyc c (land c s)))

/-- Start a loop (R62-R65): an active loop is replaced and LNEST sets; a count of 0 leaves no loop active, and the bundle
takes three cycles. -/
def startLoop (c : Nat) (tgt : BitVec 14) (cnt : Nat) (stages : Option Nat) (s : State) : State :=
  let s1 := onlyIf (cnt == 0) (twoCycles c) (onPea c endLoop s)
  let s2 := onlyIf (getPea c s).loop.isSome (flySticky c stLNEST) s1
  if cnt = 0 then s2
  else onPea c (fun p =>
    let q := { p with ls := p.pc + 1, le := tgt }
    match stages with
    | none => { q with lc := BitVec.ofNat 17 cnt, loop := some ⟨false, cnt, 1⟩ }
    | some k => { q with lc := BitVec.ofNat 17 (cnt + k - 1), qreg := 1, loop := some ⟨true, cnt, 1⟩ }) s2

/-- A loop with count 0 skips its body: execution goes on at LE + 1 (R64). -/
def loopSkip (tgt : BitVec 14) (cnt : Nat) : Option (BitVec 14) := if cnt = 0 then some (tgt + 1) else none

/-- A loop bundle. -/
def loopBundle (c : Nat) (tgt : BitVec 14) (cnt : State → Nat) (stages : Option Nat) (s : State) : Out :=
  ctlBundle c (fun r => plainChecks (loopLegal c tgt r)) (fun r => startLoop c tgt (cnt r) stages r)
    (fun r => loopSkip tgt (cnt r)) s

/-- The count of a loop from a D register: bits [15:0] (R64). -/
def loopCount (c r : Nat) (s : State) : Nat := (rdD c r s).toNat % 65536

/-- LOOP (R62). -/
def execLoop (c : CoreId) (tgt : BitVec 14) (cnt : BitVec 16) (s : State) : Out :=
  loopBundle c.val tgt (fun _ => cnt.toNat) none s

/-- LOOPD (R62, R64). -/
def execLoopd (c : CoreId) (tgt : BitVec 14) (rsel : Fin 32) (s : State) : Out :=
  loopBundle c.val tgt (loopCount c.val rsel.val) none s

/-- LOOP.ROT (R63). -/
def execLoopRot (c : CoreId) (tgt : BitVec 14) (cnt : BitVec 16) (stgs : Fin 8) (s : State) : Out :=
  loopBundle c.val tgt (fun _ => cnt.toNat) (some (stgs.val + 1)) s

/-- LOOP.ROTD (R63, R64). -/
def execLoopRotd (c : CoreId) (tgt : BitVec 14) (rsel : Fin 32) (stgs : Fin 8) (s : State) : Out :=
  loopBundle c.val tgt (loopCount c.val rsel.val) (some (stgs.val + 1)) s

/-! ### Tasks (R104, R109) -/

/-- The running task of a pod pea ends with its stamp; the completion is posted when its writes have landed (R104). On a
core that runs no task nothing happens (log entry 8: DEDUCED). -/
def endTask (c : Nat) (s : State) : State := if isCtl c then s else abandon c .normal s

/-- TEND (R104). -/
def execTend (c : CoreId) (s : State) : Out := ctlBundle c.val anyCtl (endTask c.val) noJump s

/-- An event sets out for an input of a task (R109). -/
def postEvent (n p e x : Nat) (s : State) : State :=
  { s with pods := { s.pods with events := s.pods.events ++ [(n, p, e, x)] } }

/-- An event is dropped and counted at the target pea (R109). -/
def dropEvent (n p : Nat) (s : State) : State :=
  count (PEA_CNT2_EVDROP_COUNT n p) (PEA_STAT_EVDROP_SAT n p) (102 + 10 * n + p) s

/-- Post through an event map entry (R109): an entry with EN 0 drops the event. -/
def postMapped (c v : Nat) (s : State) : State :=
  let n := c / 9
  let p := c % 9
  let tn := rd (PEA_EVMAP_POD n p v) s
  let tp := rd (PEA_EVMAP_PEA n p v) s
  if rdB (PEA_EVMAP_EN n p v) s then
    postEvent tn tp (rd (PEA_EVMAP_TASK n p v) s) (rd (PEA_EVMAP_INPUT n p v) s) s
  else dropEvent tn tp s

/-- EVT (R76, R109); on a core that is no pod pea nothing happens (log entry 8: DEDUCED). -/
def execEvt (c : CoreId) (v : Fin 64) (s : State) : Out :=
  ctlBundle c.val anyCtl (fun r => if isCtl c.val then r else postMapped c.val v.val r) noJump s

/-! ### The control extension -/

/-- An opcode of the control extension is an illegal bundle on a pod pea (R42). -/
def extChecks (c : Nat) (priv : Bool) : State → Checks := fun _ => { plainChecks (isCtl c) with priv := priv }

/-- TRAP (R76, R85). -/
def execTrap (c : CoreId) (cond : BitVec 4) (code : BitVec 8) (s : State) : Out :=
  ctlBundle c.val
    (fun r => { plainChecks (isCtl c.val) with
      trap := if condHolds c.val cond r then some (code.setWidth 32) else none })
    (fun r => r) noJump s

/-- ERET (R86): PL and IE come back (log entry 8: DEDUCED), execution resumes at `CX_EPC`, runs DS bundles and goes on at
`CX_BTGT`. -/
def eretBody (c : Nat) (r : State) : State :=
  let ppl := csrField c 0 1 1 r
  let pie := csrField c 0 3 1 r
  let ds := csrField c 0 4 2 r
  let bt := (rdCsr c 5 r).setWidth 14
  onPea c (fun p => { p with
    unreturned := false
    nmiIn := false
    branch := if ds = 0 then none else some (bt, ds) })
    (wrCsrField c 0 0 1 ppl (wrCsrField c 0 2 1 pie r))

/-- ERET (R76, R80, R86). -/
def execEret (c : CoreId) (s : State) : Out :=
  ctlBundle c.val (extChecks c.val true) (eretBody c.val) (fun r => some ((rdCsr c.val 1 r).setWidth 14)) s

/-- WFI (R76): the core stands still until an interrupt is pending. -/
def execWfi (c : CoreId) (s : State) : Out :=
  ctlBundle c.val (extChecks c.val true)
    (fun r => if (pendingIrq c.val r).isSome then r else onPea c.val (fun p => { p with stall := .wfi }) r) noJump s

/-- Is a CSR index listed in the map of R83? -/
def csrListed (i : Nat) : Bool := Nat.ble i 0x3F || i == 0x40 || (Nat.ble 0x48 i && Nat.ble i 0x4F)

/-- A CSR as CSRR reads it: pending lines with those the fault and event unit drives, window starts, and the count of a
running timer as a free value, since its cycles are not commands (log entry 11: DESIGN CHOICE). -/
def readCsr (c i : Nat) (s : State) : Word :=
  if i = 8 then BitVec.ofNat 32 (pendingLines c s % 2 ^ 32)
  else if i = 9 then BitVec.ofNat 32 (pendingLines c s / 2 ^ 32)
  else if (i = 0x0B && csrField c 0x0F 0 1 s == 1) || (i = 0x0D && csrField c 0x0F 1 1 s == 1) then Config.free 32 (s.freeCtr + 120)
  else if 0x48 ≤ i && i ≤ 0x4F then (rdW c (i - 0x48) s).setWidth 32
  else rdCsr c i s

/-- Write a CSR (R83): each keeps the bits it has; CAUSE and the pending lines are read-only; NEST clears on a 1. -/
def writeCsr (c i : Nat) (v : Word) (s : State) : State :=
  if i = 0 then
    let old := rdCsr c 0 s
    wrCsr c 0 ((v &&& 0x3F) ||| (old &&& ~~~v &&& 0x40)) s
  else if i = 1 || i = 5 then wrCsr c i (v &&& 0x3FFF) s
  else if i = 2 || i = 8 || i = 9 then s
  else if i = 4 then wrCsr c 4 (v &&& 0x3FC0) s
  else if i = 0x0A then wrCsr c i (v &&& 0x3FFFF) s
  else if i = 0x0F || i = 0x40 then wrCsr c i (v &&& 3) s
  else if 0x30 ≤ i && i ≤ 0x3F then wrCsr c i (v &&& 0xFF) s
  else if 0x48 ≤ i then fly c 1 (.w (i - 0x48)) (v.setWidth 56) s
  else wrCsr c i v s

/-- CSRR (R76): the D pair takes a CSR, [31:16] and [15:0], each zero-extended (R52); an unlisted index raises ILL. -/
def execCsrr (c : CoreId) (reg : Fin 32) (idx : BitVec 8) (s : State) : Out :=
  ctlBundle c.val (fun _ => { plainChecks (isCtl c.val && csrListed idx.toNat) with priv := true })
    (fun r =>
      let v := readCsr c.val idx.toNat r
      let p := getPea c.val r
      let e := evenReg reg.val
      fly c.val 1 (.d (physD p (e + 1))) ((v.extractLsb' 0 16).setWidth 56)
        (fly c.val 1 (.d (physD p e)) ((v.extractLsb' 16 16).setWidth 56) r)) noJump s

/-- CSRW (R76): a CSR takes bits [15:0] of each register of the D pair (R52); an unlisted index raises ILL. -/
def execCsrw (c : CoreId) (reg : Fin 32) (idx : BitVec 8) (s : State) : Out :=
  ctlBundle c.val (fun _ => { plainChecks (isCtl c.val && csrListed idx.toNat) with priv := true })
    (fun r =>
      let e := evenReg reg.val
      let v : Word := (rdD c.val e r).extractLsb' 0 16 ++ (rdD c.val (e + 1) r).extractLsb' 0 16
      writeCsr c.val idx.toNat v r) noJump s

/-- FENCE (R76, R81): the core stands still until every posted store has been answered. -/
def execFence (c : CoreId) (s : State) : Out :=
  ctlBundle c.val (extChecks c.val false)
    (fun r => if (getPea c.val r).posted.isEmpty then r else onPea c.val (fun p => { p with stall := .fence }) r) noJump s

/-! ### Illegal bundles (R67, R79) -/

/-- Bits `lo` to `lo + w - 1` of a bundle. -/
def bf (w : BitVec 64) (lo n : Nat) : Nat := w.toNat / 2 ^ lo % 2 ^ n

/-- Is a short move legal (R69): a kind that is not reserved. -/
def wordShortLegal (m : Nat) : Bool := Nat.ble (m / 2 ^ 12 % 8) 4

/-- Is a long move legal on a core (R71)? -/
def wordLongLegal (c m : Nat) : Bool :=
  let kind := m / 2 ^ 33 % 16
  let sp := m / 2 ^ 31 % 4
  let reg := m / 2 ^ 26 % 32
  let mode := m / 2 ^ 19 % 8
  Nat.ble kind 7 && m / 2 ^ 25 % 2 == 0 && Nat.ble mode 5 && (mode == 5 || m % 65536 == 0) &&
  (Nat.blt kind 5 || Nat.blt reg 8) &&
  (kind == 0 || sp == 0 || sp == 1 || (sp == 2 && !isCtl c) || (sp == 3 && isCtl c && (kind == 1 || kind == 3)))

/-- Is a MAC-format bundle legal (R58, R68)? -/
def wordMacLegal (w : BitVec 64) : Bool :=
  let mop := bf w 58 4
  (Nat.ble mop 6 || (Nat.ble 8 mop && Nat.ble mop 10 && Nat.blt (bf w 56 2) 2)) &&
  wordShortLegal (bf w 15 15) && wordShortLegal (bf w 0 15)

/-- Is an ALU-format bundle legal (R67, R70, R72, R73)? -/
def wordAluLegal (c : Nat) (w : BitVec 64) : Bool :=
  let op := bf w 56 6
  let imm := bf w 55 1 == 1
  let dst := bf w 47 5
  let a := bf w 42 5
  let b := bf w 37 5
  (Nat.ble op 0x13
    || ((op == 0x20 || op == 0x21) && imm && Nat.blt b 8 && Nat.blt a 8)
    || (op == 0x22 && Nat.blt a 8)
    || ((op == 0x23 || op == 0x24 || op == 0x25 || op == 0x26) && Nat.blt dst 8)
    || ((op == 0x27 || op == 0x28) && Nat.blt dst 8 && Nat.blt a 8 && Nat.blt b 8)
    || ((op == 0x29 || op == 0x2A || op == 0x2B) && Nat.blt dst 8 && Nat.blt a 8)
    || (op == 0x2C && Nat.blt a 8 && Nat.blt b 8)
    || (op == 0x30 && dst != 31) || (op == 0x31 && a != 31)
    || (op == 0x32 && Nat.blt dst 8 && Nat.blt a 8)) && wordLongLegal c (bf w 0 37)

/-- Is a control bundle legal on a core at its place (R61, R62, R66, R75, R76)? Each opcode uses only its fields. -/
def wordCtlLegal (c : Nat) (w : BitVec 64) (s : State) : Bool :=
  let op := bf w 56 6
  let noCond := bf w 52 4 == 0
  let noTgt := bf w 38 14 == 0
  let noRsel := bf w 32 5 == 0
  let noCnt := bf w 16 16 == 0
  let noStgs := bf w 13 3 == 0
  let noArg := bf w 0 13 == 0
  let tgt := BitVec.ofNat 14 (bf w 38 14)
  let holds := condHolds c (BitVec.ofNat 4 (bf w 52 4)) s
  bf w 37 1 == 0 &&
  ((op == 0 || op == 8) && noCond && noTgt && noRsel && noCnt && noStgs && noArg
    || (op == 1 || op == 2) && noRsel && noCnt && noStgs && noArg && branchLegal c s
    || op == 3 && noTgt && noRsel && noCnt && noStgs && noArg && branchLegal c s &&
        (isCtl c || !(holds && (getPea c s).stack.isEmpty))
    || op == 4 && noCond && noRsel && noStgs && noArg && loopLegal c tgt s
    || op == 5 && noCond && noCnt && noStgs && noArg && loopLegal c tgt s
    || op == 6 && noCond && noRsel && noArg && loopLegal c tgt s
    || op == 7 && noCond && noCnt && noArg && loopLegal c tgt s
    || op == 9 && noCond && noTgt && noRsel && noCnt && noStgs && Nat.blt (bf w 0 13) 64
    || isCtl c && (op == 0x20 && noTgt && noRsel && noCnt && noStgs && Nat.blt (bf w 0 13) 256
      || (op == 0x21 || op == 0x22 || op == 0x25) && noCond && noTgt && noRsel && noCnt && noStgs && noArg
      || (op == 0x23 || op == 0x24) && noCond && noTgt && noRsel && noCnt && noStgs && csrListed (bf w 0 8)))

/-- Is a long-immediate bundle legal (R74)? -/
def wordLimmLegal (w : BitVec 64) : Bool := bf w 24 2 == 0

/-- Is a bundle word legal on a core (R67)? -/
def wordLegal (c : Nat) (w : BitVec 64) (s : State) : Bool :=
  match bf w 62 2 with
  | 0 => wordMacLegal w
  | 1 => wordAluLegal c w
  | 2 => wordCtlLegal c w s
  | _ => wordLimmLegal w

/-- A core meets a bundle word (R67, R79): an illegal one has none of its effects, a pod pea abandons its task, and a
core with the control extension takes ILL. A word that is a legal bundle is no event of this row (log entry 7: DESIGN CHOICE). -/
def execIllegalBundle (c : CoreId) (w : BitVec 64) (s : State) : Out :=
  .next (if wordLegal c.val w (atIssue c.val s) then s
    else issue c.val (fun _ => plainChecks false) (fun r => r) noJump s)

/-! ### What reaches a core from outside -/

/-- Take what pends, on a core that stands between bundles and does not wait for a load or a fence. -/
def settle (c : Nat) (s : State) : State :=
  let st := (getPea c s).stall
  if st == .none || st == .wfi then
    let s1 := onlyIf (pendingIrq c s).isSome (onPea c (fun p => { p with stall := .none })) s
    (takePending c s1).getD s1
  else s

/-- A crossbar load's response (R81): the data go to the D pair (R52) and the core goes on; an error is a precise XERR,
and none of the bundle's slots take effect. -/
def execCrossbarLoadResponse (c : CoreId) (data : BitVec 32) (error : Bool) (s : State) : Out :=
  .next (match (getPea c.val s).stall with
  | .load w =>
    if error then
      enterException c.val exXERR (w.addr.setWidth 32) false false
        (onPea c.val (fun p => { p with
          stall := .none, flight := p.flight.take w.nFlight, pc := w.pc, branch := w.branch
          loop := w.loop, lc := w.lc, rot := w.rot, qreg := w.qreg }) s)
    else settle c.val
      (fly c.val 1 (.d w.lo) ((data.extractLsb' 0 16).setWidth 56)
        (fly c.val 1 (.d w.hi) ((data.extractLsb' 16 16).setWidth 56)
          (onPea c.val (fun p => { p with stall := .none }) s)))
  | _ => s)

/-- A posted crossbar store is answered (R81), in the order of issue; an error is an imprecise XERR with the store's
address. -/
def execCrossbarStoreResponse (c : CoreId) (error : Bool) (s : State) : Out :=
  .next (match (getPea c.val s).posted with
  | [] => s
  | (addr, _) :: rest =>
    let s1 := onPea c.val (fun p => { p with
      posted := rest
      stall := if p.stall == .fence && rest.isEmpty then .none else p.stall }) s
    if error then settle c.val (wrCsr c.val 0x102 1 (wrCsr c.val 0x103 (addr.setWidth 32) s1)) else s1)

/-- An interrupt line of a core rises (R85-R87): it pends, ends WFI, and is taken between bundles while IE is 1, its
enable is set and no delay slot is due. A pod pea has no lines. -/
def execInterruptEntry (c : CoreId) (line : Fin 64) (s : State) : Out :=
  .next (if isCtl c.val then
    settle c.val (if line.val < 32 then wrCsrField c.val 8 line.val 1 1 s else wrCsrField c.val 9 (line.val - 32) 1 1 s)
  else s)

/-- A watchdog or clock-monitor line of a core (R85, R87): NMI is taken between bundles, whatever IE is. -/
def execNmi (c : CoreId) (s : State) : Out := .next (if isCtl c.val then settle c.val (wrCsr c.val 0x104 1 s) else s)

/-- A timer of a core reaches 0 (R88): it raises its interrupt and reloads; a reload of 0 stops it at 0. A timer that is
not enabled does not run. -/
def execTimerZero (c : CoreId) (t : Fin 2) (s : State) : Out :=
  .next (if isCtl c.val && csrField c.val 0x0F t.val 1 s == 1 then
    settle c.val (wrCsr c.val (0x100 + t.val) 1 (wrCsr c.val (0x0B + 2 * t.val) (rdCsr c.val (0x0C + 2 * t.val) s) s))
  else s)

end Sys2Proof.Machine
end

