-- ==== Sys2Proof/Machine/Records.lean ====
section
/-! DEFINITION. The layout of a fault record (R581). -/

namespace Sys2Proof.Machine

/-- A Boolean as a bit. -/
def bit1 (b : Bool) : Nat := if b then 1 else 0

/-- The eight words of a record (R581). -/
def recWords (seq : Nat) (r : FaultRec) : List Word :=
  let w4 := r.code.toNat + r.island % 512 * 2 ^ 16 + bit1 r.tsv * 2 ^ 30
  let w6 := r.master.toNat + bit1 r.write * 2 ^ 6 + bit1 r.user * 2 ^ 7 + r.addrHi.toNat * 2 ^ 8
  [BitVec.ofNat 32 seq, r.bsn, BitVec.ofNat 32 r.ns.toNat, BitVec.ofNat 32 (r.ns.toNat / 2 ^ 32), BitVec.ofNat 32 w4, r.arg,
    BitVec.ofNat 32 w6, BitVec.ofNat 32 (bit1 r.pair + 2 * bit1 r.lost)]

/-- A word as bytes, least significant first (R581: in a log page). -/
def leBytes (w : Word) : List (BitVec 8) := (List.range 4).map fun i => w.extractLsb' (8 * i) 8

/-- A number as `n` bytes, least significant first. -/
def leNat (n v : Nat) : List (BitVec 8) := (List.range n).map fun i => BitVec.ofNat 8 (v / 2 ^ (8 * i))

/-- A number as `n` bytes, most significant first. -/
def beNat (n v : Nat) : List (BitVec 8) := (List.range n).map fun i => BitVec.ofNat 8 (v / 2 ^ (8 * (n - 1 - i)))

/-- The 32 bytes of a record in a log page. -/
def recBytes (seq : Nat) (r : FaultRec) : List (BitVec 8) := (recWords seq r).flatMap leBytes

end Sys2Proof.Machine
end

