-- ==== Sys2Proof/Machine/Events.lean ====
section
/-! DEFINITION. What waits for the sessions' EVENTs (R549-R551): records of the faults and meters that a session subscribes. -/

namespace Sys2Proof.Machine

/-- Change Halvon's part of the state. -/
def onHalv (f : HalvonSt → HalvonSt) (s : State) : State := { s with halv := f s.halv }

/-- A fault record as it is logged waits for every session that subscribes its class (R550). -/
def queueFault (cls : Nat) (ws : List Word) (s : State) : State :=
  onHalv (fun h => { h with sessions := h.sessions.map fun q =>
    if q.opened && q.mask.getLsbD cls then { q with queue := q.queue ++ [(EventKind.fault, ws)] } else q }) s

/-- A meter record counts against a subscription: every DIV-th is delivered (R549). -/
def countMeter (m : Nat) (l : List (Nat × Nat × Nat)) : Bool × List (Nat × Nat × Nat) :=
  ((l.any fun e => e.1 == m && Nat.ble e.2.1 (e.2.2 + 1)),
    l.map fun e => if e.1 = m then (e.1, e.2.1, if e.2.1 ≤ e.2.2 + 1 then 0 else e.2.2 + 1) else e)

/-- A meter record as it is published waits for every session that subscribes the meter (R549, R551): the meter's number,
then the record. -/
def queueMeter (m : Nat) (ws : List Word) (s : State) : State :=
  onHalv (fun h => { h with sessions := h.sessions.map fun q =>
    let r := countMeter m q.meters
    { q with meters := r.2, queue := if q.opened && r.1 then q.queue ++ [(EventKind.meter, BitVec.ofNat 32 m :: ws)] else q.queue } }) s

/-! ### Responses (R538, R540) -/

/-- What the engine answers (R540, R542): STATUS, the flags, ERRIDX (0xFFFF for none), APPLY_BSN, and what follows the
prefix, one list of words for each message. -/
structure Reply where
  status : Nat
  late : Bool
  stopLate : Bool
  trunc : Bool
  errIdx : Nat
  apply : Nat
  bodies : List (List (BitVec 32))
  deriving DecidableEq, Repr

/-- OK with these words after the prefix. -/
def okReply (body : List (BitVec 32)) : Reply := ⟨0, false, false, false, 0xFFFF, 0, [body]⟩

/-- A status that rejects the message. -/
def errReply (status errIdx : Nat) : Reply := ⟨status, false, false, false, errIdx, 0, [[]]⟩

/-- A session by its number. -/
def getSession (num : Nat) (s : State) : Option Session := s.halv.sessions.find? fun x => x.num == num

/-- Change a session. -/
def setSession (num : Nat) (f : Session → Session) (s : State) : State :=
  onHalv (fun h => { h with sessions := h.sessions.map fun x => if x.num = num then f x else x }) s

/-- A session ends, its subscriptions and waiting requests with it (R538). -/
def endSession (num : Nat) (s : State) : State :=
  onHalv (fun h => { h with sessions := h.sessions.filter (fun x => x.num != num), castle := h.castle.filter fun c => c.1 != num }) s

/-- The messages of a response, numbered on from the engine's last SEQ. -/
def replyMsgs (num typ tx seq : Nat) (r : Reply) (s : State) : List HalvonOut :=
  (r.bodies.zip (List.range r.bodies.length)).map fun b =>
    { typ := typ, session := num, seq := tx + 1 + b.2, more := Nat.blt (b.2 + 1) r.bodies.length, reqSeq := seq, status := r.status
      late := r.late, stopLate := r.stopLate, trunc := r.trunc && b.2 == 0, errIdx := r.errIdx, acceptBsn := bsnNow s
      applyBsn := r.apply, body := b.1 }

/-- Answer a request of a session (R538, R540): the response is kept with the last 16; SEQ does not wrap. -/
def sendReply (num typ seq : Nat) (old : Bool) (r : Reply) (s : State) : State :=
  match getSession num s with
  | none => s
  | some x =>
    let ms := replyMsgs num typ x.tx seq r s
    let kept := x.replies ++ [(old, seq, ms)]
    let s1 := setSession num (fun q => { q with tx := x.tx + ms.length, replies := kept.drop (kept.length - 16) }) s
    let s2 := onHalv (fun h => { h with out := h.out ++ ms }) s1
    if 0xFFFFFFFF ≤ x.tx + ms.length then endSession num s2 else s2

/-- The castling requests that wait for an outcome are answered (R553): OK with the castling block. -/
def answerCastle (c : Nat) (s : State) : State :=
  forEach s.halv.castle (fun w t => sendReply w.1 0x17 w.2 false { okReply [] with apply := c % 2 ^ 32 } t)
    (onHalv (fun h => { h with castle := [], out := [] }) s)

end Sys2Proof.Machine
end

