-- ==== Sys2Proof/Machine/Timeline.lean ====
section
/-! DEFINITION. Parameter changes and apply times (R21-R28), the time windows (R34-R37) and the latched read of the
absolute block number (R41). -/

namespace Sys2Proof.Machine

/-- How an apply BSN stands to the acceptance block (R23). -/
inductive Judged where
  | held (a : Nat)
  | late (a : Nat)
  | far
  deriving DecidableEq, Repr

/-- Judge an apply BSN `a` against the acceptance block `b` (R23): later by up to 60 s it is held, equal or earlier it
lands late at `b` + 1, and else it is rejected. -/
def judgeApply (b a : Nat) : Judged :=
  match serialCmp 32 a b with
  | .later d => if d ≤ 1440000 then .held (a % 2 ^ 32) else .far
  | .equal => .late ((b + 1) % 2 ^ 32)
  | .earlier _ => .late ((b + 1) % 2 ^ 32)
  | .outOfWindow => .far

/-- Does a pending change stand for the same element and the same apply (R27)? -/
def sameChange (c d : Change) : Bool := c.elem == d.elem && c.apply == d.apply

/-- A change enters the pending store as the last, and one to the same element of the same apply leaves it (R27). -/
def insertChange (c : Change) : List Change → List Change
  | [] => [c]
  | d :: r => if sameChange c d then r ++ [c] else d :: insertChange c r

/-- How many changes of a list supersede one that is pending or an earlier one of the list (R27). -/
def supersededBy : List Change → List Change → Nat
  | _, [] => 0
  | pend, c :: r => (if pend.any (sameChange c) then 1 else 0) + supersededBy (insertChange c pend) r

/-- The pending store after a list of changes. -/
def insertAll (pend : List Change) (cs : List Change) : List Change := cs.foldl (fun p c => insertChange c p) pend

/-- The distinct apply BSNs of a pending store, as a list without repeats. -/
def applyBsns (pend : List Change) : List (BitVec 32) := (pend.map (·.apply)).eraseDups

/-- Would the pending store hold the changes (R28)? -/
def storeHolds (pend : List Change) (cs : List Change) : Bool :=
  let p := insertAll pend cs
  Nat.ble p.length 16384 && Nat.ble (applyBsns p).length 256

/-- Set the pending store and the count of distinct applies that `GLB_GEN` shows (R40). -/
def setPend (p : List Change) (s : State) : State :=
  wr GLB_GEN_PEND_BSN (applyBsns p).length { s with tl := { s.tl with pend := p } }

/-- Accept the changes of one message at the block where they land (R23, R27): `late` counts each. -/
def enterChanges (cs : List Change) (late : Bool) (s : State) : State :=
  let n := supersededBy s.tl.pend cs
  let s1 := onlyIf (n != 0) (countN n GLB_APPLY_CNT2_SUPERSEDED_COUNT GLB_TLSTAT_SUPERSEDED_SAT 0)
    (setPend (insertAll s.tl.pend cs) s)
  onlyIf (late && !cs.isEmpty) (countN cs.length GLB_APPLY_CNT_LATE_COUNT GLB_TLSTAT_LATE_SAT 0) s1

/-- Count a message or a window request rejected as too far (R17, R23). -/
def countFar (s : State) : State := count GLB_APPLY_CNT_FAR_COUNT GLB_TLSTAT_FAR_SAT 0 s

/-- Count a message rejected because the pending store would be full (R28). -/
def countFull (s : State) : State := count GLB_APPLY_CNT2_FULL_COUNT GLB_TLSTAT_FULL_SAT 0 s

/-- What comes of a window request (R34-R37): the window (start and stop block) with its late flag, or why it is
rejected. -/
inductive WindowRes where
  | ok (start stop : Nat) (late : Bool)
  | far | empty | long
  deriving DecidableEq, Repr

/-- Resolve a window from its start and stop blocks, BSNs modulo 2^32, in the acceptance block `b` (R35, R36): an empty
window, one of 2^30 blocks or more, and one out of window are rejected; a start at or before `b` moves to `b` + 1. -/
def resolveWindow (b start stop : Nat) : WindowRes :=
  match serialCmp 32 start b with
  | .outOfWindow => .far
  | .later _ =>
    match serialCmp 32 stop start with
    | .later d => if 2 ^ 30 ≤ d then .long else .ok (start % 2 ^ 32) (stop % 2 ^ 32) false
    | .outOfWindow => .long
    | _ => .empty
  | _ =>
    let st := (b + 1) % 2 ^ 32
    match serialCmp 32 stop st with
    | .later d => if 2 ^ 30 ≤ d then .long else .ok st (stop % 2 ^ 32) true
    | .outOfWindow => .long
    | _ => .empty

/-- A change of the stop of an open window in block `b` (R37): a stop at or before `b` + 1 closes at the end of data
block `b`, flagged late; `opened` tells whether the window has opened, and else R35 applies. -/
def resolveStop (b start stop : Nat) (opened : Bool) : WindowRes :=
  if opened then
    match serialCmp 32 stop (b + 1) with
    | .later d => if 2 ^ 30 ≤ d then .long else .ok start (stop % 2 ^ 32) false
    | .outOfWindow => .far
    | _ => .ok start ((b + 1) % 2 ^ 32) true
  else
    match serialCmp 32 stop start with
    | .later d => if 2 ^ 30 ≤ d then .long else .ok start (stop % 2 ^ 32) false
    | .outOfWindow => .long
    | _ => .empty

/-- Count a rejected window (R17, R35). -/
def countWindow (w : WindowRes) (s : State) : State :=
  match w with
  | .ok _ _ _ => s
  | .far => countFar s
  | .empty => count GLB_WIN_CNT_EMPTY_COUNT GLB_TLSTAT_EMPTY_SAT 0 s
  | .long => count GLB_WIN_CNT_LONG_COUNT GLB_TLSTAT_LONG_SAT 0 s

/-- A read of `GLB_BSN` latches bits [48:32] of the absolute block number (R41, R565); the value read is `bsnNow`. -/
def execGlbBsnRead (s : State) : Out :=
  .next (wr GLB_BLKHI_K_HI (if tlValid s then s.tl.k.toNat / 2 ^ 32 else 0) s)

/-- The widened absolute block of a 24-bit BSN field (R315, R614), against the own block number. -/
def blockOf24 (v : BitVec 24) (s : State) : Nat := (widen 24 v.toNat s.tl.k.toNat).toNat

end Sys2Proof.Machine
end

