-- ==== Sys2Proof/Machine/Pair.lean ====
section
/-! DEFINITION. The pair and the king (R309-R336): framers, records, status frames, the lease, castling, mirroring and
resync. A command is what arrives from the partner, or a time that has come. -/

namespace Sys2Proof.Machine

/-- The island of the Dranan block and the king (R337). -/
def islPair : Nat := 29

/-- Change the pair's part of the state. -/
def onPair (f : PairSt → PairSt) (s : State) : State := { s with pair := f s.pair }

/-- Is the engine paired (R309)? -/
def paired (s : State) : Bool := rdB DRN_CFG_EN s

/-- The king states of `DRN_STAT.KSTATE` (R337). -/
def kSOLO : Nat := 0
/-- See `kSOLO`. -/
def kWAIT : Nat := 1
/-- See `kSOLO`. -/
def kSTBY : Nat := 2
/-- See `kSOLO`. -/
def kHOLD : Nat := 3
/-- See `kSOLO`. -/
def kOUT : Nat := 4
/-- See `kSOLO`. -/
def kIN : Nat := 5

/-- The king state. -/
def kstate (s : State) : Nat := rd DRN_STAT_KSTATE s

/-- Does the engine hold the king: a solo engine from audio start (R309), a paired one as holder or castling out? -/
def isHolder (s : State) : Bool := if paired s then kstate s == kHOLD || kstate s == kOUT else tlRun s

/-- The engine's DEVICE_ID. -/
def deviceId (s : State) : Nat := rd (KS_DEVID_ID 0) s + rd (KS_DEVID_ID 1) s * 2 ^ 32

/-- Is the engine ABLE (R325): Rook ARMED, audio running, Pawn in RUN? -/
def ableNow (s : State) : Bool := rd ROOK_STAT_STATE s == 1 && tlRun s && rd PWR_STAT_STATE s == 2

/-- Does this engine outrank the sender of a frame by PRIO and then DEVICE_ID (R326)? -/
def outranks (f : StatusFrame) (s : State) : Bool :=
  let p := rd DRN_CFG_PRIO s
  Nat.blt f.prio.toNat p || (f.prio.toNat == p && Nat.blt f.dev.toNat (deviceId s))

/-- Is this engine home-acting (R326)? With no partner known, if its HOME bit is set. -/
def homeActing (s : State) : Bool :=
  let h := rdB DRN_CFG_HOME s
  match s.pair.last with
  | none => h
  | some l => if h != l.frame.home then h else outranks l.frame s

/-- Is this engine the higher in rank (R326)? -/
def ranksHigher (f : StatusFrame) (s : State) : Bool :=
  let h := rdB DRN_CFG_HOME s
  if h != f.home then h else outranks f s

/-- The conditions of R332 but MATCH. -/
def healthyButMatch (s : State) : Bool :=
  ableNow s && rdB DRN_STAT_ALIGN s && rdB DRN_STAT_LOCKSTEP s && rdB DRN_STAT_SHARED s &&
  (List.range 16).all (fun n => !rdB (POD_STAT_DEGRADED n) s) && !s.pair.ownRequest

/-- Is the engine HEALTHY (R332)? -/
def healthyNow (s : State) : Bool := paired s && healthyButMatch s && rdB DRN_STAT_MATCH s

/-- Does the revert hold-off run (R335): home-acting, standby, HEALTHY, and a hold-off given? -/
def revertRuns (s : State) : Bool :=
  homeActing s && kstate s == kSTBY && healthyNow s && rd DRN_CFG2_REVERT s != 0 && s.pair.castling.isNone

/-- Bring the derived bits of `DRN_STAT` and the start of the HEALTHY time up to date (R325, R326, R332, R335). -/
def pairDerive (s : State) : State :=
  let s1 := wrB DRN_STAT_ABLE (ableNow s) s
  let s2 := wrB DRN_STAT_HEALTHY (healthyNow s) s1
  let s3 := wrB DRN_STAT_HOMEACT (paired s && homeActing s) s2
  let s4 := wrB DRN_STAT_REVWAIT (revertRuns s3) s3
  onPair (fun p => { p with
    healthySince := if revertRuns s4 then some (p.healthySince.getD s4.tl.k.toNat) else none }) s4

/-! ### Gaining and losing the king -/

/-- Ports marked SHARED follow the king (R345): from KING_WAIT to MASTER when it comes, back when it goes. -/
def kingPorts (gain : Bool) (s : State) : State :=
  let a := if gain then 9 else 5
  let b := if gain then 5 else 9
  forEach (List.range 8) (fun p t =>
    if rdB (PTP_PCFG_SHARED p) t then
      onlyIf (rd (PTP_PSTAT_STATE1 p) t == a) (wr (PTP_PSTAT_STATE1 p) b)
        (onlyIf (rd (PTP_PSTAT_STATE0 p) t == a) (wr (PTP_PSTAT_STATE0 p) b) t)
    else t) s

/-- The engine takes the king and acts from block `first` (R328, R334): KSEQ counts on and the change is recorded. -/
def gainKing (cause first : Nat) (s : State) : State :=
  let s1 := wr DRN_STAT_KSTATE kHOLD (seqNext DRN_KING_KSEQ s)
  kingPorts true (wr DRN_KING_CAUSE cause (wr DRN_KBSN_BSN first
    (onPair (fun p => { p with castling := none, ownRequest := false, yieldNext := false, splitSeen := false
                               wantRevert := false, sentType := 0 }) s1)))

/-- The engine gives the king up; `first` is the first block it no longer acts in. -/
def loseKing (cause first : Nat) (s : State) : State :=
  kingPorts false (wr DRN_STAT_KSTATE kSTBY (wr DRN_KING_CAUSE cause (wr DRN_KBSN_BSN first
    (onPair (fun p => { p with castling := none, ownRequest := false, yieldNext := false, splitSeen := false
                               sentType := 2, sentEnd := BitVec.ofNat 32 first, since := first }) s))))

/-! ### Castling requests (R333) -/

/-- Send a KING record (R334). -/
def sendKing (c : KingCode) (blk : Nat) (s : State) : State :=
  onPair (fun p => { p with kingSent := p.kingSent ++ [(c, BitVec.ofNat 24 blk)] }) s

/-- A castling request is refused (R333). -/
def refuseCastle (s : State) : State := raise islPair 0x7020 0 (wrB DRN_STAT_CASTERR true s)

/-- Does the holder find the standby fit by its last HEARTBEAT (R333)? UPDATE waives MATCH, which HEALTHY includes, so
that the other conditions are looked at (log entry 21: DEDUCED). -/
def standbyFit (s : State) : Bool :=
  match s.pair.beat with
  | none => false
  | some h => h.healthy ||
      (rdB DRN_CTL_UPDATE s && h.able && rdB DRN_STAT_ALIGN s && rdB DRN_STAT_LOCKSTEP s && rdB DRN_STAT_SHARED s)

/-- What became of a castling request (R333, R553). -/
inductive CastleRes where
  | proposed (c : Nat) | joined (c : Nat) | sentOn | refused
  deriving DecidableEq, Repr

/-- A castling request reaches this engine (R333, R334): the holder proposes, a standby sends it on, a request during a
castling joins it; else it is refused. -/
def castleRequest (s : State) : CastleRes × State :=
  match s.pair.castling with
  | some c => (.joined c.block, s)
  | none =>
    if !paired s then (.refused, refuseCastle s)
    else if kstate s == kHOLD then
      if standbyFit s then
        let c := s.tl.k.toNat + rd DRN_CFG2_CLEAD s
        (.proposed c, sendKing .propose c (wr DRN_STAT_KSTATE kOUT
          (onPair (fun p => { p with castling := some ⟨c, true, false, false, 4⟩ }) s)))
      else (.refused, refuseCastle s)
    else (.sentOn, sendKing .request (s.tl.k.toNat) s)

/-- DRN_CASTLE (R333). -/
def execDrnCastle (s : State) : Out := .next (pairDerive (castleRequest s).2)

/-- A castling in progress ends without a change of holder (R334, R335: a cancelled revert starts the wait again). -/
def endCastling (s : State) : State :=
  let k := if kstate s == kOUT then kHOLD else if kstate s == kIN then kSTBY else kstate s
  wr DRN_STAT_KSTATE k (onPair (fun p => { p with castling := none, wantRevert := false, healthySince := none }) s)

/-- The holder cancels (R334). -/
def cancelCastling (c : Nat) (s : State) : State :=
  count DRN_CNT4_CANCEL_COUNT DRN_EVT_CANCEL_SAT islPair (sendKing .cancel c (endCastling s))

/-- By `c` − 8 without ACCEPT the holder sends CANCEL (R334). -/
def execCastlingAcceptDeadline (s : State) : Out :=
  .next (match s.pair.castling with
  | some c =>
    if c.holder && !c.accepted && Nat.ble c.block (s.tl.k.toNat + 8) then pairDerive (cancelCastling c.block s) else s
  | none => s)

/-- Count a completed castling (R334). -/
def countCastled (s : State) : State := count DRN_CNT_CASTLE_COUNT DRN_EVT_CASTLE_SAT islPair s

/-- Block `c` of a castling has come (R334): a holder that has committed yields with END = `c`; a standby that holds the
commit acts from `c`; one without it waits for the holder's YIELD by R328. -/
def execCastlingBlock (s : State) : Out :=
  .next (match s.pair.castling with
  | some c =>
    if Nat.ble c.block s.tl.k.toNat then
      pairDerive (if c.holder then
        if c.committed then countCastled (loseKing 4 c.block s) else cancelCastling c.block s
      else if c.committed then countCastled (gainKing c.cause c.block s)
      else endCastling s)
    else s
  | none => s)

/-- The home-acting standby asks for the king after REVERT seconds (R335). -/
def execRevertExpiry (s : State) : Out :=
  let s1 := pairDerive s
  .next (match s1.pair.healthySince with
  | some b =>
    if revertRuns s1 && Nat.ble (b + rd DRN_CFG2_REVERT s1 * 24000) s1.tl.k.toNat then
      onPair (fun p => { p with wantRevert := true, healthySince := some s1.tl.k.toNat }) (castleRequest s1).2
    else s1
  | none => s1)

/-! ### Status frames (R327-R330) -/

/-- A channel of a status frame, as bits of `DRN_STAT.CH`. -/
def chDranan : Nat := 0
/-- See `chDranan`. -/
def chLine : Nat := 1
/-- See `chDranan`. -/
def chNet : Nat := 2

/-- A valid RENEW reaches a holder (R329): the lower in rank yields at the next block boundary, and both count once. -/
def splitSeen (f : StatusFrame) (fin : Nat) (s : State) : State :=
  if (kstate s == kHOLD || kstate s == kOUT) && f.typ == 0 && Nat.blt s.tl.k.toNat fin then
    if s.pair.splitSeen then s
    else count DRN_CNT2_SPLIT_COUNT DRN_EVT_SPLIT_SAT islPair
      (onPair (fun p => { p with splitSeen := true, yieldNext := !ranksHigher f s }) s)
  else onlyIf (f.typ != 0) (onPair (fun p => { p with splitSeen := false })) s

/-- An engine that does not hold the king follows its partner's frames: the holder's lease makes it a standby and gives
it the king sequence; IDLE leaves no lease known. -/
def followFrame (f : StatusFrame) (sent : Nat) (s : State) : State :=
  if kstate s == kHOLD || kstate s == kOUT then s
  else if f.typ == 0 || f.typ == 3 then
    let s1 := onlyIf (rd DRN_KING_KSEQ s != f.kseq.toNat) (fun t => wr DRN_KING_KSEQ f.kseq.toNat (wr DRN_KBSN_BSN sent t)) s
    let s2 := onlyIf (kstate s1 == kWAIT) (wr DRN_STAT_KSTATE kSTBY) s1
    onlyIf (f.typ == 3) (onPair (fun p => { p with
      castling := p.castling.map fun c => if c.holder then c else { c with committed := true } })) s2
  else if f.typ == 1 then onlyIf (kstate s == kSTBY) (wr DRN_STAT_KSTATE kWAIT) s
  else s

/-- A status frame of the partner arrives on a channel, sent in absolute block `sent` (R327): the latest by send block is
kept, with END widened by R614. -/
def heardFrame (ch sent : Nat) (f : StatusFrame) (s : State) : State :=
  let fin := blockOf24 f.fin s
  let newer := match s.pair.last with
    | none => true
    | some l => Nat.ble l.block sent
  let s1 := onPair (fun p => { p with
    heardNow := p.heardNow ||| BitVec.ofNat 3 (2 ^ ch)
    last := if newer then some ⟨f, sent, fin⟩ else p.last }) s
  let s2 := wr (DRN_PDEV_ID 0) (f.dev.toNat % 2 ^ 32) (wr (DRN_PDEV_ID 1) (f.dev.toNat / 2 ^ 32) s1)
  pairDerive (onlyIf newer (followFrame f sent) (splitSeen f fin s2))

/-- The fields of a lease-line frame (R327). -/
def leaseFields (w : BitVec 128) : StatusFrame where
  typ := w.extractLsb' 126 2
  home := w.extractLsb' 125 1 == 1
  dev := w.extractLsb' 56 64
  prio := w.extractLsb' 48 8
  kseq := w.extractLsb' 40 8
  fin := w.extractLsb' 16 24

/-- The CRC of a lease-line frame (R327, R616): over [127:16], bit 127 first. -/
def leaseCrcOk (w : BitVec 128) : Bool := crc 16 0x1021 0xFFFF (bitsMsb 112 (w.toNat / 2 ^ 16)) == w.toNat % 2 ^ 16

/-- LEASE_LINE_FRAME (R327): a frame with a valid CRC while the lease line is in use. -/
def execLeaseLineFrame (w : BitVec 128) (s : State) : Out :=
  .next (if paired s && rdB DRN_CFG_LLINE s && leaseCrcOk w then heardFrame chLine s.tl.k.toNat (leaseFields w) s else s)

/-- A network heartbeat is heard (R327): a frame whose tag verifies and whose block number differs from the own one by at
most 2. -/
def netHeartbeat (w : BitVec 128) (k : BitVec 64) (tagOk : Bool) (s : State) : State :=
  if paired s && rdB DRN_CFG_NETHB s && tagOk && leaseCrcOk w && Nat.ble (absDiff k.toNat s.tl.k.toNat) 2 then
    heardFrame chNet k.toNat (leaseFields w) s else s

/-- NETWORK_HEARTBEAT (R327). -/
def execNetworkHeartbeat (w : BitVec 128) (k : BitVec 64) (tagOk : Bool) (s : State) : Out := .next (netHeartbeat w k tagOk s)

/-- Why an engine may take the king now (R328), as a cause of `DRN_KING`: after the end of a known lease, after a YIELD,
or with no lease known. The command itself says that the guard time after END has passed. -/
def takeCause (s : State) : Option Nat :=
  let k := s.tl.k.toNat
  let silent := s.pair.heardNow == 0
  match s.pair.last with
  | none => if Nat.ble (s.pair.since + rd DRN_CFG_LEASE s + 2) k then some 1 else none
  | some l =>
    if l.frame.typ == 2 then if Nat.ble l.fin k then some 3 else none
    else if l.frame.typ == 1 then
      if ranksHigher l.frame s || (silent && Nat.ble (l.block + rd DRN_CFG_LEASE s + 2) k) then some 1 else none
    else if Nat.ble l.fin k then some 2 else none

/-- KING_TAKE (R328): the engine acts from the next block boundary. -/
def execKingTake (s : State) : Out :=
  .next (if paired s && ableNow s && (kstate s == kWAIT || kstate s == kSTBY) then
    match takeCause s with
    | some cause => pairDerive (count DRN_CNT_TAKE_COUNT DRN_EVT_TAKE_SAT islPair (gainKing cause (s.tl.k.toNat + 1) s))
    | none => s
  else s)

/-! ### Framing (R311-R314) -/

/-- A lane's framer. -/
def getFramer (n : Nat) (s : State) : Framer := mapGet (fun _ => Framer.reset) s.pair.framers n

/-- Set a lane's framer. -/
def setFramer (n : Nat) (f : Framer) (s : State) : State :=
  onPair (fun p => { p with framers := mapSet (fun _ => Framer.reset) p.framers n f }) s

/-- The lane that carries logical lane `l` (R389). -/
def drLane (l : Nat) (s : State) : Nat :=
  rd (if l = 0 then LN_DRMAP_LL0 else if l = 1 then LN_DRMAP_LL1 else if l = 2 then LN_DRMAP_LL2 else LN_DRMAP_LL3) s

/-- Map logical lane `l` to a lane. -/
def setDrLane (l n : Nat) (s : State) : State :=
  wr (if l = 0 then LN_DRMAP_LL0 else if l = 1 then LN_DRMAP_LL1 else if l = 2 then LN_DRMAP_LL2 else LN_DRMAP_LL3) n s

/-- Is the link aligned (R313): all four lanes ALIGNED with equal BSN? -/
def linkAligned (s : State) : Bool :=
  (List.range 4).all fun l =>
    let f := getFramer (drLane l s) s
    f.state == 2 && f.ll == l && f.bsn == (getFramer (drLane 0 s) s).bsn

/-- The CRC of a marker (R311): over [47:0], bit 0 first. -/
def markerCrcOk (w : BitVec 64) : Bool :=
  w.toNat % 256 == 0x2D && crc 16 0x1021 0xFFFF (bitsLsb 48 w.toNat) == w.toNat / 2 ^ 48

/-- The framer's next state at the place of a marker (R313): whether a lane loses alignment comes with it. `ok` says that
the marker stands in its place with a valid CRC. -/
def framerStep (f : Framer) (ok inPlace : Bool) (bsn : BitVec 32) (ll : Nat) : Framer × Bool :=
  if f.state = 0 then (if ok then { f with state := 1, seen := 0, bsn := bsn, ll := ll, misses := 0 } else f, false)
  else if f.state = 1 then
    if ok && inPlace && bsn == f.bsn + 1 then
      ({ f with state := if f.seen + 1 = 3 then 2 else 1, seen := f.seen + 1, bsn := bsn, ll := ll, misses := 0 }, false)
    else (Framer.reset, false)
  else if ok && inPlace && bsn == f.bsn + 1 then ({ f with bsn := bsn, misses := 0 }, false)
  else if f.misses = 0 then ({ f with bsn := f.bsn + 1, misses := 1 }, false)
  else (Framer.reset, true)

/-- A lane that reaches ALIGNED carries its logical lane, unless another lane in ALIGNED does (R389). -/
def claimLane (n : Nat) (s : State) : State :=
  let f := getFramer n s
  let o := drLane f.ll s
  if f.state == 2 && (o == n || (getFramer o s).state != 2 || (getFramer o s).ll != f.ll) then
    wr (LN_STAT_LLANE n) f.ll (setDrLane f.ll n s)
  else s

/-- Is the pair in lockstep at a marker with this BSN that arrives at `ns` (R314)? -/
def lockstepAt (bsn ns : Nat) (s : State) : Bool :=
  rdB DRN_STAT_ALIGN s && Nat.ble (rd DRN_DELAY_DELAY s) 5000 &&
    blockAt (ns - rd DRN_DELAY_DELAY s) % 2 ^ 32 == bsn

/-- `DRN_STAT.ALIGN` and LOCKSTEP follow the framers. -/
def alignDerive (s : State) : State :=
  if linkAligned s then wrB DRN_STAT_ALIGN true s else wrB DRN_STAT_ALIGN false (wrB DRN_STAT_LOCKSTEP false s)

/-- A lane's framer returns to HUNT on loss of block lock (R313). -/
def framerLost (n : Nat) (s : State) : State :=
  let f := getFramer n s
  let s1 := onlyIf (f.state == 2) (count DRN_CNT2_ALOSS_COUNT DRN_EVT_ALOSS_SAT islPair) s
  alignDerive (setFramer n Framer.reset s1)

/-- DRANAN_MARKER (R313, R314): what stands where lane `lane` meets a marker or expects one. -/
def execDrananMarker (lane : Fin 16) (payload : BitVec 64) (inPlace : Bool) (ns : BitVec 64) (s : State) : Out :=
  let n := lane.val
  if rd (LN_CFG_MODE n) s != 6 && rd (LN_CFG_MODE n) s != 7 then .next s
  else
    let bsn := payload.extractLsb' 8 32
    let ok := markerCrcOk payload
    let r := framerStep (getFramer n s) ok inPlace bsn (payload.extractLsb' 40 2).toNat
    let s1 := claimLane n (setFramer n r.1 s)
    let s2 := alignDerive (onlyIf r.2 (count DRN_CNT2_ALOSS_COUNT DRN_EVT_ALOSS_SAT islPair) s1)
    let s3 := onlyIf (ok && inPlace && r.1.state == 2) (fun t => wrB DRN_STAT_LOCKSTEP (lockstepAt bsn.toNat ns.toNat t) t) s2
    .next (pairDerive s3)

/-! ### Records (R315-R323) -/

/-- A record is used: the engine is paired and the link aligned (R313); one with a CRC or tag failure is discarded and
counted (R315, R320). -/
def onRecord (ok : Bool) (f : State → State) (s : State) : State :=
  if !paired s || !rdB DRN_STAT_ALIGN s then s
  else if !ok then count DRN_CNT3_CRC_COUNT DRN_EVT_CRC_SAT islPair s
  else pairDerive (f s)

/-- The grandmaster of the domain in use; 0 when it is not locked (R317). -/
def ownGm (s : State) : Nat :=
  let d := rd TB_STAT_SEL s
  if rd (TB_DSTAT_STATE d) s == 3 then rd (TB_DGM_GM d 0) s + rd (TB_DGM_GM d 1) s * 2 ^ 32 else 0

/-- `DRN_STAT.SHARED` (R318). -/
def sharedDerive (s : State) : State :=
  let g := ownGm s
  let pg := match s.pair.beat with
    | some h => h.gm.toNat
    | none => 0
  wrB DRN_STAT_SHARED (g != 0 && g == pg && Nat.blt (rdI DRN_OFFSET_OFFSET s).natAbs 1000) s

/-- RECORD_HEARTBEAT (R317): the partner's state; entries that its MACK covers are done (R322). -/
def execRecordHeartbeat (crcOk : Bool) (dblk : BitVec 24) (h : Heartbeat) (s : State) : Out :=
  .next (onRecord crcOk (fun t =>
    let t1 := onPair (fun p => { p with
      beat := some h
      mirrorOut := p.mirrorOut.filter fun e => serialLater 32 e.1.toNat h.mack.toNat }) t
    sharedDerive (heardFrame chDranan (blockOf24 dblk t) h.frame (wrB DRN_STAT_PABLE h.able t1))) s)

/-- RECORD_TIME (R318): half the sum and half the difference of the two one-way times. -/
def execRecordTime (crcOk : Bool) (sent got arrived : BitVec 64) (s : State) : Out :=
  .next (onRecord crcOk (fun t =>
    let there : Int := (got.toNat : Int) - t.pair.markerNs.toNat
    let back : Int := (arrived.toNat : Int) - sent.toNat
    sharedDerive (wrSat DRN_DELAY_DELAY ((there + back) / 2).toNat
      (wrI DRN_OFFSET_OFFSET (satI 32 ((there - back) / 2)).1 t))) s)

/-- A CRC-32 over feeds (R323): of their words, each from its most significant bit (log entry 22: DEDUCED). -/
def feedCrc (l : List (BitVec 32)) : Nat := crc 32 0x04C11DB7 0xFFFFFFFF (l.flatMap fun w => bitsMsb 32 w.toNat)

/-- Compare the feeds of a data block (R323). -/
def compareFeeds (k : Nat) (s : State) : State :=
  match mapGet (fun _ => []) s.pair.feeds k, mapGet (fun _ => []) s.pair.ownFeeds k with
  | [], _ => s
  | _, [] => s
  | a, b =>
    if feedCrc a == feedCrc b then
      let n := s.pair.equalRun + 1
      onlyIf (Nat.ble 24 n) (wrB DRN_STAT_COHERENT true) (onPair (fun p => { p with equalRun := n }) s)
    else count DRN_CNT3_DIVERGE_COUNT DRN_EVT_DIVERGE_SAT islPair
      (wrB DRN_STAT_COHERENT false (onPair (fun p => { p with equalRun := 0 }) s))

/-- RECORD_MODFEED (R316, R320, R323): the partner's feeds of a data block are kept, and compared with the own ones. -/
def execRecordModfeed (crcOk tagOk : Bool) (dblk : BitVec 24) (feeds : List (BitVec 32)) (s : State) : Out :=
  .next (onRecord (crcOk && tagOk) (fun t =>
    let k := blockOf24 dblk t
    compareFeeds k (onPair (fun p => { p with feeds := mapSet (fun _ => []) p.feeds k feeds }) t)) s)

/-- Cut a list into pieces of `n`. -/
def pieces {α : Type} (n : Nat) (l : List α) : Nat → List (List α)
  | 0 => []
  | m + 1 => l.take n :: pieces n (l.drop n) m

/-- The key of an output slot of a data block among the partner's slots. -/
def slotKey (k pod slot : Nat) : Nat := k * 8192 + pod * 512 + slot

/-- RECORD_SLOT (R316, R320): the partner's copies of consecutive output slots. -/
def execRecordSlot (crcOk tagOk : Bool) (dblk : BitVec 24) (pod : Fin 16) (first : Fin 512) (samples : List (BitVec 32))
    (s : State) : Out :=
  .next (onRecord (crcOk && tagOk) (fun t =>
    let k := blockOf24 dblk t
    let ps := pieces t.nS samples (samples.length / t.nS)
    onPair (fun p => { p with
      slots := (forEach ps.zipIdx (fun e m => mapSet (fun _ => []) m (slotKey k pod.val (first.val + e.2)) e.1) p.slots) }) t) s)

/-- RECORD_KING (R333, R334). A request of the standby reaches the holder under a code of its own (log entry 23: DEDUCED). -/
def execRecordKing (crcOk : Bool) (code : KingCode) (dblk : BitVec 24) (s : State) : Out :=
  .next (onRecord crcOk (fun t =>
    let c := blockOf24 dblk t
    match code, t.pair.castling with
    | .request, _ => onlyIf (kstate t == kHOLD || kstate t == kOUT) (fun u => (castleRequest u).2) t
    | .propose, none =>
      if (kstate t == kSTBY || kstate t == kWAIT) && healthyButMatch t && Nat.ble (t.tl.k.toNat + 8) c then
        answerCastle c (sendKing .accept c (wr DRN_STAT_KSTATE kIN (onPair (fun p => { p with
          castling := some ⟨c, false, true, false, if p.wantRevert then 5 else 4⟩ }) t)))
      else t
    | .accept, some q =>
      if q.holder && q.block == c && !q.committed && Nat.ble (t.tl.k.toNat + 8) c then
        sendKing .commit c (onPair (fun p => { p with
          castling := some { q with accepted := true, committed := true }, sentType := 3, sentEnd := BitVec.ofNat 32 c }) t)
      else t
    | .commit, some q =>
      if !q.holder && q.block == c then onPair (fun p => { p with castling := some { q with committed := true } }) t else t
    | .cancel, some q => if !q.holder && q.block == c then endCastling t else t
    | _, _ => t) s)

/-! ### Mirroring (R321-R323) -/

/-- Is the pair matched and the link aligned, so that changes are mirrored (R321, R322)? -/
def mirrors (s : State) : Bool := paired s && rdB DRN_STAT_MATCH s && rdB DRN_STAT_ALIGN s

/-- Queue a mirror entry: it is numbered and stays until the standby's MACK covers it (R322). -/
def sendMirror (e : MirrorEntry) (s : State) : State :=
  onPair (fun p => { p with
    mirrorOut := p.mirrorOut ++ [(p.mirrorNext, s.tl.k.toNat, e)], mirrorNext := p.mirrorNext + 1 }) s

/-- The entries of an accepted message (R321, R322): its changes and a CLOSE with GEN after the apply. -/
def sendChanges (cs : List Change) (s : State) : State :=
  match cs with
  | [] => s
  | c :: _ =>
    let a := c.apply.setWidth 24
    let s1 := forEach cs (fun d t => match d.elem with
      | .par inst pid index => sendMirror (.change a inst pid index d.value) t
      | _ => t) s
    sendMirror (.close a (BitVec.ofNat 16 (rd GLB_GEN_GEN s + 1))) s1

/-- The resync BSN: at least 24 blocks after the CLOSE is sent, which depends on the link load, a free value (R323). -/
def resyncBsn (s : State) : BitVec 32 := BitVec.ofNat 32 (s.tl.k.toNat + 25 + (freeVal 16 s).toNat)

/-- The holder sends a resync (R323). The CHANGE entries between RESYNC and CLOSE are the active parameter set and are not
listed one by one (log entry 24: DESIGN CHOICE). -/
def sendResync (s : State) : State :=
  let r := resyncBsn s
  let g := BitVec.ofNat 16 (rd GLB_GEN_GEN s)
  sendMirror (.close (r.setWidth 24) g) (sendMirror (.resync (r.setWidth 24) g)
    (onPair (fun p => { p with needResync := false, resyncAt := some r }) (freeNext s)))

/-- DRN_RESYNC (R323): the holder of a matched pair sends a resync; with the link down it follows once it is aligned. -/
def execDrnResync (s : State) : Out :=
  .next (if paired s && isHolder s && rdB DRN_STAT_MATCH s then
    if rdB DRN_STAT_ALIGN s then sendResync s else onPair (fun p => { p with needResync := true }) s
  else s)

/-- MIRROR_EXPIRY (R322): entries that have waited for more than 24 blocks are dropped, and a RESYNC follows once the
link is aligned. -/
def execMirrorExpiry (s : State) : Out :=
  .next (if paired s && isHolder s && s.pair.mirrorOut.any (fun e => Nat.blt (e.2.1 + 24) s.tl.k.toNat) then
    let s1 := onPair (fun p => { p with mirrorOut := [], needResync := true }) s
    if rdB DRN_STAT_ALIGN s1 && rdB DRN_STAT_MATCH s1 then sendResync s1 else s1
  else s)

/-- Count mirror entries that land late (R322, R323). -/
def countLateMirror (n : Nat) (s : State) : State :=
  onlyIf (n != 0) (countN n DRN_CNT4_LATE_COUNT DRN_EVT_LATE_SAT islPair) s

/-- A message of the holder is closed (R321, R322): its changes enter the pending store for the same apply block, and at
or after that block for the next one. -/
def closeMirror (a : Nat) (s : State) : State :=
  let k := s.tl.k.toNat
  let cs := s.pair.mirrored
  let late := Nat.ble a k
  let at' := BitVec.ofNat 32 (if late then k + 1 else a)
  countLateMirror (if late then cs.length else 0)
    (enterChanges (cs.map fun c => { c with apply := at' }) false (onPair (fun p => { p with mirrored := [] }) s))

/-- A resync is closed (R323): it waits for its BSN, or for the next block where that has passed. -/
def closeResync (a : Nat) (gen : BitVec 16) (cs : List Change) (s : State) : State :=
  let k := s.tl.k.toNat
  let late := Nat.ble a k
  let at' := BitVec.ofNat 32 (if late then k + 1 else a)
  countLateMirror (if late then 1 else 0)
    (onPair (fun p => { p with gather := none, staged := some (at', gen, cs.map fun c => { c with apply := at' }) }) s)

/-- A mirror entry is taken (R321-R324). -/
def takeMirror (e : MirrorEntry) (s : State) : State :=
  match e with
  | .change a inst pid index value =>
    let ab := blockOf24 a s
    let c : Change := ⟨.par inst pid index, value, BitVec.ofNat 32 ab⟩
    match s.pair.gather with
    | some (r, g, l) =>
      if r.toNat == ab % 2 ^ 32 then onPair (fun p => { p with gather := some (r, g, l ++ [c]) }) s
      else onPair (fun p => { p with mirrored := p.mirrored ++ [c] }) s
    | none => onPair (fun p => { p with mirrored := p.mirrored ++ [c] }) s
  | .close a gen =>
    let ab := blockOf24 a s
    match s.pair.gather with
    | some (r, _, l) => if r.toNat == ab % 2 ^ 32 then closeResync ab gen l s else closeMirror ab s
    | none => closeMirror ab s
  | .kout first output value =>
    onPair (fun p => { p with koutNext := p.koutNext ++ [(blockOf24 first s, output.toNat, value)] }) s
  | .bridge decided b locked =>
    onPair (fun p => { p with bridgeIn := p.bridgeIn ++ [(blockOf24 decided s, b.val, locked)] }) s
  | .log r => onlyIf (isHolder s) (raiseRec { r with pair := true }) s
  | .resync a gen => onPair (fun p => { p with gather := some (BitVec.ofNat 32 (blockOf24 a s), gen, []) }) s

/-! ### The block boundary -/

/-- The engine yields because it is no longer ABLE (R330) or is the lower in a split (R329). -/
def pairYield (s : State) : State :=
  if paired s && isHolder s then
    if !ableNow s then loseKing 3 s.tl.k.toNat s
    else if s.pair.yieldNext then loseKing 6 s.tl.k.toNat s
    else s
  else s

/-- The status frame of the block (R327): RENEW with END = n + LB, COMMIT or RENEW with END = c while castling, YIELD from
an engine that is not ABLE or has just given the king up, IDLE from one that may claim. -/
def pairStatus (s : State) : State :=
  let k := s.tl.k.toNat
  let r : Nat × Nat :=
    if isHolder s then
      match s.pair.castling with
      | some c => if c.committed then (0, c.block) else (0, k + rd DRN_CFG_LEASE s)
      | none => (0, k + rd DRN_CFG_LEASE s)
    else if s.pair.sentEnd.toNat == k % 2 ^ 32 && s.pair.sentType == 2 then (2, k)
    else if ableNow s then (1, 0)
    else (2, 0)
  onPair (fun p => { p with sentType := BitVec.ofNat 2 r.1, sentEnd := BitVec.ofNat 32 r.2 }) s

/-- King-governed outputs take their decided values at their data block (R324). -/
def pairKout (s : State) : State :=
  let k := s.tl.k.toNat
  let due := s.pair.koutNext.filter fun e => Nat.ble e.1 k
  onPair (fun p => { p with
    kout := forEach due (fun e m => mapSet (fun _ => 0) m e.2.1 e.2.2) p.kout
    koutNext := p.koutNext.filter fun e => !Nat.ble e.1 k }) s

/-- What the pair does at a block boundary (R309-R335), in block `k`, after the block number has advanced. -/
def pairTick (s : State) : State :=
  if !paired s then wr DRN_STAT_KSTATE kSOLO s
  else
    let k := s.tl.k.toNat
    let s1 := wr DRN_STAT_CH s.pair.heardNow.toNat (onPair (fun p => { p with heardNow := 0 }) s)
    let s2 := onlyIf (kstate s1 == kSOLO) (fun t => wr DRN_STAT_KSTATE kWAIT (onPair (fun p => { p with since := k }) t)) s1
    let s3 := pairKout (pairStatus (pairYield s2))
    let s4 := onlyIf (s3.pair.needResync && isHolder s3 && mirrors s3) sendResync s3
    pairDerive (onPair (fun p => { p with
      markerNs := BitVec.ofNat 64 (blockStart k)
      feeds := mapDrop (fun b => Nat.blt (b + 8) k) p.feeds
      ownFeeds := mapDrop (fun b => Nat.blt (b + 8) k) p.ownFeeds
      slots := mapDrop (fun b => Nat.blt (b / 8192 + 8) k) p.slots }) s4)

end Sys2Proof.Machine
end

