-- ==== Sys2Proof/Machine/Pods.lean ====
section
/-! DEFINITION. Pods and Tempo (R89-R132): dispatch, completions and their judgement, miss records and class actions,
events and triggered tasks, the failure of a pea and its repair. -/

namespace Sys2Proof.Machine

/-- The number of pod pea `p` of pod `n`. -/
def peaNo (n p : Nat) : Nat := n * 9 + p

/-- What Tempo keeps of a task. -/
def getTask (n p e : Nat) (s : State) : TaskDyn := mapGet (fun _ => TaskDyn.reset) s.pods.tasks (peaNo n p * 64 + e)

/-- Set what Tempo keeps of a task. -/
def setTask (n p e : Nat) (t : TaskDyn) (s : State) : State :=
  { s with pods := { s.pods with tasks := mapSet (fun _ => TaskDyn.reset) s.pods.tasks (peaNo n p * 64 + e) t } }

/-- The completions of a pod that wait for Tempo (R116). -/
def getFifo (n : Nat) (s : State) : List Completion := mapGet (fun _ => []) s.pods.fifo n

/-- Set the completions of a pod. -/
def setFifo (n : Nat) (q : List Completion) (s : State) : State :=
  { s with pods := { s.pods with fifo := mapSet (fun _ => []) s.pods.fifo n q } }

/-- The repairs and migrations of a pod that are under way (R127). -/
def getRepairs (n : Nat) (s : State) : List Repair := mapGet (fun _ => []) s.pods.repairs n

/-- Set the repairs of a pod. -/
def setRepairs (n : Nat) (q : List Repair) (s : State) : State :=
  { s with pods := { s.pods with repairs := mapSet (fun _ => []) s.pods.repairs n q } }

/-- The horizon of a task (R115). -/
def horizonOf (n p e : Nat) (s : State) : Nat := rd (TASK_TIME_DEADLINE n p e) s + 144

/-- Is the entry enabled? -/
def taskOn (n p e : Nat) (s : State) : Bool := rdB (TASK_CFG_EN n p e) s

/-- Is the entry triggered (R101)? -/
def triggered (n p e : Nat) (s : State) : Bool := rdB (TASK_CFG_MODE n p e) s

/-- Is the entry on the spare a duplicate of another (R125)? -/
def isDuplicate (n p e : Nat) (s : State) : Bool := p == 8 && rd (TASK_REPAIR_LINK_PEA n p e) s != 15

/-- The entry on the spare that duplicates a task, if the task is HOT (R125). -/
def duplicateOf (n p e : Nat) (s : State) : Option Nat :=
  if rdB (TASK_CFG_HOT n p e) s && p != 8 then
    (List.range 64).find? fun x =>
      taskOn n 8 x s && rd (TASK_REPAIR_LINK_PEA n 8 x) s == p && rd (TASK_REPAIR_LINK_TASK n 8 x) s == e
  else none

/-- Has a pea failed? -/
def peaFailed (n p : Nat) (s : State) : Bool := rdB (bitOf (POD_STAT_FAILED n) p) s

/-! ### Triggered tasks (R109-R114) -/

/-- Is every input with a threshold at or above it (R112)? An entry with no threshold is never ready. -/
def thresholdsMet (n p e : Nat) (s : State) : Bool :=
  (List.range 4).any (fun x => rd (TASK_TRIG_TH n p e x) s != 0) &&
  (List.range 4).all (fun x => Nat.ble (rd (TASK_TRIG_TH n p e x) s) (rd (TASK_EVC_C n p e x) s))

/-- A triggered task whose inputs are ready gets its one ready instance, assigned to the current block when BCYC has not
passed its DEADLINE and else to the next (R112, R113). -/
def makeReady (n p e : Nat) (s : State) : State :=
  if taskOn n p e s && triggered n p e s && !rdB (TASK_CTL_READY n p e) s && thresholdsMet n p e s then
    let k := s.tl.k.toNat
    let b := if Nat.ble (rd (PEA_STAT_BCYC n p) s) (rd (TASK_TIME_DEADLINE n p e) s) then k else k + 1
    setTask n p e { getTask n p e s with readyFor := BitVec.ofNat 49 b } (wr (TASK_CTL_READY n p e) 1 s)
  else s

/-- An instance takes its events: each counter is reduced by its threshold, and a task whose counters still meet them is
ready again at once (R112). -/
def consumeEvents (n p e : Nat) (s : State) : State :=
  let s1 := forEach (List.range 4) (fun x t =>
    wr (TASK_EVC_C n p e x) (rd (TASK_EVC_C n p e x) t - rd (TASK_TRIG_TH n p e x) t) t) s
  makeReady n p e (wr (TASK_CTL_READY n p e) 0 s1)

/-- One event reaches an input (R111). -/
def countEvent (n p e x : Nat) (s : State) : State :=
  let c := rd (TASK_EVC_C n p e x) s
  makeReady n p e (if c = 63 then wr (TASK_EVC_SAT n p e x) 1 s else wr (TASK_EVC_C n p e x) (c + 1) s)

/-- Where an event for an entry goes (R109, R111): to its copy on the spare when the entry has moved, to a task and its
HOT duplicate, or nowhere. -/
def eventTargets (n p e : Nat) (s : State) : List (Nat × Nat) :=
  if rdB (TASK_CTL_MOVED n p e) s then
    match (getTask n p e s).movedTo with
    | 0 => []
    | x + 1 => [(8, x)]
  else if taskOn n p e s then
    match duplicateOf n p e s with
    | some x => [(p, e), (8, x)]
    | none => [(p, e)]
  else []

/-- An event arrives at a task (R109, R111): it is no longer on its way; where no entry takes it, it is dropped. -/
def deliverEvent (n p e x : Nat) (s : State) : State :=
  let s1 := { s with pods := { s.pods with events := s.pods.events.erase (n, p, e, x) } }
  match eventTargets n p e s1 with
  | [] => dropEvent n p s1
  | ts => forEach ts (fun t u => countEvent n t.1 t.2 x u) s1

/-- EVENT_ARRIVAL (R111). -/
def execEventArrival (n : Fin 16) (p : Fin 9) (e : Fin 64) (x : Fin 4) (s : State) : Out :=
  .next (deliverEvent n.val p.val e.val x.val s)

/-- Cancel a task (R114). -/
def cancelTask (n p e : Nat) (s : State) : State :=
  let s1 := forEach (List.range 4) (fun x t => wr (TASK_EVC_C n p e x) 0 t) s
  if rdB (TASK_CTL_READY n p e) s1 then
    count (TASK_CNT_DISC_COUNT n p e) (TASK_CTL_DISC_SAT n p e) (102 + 10 * n + p) (wr (TASK_CTL_READY n p e) 0 s1)
  else s1

/-- TASK_CANCEL (R114). -/
def execTaskCancel (n : Fin 16) (p : Fin 9) (e : Fin 64) (s : State) : Out := .next (cancelTask n.val p.val e.val s)

/-! ### Dispatch (R103, R106-R108) -/

/-- The static entries of a pea in their order (R101): by ORDER, then by entry. -/
def staticOrder (n p : Nat) (s : State) : List Nat :=
  (List.range 64).flatMap fun o => (List.range 64).filter fun e =>
    taskOn n p e s && !triggered n p e s && rd (TASK_CFG_ORDER n p e) s == o

/-- The next static task: the first in order that has not been dispatched or settled in this block and whose horizon lies
after the cycle (R107, R108). -/
def nextStatic (n p bcyc : Nat) (s : State) : Option Nat :=
  let b := s.tl.k.toNat + 1
  (staticOrder n p s).find? fun e =>
    (getTask n p e s).dispatched != b && (getTask n p e s).settled != b && Nat.blt bcyc (horizonOf n p e s)

/-- The ready instances of the current block (R107, R113). -/
def readyTasks (n p bcyc : Nat) (s : State) : List Nat :=
  (List.range 64).filter fun e =>
    taskOn n p e s && triggered n p e s && rdB (TASK_CTL_READY n p e) s &&
    Nat.ble (getTask n p e s).readyFor.toNat s.tl.k.toNat && Nat.blt bcyc (horizonOf n p e s)

/-- The candidate with the earliest DEADLINE; the first of the list wins a tie, so that the static task stands first and
then the lowest entry (R107). -/
def earliest (n p : Nat) (s : State) : List Nat → Option Nat
  | [] => none
  | e :: r =>
    match earliest n p s r with
    | none => some e
    | some f => if Nat.blt (rd (TASK_TIME_DEADLINE n p f) s) (rd (TASK_TIME_DEADLINE n p e) s) then some f else some e

/-- The task that a dispatch point at a cycle chooses (R107). -/
def candidate (n p bcyc : Nat) (s : State) : Option Nat :=
  earliest n p s ((nextStatic n p bcyc s).toList ++ readyTasks n p bcyc s)

/-- The core at a dispatch (R103): every register not named keeps its value. -/
def startCore (start ctx rmode : Nat) (p : Pea) : Pea :=
  { p with
    pc := BitVec.ofNat 14 start
    p := mapSet (fun _ => 0) p.p 0 (BitVec.ofNat 20 ctx)
    psw := if rmode = 0 then 0 else 0x1000
    qreg := 0xFF
    rot := 0
    lc := 0
    ls := 0
    le := 0
    stack := []
    loop := none
    branch := none
    slots := 0
    banks := [] }

/-- A task starts on its pea. -/
def dispatchTask (n p e bcyc : Nat) (s : State) : State :=
  let s1 := onlyIf (triggered n p e s) (consumeEvents n p e) s
  let s2 := setTask n p e { getTask n p e s1 with dispatched := s.tl.k.toNat + 1 } s1
  let s3 := onPea (peaNo n p)
    (startCore (rd (TASK_CFG_START n p e) s) (rd (TASK_CTX_CTX n p e) s) (rd (TASK_CFG_RMODE n p e) s)) s2
  let s4 := setRun (peaNo n p) { getRun (peaNo n p) s3 with task := some e, start := bcyc, block := s.tl.k, ended := none } s3
  wr (PEA_STAT_STATE n p) 1 (wr (PEA_STAT_TASK n p) e (wr (PEA_STAT_BCYC n p) bcyc (wr (TASK_CTL_RUN n p e) 1 s4)))

/-- Is there a dispatch point at this cycle: the pod runs, the pea is idle and not
clock-gated (R511), and 144 cycles have passed since the last
dispatch in the block (R106, R107)? -/
def dispatchPoint (n p bcyc : Nat) (s : State) : Bool :=
  let r := getRun (peaNo n p) s
  tlValid s && !inQuiet s && rdB (POD_CTL_RUN n) s && rd (PEA_STAT_STATE n p) s == 0 &&
    (r.block != s.tl.k || r.task.isNone || Nat.ble (r.start + 144) bcyc)

/-- DISPATCH (R107). -/
def execDispatch (n : Fin 16) (p : Fin 9) (bcyc : BitVec 16) (s : State) : Out :=
  .next (if dispatchPoint n.val p.val bcyc.toNat s then
    match candidate n.val p.val bcyc.toNat s with
    | some e => dispatchTask n.val p.val e bcyc.toNat s
    | none => s
  else s)

/-! ### Completions (R104, R105, R116) -/

/-- The core's task is over: nothing of it is left running. -/
def idleCore (p : Pea) : Pea := { p with loop := none, branch := none, slots := 0, banks := [] }

/-- The pea is free for its next dispatch; the run keeps the dispatch that R106 counts from. -/
def freePea (n p e : Nat) (s : State) : State :=
  let q := peaNo n p
  let s1 := setRun q { getRun q s with ended := none } (onPea q idleCore s)
  onlyIf (rd (PEA_STAT_STATE n p) s1 == 1) (wr (PEA_STAT_STATE n p) 0) (wr (TASK_CTL_RUN n p e) 0 s1)

/-- COMPLETION_POST (R104): every issued write has landed, the flags are ORed into the entry, and the completion enters
the pod's FIFO. -/
def execCompletionPost (n : Fin 16) (p : Fin 9) (s : State) : Out :=
  let q := peaNo n.val p.val
  .next (match (getRun q s).ended with
  | none => s
  | some c =>
    if Nat.ble 16 (getFifo n.val s).length then s
    else
      let s1 := drain q s
      let fl := (getPea q s1).psw.extractLsb' 0 6
      let s2 := wr (TASK_CTL_FLAGS n.val p.val c.task) (rd (TASK_CTL_FLAGS n.val p.val c.task) s1 ||| fl.toNat) s1
      let s3 := setFifo n.val (getFifo n.val s2 ++ [{ c with flags := fl }]) s2
      let s4 := onlyIf (!c.stray) (fun t => setRun q { getRun q t with good := (getRun q t).good + 1 } t) s3
      freePea n.val p.val c.task s4)

/-- BUDGET_ABANDON (R105): the running task is abandoned at the last cycle of its budget. -/
def execBudgetAbandon (n : Fin 16) (p : Fin 9) (s : State) : Out :=
  let q := peaNo n.val p.val
  .next (match (getRun q s).task with
  | some e =>
    if rd (PEA_STAT_STATE n.val p.val) s == 1 && (getRun q s).ended.isNone then
      abandon q .budget (wr (PEA_STAT_BCYC n.val p.val)
        ((getRun q s).start + rd (TASK_TIME_BUDGET n.val p.val e) s - 1) s)
    else s
  | none => s)

/-! ### Marks, miss records and class actions (R119-R124, R132) -/

/-- The key of an output slot's mark for a data block. -/
def markKey (n slot dk : Nat) : Nat := (n * 512 + slot) * 4 + dk % 4

/-- Is an output slot valid for a data block (R121)? -/
def markValid (n slot dk : Nat) (s : State) : Bool := mapGet (fun _ => 0) s.pods.marks (markKey n slot dk) == dk + 1

/-- Set or clear the marks of a task's output slots for a data block (R97, R121). -/
def setMarks (n p e dk : Nat) (ok : Bool) (s : State) : State :=
  forEach (List.range (rd (TASK_OUT_OUT_NUM n p e) s)) (fun i t =>
    let slot := rd (TASK_OUT_OUT_FIRST n p e) s + i
    if slot < 512 then
      { t with pods := { t.pods with marks := mapSet (fun _ => 0) t.pods.marks (markKey n slot dk) (if ok then dk + 1 else 0) } }
    else t) s

/-- The oldest miss record is shown (R132). -/
def showMrec (s : State) : State :=
  let r := s.pods.missRecs.head?.getD [0, 0, 0, 0]
  let w := fun i => ((r[i]?).getD 0).toNat
  wr TEMPO_STAT_LEVEL s.pods.missRecs.length
    (wrReg TEMPO_MREC0_BSN.addr (BitVec.ofNat 32 (w 0)) (wrReg TEMPO_MREC1_POD.addr (BitVec.ofNat 32 (w 1))
      (wrReg TEMPO_MREC2_OVERRUN.addr (BitVec.ofNat 32 (w 2)) (wrReg TEMPO_MREC3_TIME.addr (BitVec.ofNat 32 (w 3)) s))))

/-- A miss record enters the FIFO of 64; when it is full the oldest is overwritten (R132). -/
def pushMrec (r : List Word) (s : State) : State :=
  if Nat.blt s.pods.missRecs.length 64 then
    showMrec { s with pods := { s.pods with missRecs := s.pods.missRecs ++ [r] } }
  else showMrec (wrB TEMPO_STAT_MREC_OVF true { s with pods := { s.pods with missRecs := s.pods.missRecs.drop 1 ++ [r] } })

/-- TEMPO_POP (R132). -/
def execTempoPop (s : State) : Out := .next (showMrec { s with pods := { s.pods with missRecs := s.pods.missRecs.drop 1 } })

/-- The miss reasons of R119. -/
def rLATE : Nat := 1
/-- See `rLATE`. -/
def rABORT : Nat := 3
/-- See `rLATE`. -/
def rSKIPPED : Nat := 4
/-- See `rLATE`. -/
def rPEAFAIL : Nat := 7

/-- Write a miss record and its fault log entry (R119, R132, R582), and count the miss. `blk` is the processing block. -/
def recordMiss (n p e reason action overrun stamp blk : Nat) (s : State) : State :=
  let s1 := onlyIf (e != 0x3F || reason != rPEAFAIL)
    (count (TASK_CNT_MISS_COUNT n p e) (TASK_CTL_MISS_SAT n p e) (102 + 10 * n + p)) s
  let s2 := count TEMPO_CNT_MISS_COUNT TEMPO_STAT_MISS_SAT 1 s1
  let w1 := n + p * 16 + e * 256 + reason * 65536 + action * 1048576
  raise 1 (0x3000 + reason) (n + p * 16 + e * 256 + overrun * 65536)
    (pushMrec [BitVec.ofNat 32 (blk + 4294967295), BitVec.ofNat 32 w1, BitVec.ofNat 32 (overrun + stamp * 65536), s.ns.setWidth 32] s2)

/-- Request castling from a pod, as the holder of a pair (R124, R129, R333). -/
def podCastle (s : State) : State :=
  if paired s && isHolder s then
    match castleRequest s with
    | (.proposed _, t) => onPair (fun p => { p with ownRequest := true }) t
    | (_, t) => t
  else s

/-! ### Repair and migration (R126-R129) -/

/-- Entries of the spare's table that are free: not enabled and not held for a copy (R129). -/
def freeEntries (n : Nat) (s : State) : List Nat :=
  let held := (getRepairs n s).flatMap fun r => r.copies.map (·.2)
  (List.range 64).filter fun x => !taskOn n 8 x s && !held.contains x

/-- Copy a task's entry into an entry of the spare, not yet enabled, to run from zero state (R127). -/
def copyEntry (n p e x : Nat) (s : State) : State :=
  let src := fun i => rdReg ((TASK_CFG_EN n p e).addr + 4 * i) s
  let dst := fun i => (TASK_CFG_EN n 8 x).addr + 4 * i
  let s1 := forEach (List.range 6) (fun i t => wrReg (dst i) (src i) t) s
  let s2 := wr (TASK_REPAIR_LINK_PEA n 8 x) 15 (wrB (TASK_CFG_EN n 8 x) false s1)
  forEach (List.range 4) (fun i t => wr (TASK_EVC_C n 8 x i) 0 t) s2

/-- An entry moves: it is cancelled and disabled, and events for it go to its copy (R109, R114, R127). -/
def moveEntry (n p e x : Nat) (s : State) : State :=
  let s1 := wrB (TASK_CTL_MOVED n p e) true (wrB (TASK_CFG_EN n p e) false (cancelTask n p e s))
  setTask n p e { getTask n p e s1 with movedTo := x + 1 } s1

/-- Pair each task with a free entry, in order. -/
def assign : List Nat → List Nat → List (Nat × Nat)
  | e :: r, x :: y => (e, x) :: assign r y
  | _, _ => []

/-- Can the reserve take these WARM tasks of a pea (R129)? -/
def reserveFree (n p : Nat) (es : List Nat) (s : State) : Bool :=
  (rd (POD_STAT_SPARE_SRC n) s == 15 || rd (POD_STAT_SPARE_SRC n) s == p) && !peaFailed n 8 s &&
    Nat.ble es.length (freeEntries n s).length

/-- WARM tasks are loaded and copied to the spare (R127): the entries run there from the end of block `j` + 3. -/
def startRepair (n p : Nat) (es : List Nat) (s : State) : State :=
  let cs := assign es (freeEntries n s)
  let s1 := forEach cs (fun c t => moveEntry n p c.1 c.2 (copyEntry n p c.1 c.2 t)) s
  wr (POD_STAT_SPARE_SRC n) p (setRepairs n (getRepairs n s1 ++ [⟨p, cs, s.tl.k, false⟩]) s1)

/-- A pod is degraded (R129). -/
def degrade (n : Nat) (s : State) : State :=
  if rdB (POD_STAT_DEGRADED n) s then s
  else podCastle (raise (101 + 10 * n) (0x4050 + n) 0 (wrB (POD_STAT_DEGRADED n) true s))

/-- One task migrates (R127, R129): a HOT one is covered by its duplicate, a WARM one is loaded and copied, if the reserve
can take it. -/
def migrateTask (n p e : Nat) (s : State) : State :=
  if p = 8 || !taskOn n p e s then s
  else if rdB (TASK_CFG_HOT n p e) s then
    match duplicateOf n p e s with
    | some x => moveEntry n p e x s
    | none => s
  else if reserveFree n p [e] s then startRepair n p [e] s
  else degrade n s

/-- Does a migration of this task start (R127, R129)? -/
def migrates (n p e : Nat) (s : State) : Bool :=
  p != 8 && taskOn n p e s &&
    (if rdB (TASK_CFG_HOT n p e) s then (duplicateOf n p e s).isSome else reserveFree n p [e] s)

/-- Has a task now missed N times within M consecutive blocks (R121)? CASTLE in a solo engine counts one in one. -/
def migDue (n p e blk : Nat) (s : State) : Bool :=
  let cls := rd (TASK_CFG_CLASS n p e) s
  if cls == 3 then !paired s
  else if cls == 2 then
    Nat.ble (rd (TASK_REPAIR_MIG_N n p e) s)
      ((blk :: (getTask n p e s).misses).filter fun b => Nat.blt blk (b + rd (TASK_REPAIR_MIG_M n p e) s)).length
  else false

/-- The action that a miss record shows (R132). -/
def missAction (n p e blk : Nat) (s : State) : Nat :=
  let cls := rd (TASK_CFG_CLASS n p e) s
  if isDuplicate n p e s then 5
  else if cls == 3 && paired s && isHolder s then 4
  else if migDue n p e blk s && migrates n p e s then 3
  else if (duplicateOf n p e s).isSome && !peaFailed n 8 s then 2
  else if cls != 0 && paired s && rdB DRN_STAT_MATCH s then 1
  else 0

/-- An instance of processing block `blk` is missed (R119, R121, R124): its marks are cleared, it is recorded, and the
class acts. A duplicate's miss takes no class action (R125). -/
def missTask (n p e reason overrun stamp blk : Nat) (s : State) : State :=
  let act := missAction n p e blk s
  let due := migDue n p e blk s
  let s1 := recordMiss n p e reason act overrun stamp blk (setMarks n p e (blk - 1) false s)
  let t := getTask n p e s1
  let s2 := setTask n p e { t with misses := (blk :: t.misses).take 15, settled := blk + 1 } s1
  if isDuplicate n p e s then s2
  else if act = 4 then podCastle s2
  else if due then migrateTask n p e s2
  else s2

/-- An instance was on time (R117, R121). -/
def onTime (n p e blk : Nat) (s : State) : State :=
  setTask n p e { getTask n p e s with settled := blk + 1 } (setMarks n p e (blk - 1) true s)

/-- Tempo judges a completion on its stamp and status (R117, R119). -/
def judge (n : Nat) (c : Completion) (s : State) : State :=
  let d := rd (TASK_TIME_DEADLINE n c.pea c.task) s
  let st := c.stamp.toNat
  let blk := c.block.toNat
  match c.status with
  | .normal => if st ≤ d then onTime n c.pea c.task blk s else missTask n c.pea c.task rLATE (st - d) st blk s
  | .budget => missTask n c.pea c.task 2 (st - d) st blk s
  | .illegal => missTask n c.pea c.task 5 (st - d) st blk s
  | .bank => missTask n c.pea c.task 6 (st - d) st blk s
  | .abort => s

/-- TEMPO_INTAKE (R116-R118): Tempo takes one completion of the pod it visits; one posted after the horizon is
discarded and counted. -/
def execTempoIntake (n : Fin 16) (wait : BitVec 8) (s : State) : Out :=
  .next (match getFifo n.val s with
  | [] => s
  | c :: r =>
    let s1 := wr TEMPO_INTAKE_HWM (max (rd TEMPO_INTAKE_HWM s) wait.toNat) (setFifo n.val r s)
    if c.stray then count TEMPO_CNT_STRAY_COUNT TEMPO_STAT_STRAY_SAT 1 s1
    else if rdB TEMPO_CTL_EN s1 then judge n.val c s1
    else s1)

/-! ### The failure of a pea (R120, R127-R129) -/

/-- Clear a window of a memory kept as a table: its keys then read as they do unlisted. -/
def clearWindow {α : Type} (lo len : Nat) (m : List (Nat × α)) : List (Nat × α) :=
  mapDrop (fun k => Nat.ble lo k && Nat.blt k (lo + len)) m

/-- Put the listed words of a window of one memory into another, at another place. -/
def fillWindow {α : Type} [DecidableEq α] (d : Nat → α) (src lo len dst : Nat) (g m : List (Nat × α)) : List (Nat × α) :=
  forEach (g.filter fun e => Nat.ble (src + lo) e.1 && Nat.blt e.1 (src + lo + len))
    (fun e t => mapSet d t (dst + (e.1 - src)) e.2) (clearWindow (dst + lo) len m)

/-- The seal windows of a pea are cleared to zero (R204, R205). -/
def zeroSealWindows (q : Nat) (s : State) : State :=
  { s with mem := { s.mem with
    prog := clearWindow (q * 16384 + rd (KS_SEAL_P_BASE q) s) (rd (KS_SEAL_P_LEN q) s) s.mem.prog
    x := clearWindow (q * 65536 + rd (KS_SEAL_X_BASE q) s) (rd (KS_SEAL_X_LEN q) s) s.mem.x
    y := clearWindow (q * 65536 + rd (KS_SEAL_Y_BASE q) s) (rd (KS_SEAL_Y_LEN q) s) s.mem.y } }

/-- Zeroisation of peas starts (R204, R205): their windows read 0 from now on; LOCK clears at its completion. -/
def zeroisePeas (qs : List Nat) (s : State) : State :=
  let s1 := forEach qs (fun q t => zeroSealWindows q t) s
  { wrB KS_STAT_ZBUSY true s1 with ks := { s1.ks with zeroing := s1.ks.zeroing ++ qs.filter fun q => !s1.ks.zeroing.contains q } }

/-- The enabled entries of a pea that are HOT, or WARM. -/
def entriesOf (n p : Nat) (hot : Bool) (s : State) : List Nat :=
  (List.range 64).filter fun e => taskOn n p e s && rdB (TASK_CFG_HOT n p e) s == hot

/-- A HOT task of a failed pea is covered by its shadow: its own entry is disabled (R127). -/
def coverHot (n p e : Nat) (s : State) : State :=
  match duplicateOf n p e s with
  | some x => moveEntry n p e x s
  | none => wrB (TASK_CFG_EN n p e) false (cancelTask n p e s)

/-- What a failed pea's WARM tasks come to (R127, R129): a repair, the class action at every block, or, with AUTO_REPAIR
0, disabled entries (log entry 29: DEDUCED). -/
def repairWarm (n p : Nat) (s : State) : State :=
  let ws := entriesOf n p false s
  if ws.isEmpty then s
  else if !rdB (POD_CTL_AUTO_REPAIR n) s then forEach ws (fun e t => wrB (TASK_CFG_EN n p e) false (cancelTask n p e t)) s
  else if reserveFree n p ws s then startRepair n p ws s
  else degrade n s

/-- A pea is stopped (R120): what it ran leaves nothing, and its unjudged instances of the block are settled by the one
PEAFAIL record. -/
def stopPea (n p : Nat) (s : State) : State :=
  let q := peaNo n p
  let b := s.tl.k.toNat + 1
  let s1 := setFifo n ((getFifo n s).filter fun c => c.pea != p) (setRun q PeaRun.reset (onPea q (fun r => { idleCore r with flight := [] }) s))
  let s2 := forEach (List.range 64) (fun e t =>
    let u := wr (TASK_CTL_RUN n p e) 0 t
    if taskOn n p e u && (getTask n p e u).settled != b then
      setTask n p e { getTask n p e u with settled := b } (setMarks n p e (b - 2) false u)
    else u) s1
  wr (PEA_STAT_STATE n p) 2 s2

/-- The action that a PEAFAIL record shows (R132), which stands for every instance of the pea (log entry 29: DEDUCED): a repair starts,
shadows cover HOT tasks, the partner covers a task whose CLASS is not HOLD, or none of these. -/
def failAction (n p : Nat) (s : State) : Nat :=
  let ws := entriesOf n p false s
  if p != 8 && !ws.isEmpty && rdB (POD_CTL_AUTO_REPAIR n) s && reserveFree n p ws s then 3
  else if !peaFailed n 8 s && (entriesOf n p true s).any fun e => (duplicateOf n p e s).isSome then 2
  else if (paired s && rdB DRN_STAT_MATCH s) && (List.range 64).any fun e => taskOn n p e s && rd (TASK_CFG_CLASS n p e) s != 0 then 1
  else 0

/-- A pea is declared failed (R120, R127-R129). -/
def declareFailed (n p : Nat) (s : State) : State :=
  if peaFailed n p s then s
  else
    let s1 := wrB (bitOf (POD_STAT_FAILED n) p) true (stopPea n p s)
    let s2 := recordMiss n p 0x3F rPEAFAIL (failAction n p s1) 0xFFFF 0xFFFF s.tl.k.toNat s1
    let s3 := zeroisePeas [peaNo n p] s2
    if p = 8 then degrade n s3
    else repairWarm n p (forEach (entriesOf n p true s3) (fun e t => coverHot n p e t) s3)

/-- PEA_MEMORY_ERROR (R120). -/
def execPeaMemoryError (n : Fin 16) (p : Fin 9) (s : State) : Out := .next (declareFailed n.val p.val s)

/-- POD_REPAIR_FAIL (R120, R131): a PEA of 9-15 is refused without an error response. -/
def execPodRepairFail (n : Fin 16) (p : BitVec 4) (s : State) : Out :=
  .next (if Nat.ble 9 p.toNat then wrB (POD_STAT_CFGERR n.val) true s
    else declareFailed n.val p.toNat (wr (POD_REPAIR_PEA n.val) p.toNat s))

/-- The golden copy of a pea's reserve windows goes into the spare (R126, R127). -/
def loadGolden (n src : Nat) (s : State) : State :=
  let a := peaNo n src
  let b := peaNo n 8
  { s with mem := { s.mem with
    prog := fillWindow (fun _ => 0) (a * 16384) (rd (POD_RSV_P_BASE n) s) (rd (POD_RSV_P_LEN n) s) (b * 16384) s.mem.goldProg s.mem.prog
    x := fillWindow (fun _ => 0) (a * 65536) (rd (POD_RSV_X_BASE n) s) (rd (POD_RSV_X_LEN n) s) (b * 65536) s.mem.goldX s.mem.x
    y := fillWindow (fun _ => 0) (a * 65536) (rd (POD_RSV_Y_BASE n) s) (rd (POD_RSV_Y_LEN n) s) (b * 65536) s.mem.goldY s.mem.y } }

/-- The first repair that still loads is loaded. -/
def markLoaded : List Repair → List Repair
  | [] => []
  | r :: rs => if r.loaded then r :: markLoaded rs else { r with loaded := true } :: rs

/-- REPAIR_LOAD_COMPLETE (R127). -/
def execRepairLoadComplete (n : Fin 16) (s : State) : Out :=
  .next (match (getRepairs n.val s).find? fun r => !r.loaded with
  | none => s
  | some r => setRepairs n.val (markLoaded (getRepairs n.val s)) (loadGolden n.val r.src s))

/-! ### The horizon (R118) -/

/-- Count a due task that ended ABORT or SKIPPED (R120). -/
def countBad (n p : Nat) (s : State) : State :=
  setRun (peaNo n p) { getRun (peaNo n p) s with bad := (getRun (peaNo n p) s).bad + 1 } s

/-- The task runs at its horizon and has posted nothing: Tempo aborts it; the writes issued before land, and what the
pea may still post is discarded (R105, R118). -/
def abortTask (n p e : Nat) (s : State) : State :=
  let q := peaNo n p
  match (getRun q s).ended with
  | some c => setRun q { getRun q s with ended := some { c with stray := true } } s
  | none => freePea n p e (drain q s)

/-- HORIZON (R118): an instance that runs unposted is aborted, one that was never dispatched is skipped; in
QUIET there is no miss (R511). -/
def execHorizon (n : Fin 16) (p : Fin 9) (e : Fin 64) (s : State) : Out :=
  let n := n.val
  let p := p.val
  let e := e.val
  .next (if rdB TEMPO_CTL_EN s && !inQuiet s && rdB (POD_CTL_RUN n) s && taskOn n p e s && !peaFailed n p s && tlValid s then
    let k := s.tl.k.toNat
    let s0 := wrSat (PEA_STAT_BCYC n p) (max (rd (PEA_STAT_BCYC n p) s) (horizonOf n p e s)) s
    let r := getRun (peaNo n p) s0
    let stray := match r.ended with
      | some c => c.stray
      | none => false
    if rd (PEA_STAT_STATE n p) s0 == 1 && r.task == some e && r.block == s.tl.k && !stray then
      missTask n p e rABORT 0xFFFF 0xFFFF k (countBad n p (abortTask n p e s0))
    else if triggered n p e s0 then
      if rdB (TASK_CTL_READY n p e) s0 && Nat.ble (getTask n p e s0).readyFor.toNat k then
        missTask n p e rSKIPPED 0xFFFF 0xFFFF k (countBad n p (consumeEvents n p e s0))
      else s0
    else if (getTask n p e s0).dispatched != k + 1 && (getTask n p e s0).settled != k + 1 then
      missTask n p e rSKIPPED 0xFFFF 0xFFFF k (countBad n p s0)
    else s0
  else s)

/-! ### The block boundary (R90, R120, R127) -/

/-- Hang detection of the block that ends (R120): a block whose due tasks all ended ABORT or SKIPPED counts, one without
due tasks does not, any other breaks the run. -/
def hangTick (n p : Nat) (s : State) : State :=
  let r := getRun (peaNo n p) s
  if r.bad = 0 && r.good = 0 then s
  else
    let h := if r.good = 0 then r.hangRun + 1 else 0
    let s1 := setRun (peaNo n p) { r with bad := 0, good := 0, hangRun := h } s
    if rdB TEMPO_CTL_HANG s1 && Nat.ble 2 h then declareFailed n p s1 else s1

/-- Copied entries are enabled at the end of block `j` + 3 (R127). -/
def repairTick (n : Nat) (s : State) : State :=
  let rs := getRepairs n s
  let due := rs.filter fun r => r.loaded && Nat.ble (r.block.toNat + 4) s.tl.k.toNat
  setRepairs n (rs.filter fun r => !(r.loaded && Nat.ble (r.block.toNat + 4) s.tl.k.toNat))
    (forEach due (fun r t => forEach r.copies (fun c u => wrB (TASK_CFG_EN n 8 c.2) true u) t) s)

/-- Each pea's BCYC starts again (R90). -/
def resetBcyc (s : State) : State :=
  forEach (List.range 16) (fun n t => forEach (List.range 9) (fun p u => wr (PEA_STAT_BCYC n p) 0 u) t) s

/-- What the pods and Tempo do at the end of a block, before the block number advances. -/
def podsEnd (s : State) : State :=
  forEach (mapKeys s.pods.run) (fun q t => if q < 144 then hangTick (q / 9) (q % 9) t else t) s

/-- What they do at the start of a block, in the new block. -/
def podsTick (s : State) : State := resetBcyc (forEach (List.range 16) repairTick s)

end Sys2Proof.Machine
end

