-- ==== Sys2Proof/Machine/Samples.lean ====
section
/-! DEFINITION. Samples of the data blocks in hand, gain elements and their ramps (R148-R151), rounding (R143), and picks
among the values that a tolerance allows. -/

namespace Sys2Proof.Machine

/-- Change the graph's part of the state. -/
def onGraph (f : GraphSt → GraphSt) (s : State) : State := { s with graph := f s.graph }

/-- The kinds of samples kept: gate marks, front-end channels, buses, guarded output slots, network egress, TDM output,
modulator feeds, captures. -/
def skGATE : Nat := 0
/-- Raw samples taken in for the front-end; gates have none, so that the number is free for them. -/
def skRAW : Nat := 0
/-- See `skGATE`. -/
def skFE : Nat := 1
/-- See `skGATE`. -/
def skBUS : Nat := 2
/-- See `skGATE`. -/
def skSLOT : Nat := 3
/-- See `skGATE`. -/
def skEGR : Nat := 4
/-- See `skGATE`. -/
def skTDM : Nat := 5
/-- See `skGATE`. -/
def skMOD : Nat := 6
/-- See `skGATE`. -/
def skCAP : Nat := 7

/-- The key of a delivery: data block, kind, index. -/
def doneKey (k kind idx : Nat) : Nat := (k * 8 + kind) * 8192 + idx

/-- Sample `i` of a data block. -/
def getSamp (k kind idx i : Nat) (s : State) : DWord := mapGet (fun _ => 0) s.graph.samp (doneKey k kind idx * 8 + i)

/-- Set a sample. -/
def setSamp (k kind idx i : Nat) (v : DWord) (s : State) : State :=
  onGraph (fun g => { g with samp := mapSet (fun _ => 0) g.samp (doneKey k kind idx * 8 + i) v }) s

/-- The samples of a data block. -/
def getSamps (k kind idx : Nat) (s : State) : List DWord := (List.range s.nS).map fun i => getSamp k kind idx i s

/-- Set the samples of a data block and note the delivery. -/
def setSamps (k kind idx : Nat) (vs : List DWord) (s : State) : State :=
  let s1 := forEach vs.zipIdx (fun e t => setSamp k kind idx e.2 e.1 t) s
  onGraph (fun g => { g with done := mapSet (fun _ => 0) g.done (doneKey k kind idx) 1 }) s1

/-- Has a data block's delivery been made? -/
def delivered (k kind idx : Nat) (s : State) : Bool := mapGet (fun _ => 0) s.graph.done (doneKey k kind idx) != 0

/-- Note a delivery or mark. -/
def markDone (k kind idx : Nat) (s : State) : State :=
  onGraph (fun g => { g with done := mapSet (fun _ => 0) g.done (doneKey k kind idx) 1 }) s

/-- The data block processed in the block in progress and `n` blocks before it. -/
def dataBlock (n : Nat) (s : State) : Nat := s.tl.k.toNat - n

/-- A sample as a signed number. -/
def sInt (v : DWord) : Int := v.toInt

/-- A signed number as a sample, saturated to 24 bits (R143). -/
def toSamp (x : Int) : DWord := BitVec.ofInt 24 (satI 24 x).1

/-- A quotient rounded to the nearest integer, ties to even (R143). -/
def rndDiv (x : Int) (d : Nat) : Int :=
  let q := x / (d : Int)
  let r := x % (d : Int)
  if 2 * r < d then q else if (d : Int) < 2 * r then q + 1 else if q % 2 = 0 then q else q + 1

/-- Take a free value between two bounds (log entry 2: DESIGN CHOICE). -/
def pickNat (lo hi : Nat) (s : State) : Nat × State := (lo + (freeVal 64 s).toNat % (hi + 1 - lo), freeNext s)

/-- Take a free sample (log entry 2: DESIGN CHOICE). -/
def pickSamp (s : State) : DWord × State := (freeVal 24 s, freeNext s)

/-! ### Gains (R148-R151) -/

/-- Is (`m`/2)^2000 ≤ 2^(19·2000) · 10^`c`: is `m`/2 at most 2^19 · 10^(`c`/2000)? -/
def dbLe (m : Nat) (c : Int) : Bool :=
  if 0 ≤ c then Nat.ble (m ^ 2000) (2 ^ 40000 * 10 ^ c.toNat) else Nat.ble (m ^ 2000 * 10 ^ (-c).toNat) (2 ^ 40000)

/-- Build a number bit by bit from bit `n` − 1: the largest that the test admits, if the test falls from true to false. -/
def bisect (p : Nat → Bool) : Nat → Nat → Nat
  | 0, acc => acc
  | n + 1, acc => bisect p n (if p (acc + 2 ^ n) then acc + 2 ^ n else acc)

/-- The factor 10^(c/2000) in Q4.19, to the nearest (R149, log entry 33: DEDUCED). -/
def dbFactor (c : Int) : Nat := bisect (fun n => dbLe (2 * n - 1) c) 23 0

/-- The largest gain code in steps of 0.01 dB, from −144.00 dB, whose factor is not above this one. -/
def dbOf (g : Nat) : Int := -14400 + (bisect (fun n => Nat.ble n 16800 && Nat.ble (dbFactor (-14400 + n)) g) 15 0 : Nat)

/-- The target factor of a gain code; 0x8000 and a MUTE are off (R148, R149). -/
def gainTarget (code : Nat) (muted : Bool) : Nat := if muted || code = 0x8000 then 0 else dbFactor (toSigned 16 code)

/-- The bounds of a ramp's sample `i` (R150): within 2^-19 of the straight line, or within 0.005 dB, widened to whole
steps of 0.01 dB, of the straight line in dB; the last sample is the target. -/
def rampBounds (g : GainSt) : Nat × Nat :=
  if g.len ≤ g.i || g.g0 = g.g1 then (g.g1, g.g1)
  else if g.shape then
    let d0 := if g.g0 = 0 then -14400 else dbOf g.g0
    let d1 := if g.g1 = 0 then -14400 else dbOf g.g1
    let d := d0 + (d1 - d0) * g.i / g.len
    (dbFactor (d - 2), dbFactor (d + 3))
  else
    let x : Int := (g.g0 : Int) * g.len + ((g.g1 : Int) - g.g0) * g.i
    (((x - g.len + g.len - 1) / g.len).toNat, ((x + g.len) / g.len).toNat)

/-- The factor at the sample a ramp stands at: free within its bounds (R150, log entry 2: DESIGN CHOICE). -/
def rampSample (g : GainSt) (s : State) : Nat × State :=
  let b := rampBounds g
  if b.1 = b.2 then (b.1, s) else pickNat b.1 b.2 s

/-- A ramp that has moved on: gone once its last sample is reached. -/
def rampMoved (addr : Nat) (g : GainSt) (s : State) : State :=
  onGraph (fun q => { q with gains := if g.len ≤ g.i then mapErase addr q.gains else mapInsert addr g q.gains }) s

/-- The factor of a gain element for its next sample, and the element moved on (R150). `target` is its settled factor. -/
def gainStep (addr target : Nat) (s : State) : Nat × State :=
  match s.graph.gains.find? fun e => e.1 == addr with
  | none => (target, s)
  | some (_, g) =>
    let r := rampSample { g with i := g.i + 1 } s
    (r.1, rampMoved addr { g with i := g.i + 1, now := r.1 } r.2)

/-- A ramp runs on over `n` samples that no signal passes (R150). -/
def gainSkip (addr n : Nat) (s : State) : State :=
  match s.graph.gains.find? fun e => e.1 == addr with
  | none => s
  | some (_, g) =>
    let r := rampSample { g with i := g.i + n } s
    rampMoved addr { g with i := g.i + n, now := r.1 } r.2

/-- The factor an element stands at: that of its last sample (R151). -/
def gainNow (addr target : Nat) (s : State) : Nat :=
  match s.graph.gains.find? fun e => e.1 == addr with
  | none => target
  | some (_, g) => g.now

/-- The length of a ramp in samples: the time in 0.1 ms at the N rate (R150). -/
def rampLen (ramp : Nat) (s : State) : Nat := (ramp * s.nS * 24000 + 5000) / 10000

/-- A change reaches a gain element (R150, R151): a ramp from the factor in force to the new target; with no length the next sample
has the target. -/
def gainChange (addr before target ramp : Nat) (shape : Bool) (s : State) : State :=
  let g0 := gainNow addr before s
  onGraph (fun q => { q with gains := mapInsert addr ⟨g0, target, 0, rampLen ramp s, shape, g0⟩ q.gains }) s

/-- A sample through a gain factor in Q4.19, rounded and saturated. -/
def applyGain (x : Int) (g : Nat) : Int := (satI 24 (rndDiv (x * g) (2 ^ 19))).1

end Sys2Proof.Machine
end

