-- ==== Sys2Proof/Machine/Modulators.lean ====
section
/-! DEFINITION. Modulators and rail control (R231-R260) and the M-frequency range (R183). -/

namespace Sys2Proof.Machine

/-- Change the modulators' part of the state. -/
def onMods (f : ModsSt → ModsSt) (s : State) : State := { s with mods := f s.mods }

/-- A channel beside its registers. -/
def getMod (c : Nat) (s : State) : ModSt := mapGet (fun _ => ModSt.reset) s.mods.chans c

/-- Set a channel. -/
def setMod (c : Nat) (m : ModSt) (s : State) : State :=
  onMods (fun q => { q with chans := mapSet (fun _ => ModSt.reset) q.chans c m }) s

/-- A rail beside its registers. -/
def getRail (r : Nat) (s : State) : RailSt := mapGet (fun _ => RailSt.reset) s.mods.rails r

/-- Set a rail. -/
def setRail (r : Nat) (m : RailSt) (s : State) : State :=
  onMods (fun q => { q with rails := mapSet (fun _ => RailSt.reset) q.rails r m }) s

/-! ### Words that act at the next data block (R259) -/

/-- Is this a word of `MOD_SRC`, `MOD_CTL` or of a rail planner that acts at the next data block? -/
def nextBlockWord (a : Nat) : Bool :=
  (Nat.ble 0x43000000 a && Nat.blt a 0x43012000 && (a % 0x400 == 0x8 || a % 0x400 == 0xC)) ||
  (Nat.ble 0x43100000 a && Nat.blt a 0x43100800 && Nat.ble 0xC (a % 0x100) && Nat.ble (a % 0x100) 0x1C && a % 4 == 0)

/-- Such a word changes for the data blocks from `k` on: the word before stays in force for those before. -/
def keepFrom (k a : Nat) (old : Word) (s : State) : State :=
  onlyIf (nextBlockWord a && tlRun s) (onMods fun q => { q with old := q.old ++ [(a, k, old)] }) s

/-- Such a word is written in a block: it acts from the data block after that block's own (R23, R259; log entry 37: DEDUCED). -/
def keepWord (a : Nat) (old : Word) (s : State) : State := keepFrom (s.tl.k.toNat + 1) a old s

/-- A field in force for data block `k` (R259). -/
def inForceAt (k : Nat) (f : FRef) (s : State) : Nat :=
  match s.mods.old.find? fun e => e.1 == f.addr && Nat.blt k e.2.1 with
  | some e => getField e.2.2 f.lo f.w
  | none => rd f s

/-! The channel states of R242. -/
/-- OFF. -/
def chOFF : Nat := 0
/-- PRECHG. -/
def chPRECHG : Nat := 1
/-- ZERO. -/
def chZERO : Nat := 2
/-- RAMPUP. -/
def chRAMPUP : Nat := 3
/-- RUN. -/
def chRUN : Nat := 4
/-- MUTING. -/
def chMUTING : Nat := 5
/-- MUTED. -/
def chMUTED : Nat := 6
/-- STOPPED. -/
def chSTOPPED : Nat := 7

/-- A channel's state. -/
def chState (c : Nat) (s : State) : Nat := rd (MOD_STAT_STATE c) s

/-- Set a channel's state. -/
def setCh (c st : Nat) (s : State) : State := wr (MOD_STAT_STATE c) st s

/-- The enabled channels of a group. -/
def groupChans (g : Nat) (s : State) : List Nat := ([4 * g, 4 * g + 1, 4 * g + 2, 4 * g + 3]).filter fun c => rdB (MOD_CFG_EN c) s

/-- The enabled channels. -/
def modChans (s : State) : List Nat := (List.range 72).filter fun c => rdB (MOD_CFG_EN c) s

/-! The group states of `MODG_STAT`. -/
/-- Disabled. -/
def grOFF : Nat := 0
/-- Waking. -/
def grWAKING : Nat := 1
/-- Active. -/
def grACTIVE : Nat := 2
/-- Idle entry. -/
def grENTRY : Nat := 3
/-- Idle. -/
def grIDLE : Nat := 4
/-- Fault. -/
def grFAULT : Nat := 5

/-- A group's state. -/
def grState (g : Nat) (s : State) : Nat := rd (MODG_STAT_STATE g) s

/-- Set a group's state. -/
def setGr (g st : Nat) (s : State) : State := wr (MODG_STAT_STATE g) st s

/-! ### Activity (R154) -/

/-- Is a front-end channel a member of an activity group? -/
def actMember (ag c : Nat) (s : State) : Bool := rdB (bitOf (SG_ACTMAP_MAP ag (c / 32)) (c % 32)) s

/-- Does the wake request of an activity group stand: is a member's gate open? -/
def wakeStands (ag : Nat) (s : State) : Bool := s.graph.openGates.any fun c => actMember ag c s

/-- Is an activity group active for the last assembled data block? -/
def actNow (ag : Nat) (s : State) : Bool := rdB (bitOf (SG_ACT_ACT (ag / 32)) (ag % 32)) s

/-! ### Mutes and stops (R244, R246, R248) -/

/-- A channel follows its standing mute requests (R244, R246): while one stands a playing channel mutes, and when none
does it unmutes; a request during a ramp reverses it. Idle entry keeps its own ramps. -/
def muteFollow (c : Nat) (s : State) : State :=
  let st := chState c s
  if grState (c / 4) s == grENTRY then s
  else if rd (MOD_STAT_MREQ c) s != 0 then onlyIf (st == chRAMPUP || st == chRUN) (setCh c chMUTING) s
  else onlyIf (st == chMUTING || st == chMUTED) (setCh c chRAMPUP) s

/-- Set or clear a mute request: bit 0 software, 1 Rook, 2 M range (R246). -/
def muteRequest (c bit : Nat) (on : Bool) (s : State) : State :=
  onlyIf (rdB (MOD_CFG_EN c) s) (muteFollow c) (wrB (bitOf (MOD_STAT_MREQ c) bit) on s)

/-- MOD_MUTE_WRITE (R246, R259): the request follows the field at the next data block. -/
def execModMuteWrite (c : Fin 72) (mute : Bool) (s : State) : Out :=
  let f := MOD_CTL_MUTE c.val
  .next (wrB f mute (keepWord f.addr (rdReg f.addr s) s))

/-- A channel stops at once: both legs low, and STOPPED (R246). -/
def stopLegs (c : Nat) (s : State) : State :=
  setCh c chSTOPPED (setMod c { getMod c s with legA := 0, legB := 0, wake := false } s)

/-- The group's line is driven low: its power stages are not enabled, so that no channel of it may switch, and those that do
stop (R231; log entry 44: DEDUCED). -/
def driveLine (g : Nat) (s : State) : State :=
  forEach (groupChans g s) (fun c t => onlyIf (chState c t != chOFF && chState c t != chSTOPPED) (stopLegs c) t)
    (wrB (ROOK_GRP_STAT_REL g) false (wrB (MODG_STAT_DRIVE g) true (wrB (MODG_STAT_LINE g) false s)))

/-- The engine stops driving the line, which the pull-up takes high (R231). -/
def freeLine (g : Nat) (s : State) : State :=
  wrB (ROOK_GRP_STAT_REL g) true (wrB (MODG_STAT_DRIVE g) false (wrB (MODG_STAT_LINE g) true s))

/-- The group's enable request to Rook (R245, R286). -/
def setReq (g : Nat) (on : Bool) (s : State) : State := wrB (ROOK_GRP_STAT_REQ g) on (wrB (MODG_STAT_REQ g) on s)

/-- The group's entry is complete when every enabled channel has stopped switching (R249). -/
def finishEntry (g : Nat) (s : State) : State :=
  if grState g s == grENTRY && (groupChans g s).all (fun c => chState c s == chOFF || chState c s == chSTOPPED) then
    count (MODG_CNT_WAKE_COUNT g) (MODG_STAT_WAKE_SAT g) (8 + g)
      (driveLine g (setReq g false (setGr g grIDLE s)))
  else s

/-- A hard stop (R246): both legs go low and the channel is STOPPED, until the stop clears. In idle entry it counts as a
channel that has stopped switching (R249). -/
def hardStop (c : Nat) (s : State) : State :=
  if rdB (MOD_CFG_EN c) s then
    finishEntry (c / 4) (stopLegs c (setMod c { getMod c s with hard := true } s))
  else s

/-- A hard stop clears. -/
def clearStop (c : Nat) (s : State) : State := setMod c { getMod c s with hard := false } s

/-- A group requests enable from Rook (R245). -/
def requestEnable (g : Nat) (s : State) : State :=
  if (groupChans g s).isEmpty then s
  else setReq g true (onlyIf (grState g s != grFAULT && grState g s != grACTIVE) (setGr g grWAKING) s)

/-- A group whose channels were stopped requests enable again (R245, R246), unless it idles or Pawn is in QUIET (R249, R252). -/
def restartGroup (g : Nat) (s : State) : State :=
  if !tlRun s || s.mods.quietStop || grState g s == grENTRY || grState g s == grIDLE then s else requestEnable g s

/-- A wake request stops an idle entry (R249, R250): every channel ramps back and the group is ACTIVE. One that has stopped
switching begins again at zero index (R243), and one that was stopped hard makes the pop-free start (R246). -/
def abandonEntry (g : Nat) (s : State) : State :=
  forEach (groupChans g s) (fun c t =>
    if chState c t == chOFF then setCh c chZERO (setMod c { getMod c t with periods := 0 } t)
    else if chState c t == chSTOPPED then onlyIf (!(getMod c t).hard) (setCh c chPRECHG) t
    else if rd (MOD_STAT_MREQ c) t = 0 then setCh c chRAMPUP t else t) (setGr g grACTIVE s)

/-- Every enabled channel of every group makes the pop-free start (R245, R252); an idle entry under way is abandoned. -/
def startGroups (s : State) : State :=
  onMods (fun q => { q with quietStop := false })
    (forEach (List.range 18) (fun g t => if grState g t == grENTRY then abandonEntry g t else requestEnable g t) s)

/-- GROUP_LINE_RELEASED (R245, R248): waiting channels enter PRECHG; a group leaves FAULT, and one that does not wake is
ACTIVE (log entry 44: DEDUCED). -/
def execGroupLineReleased (g : Fin 18) (s : State) : Out :=
  .next (if rdB (MODG_STAT_REQ g.val) s && !rdB (MODG_STAT_DRIVE g.val) s && rdB (MODG_STAT_LINE g.val) s then
    let s1 := onlyIf (grState g.val s == grFAULT || (grState g.val s == grWAKING && !s.mods.waking.contains g.val))
      (fun t => onMods (fun q => { q with waking := q.waking.filter (· != g.val) }) (setGr g.val grACTIVE t)) s
    forEach (groupChans g.val s1) (fun c t =>
      if (chState c t == chOFF || chState c t == chSTOPPED) && !(getMod c t).hard then setCh c chPRECHG t else t) s1
  else s)

/-- PRECHG_END (R245). -/
def execPrechgEnd (c : Fin 72) (s : State) : Out :=
  .next (if chState c.val s == chPRECHG then setCh c.val chZERO (setMod c.val { getMod c.val s with periods := 0 } s) else s)

/-- ZERO_END (R245, R250, R251): RAMPUP, or after a wake RUN with no ramp unless the wake is late; a channel with a mute
request standing stays at zero. A wake that is not ACTIVE yet goes on. -/
def execZeroEnd (c : Fin 72) (s : State) : Out :=
  let m := getMod c.val s
  let g := c.val / 4
  .next (if chState c.val s == chZERO then
    let s1 := setMod c.val { m with wake := m.wake && s.mods.waking.contains g } s
    if rd (MOD_STAT_MREQ c.val) s != 0 then setCh c.val chMUTED s1
    else if m.wake && !s.mods.lateWake.contains g then setCh c.val chRUN s1
    else setCh c.val chRAMPUP s1
  else s)

/-- RAMP_END (R244-R246, R249). -/
def execRampEnd (c : Fin 72) (s : State) : Out :=
  .next (if chState c.val s == chRAMPUP then setCh c.val chRUN s
  else if chState c.val s == chMUTING then setCh c.val chMUTED s
  else s)

/-- M_RANGE (R183, R246): the M frequency error in 0.1 ppm; leaving ±500 ppm sets RANGE and mutes. -/
def execMRange (err : BitVec 24) (s : State) : Out :=
  let out := Nat.blt 5000 err.toInt.natAbs
  let s1 := wr MXC_RATIO_ERR err.toNat s
  .next (if out then
    let s2 := onlyIf (!rdB MXC_STAT_RANGE s1) (count MXC_CNT_RANGE_COUNT MXC_STAT_RANGE_SAT 3) s1
    forEach (List.range 72) (fun c t => muteRequest c 2 true t) (wrB MXC_STAT_RANGE true s2)
  else wrB MXC_STAT_RANGE false s1)

/-- M_RANGE_CLEAR (R246): after 100 ms in range. -/
def execMRangeClear (s : State) : Out :=
  .next (if rdB MXC_STAT_RANGE s then s else forEach (List.range 72) (fun c t => muteRequest c 2 false t) s)

/-! ### Idle and wake (R249-R252) -/

/-- Has the group's activity group been inactive for IDLE_DLY (R249)? -/
def inactiveLong (g : Nat) (s : State) : Bool :=
  let ag := rd (MODG_CFG_ACTGRP g) s
  Nat.ble (mapGet (fun _ => 0) s.graph.actLast ag + rd (MODG_WAKE_IDLE_DLY g) s * 24) s.tl.k.toNat

/-- May the group start idle entry: no enabled channel in a state other than RUN or MUTED (R249)? -/
def entryOpen (g : Nat) (s : State) : Bool :=
  !(groupChans g s).isEmpty && (groupChans g s).all fun c => chState c s == chRUN || chState c s == chMUTED

/-- Start idle entry (R249): channels in RUN ramp to zero. -/
def startEntry (g : Nat) (s : State) : State :=
  forEach (groupChans g s) (fun c t => onlyIf (chState c t == chRUN) (setCh c chMUTING) t) (setGr g grENTRY s)

/-- IDLE_ENTRY (R249, R252). -/
def execIdleEntry (g : Fin 18) (s : State) : Out :=
  let ag := rd (MODG_CFG_ACTGRP g.val) s
  .next (if grState g.val s == grACTIVE && entryOpen g.val s &&
      (s.mods.quietStop || (rdB (MODG_CFG_IDLE_EN g.val) s && !wakeStands ag s && inactiveLong g.val s)) then
    startEntry g.val s
  else s)

/-- Pawn leaves RUN for QUIET: every group goes through idle entry at once (R252). -/
def quietGroups (s : State) : State :=
  forEach (List.range 18) (fun g t => onlyIf (grState g t == grACTIVE && entryOpen g t) (startEntry g) t)
    (onMods (fun q => { q with quietStop := true }) s)

/-- The wake request of an activity group rises (R250). -/
def wakeGroups (ag : Nat) (s : State) : State :=
  forEach (List.range 18) (fun g t =>
    if rd (MODG_CFG_ACTGRP g) t != ag || (groupChans g t).isEmpty || t.mods.quietStop then t
    else if grState g t == grENTRY then abandonEntry g t
    else if grState g t == grIDLE then
      count (MODG_CNT_WAKE_COUNT g) (MODG_STAT_WAKE_SAT g) (8 + g)
        (forEach (groupChans g t) (fun c u => setMod c { getMod c u with wake := true } u)
          (onMods (fun q => { q with waking := g :: q.waking, lateWake := q.lateWake.filter (· != g) }) (requestEnable g t)))
    else t) s

/-- Is the wake of a group late that is ACTIVE at `ns` (R251): was a sample of an active data block presented before? -/
def wakeLate (g ns : Nat) (s : State) : Bool :=
  s.mods.waking.contains g &&
  match mapGet (fun _ => 0) s.graph.actFirst (rd (MODG_CFG_ACTGRP g) s) with
  | 0 => false
  | dk + 1 => Nat.blt (blockStart (dk + 3) + 9000) ns

/-- The wake of a channel is over when its group is ACTIVE (R250); after a late one a channel in RUN fades in (R251). A
channel that has not reached RUN keeps the mark for the end of its zero period. -/
def wakeOver (late : Bool) (c : Nat) (s : State) : State :=
  let st := chState c s
  if !(getMod c s).wake || st == chOFF || st == chPRECHG || st == chZERO then s
  else onlyIf (late && st == chRUN) (setCh c chRAMPUP) (setMod c { getMod c s with wake := false } s)

/-- GROUP_ACTIVE (R250, R251): at `ns` the group is ACTIVE; a sample of an active data block that was presented before
makes the wake late, once. -/
def execGroupActive (g : Fin 18) (ns : BitVec 64) (s : State) : Out :=
  let g := g.val
  let late := wakeLate g ns.toNat s
  .next (if grState g s == grWAKING && !rdB (MODG_STAT_DRIVE g) s then
    let s1 := onMods (fun q => { q with
      waking := q.waking.filter (· != g)
      lateWake := if late then g :: q.lateWake else q.lateWake }) (setGr g grACTIVE s)
    forEach (groupChans g s) (fun c t => wakeOver late c t)
      (onlyIf late (count (MODG_CNT_WAKE_LATE_COUNT g) (MODG_STAT_LATE_SAT g) (8 + g)) s1)
  else s)

/-! ### Carrier periods (R232-R238) -/

/-- The carrier frequency of a group, in Hz (R233); the reserved code counts as the lowest. -/
def carrierHz (g : Nat) (s : State) : Nat :=
  match rd (MODG_CFG_CARRIER g) s with
  | 1 => 480000
  | 2 => 768000
  | _ => 384000

/-- The edge steps of a period (R233): the 480 kHz lengths repeat over five periods. -/
def periodSteps (g n : Nat) (s : State) : Nat :=
  match rd (MODG_CFG_CARRIER g) s with
  | 1 => if n % 5 = 4 then 52428 else 52429
  | 2 => 32768
  | _ => 65536

/-- The peak of the spread, in thousandths (R238). -/
def spreadPeak (s : State) : Nat :=
  match rd MOD_GCTL_SPREAD s with
  | 1 => 5
  | 2 => 10
  | 3 => 20
  | _ => 0

/-- `m`max of a channel as a fraction (R234, R238): 1 − 2 × MINPW × f, from the shortest period of the spread. -/
def mMax (c : Nat) (s : State) : Nat × Nat :=
  let d := 1000000 * (1000 - spreadPeak s)
  (d - 2 * rd (MOD_CFG_MINPW c) s * carrierHz (c / 4) s, d)

/-- The phase of a channel (R237). -/
def phaseOf (c : Nat) (s : State) : Nat :=
  let d := rd MOD_GCTL_DIV s
  if d = 0 then 0 else c * 65536 / d % 65536

/-- CARRIER_GRID_START (R233, R237). -/
def execCarrierGridStart (s : State) : Out :=
  .next (forEach (List.range 72) (fun c t => wr (MOD_INDEX_PHASE c) (phaseOf c t) t) (wrB MOD_GCTL_RUN true s))

/-- Set the index and the legs of a period from an index `num`/`den` (R232). Leg B's high time is the rest of the period;
which whole step the noise shaper takes is a free choice of the two nearest (R235). -/
def setLegs (c : Nat) (num : Int) (den : Nat) (s : State) : State :=
  let m := getMod c s
  let t0 := periodSteps (c / 4) m.periods s
  let pk := spreadPeak s
  let r0 := if pk = 0 then (t0, s) else pickNat (t0 - t0 * pk / 1000) (t0 + t0 * pk / 1000) s
  let t := r0.1
  let x : Int := (t : Int) * ((den : Int) + num)
  let lo := (x / (2 * den : Nat)).toNat
  let r1 := if x % (2 * den : Nat) = 0 then (lo, r0.2) else pickNat lo (lo + 1) r0.2
  wrI (MOD_INDEX_M c) (satI 16 (rndDiv (num * 32768) den)).1
    (setMod c { m with periods := m.periods + 1, legA := r1.1, legB := t - r1.1 } r1.2)

/-- The interpolated value at the period's centre (R235): free, since the interpolator is given by its response alone, but
zero when nothing but zeros has come (log entry 34: DESIGN CHOICE). -/
def interpolated (c : Nat) (s : State) : Int × State :=
  if (getMod c s).dirty then ((freeVal 26 s).toInt, freeNext s) else (0, s)

/-- The index of a period with feed-forward and its limit (R234, R236): s × VFS / Vff, clipped at ±m max. -/
def playPeriod (c : Nat) (s : State) : State :=
  let r := rd (MOD_CFG_RAIL c) s
  let least := inForceAt (dataBlock 3 s) (RAIL_FF_VFFMIN r) s
  let low := Nat.blt (rd (RAIL_MEAS_VMEAS r) s) least
  let vff := max (rd (RAIL_MEAS_VMEAS r) s) least
  let s1 := onlyIf low (count (MOD_CNT2_FFLOW_COUNT c) (MOD_STAT_FFLOW_SAT c) (8 + c / 4)) s
  let v := interpolated c s1
  let mm := mMax c s
  let num := v.1 * rd (MOD_VFS_VFS c) s
  let den := 2 ^ 23 * max vff 1
  if Nat.blt (mm.1 * den) (num.natAbs * mm.2) then
    setLegs c (if num < 0 then -(mm.1 : Int) else mm.1) mm.2
      (count (MOD_CNT_CLIP_COUNT c) (MOD_STAT_CLIP_SAT c) (8 + c / 4) v.2)
  else setLegs c num den v.2

/-- CARRIER_PERIOD (R232-R236, R242, R249, R250): a channel that switches forms its index, zero until a wake is ACTIVE; one
that has reached zero in idle entry stops. -/
def execCarrierPeriod (c : Fin 72) (s : State) : Out :=
  let st := chState c.val s
  .next (if !rdB MOD_GCTL_RUN s || !rdB (MOD_CFG_EN c.val) s then s
  else if st == chMUTED && grState (c.val / 4) s == grENTRY then
    finishEntry (c.val / 4) (setCh c.val chOFF (setMod c.val { getMod c.val s with legA := 0, legB := 0 } s))
  else if st == chZERO || st == chMUTED then setLegs c.val 0 1 s
  else if st == chRAMPUP || st == chRUN || st == chMUTING then
    if (getMod c.val s).wake then setLegs c.val 0 1 s else playPeriod c.val s
  else s)

/-! ### Sample source (R240, R241) -/

/-- The partner's feed of a channel for a data block (R240): present while paired and in lockstep. -/
def partnerFeed (k c : Nat) (s : State) : Option (List Int) :=
  if paired s && rdB DRN_STAT_LOCKSTEP s && rdB DRN_STAT_MATCH s then
    match mapGet (fun _ => []) s.pair.feeds k with
    | [] => none
    | l => some (((l.drop (c * s.nS)).take s.nS).map fun w => (w.setWidth 24).toInt)
  else none

/-- The own feed of a channel for a data block (R240). -/
def ownFeed (k c : Nat) (s : State) : Option (List Int) :=
  if delivered k skMOD c s then some ((getSamps k skMOD c s).map sInt) else none

/-- Sample `j` of the held path, counted from the block after the held one (R241): linear to zero over 1 ms. -/
def heldAt (last : Int) (j : Nat) (s : State) : Int :=
  let n := 24 * s.nS
  if j < n then rndDiv (last * ((n : Int) - j)) n else 0

/-- The held path over one data block: the last sample for the first block, then the fade (R241). -/
def heldBlock (m : ModSt) (s : State) : List Int :=
  (List.range s.nS).map fun i => if m.heldAt = 0 then m.last else heldAt m.last ((m.heldAt - 1) * s.nS + i + 1) s

/-- The mix of a held path and a returned source over 10 ms, linear in amplitude (R241). -/
def mixBack (held src : List Int) (done : Nat) (s : State) : List Int :=
  let n := 240 * s.nS
  (held.zip src).zipIdx.map fun e =>
    let j := done + e.2 + 1
    if n ≤ j then e.1.2 else rndDiv (e.1.1 * ((n : Int) - j) + e.1.2 * j) n

/-- A source is present for the data block (R240, R241). -/
def playSource (c which : Nat) (xs : List Int) (s : State) : List Int × State :=
  let m := getMod c s
  let last := xs.getLast?.getD m.last
  let s1 := onlyIf (rd (MOD_SRC_LAST c) s < 2 && rd (MOD_SRC_LAST c) s != which)
    (count (MOD_CNT2_SWITCH_COUNT c) (MOD_STAT_SWITCH_SAT c) (8 + c / 4)) s
  let s2 := wr (MOD_SRC_LAST c) which s1
  let done := m.back.getD 0
  if m.held ≤ 1 && m.back.isNone then (xs, setMod c { m with last := last, held := 0, heldAt := 0 } s2)
  else
    let h := heldBlock m s
    let fin := Nat.ble (240 * s.nS) (done + s.nS)
    (mixBack h xs done s, setMod c { m with
      last := if fin then last else m.last
      held := 0
      heldAt := if fin then 0 else m.heldAt + 1
      back := if fin then none else some (done + s.nS) } s2)

/-- No source is present (R241). -/
def playHeld (c : Nat) (s : State) : List Int × State :=
  let m := getMod c s
  let s1 := count (MOD_CNT_HOLD_COUNT c) (MOD_STAT_HOLD_SAT c) (8 + c / 4) s
  (heldBlock m s, wr (MOD_SRC_LAST c) (if m.heldAt = 0 then 2 else 3)
    (setMod c { m with held := m.held + 1, heldAt := m.heldAt + 1, back := none } s1))

/-- The choice of a channel for a data block (R240). -/
def selectChan (k c : Nat) (s : State) : State :=
  let own := ownFeed k c s
  let par := partnerFeed k c s
  let pref := inForceAt k (MOD_SRC_PREF c) s
  let first := if pref = 0 then own else par
  let other := if pref = 0 then par else own
  let r := match first with
    | some xs => playSource c pref xs s
    | none =>
      match if inForceAt k (MOD_SRC_AUTO c) s = 1 then other else none with
      | some xs => playSource c (1 - pref) xs s
      | none => playHeld c s
  let s1 := forEach r.1.zipIdx (fun e t => setSamp k skCAP (4096 + c) e.2 (toSamp e.1) t) r.2
  onlyIf (r.1.any (· != 0)) (fun t => setMod c { getMod c t with dirty := true } t) s1

/-! ### Rails (R253-R257) -/

/-- The members of a rail (R255). -/
def railMembers (r : Nat) (s : State) : List Nat := (modChans s).filter fun c => rd (MOD_CFG_RAIL c) s == r

/-- The voltage a member requires for a data block, in 0.01 V (R255), to the nearest; VMAX when its own feed is missing. -/
def memberReq (k r c : Nat) (s : State) : Nat :=
  match ownFeed k c s with
  | none => inForceAt k (RAIL_VLIM_VMAX r) s
  | some xs =>
    let pk := xs.foldl (fun a x => max a x.natAbs) 0
    let mm := mMax c s
    (rndDiv (pk * rd (MOD_VFS_VFS c) s * mm.2 : Nat) (2 ^ 23 * max mm.1 1)).toNat

/-- The voltage required of a rail for a data block (R255). -/
def railReq (k r : Nat) (s : State) : Nat :=
  ((railMembers r s).filter fun c => chState c s != chOFF && chState c s != chSTOPPED).foldl
    (fun a c => max a (memberReq k r c s)) 0 + inForceAt k (RAIL_VQ_HEADROOM r) s

/-- The floor of a rail for a data block and whether it is the quiet one (R256). -/
def railFloor (k r : Nat) (s : State) : Nat × Bool :=
  let ag := rd (RAIL_CFG_ACTGRP r) s
  if rdB (RAIL_CFG_QUIETEN r) s && !actNow ag s && !wakeStands ag s then (inForceAt k (RAIL_VQ_VQUIET r) s, true)
  else (inForceAt k (RAIL_VLIM_VMIN r) s, false)

/-- The setpoint of a rail: the target clamped between the floor and VMAX (R256). -/
def railClamp (k r target : Nat) (s : State) : Nat :=
  min (max (target / 240) (railFloor k r s).1) (inForceAt k (RAIL_VLIM_VMAX r) s)

/-- A command leaves on a rail (R253, R254): ENABLE while the rail is in use and Pawn is in RUN. -/
def railCommand (r : Nat) (s : State) : State :=
  let p := getRail r s
  let s1 := wrB (RAIL_CMDV_ENABLE r) (rdB (RAIL_CFG_EN r) s && rd PWR_STAT_STATE s == 2) s
  wrB (RAIL_CMDV_QUIET r) p.quiet (wr (RAIL_CMDV_VCMD r) p.setpoint s1)

/-- RAIL_PLAN (R255-R257): the target for data block k, 2 µs into block k + 2: the largest requirement of the hold time,
then falling towards the present one. A PWM rail takes the new code at its next period. -/
def execRailPlan (r : Fin 8) (s : State) : Out :=
  let r := r.val
  .next (if rdB (RAIL_CFG_EN r) s && tlRun s then
    let k := dataBlock 2 s
    let q := railReq k r s
    let p := getRail r s
    let h := (p.hist.filter fun e => Nat.blt k (e.1 + inForceAt k (RAIL_HOLD_HOLD r) s * 24)) ++ [(k, q)]
    let top := (h.foldl (fun a e => max a e.2) 0) * 240
    let t := max top (p.target - inForceAt k (RAIL_SLEW_FALL r) s)
    let s1 := onlyIf (Nat.blt (inForceAt k (RAIL_VLIM_VMAX r) s) q) (count (RAIL_CNT_SHORT_COUNT r) (RAIL_STAT_SHORT_SAT r) 26) s
    let s2 := setRail r { hist := h, target := t, setpoint := railClamp k r t s, quiet := (railFloor k r s).2 } s1
    onlyIf (!rdB (RAIL_CFG_FORMAT r) s) (railCommand r) s2
  else s)

/-- RAIL_FRAME (R253, R254): a serial frame leaves with the next sequence number. -/
def execRailFrame (r : Fin 8) (s : State) : Out :=
  .next (if rdB (RAIL_CFG_FORMAT r.val) s then railCommand r.val (seqNext (RAIL_CMDV_SEQ r.val) s) else s)

/-- A wake request lifts the floor of a rail to VMIN for the next frame or period (R257). -/
def wakeRails (ag : Nat) (s : State) : State :=
  forEach (List.range 8) (fun r t =>
    if rdB (RAIL_CFG_EN r) t && rd (RAIL_CFG_ACTGRP r) t == ag then
      let p := getRail r t
      let t1 := setRail r { p with setpoint := railClamp (dataBlock 2 t) r p.target t, quiet := false } t
      onlyIf (!rdB (RAIL_CFG_FORMAT r) t1) (railCommand r) t1
    else t) s

/-- The modulators at a block boundary: software mutes follow their fields for the data block whose presentation starts in the
block (R246, R259), and words that no data block needs are dropped. -/
def modTick (s : State) : State :=
  onMods (fun q => { q with old := q.old.filter fun e => Nat.blt s.tl.k.toNat (e.2.1 + 4) })
    (forEach (modChans s) (fun c t => muteRequest c 0 (inForceAt (dataBlock 3 t) (MOD_CTL_MUTE c) t == 1) t) s)

end Sys2Proof.Machine
end

