-- ==== Sys2Proof/Machine/Taint.lean ====
section
/-! DEFINITION. Taint (R142, R206-R209): its fixed point over the graph, and the export policy. A table as it would stand
after a change is given as a reading function of register words. -/

namespace Sys2Proof.Machine

/-- A field read through a reading function of register words. -/
def rdWith (w : Nat → Word) (f : FRef) : Nat := getField (w f.addr) f.lo f.w

/-- The listed destination entries: an entry with no listed register is not enabled. -/
def listedDests (s : State) : List Nat :=
  ((s.regs.filter fun e => Nat.ble 0x41020000 e.1 && Nat.blt e.1 0x41030000 && e.1 % 16 == 0).map
    fun e => (e.1 - 0x41020000) / 16)

/-- Tainted pods and tainted buses. -/
structure TaintSet where
  pods : List Nat
  buses : List Nat
  deriving DecidableEq, Repr

/-- Is a source entry tainted (R206, R207)? -/
def srcTainted (w : Nat → Word) (t : TaintSet) (marks : List Nat) (i : Nat) : Bool :=
  let idx := rdWith w (SRC_ENT_INDEX i)
  match rdWith w (SRC_ENT_KIND i) with
  | 1 => marks.contains idx
  | 2 => marks.contains (2048 + idx)
  | 3 => t.pods.contains (idx / 512)
  | 4 => t.buses.contains idx
  | _ => false

/-- Is a bus tainted: is the source of any of its sends (R142)? -/
def busTainted (w : Nat → Word) (t : TaintSet) (marks : List Nat) (b : Nat) : Bool :=
  rdWith w (BUS_CFG_EN b) == 1 && (List.range (rdWith w (BUS_SENDS_NUM b))).any fun i =>
    srcTainted w t marks (rdWith w (SEND_CFG_SRC (rdWith w (BUS_SENDS_FIRST b) + i)))

/-- The pods that the enabled destinations feed with a tainted source (R207). -/
def fedPods (w : Nat → Word) (ds : List Nat) (t : TaintSet) (marks : List Nat) : List Nat :=
  (ds.filter fun d => rdWith w (DST_CFG_EN d) == 1 && rdWith w (DST_CFG_KIND d) == 1 &&
    srcTainted w t marks (rdWith w (DST_CFG_SRC d))).map fun d => rdWith w (DST_IDX_INDEX d) / 1024

/-- One round of the propagation. -/
def taintRound (w : Nat → Word) (ds : List Nat) (marks : List Nat) (t : TaintSet) : TaintSet where
  pods := (List.range 16).filter fun n => t.pods.contains n || (fedPods w ds t marks).contains n
  buses := (List.range 256).filter fun b => t.buses.contains b || busTainted w t marks b

/-- The fixed point (R207): no more rounds are needed than there are pods and buses. -/
def taintFix (w : Nat → Word) (ds : List Nat) (marks : List Nat) : Nat → TaintSet → TaintSet
  | 0, t => t
  | n + 1, t => let u := taintRound w ds marks t; if u = t then t else taintFix w ds marks n u

/-- Is a pod sealed (R203): has a pea of it a locked window of nonzero length? -/
def podSealed (n : Nat) (s : State) : Bool :=
  (List.range 9).any fun p =>
    let q := n * 9 + p
    rdB (KS_SEAL_CTL_LOCK q) s && (rd (KS_SEAL_P_LEN q) s != 0 || rd (KS_SEAL_X_LEN q) s != 0 || rd (KS_SEAL_Y_LEN q) s != 0)

/-- The tainted pods and buses of a table (R206, R207). -/
def taintOf (w : Nat → Word) (ds : List Nat) (s : State) : TaintSet :=
  taintFix w ds s.image.taintIn 273 ⟨(List.range 16).filter fun n => podSealed n s, []⟩

/-- The export policy's mode for a target (R209): the first entry that covers it; a target that none covers is denied. -/
def exportMode (kind idx : Nat) (s : State) : Nat :=
  match s.image.policy.find? fun e => e.kind == kind && Nat.ble e.first idx && Nat.ble idx e.last with
  | some e => e.mode
  | none => 0

/-- May a tainted signal go to a target (R208-R211)? -/
def exportAllowed (kind idx : Nat) (s : State) : Bool :=
  let m := exportMode kind idx s
  m == 1 || (m == 2 && (kind == 2 || (kind == 6 && s.image.exportKey)))

/-- Would a table carry a tainted signal to an export target without permission (R142, R208)? -/
def taintBreach (w : Nat → Word) (ds : List Nat) (s : State) : Bool :=
  let t := taintOf w ds s
  ds.any fun d =>
    let k := rdWith w (DST_CFG_KIND d)
    rdWith w (DST_CFG_EN d) == 1 && (k == 2 || k == 3 || k == 6) &&
      srcTainted w t s.image.taintIn (rdWith w (DST_CFG_SRC d)) && !exportAllowed k (rdWith w (DST_IDX_INDEX d)) s

/-- Register words as they would stand after changes of words. -/
def wordsAfter (cs : List (Nat × Word)) (s : State) (a : Nat) : Word :=
  match (cs.filter fun c => c.1 == a).getLast? with
  | some c => c.2
  | none => rdReg a s

/-- The destinations to look at after changes of words. -/
def destsAfter (cs : List (Nat × Word)) (s : State) : List Nat :=
  let new := (cs.filter fun c => Nat.ble 0x41020000 c.1 && Nat.blt c.1 0x41030000).map fun c => (c.1 - 0x41020000) / 16
  listedDests s ++ (new.filter fun d => !(listedDests s).contains d).eraseDups

/-- Would changes of table words breach the export policy (R207, R208)? -/
def changesBreach (cs : List (Nat × Word)) (s : State) : Bool := taintBreach (wordsAfter cs s) (destsAfter cs s) s

/-- Is a source tainted as the tables stand (R207)? -/
def srcTaintNow (i : Nat) (s : State) : Bool :=
  srcTainted (fun a => rdReg a s) (taintOf (fun a => rdReg a s) (listedDests s) s) s.image.taintIn i

/-- `SRC_ENT.TAINT` and `FE_STAT.TAINT` show the taint (R207): the words with their TAINT bits as they stand. -/
def taintBits (a : Nat) (v : Word) (s : State) : Word :=
  if 0x41010000 ≤ a && a < 0x41014000 then putField v 16 1 (if srcTaintNow ((a - 0x41010000) / 4) s then 1 else 0)
  else if 0x41040000 ≤ a && a < 0x4104C000 && a % 16 == 12 then
    putField v 1 1 (if s.image.taintIn.contains ((a - 0x41040000) / 16) then 1 else 0)
  else v

end Sys2Proof.Machine
end

