-- ==== Sys2Proof/Machine/PodRing.lean ====
section
/-! DEFINITION. The ring of the pod DMA: its descriptors, when one stops the DMA, and when one starts (R98-R100, R200,
R202, R203). -/

namespace Sys2Proof.Machine

/-- A descriptor of the pod DMA (R98). -/
structure DmaDesc where
  srcSp : Nat
  src : Nat
  dstSp : Nat
  dst : Nat
  len : Nat
  sealed : Bool
  evt : Bool
  pea : Nat
  task : Nat
  input : Nat
  deriving DecidableEq, Repr

/-- The entries of a pod's ring (R98). -/
def ringSize (n : Nat) (s : State) : Nat := 2 ^ rd (POD_DMA_QBASE_QSIZE n) s

/-- The descriptor at a place of the ring (R98). -/
def descAt (n i : Nat) (s : State) : DmaDesc :=
  let w := fun j => rdShared n (rd (POD_DMA_QBASE_BASE n) s + 4 * i + j) s
  { src := (w 0).toNat + getField (w 1) 0 8 * 2 ^ 32
    srcSp := getField (w 1) 8 3
    dstSp := getField (w 1) 12 3
    sealed := getField (w 1) 15 1 == 1
    evt := getField (w 1) 16 1 == 1
    pea := getField (w 1) 28 4
    task := getField (w 1) 22 6
    input := getField (w 1) 20 2
    dst := (w 2).toNat + getField (w 3) 24 8 * 2 ^ 32
    len := getField (w 3) 0 24 }

/-- The pea that an address in a pea space names, and the word or bundle there (R99). -/
def peaPart (a : Nat) : Nat × Nat := (a / 65536 % 16, a % 65536)

/-- Bytes of one word, or of one bundle, of a space (R99). -/
def unitOf (sp : Nat) : Nat := if sp = 4 then 8 else 4

/-- The seal window of a pea in a pea space: its first word and its length (R201). -/
def sealWindow (q sp : Nat) (s : State) : Nat × Nat :=
  if sp = 2 then (rd (KS_SEAL_X_BASE q) s, rd (KS_SEAL_X_LEN q) s)
  else if sp = 3 then (rd (KS_SEAL_Y_BASE q) s, rd (KS_SEAL_Y_LEN q) s)
  else (rd (KS_SEAL_P_BASE q) s, rd (KS_SEAL_P_LEN q) s)

/-- Does the range of a pea space meet a word in a locked seal window (R202)? -/
def meetsSeal (n sp a len : Nat) (s : State) : Bool :=
  let p := peaPart a
  let q := peaNo n p.1
  let w := sealWindow q sp s
  Nat.ble 2 sp && rdB (KS_SEAL_CTL_LOCK q) s && w.2 != 0 && Nat.blt p.2 (w.1 + w.2) && Nat.blt w.1 (p.2 + len / unitOf sp)

/-- Does a descriptor with SEAL meet the conditions of R200? -/
def sealOk (n : Nat) (d : DmaDesc) (s : State) : Bool :=
  let p := peaPart d.dst
  let w := sealWindow (peaNo n p.1) d.dstSp s
  d.srcSp == 0 && d.src % 4096 == 0 && d.len % 4096 == 0 && Nat.ble 2 d.dstSp && s.ks.gck &&
    ((List.range (d.len / 4096)).all fun i => s.ks.golden.any fun e => e.1 == d.src / 4096 + i) &&
    Nat.ble w.1 p.2 && Nat.ble (p.2 + d.len / unitOf d.dstSp) (w.1 + w.2)

/-- May a descriptor execute (R99, R100, R200, R202, R203)? -/
def descOk (n : Nat) (d : DmaDesc) (s : State) : Bool :=
  Nat.ble d.srcSp 4 && Nat.ble d.dstSp 4 && d.len != 0 && d.len % unitOf d.srcSp == 0 && d.len % unitOf d.dstSp == 0 &&
    d.len % 4 == 0 && !(d.evt && Nat.ble 9 d.pea) &&
    !(Nat.ble 2 d.srcSp && Nat.ble 9 (peaPart d.src).1) && !(Nat.ble 2 d.dstSp && Nat.ble 9 (peaPart d.dst).1) &&
    (if d.sealed then sealOk n d s
     else !meetsSeal n d.srcSp d.src d.len s && !meetsSeal n d.dstSp d.dst d.len s &&
       !(podSealed n s && d.srcSp != 0 && d.dstSp == 0))

/-- The DMA of a pod stops at a descriptor (R99, R573). -/
def dmaStop (n : Nat) (s : State) : State :=
  raise (101 + 10 * n) (0x4010 + n) 0
    (wr (POD_DMA_STAT_ERRIDX n) (rd (POD_DMA_QHEAD_HEAD n) s) (wr (POD_DMA_STAT_ERR n) 1 (wr (POD_DMA_STAT_BUSY n) 0 s)))

/-- A read of sealed words is refused and logged with the pod port and the address (R202, R615). -/
def logSealRead (n : Nat) (d : DmaDesc) (s : State) : State :=
  onlyIf (!d.sealed && meetsSeal n d.srcSp d.src d.len s) (raiseAccess (101 + 10 * n) 5 (0x10 + n) false false d.src) s

/-- A SEAL descriptor that breaks R200 stops the DMA in the way of a tag failure: the target window is zeroised, and no task
of that pea is enabled (R200, R204). -/
def sealFailure (n : Nat) (d : DmaDesc) (s : State) : State :=
  let p := (peaPart d.dst).1
  if Nat.ble 2 d.dstSp && Nat.blt p 9 && Nat.ble d.dstSp 4 then
    let q := peaNo n p
    let w := sealWindow q d.dstSp s
    let m := s.mem
    let m1 : MemSt :=
      if d.dstSp = 2 then { m with x := clearWindow (q * 65536 + w.1) w.2 m.x }
      else if d.dstSp = 3 then { m with y := clearWindow (q * 65536 + w.1) w.2 m.y }
      else { m with prog := clearWindow (q * 16384 + w.1) w.2 m.prog }
    forEach (List.range 64) (fun e t => wr (TASK_CFG_EN n p e) 0 t) { s with mem := m1 }
  else s

/-- The DMA starts the descriptor at HEAD when it may run: EN set, no error, nothing executing, and HEAD not at TAIL; one
that may not execute stops it (R98, R99). -/
def dmaKick (n : Nat) (s : State) : State :=
  if rdB (POD_DMA_QBASE_EN n) s && !rdB (POD_DMA_STAT_ERR n) s && !rdB (POD_DMA_STAT_BUSY n) s &&
      rd (POD_DMA_QHEAD_HEAD n) s % ringSize n s != rd (POD_DMA_QTAIL_TAIL n) s % ringSize n s then
    let d := descAt n (rd (POD_DMA_QHEAD_HEAD n) s % ringSize n s) s
    if descOk n d s then wr (POD_DMA_STAT_BUSY n) 1 s
    else dmaStop n (onlyIf d.sealed (sealFailure n d) (logSealRead n d s))
  else s

/-- POD_DMA_QTAIL (R98): the tail advances, and the DMA goes on. -/
def execPodDmaQtail (n : Fin 16) (tail : BitVec 10) (s : State) : Out :=
  .next (dmaKick n.val (wr (POD_DMA_QTAIL_TAIL n.val) tail.toNat s))

/-- POD_DMA_ERR_CLEAR (R131): clearing ERR resumes at HEAD. -/
def execPodDmaErrClear (n : Fin 16) (s : State) : Out :=
  .next (if rdB (POD_DMA_STAT_ERR n.val) s then dmaKick n.val (wr (POD_DMA_STAT_ERR n.val) 0 s) else s)

end Sys2Proof.Machine
end

