-- ==== Sys2Proof/Machine/RegMap.lean ====
section
/-! DEFINITION. Writing registers by the access types of their fields (R562-R564), and domain resets of islands (R559, R578,
R591) as far as they act on registers. -/

namespace Sys2Proof.Machine

/-- The bits of a register whose fields have an access type that the test names. -/
def accMask (p : Acc → Bool) (a : Nat) : Word :=
  match rowOf a with
  | none => 0
  | some r => (r.fields.filter fun f => p f.acc).foldl (fun m f => m ||| fieldMask f.lo f.w) 0

/-- The types that a software write sets to the value written. -/
def isPlain : Acc → Bool
  | .rw => true
  | .rwh => true
  | _ => false

/-- A software write as R562 has it: RW and RWH fields take the value, a 1 clears W1C bits and sets W1S bits, RO fields keep
theirs; WO and SC fields act as their own commands do. -/
def softWrite (a : Nat) (v : Word) (s : State) : State :=
  let pm := accMask isPlain a
  let cm := accMask (· == .w1c) a
  let sm := accMask (· == .w1s) a
  let old := rdReg a s
  wrReg a ((((old &&& ~~~pm) ||| (v &&& pm)) &&& ~~~(v &&& cm)) ||| (v &&& sm)) s

/-- Does the register at this address belong to the island (R558, R559)? What the key store shows of fuses
and of the boot region (R186, R189) outlasts a reset. -/
def inIsland (isl a : Nat) : Bool :=
  let rng := fun lo n => Nat.ble lo a && Nat.blt a (lo + n)
  if isl = 1 then rng 0x40100000 0x1000
  else if isl = 2 then rng 0x41000000 0x1000000
  else if isl = 3 then rng 0x42000000 0x10000
  else if isl = 4 then rng 0x45000000 0x4000
  else if isl = 5 then rng 0x45100000 0x1000
  else if isl = 6 then rng 0x4A000000 0x2000 && !rng 0x4A000008 0xA8 && !rng 0x4A000400 0x200
  else if isl = 7 then rng 0x4B000000 0x1000
  else if 8 ≤ isl ∧ isl ≤ 25 then
    rng (0x43000000 + (isl - 8) * 0x1000) 0x1000 || rng (0x43020000 + (isl - 8) * 0x40) 0x40
  else if isl = 26 then a == 0x43030000 || rng 0x43100000 0x1000
  else if isl = 27 then rng 0x43200000 0x8000
  else if isl = 28 then rng 0x4F000000 0x4000
  else if isl = 29 then rng 0x44010000 0x1000 || rng 0x47000000 0x1000
  else if 30 ≤ isl ∧ isl ≤ 45 then rng (0x44000000 + (isl - 30) * 0x1000) 0x1000
  else if 46 ≤ isl ∧ isl ≤ 57 then rng (0x44100000 + (isl - 46) * 0x400) 0x400 || rng (0x44300000 + (isl - 46) * 0x200) 0x200
  else if isl = 58 then rng 0x44200000 0x11000
  else if isl = 59 then rng 0x44500000 0x800
  else if isl = 60 then rng 0x44400000 0x1A000
  else if 61 ≤ isl ∧ isl ≤ 92 then rng (0x46000000 + (isl - 61) * 0x400) 0x400
  else if isl = 93 then rng 0x48000000 0x2000
  else if isl = 94 then rng 0x48100000 0x1000 || a == 0x48102000
  else if isl = 95 then rng 0x48101000 0x1000
  else if isl = 96 then rng 0x49000000 0x1000
  else if 97 ≤ isl ∧ isl ≤ 100 then rng (0x49001000 + (isl - 97) * 0x100) 0x100
  else if 101 ≤ isl ∧ isl ≤ 260 then
    let n := (isl - 101) / 10
    let p := (isl - 101) % 10
    let lo := 0x40200000 + n * 0x10000
    if p = 0 then rng lo 0x1000 else rng (lo + p * 0x1000) 0x1000
  else false

/-- Every register of the island holds its reset value (R578). -/
def resetRegs (isl : Nat) (s : State) : State := { s with regs := mapDrop (inIsland isl) s.regs }

/-- A domain reset of an island is requested (R578): a request for one already in reset joins it; each reset is logged and
counted. -/
def requestReset (isl : Nat) (s : State) : State :=
  if inReset isl s then s
  else
    raise 265 (0xE000 + isl) 0
      (count (ISL_CNT_RST_COUNT isl) (ISL_STAT_RST_SAT isl) 265 (wr (ISL_STAT_STATE isl) 2 (wr (ISL_CTL_RESET isl) 1 s)))

end Sys2Proof.Machine
end

