-- ==== Sys2Proof/Machine/FieldBus.lean ====
section
/-! DEFINITION. The cabinet field bus (R430-R437). -/

namespace Sys2Proof.Machine

/-- Change the field bus' part of the state. -/
def onFb (f : FbSt → FbSt) (s : State) : State := { s with fb := f s.fb }

/-- Count a report that is refused (R432, R434). -/
def badReport (p : Nat) (s : State) : State := count (FB_CNT2_BADRPT_COUNT p) (FB_STAT_BADRPT_SAT p) 60 s

/-- `n` bytes of a payload from byte `i`, big-endian (R433). -/
def bigEnd (bs : List (BitVec 8)) (i n : Nat) : Nat := ((List.range n).map fun j => ((bs[i + j]?).getD 0).toNat).foldl (fun a b => a * 256 + b) 0

/-- Is a frame for the port: its address, or broadcast? -/
def fbForMe (p : Nat) (dst : BitVec 48) (s : State) : Bool :=
  dst.toNat == 2 ^ 48 - 1 || dst.toNat == rd (FB_ADDR_HI_ADDR p) s * 2 ^ 32 + rd (FB_ADDR_LO_ADDR p) s

/-- The checks of R434 but that of SEQ. -/
def reportBound (p : Nat) (bs : List (BitVec 8)) (s : State) : Bool :=
  let c := bigEnd bs 1 1
  let ident := rd (CAB_IDENT_LO_IDENT c) s + rd (CAB_IDENT_HI_IDENT c) s * 2 ^ 32
  bigEnd bs 0 1 == 1 && Nat.ble c 62 && rdB (CAB_BIND_EN c) s && rd (CAB_BIND_PORT c) s == p &&
    (ident == 0 || bigEnd bs 4 8 == ident)

/-- Rook takes a usable TAMB (R436). -/
def useReport (c : Nat) (bs : List (BitVec 8)) (s : State) : State :=
  let t := toSigned 16 (bigEnd bs 12 2)
  if bigEnd bs 24 2 % 2 = 1 ∧ -400 ≤ t ∧ t ≤ 1250 then
    onFb (fun f => { f with live := c :: f.live.filter (· != c) })
      (wr (CAB_AGE_AGE c) 0 { s with rook := { s.rook with ta := mapSet (fun _ => 0) s.rook.ta c t } })
  else s

/-- An accepted report is written whole into the cabinet's entry (R434). -/
def takeReport (p c : Nat) (bs : List (BitVec 8)) (s : State) : State :=
  let s1 := wr (CAB_SEQ_FLAGS c) (bigEnd bs 24 2) (wr (CAB_SEQ_SEQ c) (bigEnd bs 2 2) s)
  let s2 := wr (CAB_TEMP_TSINK c) (bigEnd bs 14 2) (wr (CAB_TEMP_TAMB c) (bigEnd bs 12 2) s1)
  let s3 := wr (CAB_TILT_ROLL c) (bigEnd bs 18 2) (wr (CAB_TILT_PITCH c) (bigEnd bs 16 2) s2)
  let s4 := wr (CAB_FAN_FAN1 c) (bigEnd bs 22 2) (wr (CAB_FAN_FAN0 c) (bigEnd bs 20 2) s3)
  useReport c bs (seqNext (FB_SEQ_REPORT_SEQUENCE p) (onFb (fun f => { f with seen := c :: f.seen.filter (· != c) }) s4))

/-- CABINET_REPORT (R432-R436): a report arrives on a port at `ns`. A repeat is dropped silently. -/
def execCabinetReport (p : Fin 4) (dst : BitVec 48) (bytes : List (BitVec 8)) (ns : BitVec 64) (s : State) : Out :=
  let p := p.val
  let c := bigEnd bytes 1 1
  let recent := (mapGet (fun _ => []) s.fb.times c).filter fun t => Nat.blt ns.toNat (t + 1000000000)
  .next (if !rdB (FB_CFG_EN p) s || !fbForMe p dst s then s
    else if !reportBound p bytes s then badReport p s
    else
      match (if s.fb.seen.contains c then serialCmp 16 (bigEnd bytes 2 2) (rd (CAB_SEQ_SEQ c) s) else .later 1) with
      | .later _ =>
        if Nat.ble 100 recent.length then badReport p s
        else takeReport p c bytes (onFb (fun f => { f with times := mapSet (fun _ => []) f.times c (ns.toNat :: recent) }) s)
      | .outOfWindow => badReport p s
      | _ => s)

/-- FB_FRAME_RECEIVE (R437): another frame for the port goes whole into the receive window, `waiting` frames of which
firmware has not read yet. -/
def execFbFrameReceive (p : Fin 4) (dst : BitVec 48) (bytes : List (BitVec 8)) (waiting : BitVec 12) (s : State) : Out :=
  let p := p.val
  let l := mapGet (fun _ => []) s.fb.rx p
  let held := l.drop (l.length - waiting.toNat)
  .next (if !rdB (FB_CFG_EN p) s || !fbForMe p dst s then s
    else if Nat.ble ((held.map List.length).sum + bytes.length) 16384 then
      onFb (fun f => { f with rx := mapSet (fun _ => []) f.rx p (held ++ [bytes]) }) s
    else count (FB_CNT2_RXOVF_COUNT p) (FB_STAT_RXOVF_SAT p) 60 s)

/-- The frame in a port's transmit window (R437). -/
def fbFrame (p : Nat) (s : State) : List (BitVec 8) :=
  (List.range (rd (FB_TXCTL_LEN p) s)).map fun i => mapGet (fun _ => 0) s.fb.tx (p * 2048 + i)

/-- The frame has been sent, or given up: GO clears. -/
def fbDone (p : Nat) (sent : Bool) (s : State) : State :=
  let f := fbFrame p s
  wrB (FB_TXCTL_GO p) false (onFb (fun q => { q with
    sent := if sent then mapSet (fun _ => []) q.sent p f else q.sent
    attempts := mapSet (fun _ => 0) q.attempts p 0
    backoff := mapErase p q.backoff }) s)

/-- FB_TX_GO (R437): firmware sends the transmit window; `sent`: the frame meets no collision. A length outside 60 to 1,514
is refused, and a GO while a frame is on its way changes nothing. -/
def execFbTxGo (p : Fin 4) (len : BitVec 11) (sent : Bool) (s : State) : Out :=
  let p := p.val
  .next (if rdB (FB_TXCTL_GO p) s || !rdB (FB_CFG_EN p) s then s
    else if Nat.blt len.toNat 60 || Nat.blt 1514 len.toNat then wrB (FB_STAT_CFGERR p) true s
    else
      let s1 := wrB (FB_TXCTL_GO p) true (wr (FB_TXCTL_LEN p) len.toNat s)
      if sent then fbDone p true s1 else s1)

/-- FB_COLLISION (R430): every collision counts; the frame on its way backs off for a random number of slots, or is dropped
at its sixteenth. -/
def execFbCollision (p : Fin 4) (s : State) : Out :=
  let p := p.val
  .next (if !rdB (FB_CFG_EN p) s then s
    else
      let s1 := count (FB_CNT_COLL_COUNT p) (FB_STAT_COLL_SAT p) 60 s
      if !rdB (FB_TXCTL_GO p) s then s1
      else
        let a := mapGet (fun _ => 0) s.fb.attempts p + 1
        if a = 16 then count (FB_CNT_EXCOLL_COUNT p) (FB_STAT_EXCOLL_SAT p) 60 (fbDone p false s1)
        else freeNext (onFb (fun f => { f with
          attempts := mapSet (fun _ => 0) f.attempts p a
          backoff := mapInsert p ((freeVal 10 s1).toNat % 2 ^ min a 10) f.backoff }) s1))

/-- FB_BACKOFF_END (R430): the frame is tried again; `sent`: it meets no collision. -/
def execFbBackoffEnd (p : Fin 4) (sent : Bool) (s : State) : Out :=
  let p := p.val
  .next (if rdB (FB_TXCTL_GO p) s && (mapKeys s.fb.backoff).contains p then
    let s1 := onFb (fun f => { f with backoff := mapErase p f.backoff }) s
    if sent then fbDone p true s1 else s1
  else s)

/-- PLCA_BEACON (R431). -/
def execPlcaBeacon (p : Fin 4) (s : State) : Out :=
  .next (if rdB (FB_CFG_PLCA p.val) s && rdB (FB_CFG_EN p.val) s then wrB (FB_STAT_PLCAOK p.val) true s else s)

/-- PLCA_BEACON_TIMEOUT (R431): no beacon for 4 × NODECNT × TOTMR bit times; the port falls back to CSMA/CD. -/
def execPlcaBeaconTimeout (p : Fin 4) (s : State) : Out :=
  .next (if rdB (FB_CFG_PLCA p.val) s then wrB (FB_STAT_PLCAOK p.val) false s else s)

/-- CAB_AGE_LAPSE (R436): CAB_AGE reaches 10,000 ms; logged once per lapse. -/
def execCabAgeLapse (c : Fin 63) (s : State) : Out :=
  let c := c.val
  .next (if s.fb.live.contains c then
    raise 60 (0xA600 + c) 0 (wr (CAB_AGE_AGE c) (max 10000 (rd (CAB_AGE_AGE c) s))
      (onFb (fun f => { f with live := f.live.filter (· != c) }) s))
  else s)

/-- The ages move on by a millisecond, every 24 blocks (R436). -/
def fbTick (s : State) : State :=
  if s.tl.k.toNat % 24 == 0 then
    forEach (s.fb.seen.filter fun c => Nat.blt (rd (CAB_AGE_AGE c) s) 0xFFFF) (fun c t => wrSat (CAB_AGE_AGE c) (rd (CAB_AGE_AGE c) t + 1) t) s
  else s

end Sys2Proof.Machine
end

