-- ==== Sys2Proof/Machine/Graph.lean ====
section
/-! DEFINITION. The signal graph (R133-R167): intake and silence detection, the output guard, transfers, buses, meters and
table changes. -/

namespace Sys2Proof.Machine

/-- The island of the graph (R167). -/
def islGraph : Nat := 2

/-! ### Which tables are in force (R137) -/

/-- A field in force for the data block being assembled: the front-end words that have changed ahead of the active copy. -/
def rdAhead (f : FRef) (s : State) : Nat := rdWith (fun a => mapGet (fun b => rdReg b s) s.graph.ahead a) f

/-- A field in force for the data block being put out: the output words that have changed since keep their old value. -/
def rdBehind (f : FRef) (s : State) : Nat := rdWith (fun a => mapGet (fun b => rdReg b s) s.graph.behind a) f

/-! ### Silence detection (R152-R154) -/

/-- A detector. -/
def getDet (c : Nat) (s : State) : DetSt := mapGet (fun _ => ⟨0, false, 0⟩) s.graph.dets c

/-- Set a detector. -/
def setDet (c : Nat) (d : DetSt) (s : State) : State :=
  onGraph (fun g => { g with dets := mapSet (fun _ => ⟨0, false, 0⟩) g.dets c d }) s

/-- Does a magnitude reach −`db` dBFS: is m ≥ 2^23 · 10^(−db/20)? -/
def reachesDb (m db : Nat) : Bool := Nat.ble (2 ^ 460) (m ^ 20 * 10 ^ db)

/-- Is the target of the input trim off (R147, R152)? -/
def trimOff (c : Nat) (s : State) : Bool := rdAhead (FE_CFG_MUTE c) s == 1 || rdAhead (FE_TRIM_GAIN c) s == 0x8000

/-- Close a gate. -/
def closeGate (c : Nat) (s : State) : State :=
  wrB (FE_STAT_GATE c) false (onGraph (fun g => { g with openGates := g.openGates.filter (· != c) }) s)

/-- Open a gate; the wake requests of its activity groups rise (R154, R250, R257). -/
def openGate (c : Nat) (s : State) : State :=
  if rdB (FE_STAT_GATE c) s then s
  else
    let gs := (List.range 64).filter fun ag => actMember ag c s && !wakeStands ag s
    let s1 := wrB (FE_STAT_GATE c) true (onGraph (fun g => { g with openGates := c :: g.openGates }) s)
    forEach gs (fun ag t => wakeRails ag (wakeGroups ag t)) s1

/-- The nominal L rates of R169, in Hz. -/
def lRateHz (code : Nat) : Nat :=
  match code with
  | 0 => 44100
  | 1 => 88200
  | 2 => 176400
  | 3 => 48000
  | 4 => 96000
  | _ => 192000

/-- The rate at which a channel is tested (R152). -/
def testHz (c : Nat) (s : State) : Nat :=
  if c < 2048 then s.nS * 24000 else lRateHz (rd (BRG_CFG_LRATE (2 * ((c - 2048) / 32))) s)

/-- The samples in a row below THRESH − HYST up to data block `k`; those that never came count (R152: HOLD is counted in samples of
the rate, log entry 37: DEDUCED). -/
def quietSamples (c k : Nat) (s : State) : Nat :=
  let d := getDet c s
  d.below + (if d.upTo = 0 then 0 else (k - d.upTo) * testHz c s / 24000)

/-- A raw sample reaches a channel's detector for data block `k` (R152, R153). The detector's own high-pass is given by its
response alone: what it makes of a signal is free, but zeros give zeros (log entry 34: DESIGN CHOICE). -/
def detect (c k : Nat) (x : DWord) (s : State) : State :=
  let d := getDet c s
  let dirty := d.dirty || x != 0
  let r := if dirty then pickSamp s else (0, s)
  let m := (sInt r.1).natAbs
  let th := rdAhead (FE_CFG_THRESH c) r.2
  let hy := rdAhead (FE_CFG_HYST c) r.2
  let s1 := setDet c ⟨if reachesDb m (th + hy) then 0 else quietSamples c k s + 1, dirty, max d.upTo (k + 1)⟩ r.2
  let s2 := if trimOff c s1 then closeGate c s1 else if reachesDb m th then openGate c s1 else s1
  onlyIf (rdB (FE_STAT_GATE c) s2) (markDone k skGATE c) s2

/-- HOLD in samples of the rate at which the channel is tested (R152). -/
def holdSamples (c : Nat) (s : State) : Nat :=
  (rdAhead (FE_HOLD_HOLD c) s * testHz c s + 500) / 1000

/-- GATE_HOLD_EXPIRY (R152). -/
def execGateHoldExpiry (c : Fin 3072) (s : State) : Out :=
  .next (if rdB (FE_STAT_GATE c.val) s && Nat.ble (holdSamples c.val s) (quietSamples c.val s.tl.k.toNat s) then closeGate c.val s else s)

/-! ### The channel front-end (R143-R147) -/

/-- The settled factor of the input trim. -/
def trimTarget (c : Nat) (s : State) : Nat := gainTarget (rd (FE_TRIM_GAIN c) s) (rdB (FE_CFG_MUTE c) s)

/-- A raw sample of data block `k` is taken in for the front-end (R137). -/
def feTake (c k i : Nat) (x : DWord) (s : State) : State := setSamp k skRAW c i x (markDone k skFE c s)

/-- A network sample is taken in at once: detector, then front-end (R137, R152). -/
def feIntake (c k i : Nat) (x : DWord) (s : State) : State := feTake c k i x (detect c k x s)

/-- A sample of data block `k` passes the front-end stages under the words in force for that block (R137, R143). With no filter
selected and none fading the trim alone acts; what a filter makes of a signal is free, but zeros give zeros (log entry 34: DESIGN
CHOICE). -/
def feSample (c k i : Nat) (s : State) : State :=
  let x := getSamp k skRAW c i s
  let fade := mapGet (fun _ => 0) s.graph.feFade c
  let s1 := onGraph (fun g => { g with feFade := mapSet (fun _ => 0) g.feFade c (fade - 1) }) s
  let g := gainStep (FE_TRIM_GAIN c).addr (trimTarget c s1) s1
  let plain := !rdB (FE_CFG_DCB c) s && c < 2048 && rd (FE_CFG_HPF_F c) s == 0 && fade == 0
  let r := if plain then (toSamp (applyGain (sInt x) g.1), g.2)
    else if (getDet c s).dirty || x != 0 then pickSamp g.2 else (0, g.2)
  setSamp k skFE c i r.1 r.2

/-- A channel's data block passes the front-end, and PEAK shows the largest magnitude that the router carries (R143, R167, log entry
37: DEDUCED). -/
def feBlock (k c : Nat) (s : State) : State :=
  let s1 := forEach (List.range s.nS) (fun i t => feSample c k i t) s
  wr (FE_STAT_PEAK c) ((getSamps k skFE c s1).foldl (fun a x => max a (sInt x).natAbs) 0) s1

/-- The front-end channels with something to do in data block `k`: samples came, a trim or a filter moves, or a filter rings. -/
def feLive (k : Nat) (s : State) : List Nat :=
  let came := s.graph.done.filterMap fun (a, _) => if a / 8192 == k * 8 + skFE then some (a % 8192) else none
  let moving := s.graph.gains.filterMap fun (a, _) => if Nat.ble 0x41040000 a && Nat.blt a 0x4104C000 then some ((a - 0x41040000) / 16) else none
  let ringing := s.graph.dets.filterMap fun (c, d) => if d.dirty then some c else none
  (came ++ moving ++ mapKeys s.graph.feFade ++ ringing).eraseDups

/-- The front-end processes data block `k` (R137, R143). -/
def feProcess (k : Nat) (s : State) : State :=
  let old := s.regs.filter fun e => Nat.ble 0x41040000 e.1 && Nat.blt e.1 0x4104C000 && e.1 % 16 == 12
  let s1 := forEach old (fun e t => wr (FE_STAT_PEAK ((e.1 - 0x41040000) / 16)) 0 t) s
  if rdB SG_CTL_RUN s then forEach (feLive k s1) (fun c t => feBlock k c t) s1 else s

/-! ### The output guard (R121-R123, R128) -/

/-- A guard. -/
def getGuard (key : Nat) (s : State) : GuardSt := mapGet (fun _ => ⟨0, 0, none, none, 0⟩) s.graph.guards key

/-- Set a guard. -/
def setGuard (key : Nat) (g : GuardSt) (s : State) : State :=
  onGraph (fun q => { q with guards := mapSet (fun _ => ⟨0, 0, none, none, 0⟩) q.guards key g }) s

/-- The hold shape of one missed block (R122): the last sample, then a fade over two blocks, then zero. -/
def holdShape (last : Int) (run n : Nat) : List Int :=
  (List.range n).map fun i =>
    if run = 0 then last
    else if run < 3 then
      let j := (run - 1) * n + i + 1
      rndDiv (last * ((2 * n : Nat) - j : Int)) (2 * n)
    else 0

/-- The fade-in after a longer run: linear over 240 blocks (R122). -/
def fadeIn (xs : List Int) (j n : Nat) : List Int :=
  xs.zipIdx.map fun e => if 240 * n ≤ j + e.2 + 1 then e.1 else rndDiv (e.1 * (j + e.2 + 1 : Nat)) (240 * n)

/-- What the guard presents for a block with these own samples, or none (R122), and its next state. A missed block ends a fade-in, since
after a run of one block the first valid block passes unchanged (log entry 38: DEDUCED). -/
def guardStep (g : GuardSt) (own : Option (List Int)) (n : Nat) : List Int × GuardSt :=
  match own with
  | some xs =>
    match (if Nat.ble 2 g.run then some 0 else g.fading) with
    | none => (xs, { g with last := xs.getLast?.getD 0, run := 0 })
    | some j =>
      let ys := fadeIn xs j n
      (ys, { g with last := ys.getLast?.getD 0, run := 0, fading := if Nat.ble (240 * n) (j + n) then none else some (j + n) })
  | none => (holdShape g.last g.run n, { g with run := g.run + 1, fading := none })

/-- The entry that owns an output slot of a pod (R121): enabled, or a HOT task that its duplicate covers (R127). -/
def slotOwner (n slot : Nat) (s : State) : Option (Nat × Nat) :=
  ((List.range 9).flatMap fun p => (List.range 64).map fun e => (p, e)).find? fun o =>
    (taskOn n o.1 o.2 s || (rdB (TASK_CTL_MOVED n o.1 o.2) s && rdB (TASK_CFG_HOT n o.1 o.2) s)) &&
    Nat.ble (rd (TASK_OUT_OUT_FIRST n o.1 o.2) s) slot &&
    Nat.blt slot (rd (TASK_OUT_OUT_FIRST n o.1 o.2) s + rd (TASK_OUT_OUT_NUM n o.1 o.2) s)

/-- The word of a block-buffer slot for data block `k` (R96, R135). -/
def slotWord (n k slot i : Nat) (s : State) : Nat :=
  rd (POD_BBUF_BASE n) s * 4096 + (k % 3) * rd (POD_BBUF_SIZE n) s * 4096 + 8 * slot + i

/-- The samples of an output slot as the task left them (R135). -/
def slotSamples (n k slot : Nat) (s : State) : List Int :=
  (List.range s.nS).map fun i => ((rdShared n (slotWord n k slot i s) s).setWidth 24).toInt

/-- The shadow of a slot that is valid for the data block (R121). -/
def shadowSamples (n k slot : Nat) (o : Nat × Nat) (s : State) : Option (List Int) :=
  match duplicateOf n o.1 o.2 s with
  | some x =>
    let sh := rd (TASK_OUT_OUT_FIRST n 8 x) s + (slot - rd (TASK_OUT_OUT_FIRST n o.1 o.2) s)
    if markValid n sh k s then some (slotSamples n k sh s) else none
  | none => none

/-- The partner's copy of a slot that has arrived (R314, R319, R335). -/
def partnerSlot (n k slot : Nat) (s : State) : Option (List Int) :=
  if paired s && rdB DRN_STAT_MATCH s && rdB DRN_STAT_LOCKSTEP s then
    match mapGet (fun _ => []) s.pair.slots (slotKey k n slot) with
    | [] => none
    | l => some (l.map fun w => (w.setWidth 24).toInt)
  else none

/-- Is the slot one of a task under repair or migration (R128)? -/
def underRepair (n slot : Nat) (s : State) : Bool :=
  (getRepairs n s).any fun r => r.copies.any fun c =>
    Nat.ble (rd (TASK_OUT_OUT_FIRST n 8 c.2) s) slot &&
    Nat.blt slot (rd (TASK_OUT_OUT_FIRST n 8 c.2) s + rd (TASK_OUT_OUT_NUM n 8 c.2) s)

/-- The crossfade from the partner's output to the spare's over 10 ms (R128). -/
def crossMix (par own : List Int) (j n : Nat) : List Int :=
  (par.zip own).zipIdx.map fun e =>
    let i := j + e.2 + 1
    if 240 * n ≤ i then e.1.2 else rndDiv (e.1.1 * ((240 * n : Nat) - i : Int) + e.1.2 * i) (240 * n)

/-- The guard's output of a slot for data block `k` (R121-R123, R128) and its next state. -/
def guardOut (n slot k : Nat) (s : State) : List Int × GuardSt :=
  let g := getGuard (n * 512 + slot) s
  let o := slotOwner n slot s
  let par := partnerSlot n k slot s
  let own := if !rdB TEMPO_CTL_EN s || markValid n slot k s then some (slotSamples n k slot s)
    else match o with
      | some q => shadowSamples n k slot q s
      | none => none
  match own, par with
  | some xs, some ps =>
    match g.cross with
    | some j =>
      let ys := crossMix ps xs j s.nS
      (ys, { g with last := ys.getLast?.getD 0, run := 0, fading := none
                    cross := if Nat.ble (240 * s.nS) (j + s.nS) then none else some (j + s.nS) })
    | none => guardStep g (some xs) s.nS
  | some xs, none => guardStep { g with cross := none } (some xs) s.nS
  | none, some ps =>
    let cls := match o with
      | some q => rd (TASK_CFG_CLASS n q.1 q.2) s
      | none => 0
    if cls != 0 || underRepair n slot s then
      (ps, { g with last := ps.getLast?.getD 0, run := 0, fading := none
                    cross := if underRepair n slot s then some 0 else g.cross })
    else guardStep g none s.nS
  | none, none => guardStep g none s.nS

/-- The guard's output of a slot for data block `k`, evaluated once (R121). -/
def guardRead (n slot k : Nat) (s : State) : List DWord × State :=
  let key := n * 512 + slot
  if (getGuard key s).evaluated = k + 1 then (getSamps k skSLOT key s, s)
  else
    let r := guardOut n slot k s
    let ys := r.1.map toSamp
    (ys, setSamps k skSLOT key ys (setGuard key { r.2 with evaluated := k + 1 } s))

/-! ### Sources and destinations (R133-R138) -/

/-- The samples of a source entry for data block `k` (R133). -/
def sourceSamples (i k : Nat) (s : State) : List DWord × State :=
  let idx := rd (SRC_ENT_INDEX i) s
  match rd (SRC_ENT_KIND i) s with
  | 1 => (getSamps k skFE idx s, s)
  | 2 => (getSamps k skFE (2048 + idx) s, s)
  | 3 => guardRead (idx / 512) (idx % 512) k s
  | 4 => (getSamps k skBUS idx s, s)
  | _ => ((List.range s.nS).map fun _ => 0, s)

/-- The members of an event group (R138). -/
def groupMembers (g : Nat) (s : State) : Nat :=
  ((listedDests s).filter fun d => rdB (DST_CFG_EN d) s && rd (DST_CFG_KIND d) s == 1 && rd (DST_CFG_GRP d) s == g).length

/-- A member of an event group has been written for data block `k`; with the last, the router posts one event (R138). -/
def groupWritten (d k : Nat) (s : State) : State :=
  let g := rd (DST_CFG_GRP d) s
  if 512 ≤ g || delivered k skBUS (4096 + d) s then s
  else
    let key := doneKey k skGATE (4096 + g)
    let n := mapGet (fun _ => 0) s.graph.done key + 1
    let s1 := onGraph (fun q => { q with done := mapSet (fun _ => 0) q.done key n }) (markDone k skBUS (4096 + d) s)
    if n = groupMembers g s1 && rdB (EVG_CFG_EN g) s1 then
      postEvent (rd (EVG_TGT_POD g) s1) (rd (EVG_TGT_PEA g) s1) (rd (EVG_TGT_TASK g) s1) (rd (EVG_TGT_INPUT g) s1) s1
    else s1

/-- Write the samples of a task input slot (R96, R135): sign-extended to 32 bits. -/
def writeSlot (idx k : Nat) (xs : List DWord) (s : State) : State :=
  forEach xs.zipIdx (fun e t => wrShared (idx / 1024) (slotWord (idx / 1024) k (512 + idx % 512) e.2 t) (e.1.signExtend 32) t) s

/-- A transfer into a task input slot for data block `k`. -/
def transferIn (d k : Nat) (s : State) : State :=
  let r := sourceSamples (rd (DST_CFG_SRC d) s) k s
  groupWritten d k (writeSlot (rd (DST_IDX_INDEX d) s) k r.1 r.2)

/-- Is the destination an enabled task input slot whose source is of one of these kinds? -/
def isInput (d : Nat) (kinds : List Nat) (s : State) : Bool :=
  rdB SG_CTL_RUN s && rdB (DST_CFG_EN d) s && rd (DST_CFG_KIND d) s == 1 &&
    kinds.contains (rd (SRC_ENT_KIND (rd (DST_CFG_SRC d) s)) s)

/-- ROUTER_ASSEMBLY (R137): a front-end channel or the zero source, for the data block of the last block. -/
def execRouterAssembly (d : Fin 4096) (s : State) : Out :=
  .next (onlyIf (isInput d.val [0, 1, 2] s) (transferIn d.val (dataBlock 1 s)) s)

/-- ROUTER_FORWARDING (R137): an output slot through the guard; `crossed` says that a block boundary has passed since the
producing instance's block. -/
def execRouterForwarding (d : Fin 4096) (crossed : Bool) (s : State) : Out :=
  .next (onlyIf (isInput d.val [3] s) (transferIn d.val (dataBlock (if crossed then 2 else 1) s)) s)

/-- BUS_DELIVERY (R137). -/
def execBusDelivery (d : Fin 4096) (crossed : Bool) (s : State) : Out :=
  .next (onlyIf (isInput d.val [4] s) (transferIn d.val (dataBlock (if crossed then 2 else 1) s)) s)

/-- The crossfade of a destination between its old and its new source (R141): linear in amplitude, sample by sample. -/
def crossDest (d k : Nat) (s : State) : List Int × State :=
  let r := sourceSamples (rdBehind (DST_CFG_SRC d) s) k s
  match s.graph.xfades.find? fun e => e.1 == d with
  | none => (r.1.map sInt, r.2)
  | some (_, x) =>
    let q := sourceSamples x.old k r.2
    let ys := (q.1.zip r.1).zipIdx.map fun e =>
      let j := x.i + e.2 + 1
      if x.len ≤ j then sInt e.1.2 else rndDiv (sInt e.1.1 * ((x.len : Int) - j) + sInt e.1.2 * j) x.len
    let i := x.i + s.nS
    (ys, onGraph (fun g => { g with
      xfades := if x.len ≤ i then mapErase d g.xfades else mapInsert d { x with i := i } g.xfades }) q.2)

/-- The crossfade and the gain ramp of a destination that is not enabled run on (R141, R150). -/
def destIdle (d : Nat) (s : State) : State :=
  let s1 := gainSkip (DST_GAIN_GAIN d).addr s.nS s
  match s.graph.xfades.find? fun e => e.1 == d with
  | none => s1
  | some (_, x) => onGraph (fun g => { g with
      xfades := if x.len ≤ x.i + s.nS then mapErase d g.xfades else mapInsert d { x with i := x.i + s.nS } g.xfades }) s1

/-- Samples through a gain element, sample by sample (R150). -/
def gainSamples (addr target : Nat) : List Int → State → List Int × State
  | [], s => ([], s)
  | x :: r, s =>
    let g := gainStep addr target s
    let q := gainSamples addr target r g.2
    (applyGain x g.1 :: q.1, q.2)

/-- The settled factor of a destination's output gain. -/
def destTarget (d : Nat) (s : State) : Nat := gainTarget (rdBehind (DST_GAIN_GAIN d) s) (rdBehind (DST_CFG_MUTE d) s == 1)

/-! ### Meters (R162-R165, R212, R213) -/

/-- The effective window of a meter in blocks (R162, R212). -/
def meterWin (m : Nat) (tainted : Bool) (s : State) : Nat :=
  let w := max (rdBehind (MTR_CFG_WIN m) s) 1
  if tainted then max w (ceilDiv 24000 (max s.image.qrate 1)) else w

/-- The whole square root. -/
def isqrt (n : Nat) : Nat := bisect (fun m => Nat.ble (m * m) n) 25 0

/-- The reduction −20 log10 g of a linear gain in Q0.23, in steps of 0.01 dB, rounded up (R163). It is never a whole step but at 0
and at 144.00 dB. -/
def reductionOf (x : Int) : Nat :=
  if 0x7FFF00 ≤ x then 0
  else if x ≤ 0 then 14400
  else bisect (fun n => Nat.ble n 14400 && Nat.ble (x.toNat ^ 2000 * 10 ^ n) (2 ^ 46000)) 14 0 + 1

/-- The reduction of a record: free between the steps on either side of the true one (log entry 35: DEDUCED). -/
def reductionShown (up : Nat) (s : State) : Nat × State :=
  if up = 0 then (0, s) else if up = 14400 then (14400, s) else pickNat (up - 1) up s

/-- A meter takes one block of its source (R162, R163). -/
def meterTake (m k : Nat) (xs : List DWord) (tainted : Bool) (s : State) : State :=
  if rdBehind (MTR_CFG_EN m) s == 0 then s
  else
    let gen := mapGet (fun _ => BitVec.ofNat 16 (rd GLB_GEN_GEN s)) s.tl.gens k
    let win := meterWin m tainted s
    let fresh : MeterSt := ⟨k, 0, 0, 0, 0, 0, 0, gen, false, k % win != 0, false⟩
    let q := match s.graph.meters.find? fun e => e.1 == m with
      | some (_, q) => if q.count = 0 then { fresh with partly := q.partly && k % win != 0 } else q
      | none => fresh
    let gr := rdBehind (MTR_CFG_GR m) s == 1
    let mags := xs.map fun x => (sInt x).natAbs
    let q1 := { q with
      count := q.count + 1
      mixed := q.mixed || q.gen != gen
      gen := gen
      tainted := q.tainted || tainted }
    let q2 := if gr then { q1 with gr := xs.foldl (fun a x => max a (reductionOf (sInt x))) q1.gr }
      else { q1 with
        peak := mags.foldl max q1.peak
        sumSq := mags.foldl (fun a x => a + x * x) q1.sumSq
        samples := q1.samples + mags.length
        clip := q1.clip + (mags.filter fun x => Nat.ble (rdBehind (MTR_CLIP_CLIPTH m) s) x).length }
    onGraph (fun g => { g with meters := mapInsert m q2 g.meters }) s

/-- The root of `n`/`d`, whose whole part is `r`: `r` where it is exact, else free between `r` and the next number (log entry 35: DEDUCED). -/
def nearRoot (n d r : Nat) (s : State) : Nat × State := if r * r * d = n then (r, s) else pickNat r (r + 1) s

/-- The root of the mean square (R162). -/
def rmsOf (q : MeterSt) (s : State) : Nat × State :=
  if q.samples = 0 then (0, s) else nearRoot q.sumSq q.samples (isqrt (q.sumSq / q.samples)) s

/-- A level on the grid of QSTEP (R212): the largest multiple n of the step, in 0.1 dB below full scale, to which the
magnitude rounds; a tie rounds to the lower level. -/
def quantSteps (m qstep : Nat) : Nat :=
  bisect (fun n => n != 0 && Nat.ble (m ^ 400 * 10 ^ ((2 * n - 1) * qstep)) (2 ^ 9200)) 11 0

/-- A quantised level as a magnitude (R212): round(2^23 · 10^(q/20)), 0 where the level itself lies below −120 dB (log entry 35:
DEDUCED). -/
def quantMag (m qstep : Nat) : Nat :=
  if m * 10 ^ 6 < 2 ^ 23 then 0
  else
    let q := quantSteps m qstep * qstep
    min (2 ^ 23) (bisect (fun n => Nat.ble ((2 * n - 1) ^ 200 * 10 ^ q) (2 ^ 4800)) 24 0)

/-- A quantised reduction: the multiple of QSTEP, in 0.01 dB, nearest to one that rounds up to `up` (R212). -/
def quantGr (up qstep : Nat) : Nat := ((if up = 14400 then up else up - 1) + 5 * qstep) / (10 * qstep) * (10 * qstep)

/-- The record of a window (R162-R165): words 0 to 6 without SEQ. -/
def meterWords (m : Nat) (q : MeterSt) (s : State) : List Word × State :=
  let gr := rdBehind (MTR_CFG_GR m) s == 1
  let r := rmsOf q s
  let d := reductionShown q.gr r.2
  let qs := max s.image.qstep 1
  let lvl := fun x => if q.tainted then quantMag x qs else x
  let b := fun (c : Bool) (n : Nat) => if c then 2 ^ n else 0
  let w0 := b q.mixed 8 + b q.partly 9 + b gr 10 + b q.tainted 11 + b (Nat.blt 0xFFFF q.clip) 12 + q.gen.toNat * 65536
  ([BitVec.ofNat 32 w0, BitVec.ofNat 32 q.first, BitVec.ofNat 32 q.count,
    BitVec.ofNat 32 (if gr then 0 else lvl q.peak), BitVec.ofNat 32 (if gr then 0 else lvl r.1),
    BitVec.ofNat 32 (if gr then 0 else min q.clip 0xFFFF),
    BitVec.ofNat 32 (if gr then (if q.tainted then quantGr q.gr qs else d.1) else 0)], d.2)

/-- METER_WINDOW_END (R162): the window that ends with the data block last taken. -/
def execMeterWindowEnd (m : Fin 1024) (s : State) : Out :=
  .next (match s.graph.meters.find? fun e => e.1 == m.val with
  | none => s
  | some (_, q) =>
    let last := q.first + q.count - 1
    if q.count != 0 && (last + 1) % meterWin m.val q.tainted s = 0 then
      let r := meterWords m.val q s
      onGraph (fun g => { g with
        meters := mapInsert m.val { q with count := 0, partly := false } g.meters
        ready := g.ready ++ [⟨m.val, r.1, last⟩] }) r.2
    else s)

/-- METER_PUBLISH (R164): the record is written with SEQ counted on, word 0 first and word 7 last. -/
def execMeterPublish (m : Fin 1024) (s : State) : Out :=
  .next (match s.graph.ready.find? fun e => e.meter == m.val with
  | none => s
  | some r =>
    let seq := ((rd (MTR_REC_DATA m.val 0) s) + 1) % 256
    let s1 := forEach (List.range 7) (fun i t => wr (MTR_REC_DATA m.val i) ((r.words[i]?).getD 0).toNat t) s
    let s2 := wr (MTR_REC_DATA m.val 7) seq (wr (MTR_REC_DATA m.val 0) (((r.words[0]?).getD 0).toNat / 256 * 256 + seq) s1)
    let ws := (List.range 8).map fun i => rdReg (MTR_REC_DATA m.val i).addr s2
    queueMeter m.val ws (onGraph (fun g => { g with ready := g.ready.erase r }) s2))

/-- ROUTER_OUTPUT (R137, R141, R148): a destination of the output side takes data block k during block k + 2. -/
def execRouterOutput (d : Fin 4096) (s : State) : Out :=
  let d := d.val
  .next (if rdB SG_CTL_RUN s && rdBehind (DST_CFG_EN d) s == 1 then
    let k := dataBlock 2 s
    let idx := rdBehind (DST_IDX_INDEX d) s
    let kind := rdBehind (DST_CFG_KIND d) s
    if kind == 2 || kind == 3 || kind == 4 then
      let x := crossDest d k s
      let y := gainSamples (DST_GAIN_GAIN d).addr (destTarget d s) x.1 x.2
      let sk := if kind == 2 then skEGR else if kind == 3 then skTDM else skMOD
      let t := setSamps k sk idx (y.1.map toSamp) y.2
      onlyIf (kind == 4) (onPair (fun p => { p with
        ownFeeds := mapSet (fun _ => []) p.ownFeeds k ((List.range 72).flatMap fun c => (getSamps k skMOD c t).map (·.signExtend 32)) })) t
    else if kind == 5 then
      let x := sourceSamples (rdBehind (DST_CFG_SRC d) s) k s
      meterTake idx k x.1 (srcTaintNow (rdBehind (DST_CFG_SRC d) s) s) x.2
    else if kind == 6 then
      let x := sourceSamples (rdBehind (DST_CFG_SRC d) s) k s
      setSamps k skCAP idx x.1 x.2
    else s
  else onlyIf (rdB SG_CTL_RUN s) (destIdle d) s)

/-! ### Mix buses (R157-R161) -/

/-- The settled factor of a send (R149). -/
def sendTarget (x : Nat) (s : State) : Nat := gainTarget (rd (SEND_GAIN_GAIN x) s) (rdB (SEND_CFG_MUTE x) s)

/-- The settled factor of a bus (R149). -/
def busTarget (b : Nat) (s : State) : Nat := gainTarget (rd (BUS_GAIN_GAIN b) s) (rdB (BUS_CFG_MUTE b) s)

/-- The sends of a bus (R157). -/
def busSends (b : Nat) (s : State) : List Nat := (List.range (rd (BUS_SENDS_NUM b) s)).map fun i => rd (BUS_SENDS_FIRST b) s + i

/-- The front-end channel of a source entry, if it is one. -/
def sourceChannel (i : Nat) (s : State) : Option Nat :=
  match rd (SRC_ENT_KIND i) s with
  | 1 => some (rd (SRC_ENT_INDEX i) s)
  | 2 => some (2048 + rd (SRC_ENT_INDEX i) s)
  | _ => none

/-- Is a send counted in N for data block `k` (R161)? -/
def sendCounted (x k : Nat) (s : State) : Bool :=
  rdB (SEND_CFG_EN x) s && rdB (SEND_CFG_COUNT x) s && !rdB (SEND_CFG_MUTE x) s &&
    match sourceChannel (rd (SEND_CFG_SRC x) s) s with
    | some c => delivered k skGATE c s
    | none => false

/-- Add the sends of a bus into its accumulators, one per sample (R158). -/
def sumSends (k : Nat) : List Nat → List Int → State → List Int × State
  | [], acc, s => (acc, s)
  | x :: r, acc, s =>
    if rdB (SEND_CFG_EN x) s then
      let q := sourceSamples (rd (SEND_CFG_SRC x) s) k s
      let p := acc.zip (q.1.map sInt)
      let f := p.foldl (fun (a : List Int × State) e =>
        let g := gainStep (SEND_GAIN_GAIN x).addr (sendTarget x a.2) a.2
        (a.1 ++ [e.1 + e.2 * (g.1 : Int)], g.2)) (([] : List Int), q.2)
      sumSends k r f.1 f.2
    else sumSends k r acc (gainSkip (SEND_GAIN_GAIN x).addr s.nS s)

/-- The scaling factor in Q4.19 for a SCALE and an N (R161): 1/N or 1/√N, free between the two neighbouring values where it is not
exact (log entry 36: DEDUCED). -/
def scaleTarget (mode n : Nat) (s : State) : Nat × State :=
  if mode = 1 then (if 2 ^ 19 % n = 0 then (2 ^ 19 / n, s) else pickNat (2 ^ 19 / n) (2 ^ 19 / n + 1) s)
  else nearRoot (2 ^ 38) n (isqrt (2 ^ 38 / n)) s

/-- The scaling gain for a data block (R161): with no scaling it is 0 dB; a new N, or a new SCALE (log entry 36: DEDUCED), starts a ramp
from the present gain; while N is 0 it goes on as it is. -/
def scaleStep (b n : Nat) (s : State) : ScaleSt × State :=
  let c := mapGet (fun _ => ScaleSt.reset) s.graph.scales b
  let mode := rd (BUS_CFG_SCALE b) s
  if mode = 0 then ({ ScaleSt.reset with n := n }, s)
  else if n = 0 || (n = c.n && mode = c.mode) then (c, s)
  else
    let t := scaleTarget mode n s
    (⟨n, mode, ⟨c.ramp.now, t.1, 0, rampLen (rd (BUS_CFG_SRAMP b) s) s, true, c.ramp.now⟩⟩, t.2)

/-- The output samples of a bus from its sums (R158), each through bus gain and scaling gain, rounded once; saturated
samples are counted. -/
def busSamples (b : Nat) : List Int → GainSt → State → List Int × GainSt × State
  | [], c, s => ([], c, s)
  | x :: r, c, s =>
    let g := gainStep (BUS_GAIN_GAIN b).addr (busTarget b s) s
    let f := rampSample { c with i := c.i + 1 } g.2
    let y := satI 24 (rndDiv (x * g.1 * f.1) (2 ^ 57))
    let s1 := onlyIf y.2 (count (BUS_CNT_CLIP_COUNT b) (BUS_CNT_CLIP_SAT b) islGraph) f.2
    let q := busSamples b r { c with i := min (c.i + 1) c.len, now := f.1 } s1
    (y.1 :: q.1, q.2)

/-- The guard key of a bus, for its hold shape (R159). -/
def busGuard (b : Nat) : Nat := 8192 + b

/-- A bus is formed for data block `k` (R158-R161). -/
def formBus (b k : Nat) (s : State) : State :=
  let xs := busSends b s
  let n := (xs.filter fun x => sendCounted x k s).length
  let c := scaleStep b n s
  let a := sumSends k xs ((List.range s.nS).map fun _ => 0) c.2
  let o := busSamples b a.1 c.1.ramp a.2
  let g := guardStep (getGuard (busGuard b) o.2.2) (some o.1) s.nS
  let t := onGraph (fun q => { q with scales := mapSet (fun _ => ScaleSt.reset) q.scales b { c.1 with ramp := o.2.1 } }) o.2.2
  wr (BUS_CNT_N b) n (setSamps k skBUS b (g.1.map toSamp) (setGuard (busGuard b) g.2 t))

/-- The enabled buses of a phase. -/
def phaseBuses (p : Nat) (s : State) : List Nat :=
  (List.range 256).filter fun b => rdB (BUS_CFG_EN b) s && rd (BUS_CFG_PHASE b) s == p

/-- BUS_PHASE_START (R159): the buses of a phase are formed for the data block of the last block. -/
def execBusPhaseStart (p : Fin 4) (s : State) : Out :=
  .next (if rdB SG_CTL_RUN s then forEach (phaseBuses p.val s) (fun b t => formBus b (dataBlock 1 s) t) s else s)

/-- The ramps of a bus that is not formed run on (R150). -/
def busIdle (b : Nat) (s : State) : State :=
  gainSkip (BUS_GAIN_GAIN b).addr s.nS (forEach (busSends b s) (fun x t => gainSkip (SEND_GAIN_GAIN x).addr t.nS t) s)

/-- BUS_PHASE_OVERRUN (R159): the enabled buses that are not formed give the hold shape. -/
def execBusPhaseOverrun (p : Fin 4) (s : State) : Out :=
  .next (if rdB SG_CTL_RUN s then
    let k := dataBlock 1 s
    let s1 := forEach ((phaseBuses p.val s).filter fun b => !delivered k skBUS b s) (fun b t =>
      let g := guardStep (getGuard (busGuard b) t) none t.nS
      setSamps k skBUS b (g.1.map toSamp) (setGuard (busGuard b) g.2 (busIdle b t))) s
    raise islGraph (0x30F0 + p.val) 0 (wr (bitOf SG_STAT_PHOVR p.val) 1 s1)
  else s)

/-! ### Table checks (R133, R134, R138, R145, R148, R157, R159, R161, R167) -/

/-- Is a gain element within its bounds, with its limit in 0.01 dB (R148)? -/
def gainLegal (v : Word) (limit : Int) : Bool :=
  let g := getField v 0 16
  (g == 0x8000 || (decide (-14400 ≤ toSigned 16 g) && decide (toSigned 16 g ≤ limit))) && Nat.ble (getField v 16 15) 20000

/-- Is a destination's target within range (R134)? -/
def targetLegal (kind idx : Nat) : Bool :=
  match kind with
  | 1 => (idx / 512) % 2 == 0
  | 2 => Nat.blt idx 2048
  | 3 => Nat.blt idx 1024
  | 4 => Nat.blt idx 72
  | 5 => Nat.blt idx 1024
  | 6 => Nat.blt idx 1024
  | _ => false

/-- Does another enabled destination name the target (R134)? -/
def targetTaken (d kind idx : Nat) (s : State) : Bool :=
  (listedDests s).any fun o => o != d && rdB (DST_CFG_EN o) s && rd (DST_CFG_KIND o) s == kind && rd (DST_IDX_INDEX o) s == idx

/-- Is a destination entry legal as it would stand? -/
def destLegal (d : Nat) (cfg idx : Word) (s : State) : Bool :=
  let grp := getField cfg 16 10
  (Nat.blt grp 512 || grp == 0x3FF) &&
  (getField cfg 0 1 == 0 ||
    (targetLegal (getField cfg 1 3) (getField idx 0 14) && !targetTaken d (getField cfg 1 3) (getField idx 0 14) s))

/-- Do two ranges of sends overlap? -/
def overlap (a n b m : Nat) : Bool := n != 0 && m != 0 && Nat.blt a (b + m) && Nat.blt b (a + n)

/-- Are the sends of a bus legal (R157)? -/
def sendsLegal (b : Nat) (v : Word) (s : State) : Bool :=
  let f := getField v 0 18
  let n := getField v 18 11
  Nat.ble n 1024 && Nat.ble (f + n) 262144 &&
    (List.range 256).all fun o => o == b || !overlap f n (rd (BUS_SENDS_FIRST o) s) (rd (BUS_SENDS_NUM o) s)

/-- The phase and start of the bus whose range holds a send. -/
def busOfSend (x : Nat) (s : State) : Option Nat :=
  (List.range 256).find? fun b => Nat.ble (rd (BUS_SENDS_FIRST b) s) x && Nat.blt x (rd (BUS_SENDS_FIRST b) s + rd (BUS_SENDS_NUM b) s)

/-- May a send name this source (R159, R161)? -/
def sendLegal (x : Nat) (v : Word) (s : State) : Bool :=
  let i := getField v 0 12
  let kind := rd (SRC_ENT_KIND i) s
  let idx := rd (SRC_ENT_INDEX i) s
  (getField v 13 1 == 0 || kind == 1 || kind == 2) &&
  match busOfSend x s with
  | none => true
  | some b =>
    let p := rd (BUS_CFG_PHASE b) s
    if kind == 4 then Nat.blt (rd (BUS_CFG_PHASE idx) s) p
    else if kind == 3 then
      match slotOwner (idx / 512) (idx % 512) s with
      | some o => Nat.ble (horizonOf (idx / 512) o.1 o.2 s) (rd (SG_PHASE_START p) s)
      | none => true
    else true

/-- Is a source entry legal (R133)? -/
def srcLegal (v : Word) : Bool :=
  let idx := getField v 3 13
  match getField v 0 3 with
  | 0 => true
  | 1 => Nat.blt idx 2048
  | 2 => Nat.blt idx 1024
  | 3 => true
  | 4 => Nat.blt idx 256
  | _ => false

/-- Does a word pass the configuration checks of the table register at an address? -/
def tableLegal (a : Nat) (v : Word) (s : State) : Bool :=
  let o := a % 16
  if a < 0x41010000 then
    if 0x41000010 ≤ a && a ≤ 0x4100001C then Nat.ble (getField v 16 16) 41500 else true
  else if a < 0x41020000 then srcLegal v
  else if a < 0x41030000 then
    let d := (a - 0x41020000) / 16
    if o = 0 then destLegal d v (rdReg (a + 4) s) s
    else if o = 4 then destLegal d (rdReg (a - 4) s) v s
    else if o = 8 then gainLegal v 1200
    else true
  else if a < 0x41040000 then a % 8 == 0 || Nat.ble (getField v 4 4) 8
  else if a < 0x41050000 then
    if o = 0 then getField v 4 2 != 3 && Nat.ble 40 (getField v 8 7) && Nat.ble (getField v 8 7) 120
    else if o = 4 then gainLegal v 2400
    else if o = 8 then Nat.ble 10 (getField v 0 22) && Nat.ble (getField v 0 22) 3600000
    else true
  else if a < 0x41060000 then
    let b := (a - 0x41050000) / 16
    if o = 0 then getField v 1 2 != 3
    else if o = 4 then sendsLegal b v s
    else if o = 8 then gainLegal v 1200
    else true
  else if a < 0x41068000 then a % 8 != 0 || getField v 16 16 != 0
  else if a < 0x41080000 then true
  else if a < 0x41300000 then
    if a % 8 == 0 then sendLegal ((a - 0x41080000) / 8) v s else gainLegal v 1200
  else true

/-- A write is refused by a configuration check. -/
def refuseTable (s : State) : State :=
  count SG_CNT_REFUSED_COUNT SG_STAT_REFUSED_SAT islGraph (wrB SG_STAT_CFGERR true s)

/-- A write or a message is refused by R142. -/
def refuseTaint (s : State) : State := count SG_CNT_TAINT_COUNT SG_STAT_TAINT_SAT islGraph (wrB SG_STAT_TAINTERR true s)

/-! ### Landing of changes (R21-R29, R137-R151) -/

/-- A front-end word changes in the data path (R146, R147, R150). -/
def feChange (a : Nat) (old new : Word) (s : State) : State :=
  let c := (a - 0x41040000) / 16
  let trim := rdReg (0x41040000 + c * 16 + 4) s
  if a % 16 = 0 then
    let s1 := onlyIf (getField old 0 6 != getField new 0 6) (onGraph (fun g => { g with feFade := mapSet (fun _ => 0) g.feFade c (240 * s.nS) })) s
    onlyIf (getField old 6 1 != getField new 6 1)
      (gainChange (FE_TRIM_GAIN c).addr (gainTarget (getField trim 0 16) (getField old 6 1 == 1))
        (gainTarget (getField trim 0 16) (getField new 6 1 == 1)) (getField trim 16 15) (getField trim 31 1 == 1)) s1
  else if a % 16 = 4 then
    let m := rdB (FE_CFG_MUTE c) s
    gainChange a (gainTarget (getField old 0 16) m) (gainTarget (getField new 0 16) m) (getField new 16 15) (getField new 31 1 == 1) s
  else s

/-- A send or bus word changes (R150, R151). -/
def midChange (a : Nat) (old new : Word) (s : State) : State :=
  let g := fun (addr : Nat) (w : Word) (m0 m1 : Bool) (o : Word) =>
    gainChange addr (gainTarget (getField o 0 16) m0) (gainTarget (getField w 0 16) m1) (getField w 16 15) (getField w 31 1 == 1)
  if 0x41080000 ≤ a && a < 0x41300000 then
    let x := (a - 0x41080000) / 8
    if a % 8 = 4 then let m := rdB (SEND_CFG_MUTE x) s; g a new m m old s
    else onlyIf (getField old 14 1 != getField new 14 1)
      (g (a + 4) (rdReg (a + 4) s) (getField old 14 1 == 1) (getField new 14 1 == 1) (rdReg (a + 4) s)) s
  else if 0x41050000 ≤ a && a < 0x41060000 then
    let b := (a - 0x41050000) / 16
    if a % 16 = 8 then let m := rdB (BUS_CFG_MUTE b) s; g a new m m old s
    else if a % 16 = 0 then onlyIf (getField old 3 1 != getField new 3 1)
      (g (a + 8) (rdReg (a + 8) s) (getField old 3 1 == 1) (getField new 3 1 == 1) (rdReg (a + 8) s)) s
    else s
  else s

/-- The source that a new crossfade starts from (R141): of a running crossfade the one with the larger weight, and at equal
weights the one it was fading in. -/
def crossFrom (d src : Nat) (s : State) : Nat :=
  match s.graph.xfades.find? fun e => e.1 == d with
  | none => src
  | some (_, x) => if Nat.blt (2 * x.i) x.len then x.old else src

/-- An output word changes in the data path (R141, R149-R151). -/
def outChange (a : Nat) (old new : Word) (s : State) : State :=
  if 0x41020000 ≤ a && a < 0x41030000 then
    let d := (a - 0x41020000) / 16
    let gain := rdReg (a + 8) s
    if a % 16 = 0 then
      let len := getField new 27 5 * s.nS * 24
      let s1 := if getField old 4 12 != getField new 4 12 && (getField new 1 3 == 2 || getField new 1 3 == 3 || getField new 1 3 == 4) then
          let src := crossFrom d (getField old 4 12) s
          onGraph (fun g => { g with xfades := if len = 0 then mapErase d g.xfades else mapInsert d ⟨src, 0, len⟩ g.xfades }) s
        else s
      onlyIf (getField old 26 1 != getField new 26 1)
        (gainChange (DST_GAIN_GAIN d).addr (gainTarget (getField gain 0 16) (getField old 26 1 == 1))
          (gainTarget (getField gain 0 16) (getField new 26 1 == 1)) (getField gain 16 15) (getField gain 31 1 == 1)) s1
    else if a % 16 = 8 then
      let m := rdB (DST_CFG_MUTE d) s
      gainChange a (gainTarget (getField old 0 16) m) (gainTarget (getField new 0 16) m) (getField new 16 15) (getField new 31 1 == 1) s
    else s
  else if 0x41060000 ≤ a && a < 0x41068000 && a % 8 = 0 then
    onGraph (fun g => { g with meters := mapErase ((a - 0x41060000) / 8) g.meters }) s
  else s

/-- Is an address a front-end word, an output or meter word? -/
def isFeWord (a : Nat) : Bool := Nat.ble 0x41040000 a && Nat.blt a 0x41050000
/-- See `isFeWord`. -/
def isOutWord (a : Nat) : Bool :=
  (Nat.ble 0x41020000 a && Nat.blt a 0x41030000) || (Nat.ble 0x41060000 a && Nat.blt a 0x41068000)

/-- A word is taken into the active copy at the boundary where its data block is processed (R21); output words act one block later
(R137), and words of modulators with the first sample of the data block (R22). -/
def landWord (a : Nat) (new : Word) (s : State) : State :=
  let old := rdReg a s
  if isFeWord a then wrReg a new (feChange a old new (onGraph (fun g => { g with ahead := mapErase a g.ahead }) s))
  else if isOutWord a then
    wrReg a new (onGraph (fun g => { g with
      behind := if g.behind.any fun e => e.1 == a then g.behind else mapInsert a old g.behind
      later := g.later ++ [(a, old, new)] }) s)
  else if nextBlockWord a then wrReg a new (keepFrom s.tl.k.toNat a old s)
  else wrReg a new (midChange a old new s)

/-- A front-end word comes into force for the detectors, which test samples of the data block that begins. -/
def aheadWord (a : Nat) (new : Word) (s : State) : State :=
  onlyIf (isFeWord a) (onGraph fun g => { g with ahead := mapInsert a new g.ahead }) s

/-- The changes of output words of the last boundary act now. -/
def laterChanges (s : State) : State :=
  forEach s.graph.later (fun e t => outChange e.1 e.2.1 e.2.2 t)
    (onGraph (fun g => { g with behind := [], later := [] }) s)

/-! ### Messages of changes (R23, R27, R28, R140) -/

/-- What became of a message of changes. -/
inductive MsgRes where
  | accepted (apply : Nat) (late : Bool) | far | full | taint
  deriving DecidableEq, Repr

/-- The block whose judgement R23 makes: in a matched pair with the link aligned the holder judges as in the next (R322). -/
def judgeBlock (s : State) : Nat := if mirrors s && isHolder s then s.tl.k.toNat + 1 else s.tl.k.toNat

/-- Changes for apply BSN `x` enter the pending store, or the message is rejected because it would be full (R28). The holder of a
matched pair mirrors what it accepts (R321). -/
def takeChanges (x : Nat) (late : Bool) (ds : List Change) (s : State) : MsgRes × State :=
  if storeHolds s.tl.pend ds then
    (.accepted x late, onlyIf (mirrors s && isHolder s) (sendChanges ds) (enterChanges ds late s))
  else (.full, countFull s)

/-- Changes that land at `x`. -/
def landingAt (x : Nat) (cs : List Change) : List Change := cs.map fun c => { c with apply := BitVec.ofNat 32 x }

/-- Accept or reject a message of changes with one apply BSN, as a whole (R23, R27, R28, R208); `words` are the table words
as the message leaves them. -/
def acceptChanges (cs : List Change) (a : Nat) (words : List (Nat × Word)) (s : State) : MsgRes × State :=
  if changesBreach words s then (.taint, refuseTaint s)
  else
    match judgeApply (judgeBlock s) a with
    | .far => (.far, countFar s)
    | .held x => takeChanges x false (landingAt x cs) s
    | .late x => takeChanges x true (landingAt x cs) s

/-- The field of a register that a parameter element names (R543); the gains of destinations only where the kind has one. -/
def parField (inst pid x : Nat) (s : State) : Option FRef :=
  let pick := fun (n : Nat) (l : List FRef) => if Nat.blt x n && pid != 0 then l[pid - 1]? else none
  match inst with
  | 1 => pick 3072 [FE_TRIM_GAIN x, FE_TRIM_RAMP x, FE_TRIM_SHAPE x, FE_CFG_MUTE x, FE_CFG_DCB x, FE_CFG_HPF_F x, FE_CFG_HPF_S x, FE_CFG_THRESH x,
      FE_CFG_HYST x, FE_HOLD_HOLD x]
  | 2 =>
    let kind := rd (DST_CFG_KIND x) s
    if pid ≤ 3 && !(kind == 2 || kind == 3 || kind == 4) then none
    else pick 4096 [DST_GAIN_GAIN x, DST_GAIN_RAMP x, DST_GAIN_SHAPE x, DST_CFG_MUTE x, DST_CFG_SRC x, DST_CFG_EN x, DST_CFG_XF x]
  | 3 => pick 262144 [SEND_GAIN_GAIN x, SEND_GAIN_RAMP x, SEND_GAIN_SHAPE x, SEND_CFG_MUTE x, SEND_CFG_EN x, SEND_CFG_COUNT x]
  | 4 => pick 256 [BUS_GAIN_GAIN x, BUS_GAIN_RAMP x, BUS_GAIN_SHAPE x, BUS_CFG_MUTE x, BUS_CFG_SCALE x]
  | 5 => pick 1024 [MTR_CFG_EN x, MTR_CFG_WIN x, MTR_CFG_GR x, MTR_CLIP_CLIPTH x]
  | 6 => pick 72 [ MOD_CTL_MUTE x, MOD_SRC_PREF x, MOD_SRC_AUTO x]
  | _ => none

/-- The register words that a list of changes leaves, in order. -/
def changeWords (cs : List Change) (s : State) : List (Nat × Word) :=
  cs.foldl (fun l c => match c.elem with
    | .word a => l ++ [(a, c.value)]
    | .par inst pid x => match parField inst.toNat pid.toNat x.toNat s with
      | some f => l ++ [(f.addr, putField (wordsAfter l s f.addr) f.lo f.w c.value.toNat)]
      | none => l
    | .rekey _ _ => l) []

/-- SG_WAPPLY_COMMIT (R140): the queued writes go in as one message, and RESULT reports what became of it. -/
def execSgWapplyCommit (s : State) : Out :=
  let cs := s.graph.queue
  let r := acceptChanges cs (rd SG_WAPPLY_BSN_BSN s) (changeWords (s.tl.pend ++ cs) s) s
  let res := match r.1 with
    | .accepted _ false => 1
    | .accepted _ true => 2
    | _ => 3
  .next (wr SG_WAPPLY_CTL_RESULT res (onGraph (fun g => { g with queue := [] }) r.2))

/-! ### The block boundary (R137, R153, R154, R156) -/

/-- Every slot that the guard has served is evaluated for each data block (R122). -/
def guardSweep (s : State) : State :=
  let k := dataBlock 2 s
  forEach (mapKeys s.graph.guards) (fun key t =>
    if key < 8192 && (getGuard key t).evaluated != k + 1 then (guardRead (key / 512) (key % 512) k t).2 else t) s

/-- The channels whose gate was open for a data block (R153). -/
def gatesOf (k : Nat) (s : State) : List Nat :=
  (s.graph.done.filter fun e => e.1 / 8192 == k * 8 + skGATE && Nat.blt (e.1 % 8192) 3072).map fun e => e.1 % 8192

/-- The gates and the activity of the data block whose assembly ends (R153, R154, R156, R167). -/
def gateTick (k : Nat) (s : State) : State :=
  let cs := gatesOf k s
  let s1 := forEach (List.range 96) (fun i t => wrReg (SG_GATES_GATE i).addr 0 t) s
  let s2 := forEach cs (fun c t => wr (bitOf (SG_GATES_GATE (c / 32)) (c % 32)) 1 t) s1
  let act := (List.range 64).filter fun ag => cs.any fun c => actMember ag c s2
  let s3 := wr (SG_ACT_ACT 1) 0 (wr (SG_ACT_ACT 0) 0 s2)
  let s4 := forEach act (fun ag t => wr (bitOf (SG_ACT_ACT (ag / 32)) (ag % 32)) 1
    (onGraph (fun g => { g with
      actLast := mapSet (fun _ => 0) g.actLast ag (k + 1)
      actFirst := if mapGet (fun _ => 0) g.actFirst ag = 0 then mapSet (fun _ => 0) g.actFirst ag (k + 1) else g.actFirst }) t)) s3
  let s5 := onGraph (fun g => { g with actFirst := g.actFirst.filter fun e => act.contains e.1 }) s4
  wrB SG_QUIET_QUIET (!act.any fun ag => rdB (bitOf (SG_QMASK_MASK (ag / 32)) (ag % 32)) s5) s5

/-- What the graph does at the end of a block, before the block number advances. -/
def graphEnd (s : State) : State := if rdB SG_CTL_RUN s then guardSweep s else s

/-- What it does at the start of a block, in the new block: the last block's data block is assembled; samples of old data
blocks go. -/
def graphTick (s : State) : State :=
  let k := s.tl.k.toNat
  let s1 := if rdB SG_CTL_RUN s then gateTick (k - 1) s else s
  onGraph (fun g => { g with
    samp := mapDrop (fun a => Nat.blt (a / 524288 + 32) k) g.samp
    done := mapDrop (fun a => Nat.blt (a / 65536 + 8) k) g.done }) s1

end Sys2Proof.Machine
end

