-- ==== Sys2Proof/Machine/Sense.lean ====
section
/-! DEFINITION. The sense decimation chain (R261-R276): its filters, comparators and start. What reaches Rook is in Rook.lean. -/

namespace Sys2Proof.Machine

/-- A stream beside its registers. -/
def getStream (x : Nat) (s : State) : StreamSt := mapGet (fun _ => StreamSt.reset) s.sense x

/-- Set a stream. -/
def setStream (x : Nat) (d : StreamSt) (s : State) : State :=
  { s with sense := mapSet (fun _ => StreamSt.reset) s.sense x d }

/-- Is a stream enabled? -/
def streamOn (x : Nat) (s : State) : Bool := rdB (SNS_SCFG_EN x) s

/-- The decimation of the FIR (R265). -/
def senseD (s : State) : Nat := if rdB SNS_CTL_ORATE s then 2 else 4

/-- The taps of a stream's coefficient set (R269). -/
def setTaps (set : Nat) (s : State) : Nat :=
  match set with
  | 0 => 384
  | 1 => 128
  | 2 => 128
  | 3 => 64
  | 4 => 192
  | 5 => 96
  | 6 => 0
  | 7 => 0
  | t => rd (SNS_SETCFG_TAPS (t - 8)) s

/-- May an enabled stream name this set at the output rate chosen (R269)? -/
def setLegal (set : Nat) (s : State) : Bool :=
  if set < 4 then !rdB SNS_CTL_ORATE s
  else if set < 6 then rdB SNS_CTL_ORATE s
  else if set < 8 then false
  else setTaps set s != 0 && Nat.ble (setTaps set s) (if rdB SNS_CTL_ORATE s then 192 else 384)

/-- The streams in number order. -/
def allStreams : List Nat := List.range 152

/-- SNS_STAT.VALID: every enabled stream is valid (R274). -/
def senseValid (s : State) : Bool := allStreams.all fun x => !streamOn x s || rdB (SNS_FLAG_VALID x) s

/-- Set SNS_CTL.RUN (R264, R269, R274): refused with CFGERR where a set fails its checks; else every history clears, a disabled
stream gives zeros, and no rail has a measured voltage yet. -/
def senseRun (s : State) : State :=
  if allStreams.all fun x => !streamOn x s || setLegal (rd (SNS_SCFG_SET x) s) s then
    let s1 := forEach allStreams (fun x t => wrB (SNS_FLAG_VALID x) false
      (onlyIf (!streamOn x t) (fun u => wr (SNS_FASTV_VALUE x) 0 (wr (SNS_SLOWV_VALUE x) 0 u)) t)) { s with sense := [] }
    let s2 := forEach (List.range 8) (fun r t => wr (RAIL_MEAS_VMEAS r) 0 t) s1
    wr SNS_OUTIDX_IDX 0 (wrB SNS_STAT_VALID (senseValid s2) (wrB SNS_CTL_RUN true s2))
  else wrB SNS_STAT_CFGERR true s

/-- SENSE_RUN (R274). -/
def execSenseRun (s : State) : Out := .next (if rdB SNS_CTL_RUN s then s else senseRun s)

/-- The group delay of a RAM set of KIND 0, to the nearest ns: (TAPS − 1)/2 × 2,604.167 ns (R269). -/
def computeGd (t : Nat) (s : State) : State :=
  if rdB (SNS_SETCFG_KIND t) s then s
  else wr (SNS_SETGD_GD t) (((rd (SNS_SETCFG_TAPS t) s - 1) * 15625 + 6) / 12) s

/-- SNS_OUTIDX_READ (R268, R565): the timebase of the instant shown is latched into `SNS_TLATCH`. -/
def execSnsOutidxRead (s : State) : Out := .next (wr SNS_TLATCH_TIME (s.senseAt.toNat % 2 ^ 32) s)

/-! ### The CIC and the first shift (R265) -/

/-- One input bit through integrators (R265): +1 or −1, each sum taken on at once. -/
def integrate (x : BitVec 24) : List (BitVec 24) → List (BitVec 24)
  | [] => []
  | i :: r => (i + x) :: integrate (i + x) r

/-- The combs of differential delay 1: what comes out, and the delays after. -/
def combs (x : BitVec 24) : List (BitVec 24) → BitVec 24 × List (BitVec 24)
  | [] => (x, [])
  | d :: r =>
    let y := combs (x - d) r
    (y.1, x :: y.2)

/-- The value of a sampled bit (R263). -/
def bitValue (inv b : Bool) : BitVec 24 := if b == inv then -1 else 1

/-- Saturate to 24 bits, with the flag and the count of the stage (R265). -/
def senseSat (flag : FRef) (x : Nat) (v : Int) (s : State) : Int × State :=
  let r := satI 24 v
  (r.1, onlyIf r.2 (fun t =>
    count (SNS_CNT_SAT_COUNT x) (SNS_FLAG_SATC_SAT x) 27 (wrB flag true t)) s)

/-- Does the input change within these bits, `b` being the one before them? -/
def hasEdge (b : Bool) : List Bool → Bool
  | [] => false
  | c :: r => b != c || hasEdge c r

/-- A fast value from the bits since the last one (R265, R274): the value and whether it is valid. -/
def fastValue (x : Nat) (bits : List Bool) (s : State) : Int × Bool × State :=
  let d := getStream x s
  let inv := rdB (SNS_SCFG_INV x) s
  let ig := bits.foldl (fun i b => integrate (bitValue inv b) i) d.integ
  let c := combs (ig.getLast?.getD 0) d.comb
  let r := senseSat (SNS_FLAG_SAT1 x) x (c.1.toInt * (2 ^ rd (SNS_SCFG_SH1 x) s : Nat)) s
  let calm := if rdB (SNS_FLAG_STUCK x) s && hasEdge d.last bits then d.calm + 1 else 0
  let s1 := setStream x { d with
    integ := ig, comb := c.2, hist := (r.1 :: d.hist).take 384, fastN := d.fastN + 1
    last := bits.getLast?.getD d.last, calm := calm } r.2
  (r.1, Nat.ble 4 d.fastN, wrI (SNS_FASTV_VALUE x) r.1 s1)

/-! ### The FIR and the second shift (R265) -/

/-- The sum of the products, the newest value with coefficient 0. -/
def firSum (t : Nat) (s : State) : Nat → List Int → Int
  | _, [] => 0
  | i, v :: r => rdI (SNS_COEF_COEF t i) s * v * 4 + firSum t s (i + 1) r

/-- A stream's accumulator, 56 bits with the point at bit 47 (R265): a ROM set's coefficients are not stated, so its sum is
free, and zero over zeros (log entry 34: DESIGN CHOICE). -/
def firAcc (x : Nat) (s : State) : Int × State :=
  let set := rd (SNS_SCFG_SET x) s
  let h := (getStream x s).hist.take (setTaps set s)
  if 8 ≤ set then (toSigned 56 (firSum (set - 8) s 0 h % (2 ^ 56 : Nat)).toNat, s)
  else if h.all (· == 0) then (0, s)
  else ((freeVal 56 s).toInt, freeNext s)

/-- The slow value: the sum shifted by SH2, rounded convergently at bit 24 and saturated (R265). -/
def slowValue (x : Nat) (s : State) : Int × State :=
  let a := firAcc x s
  let sh := rdI (SNS_SCFG_SH2 x) s
  let v := if 0 ≤ sh then a.1 * (2 ^ sh.toNat : Nat) else a.1 / (2 ^ (-sh).toNat : Nat)
  let r := senseSat (SNS_FLAG_SAT2 x) x (rndDiv v (2 ^ 24)) a.2
  (r.1, wrI (SNS_SLOWV_VALUE x) r.1 r.2)

/-! ### Comparators (R270, R272) -/

/-- Bits [23:8] of a value, signed (R270). -/
def cmpPart (v : Int) : Int := v / 256

/-- Is the magnitude at or above HI (R270)? -/
def overHi (hi : Nat) (v : Int) : Bool := hi != 0 && Nat.ble hi (cmpPart v).natAbs

/-- Is the value below LO (R270)? -/
def underLo (lo : Nat) (v : Int) : Bool := lo != 0x8000 && decide (cmpPart v < toSigned 16 lo)

/-- A set edge of a comparator (R272): it counts, sets the stream's event bit and raises a sense event, whose code the spec
does not state (log entry 43: DESIGN CHOICE). -/
def senseEvent (x : Nat) (s : State) : State :=
  let s1 := wrB (bitOf (SNS_EVT_EVT (x / 32)) (x % 32)) true
    (count (SNS_CNT_EVT_COUNT x) (SNS_FLAG_EVT_SAT x) 27 s)
  freeNext (raise 27 (0x5000 + (freeVal 12 s1).toNat) 0 s1)

/-- Move a comparator state (R272): `on` sets it, `off` clears it, and else it stays. -/
def moveCmp (f : FRef) (x : Nat) (on off : Bool) (s : State) : State :=
  if on then (if rdB f s then s else senseEvent x (wrB f true s))
  else if off then wrB f false s
  else s

/-- The comparators of a path of a valid value (R270, R272); the hysteresis is in steps of 2^-12 of full scale. -/
def compare2 (hiF loF : FRef) (hi lo hy x : Nat) (v : Int) (s : State) : State :=
  let h := 8 * hy
  let s1 := if hi = 0 then s else moveCmp hiF x (overHi hi v) (decide ((cmpPart v).natAbs + h < hi)) s
  if lo = 0x8000 then s1 else moveCmp loF x (underLo lo v) (decide (toSigned 16 lo + h ≤ cmpPart v)) s1

/-! ### The dip path (R271) -/

/-- The impulse response of a third-order CIC that decimates by 4, newest bit first. -/
def dipWeights : List Int := [1, 3, 6, 10, 12, 12, 10, 6, 3, 1]

/-- A dip value of a rail stream from four bits (R271): the value, Q0.23, and whether it is valid. -/
def dipValue (x : Nat) (bits : BitVec 4) (s : State) : Int × Bool × State :=
  let d := getStream x s
  let inv := rdB (SNS_SCFG_INV x) s
  let one := fun (i : Nat) => (bitValue inv (bits.getLsbD i)).toInt
  let w := ([one 3, one 2, one 1, one 0] ++ d.dipBits).take 10
  let v := (dipWeights.zip w).foldl (fun a e => a + e.1 * e.2) 0
  ((satI 24 (v * 131072)).1, Nat.ble 3 d.dipN, setStream x { d with dipBits := w, dipN := d.dipN + 1 } s)

end Sys2Proof.Machine
end

