-- ==== Sys2Proof/Machine/Rook.lean ====
section
/-! DEFINITION. Rook, the safety partition (R277-R308): safe mutes and the hardware safe state, loading and arming, lines and
relay, the protection gain stage, trips, safety inputs, watchdogs and the clock monitor; and the sense results that reach
it (R267-R273). -/

namespace Sys2Proof.Machine

/-- Change Rook's part of the state. -/
def onRook (f : RookSt → RookSt) (s : State) : State := { s with rook := f s.rook }

/-- Rook's part of a channel. -/
def getRc (c : Nat) (s : State) : RookCh := mapGet (fun _ => RookCh.reset) s.rook.chans c

/-- Set Rook's part of a channel. -/
def setRc (c : Nat) (r : RookCh) (s : State) : State :=
  onRook (fun q => { q with chans := mapSet (fun _ => RookCh.reset) q.chans c r }) s

/-- 1.0 in Q1.23 (R287). -/
def unity : Nat := 0x800000

/-- The four states of `ROOK_STAT.STATE`. -/
def rkLOADING : Nat := 0
/-- See `rkLOADING`. -/
def rkARMED : Nat := 1
/-- See `rkLOADING`. -/
def rkRESTART : Nat := 2
/-- See `rkLOADING`. -/
def rkSAFE : Nat := 3

/-- Is Rook armed? -/
def rookArmed (s : State) : Bool := rd ROOK_STAT_STATE s == rkARMED

/-- Is Rook's configuration locked (R284)? ARMED locks it, and only a domain reset of ISL28, which leads to LOADING, unlocks it, so
that RESTART and SAFE keep the lock. -/
def rookLocked (s : State) : Bool := rd ROOK_STAT_STATE s != rkLOADING

/-- The samples of a ramp of so many milliseconds (R288). -/
def msSamples (ms : Nat) (s : State) : Nat := ms * 24 * s.nS

/-- The gain of a ramp now. -/
def rampNow (r : RampSt) : Nat :=
  if r.len ≤ r.i then r.g1
  else (rndDiv ((r.g0 : Int) * r.len + ((r.g1 : Int) - r.g0) * r.i) r.len).toNat

/-- The ramp after a sample. -/
def rampNext (r : RampSt) : RampSt := if r.len ≤ r.i + 1 then RampSt.at r.g1 else { r with i := r.i + 1 }

/-- A ramp from the present gain at the rate of the full length `n` samples (R288). -/
def rampAnew (r : RampSt) (target n : Nat) : RampSt :=
  let g := rampNow r
  let len := ceilDiv (n * absDiff g target) unity
  if len = 0 then RampSt.at target else ⟨g, target, 0, len⟩

/-- A new target starts a ramp (R288). -/
def rampTo (r : RampSt) (target n : Nat) : RampSt := if r.g1 = target then r else rampAnew r target n

/-! ### Safe mutes (R281) -/

/-- The causes of a safe mute, as bits of `RookCh.causes`: a latched DC trip. -/
def cDC : Nat := 0
/-- The hold after an overcurrent trip. -/
def cOC : Nat := 1
/-- A latch by overcurrent trips. -/
def cOCL : Nat := 2
/-- A rail dip. -/
def cDIP : Nat := 3
/-- A stuck stream of the channel. -/
def cSTUCK : Nat := 4
/-- A stuck stream of its rail. -/
def cRSTUCK : Nat := 5
/-- A line flag. -/
def cLINE : Nat := 6
/-- The speaker relay is open. -/
def cRELAY : Nat := 7
/-- A request of the key store (R204, R222). -/
def cKEYS : Nat := 8

/-- Does a cause stand? -/
def hasCause (c bit : Nat) (s : State) : Bool := (getRc c s).causes / 2 ^ bit % 2 == 1

/-- Is a channel safe-muted? -/
def safeMuted (c : Nat) (s : State) : Bool := s.rook.hw || (getRc c s).causes != 0

/-- The mute factor goes to 0 at once and the channel is hard-stopped (R281). -/
def safeMuteNow (c : Nat) (s : State) : State :=
  wrB (ROOK_CH_STAT_SMUTE c) true (hardStop c (setRc c { getRc c s with mf := RampSt.at 0, why := 4 } s))

/-- Is every enabled channel of a group safe-muted (R281)? -/
def groupMuted (g : Nat) (s : State) : Bool := !(groupChans g s).isEmpty && (groupChans g s).all fun c => safeMuted c s

/-- Drive the line of a group whose every enabled channel is safe-muted (R281). -/
def lineIfMuted (g : Nat) (s : State) : State := onlyIf (groupMuted g s) (driveLine g) s

/-- A cause safe-mutes a channel (R281). -/
def addCause (c bit : Nat) (s : State) : State :=
  if hasCause c bit s then s
  else lineIfMuted (c / 4) (safeMuteNow c (setRc c { getRc c s with causes := (getRc c s).causes + 2 ^ bit } s))

/-- The safety inputs' functions (R305): SFIN0 is an emergency mute, SFIN1 a priority announcement. -/
def sfFn (n : Nat) (s : State) : Nat :=
  match n with
  | 0 => 1
  | 1 => 2
  | 2 => rd ROOK_SFCFG_FN2 s
  | _ => rd ROOK_SFCFG_FN3 s

/-- Is an input in effect: active, or in the hold after it (R300)? -/
def sfEffect (n : Nat) (s : State) : Bool := rdB (bitOf ROOK_SFIN_ACT n) s || rdB (bitOf ROOK_SFIN_HOLD n) s

/-- Is an input with this function in effect? -/
def sfAny (fn : Nat) (s : State) : Bool := (List.range 4).any fun n => sfFn n s == fn && sfEffect n s

/-- Is the channel's input the priority source (R302)? -/
def hasPa (c : Nat) (s : State) : Bool := rd (ROOK_CH_PA_PASRC c) s != 0xFFF

/-- What holds a channel's mute factor at 0 (R281, R301, R302, R306): the reason and the ramp in ms; reason 0: nothing. -/
def mfReason (c : Nat) (s : State) : Nat × Nat :=
  if safeMuted c s then (4, 0)
  else if sfAny 1 s && !(rdB ROOK_SFCFG_PAOVR s && sfAny 2 s && hasPa c s) then (1, rd ROOK_TIMES_EMRAMP s)
  else if s.rook.tempoMute then (2, 1)
  else if sfAny 2 s && !hasPa c s then (3, rd ROOK_TIMES_PAXF s)
  else (0, 0)

/-- A channel's mute factor follows what holds it (R288, R301, R302, R306): it rises again over 500 ms, after an announcement
over PAXF, and after a safe mute at once, since the channel then makes the pop-free start (log entry 44: DEDUCED). -/
def mfFollow (c : Nat) (s : State) : State :=
  let r := getRc c s
  let w := mfReason c s
  if w.1 = 4 then setRc c { r with mf := RampSt.at 0, why := 4 } s
  else if w.1 = r.why then s
  else if w.1 != 0 then setRc c { r with mf := rampAnew r.mf 0 (msSamples w.2 s), why := w.1 } s
  else
    let up := if r.why = 4 then 0 else if r.why = 3 then rd ROOK_TIMES_PAXF s else 500
    setRc c { r with mf := rampTo r.mf unity (msSamples up s), why := 0 } s

/-- A channel that nothing safe-mutes any more returns through the pop-free start (R245, R297); in idle entry or IDLE it waits for
the wake of its group. -/
def releaseMute (c : Nat) (s : State) : State :=
  let s1 := mfFollow c (clearStop c (wrB (ROOK_CH_STAT_SMUTE c) false s))
  if !rdB (MOD_CFG_EN c) s1 || !tlRun s1 || grState (c / 4) s1 == grENTRY then s1
  else if rdB (ROOK_GRP_STAT_REL (c / 4)) s1 then setCh c chPRECHG s1
  else restartGroup (c / 4) s1

/-- A cause ends. -/
def dropCause (c bit : Nat) (s : State) : State :=
  if hasCause c bit s then
    let s1 := setRc c { getRc c s with causes := (getRc c s).causes - 2 ^ bit } s
    if safeMuted c s1 then s1 else releaseMute c s1
  else s

/-- Every channel of Rook. -/
def rookChans : List Nat := List.range 72

/-! ### Lines and relay (R285, R286) -/

/-- Is a stream fit for release: not enabled, or valid and not stuck (R286)? -/
def streamFit (x : Nat) (s : State) : Bool :=
  !streamOn x s || (rdB (SNS_FLAG_VALID x) s && !rdB (SNS_FLAG_STUCK x) s)

/-- Does a channel hold a latched trip (R286, R297)? -/
def chLatched (c : Nat) (s : State) : Bool := s.rook.latchCh.contains c

/-- The conditions of R286 for the line of a group, and that not every channel of it is safe-muted (R281). -/
def lineOk (g : Nat) (s : State) : Bool :=
  rookArmed s && !s.rook.hw && rdB ROOK_STAT_RELAY s && s.rook.rlyon &&
  !s.rook.latchGr.contains g && !rdB (ROOK_GRP_STAT_HOLDING g) s && !sfAny 4 s && !groupMuted g s &&
  (groupChans g s).all fun c =>
    !chLatched c s && streamFit (2 * c) s && streamFit (2 * c + 1) s && streamFit (144 + rd (MOD_CFG_RAIL c) s) s

/-- A released line whose conditions fail is driven low (R286). -/
def checkLine (g : Nat) (s : State) : State := onlyIf (rdB (ROOK_GRP_STAT_REL g) s && !lineOk g s) (driveLine g) s

/-- The lines of every group (R286). -/
def checkLines (s : State) : State := forEach (List.range 18) (fun g t => checkLine g t) s

/-- SFOUT0 opens: every channel is safe-muted, since its load is disconnected (R298). -/
def openRelay (s : State) : State :=
  if rdB ROOK_STAT_RELAY s then
    forEach (modChans s) (fun c t => addCause c cRELAY t)
      (onRook (fun q => { q with rlyon := false }) (wrB ROOK_STAT_RELAY false s))
  else s

/-- LINE_RELEASE (R286): on the group's enable request, only when every condition holds. -/
def execLineRelease (g : Fin 18) (s : State) : Out :=
  .next (if rdB (ROOK_GRP_STAT_REQ g.val) s && lineOk g.val s then freeLine g.val s else s)

/-- RELAY_CLOSE (R285, R297, R305): armed, every stream valid, and nothing that holds the relay open. -/
def execRelayClose (s : State) : Out :=
  .next (if rookArmed s && !s.rook.hw && rdB SNS_STAT_VALID s && s.rook.latchDc.isEmpty && !sfAny 3 s && !s.rook.hold then
    onRook (fun q => { q with rlyon := false }) (wrB ROOK_STAT_RELAY true s)
  else s)

/-- RLYON_END (R285): lines may be released, and channels muted for the open relay return. -/
def execRlyonEnd (s : State) : Out :=
  .next (if rdB ROOK_STAT_RELAY s then
    forEach rookChans (fun c t => dropCause c cRELAY t) (onRook (fun q => { q with rlyon := true }) s)
  else s)

/-! ### The hardware safe state (R281, R282) -/

/-- SFOUT1 and the flags of the safety inputs (R301, R302, R304). -/
def outputsFollow (s : State) : State :=
  wrB ROOK_STAT_SYSMUTE (sfAny 1 s || s.rook.hw || rd ROOK_STAT_STATE s == rkSAFE)
    (wrB ROOK_STAT_EMUTE (sfAny 1 s) (wrB ROOK_STAT_PA (sfAny 2 s) s))

/-- Enter the hardware safe state (R281). -/
def enterHwSafe (s : State) : State :=
  let s1 := onRook (fun q => { q with hw := true, rlyon := false }) s
  let s2 := forEach (modChans s1) (fun c t => safeMuteNow c t) s1
  let s3 := forEach (List.range 18) (fun g t => driveLine g t) s2
  outputsFollow (wrB ROOK_STAT_RELAY false s3)

/-- Leave it: every channel that no cause of its own mutes is released. -/
def leaveHwSafe (s : State) : State :=
  let s1 := onRook (fun q => { q with hw := false }) s
  outputsFollow (forEach (modChans s1) (fun c t => if safeMuted c t then t else releaseMute c t) s1)

/-- An event of R282: the hardware safe state, and a domain reset of ISL28, or SAFE for a second one within 60 s. -/
def rookEvent (code : Nat) (s : State) : State :=
  let t := s.ns.toNat
  let second := match s.rook.lastEvent with
    | some e => Nat.ble t (e + 60000000000)
    | none => false
  if rd ROOK_STAT_STATE s == rkSAFE then s
  else
    let s1 := onRook (fun q => { q with lastEvent := some t }) (raise 28 code 0 (enterHwSafe s))
    if second then outputsFollow (wr ROOK_STAT_STATE rkSAFE s1)
    else requestReset 28 (wr ROOK_STAT_STATE rkRESTART s1)

/-- LOCKSTEP_MISMATCH (R279). -/
def execLockstepMismatch (s : State) : Out := .next (rookEvent 0x5A00 (wrB ROOK_STAT_LSOK false s))
/-- ROOK_SRAM_ERROR (R279). -/
def execRookSramError (s : State) : Out := .next (rookEvent 0x5A02 s)
/-- SELF_WATCHDOG_EXPIRY (R280), which is one of the watchdog expiries of `ROOK_CNT`. -/
def execSelfWatchdogExpiry (s : State) : Out :=
  .next (if rd ROOK_STAT_STATE s == rkSAFE then s else rookEvent 0x5A03 (count ROOK_CNT_WD_COUNT ROOK_EVT_WD_SAT 28 s))

/-! ### Loading and arming (R283, R284, R291) -/

/-- May a record of the safety section write this register: Rook, the sense block, and the cabinet bindings (R284, R521)? -/
def safetyTarget (a : Nat) : Bool :=
  (Nat.ble 0x4F000000 a && Nat.blt a 0x4F004000) || (Nat.ble 0x43200000 a && Nat.blt a 0x43208000) ||
  (Nat.ble 0x44401000 a && Nat.blt a 0x44402000 && a % 0x20 < 0xC)

/-- Write the records of the section; the group delay of linear RAM sets is computed (R269). -/
def loadRecords (rs : List (BitVec 32 × BitVec 32)) (s : State) : State :=
  forEach (List.range 8) (fun t u => computeGd t u)
    (forEach rs (fun r t => if safetyTarget r.1.toNat then softWrite r.1.toNat r.2 t else t) s)

/-- The latched trips show again after a load (R277). -/
def showLatches (s : State) : State :=
  forEach s.rook.latchGr (fun g t => wrB (ROOK_GRP_STAT_LATCH g) true t)
    (forEach s.rook.latchDc (fun c t => addCause c cDC t)
      (forEach s.rook.latchCh (fun c t => addCause c cOCL (wrB (ROOK_CH_STAT_LATCH c) true t)) s))

/-- Rook sets SNS_CTL.RUN (R284), which starts a chain that stands still (R264). -/
def startSense (s : State) : State := if rdB SNS_CTL_RUN s then s else senseRun s

/-- Arm (R284, R291): the sense chain starts, the temperatures start anew, and the hardware safe state ends unless the
clock monitor holds it. -/
def arm (sec : SafetySection) (s : State) : State :=
  let s1 := onRook (fun q => { q with
    consts := sec.consts.foldl (fun m k => mapInsert k.chan.val k m) []
    tamax := sec.tamax
    beats := sec.beats
    chans := []
    fresh := (List.range 64).filter fun i => Nat.ble (rd (CAB_AGE_AGE i) s) 2000 }) s
  let s2 := wr ROOK_STAT_STATE rkARMED (startSense (loadRecords sec.regs (wrB ROOK_STAT_SAFECFG true s1)))
  let s3 := wrB ROOK_STAT_LSOK true (showLatches s2)
  if s3.rook.clkBad then s3 else leaveHwSafe s3

/-- ROOK_LOAD (R283, R284): the section must verify under the safety key and pass R192. -/
def execRookLoad (sec : SafetySection) (s : State) : Out :=
  let e := sec.epoch.toNat
  .next (if rd ROOK_STAT_STATE s != rkLOADING || inReset 28 s then s
    else if sec.sigOk && sec.hashOk && Nat.ble (rd KS_STAT_EPOCH s) e && Nat.ble e 64 then arm sec s
    else wrB ROOK_STAT_SAFECFG false s)

/-! ### Trips (R297-R299) -/

/-- What every trip records (R297). -/
def tripLog (cs : List Nat) (code : Nat) (s : State) : State :=
  let s1 := forEach cs (fun c t => count (ROOK_CH_CNT_TRIP_COUNT c) (ROOK_CH_STAT_TRIP_SAT c) 28 t) s
  let s2 := count ROOK_CNT_TRIP_COUNT ROOK_EVT_TRIP_SAT 28 s1
  raise 28 code 0 (wr ROOK_LASTBSN_BSN (bsnNow s) (wr ROOK_LAST_CODE code s2))

/-- A channel latches until power-on reset (R297). -/
def latchChannel (c : Nat) (s : State) : State :=
  wrB (ROOK_CH_STAT_LATCH c) true
    (onRook (fun q => { q with latchCh := if q.latchCh.contains c then q.latchCh else c :: q.latchCh }) s)

/-- DC_TRIP (R297, R298): the channel is safe-muted, its group's line goes low and SFOUT0 opens, latched. -/
def execDcTrip (c : Fin 72) (output : Bool) (s : State) : Out :=
  let c := c.val
  let on := rookArmed s && rdB (ROOK_CH_CFG_EN c) s &&
    rdB (if output then ROOK_CH_CFG_DCO_EN c else ROOK_CH_CFG_DCI_EN c) s
  .next (if on then
    let s1 := tripLog [c] ((if output then 0x5300 else 0x5200) + c)
      (wrB (if output then ROOK_CH_STAT_DCO c else ROOK_CH_STAT_DCI c) true s)
    let s2 := onRook (fun q => { q with latchDc := if q.latchDc.contains c then q.latchDc else c :: q.latchDc }) (latchChannel c s1)
    checkLines (openRelay (driveLine (c / 4) (addCause c cDC s2)))
  else s)

/-- The times of a list within the last 60 s (R299). -/
def within60 (l : List Nat) (s : State) : List Nat := l.filter fun t => Nat.blt s.ns.toNat (t + 60000000000)

/-- An overcurrent trip (R297, R299): the OCMAX-th within 60 s latches. -/
def ocTrip (c : Nat) (s : State) : State :=
  let l := s.ns.toNat :: within60 (getRc c s).oc s
  let s1 := wr (ROOK_CH_STAT_OCN c) (min l.length 15) (setRc c { getRc c s with oc := l.take 15 } s)
  let s2 := addCause c cOC (tripLog [c] (0x5400 + c) (wrB (ROOK_CH_STAT_OC c) true s1))
  onlyIf (Nat.ble (rd ROOK_RETRY_OCMAX s) l.length) (fun t => checkLine (c / 4) (addCause c cOCL (latchChannel c t))) s2

/-- OCHOLD_END (R299): the channel restarts unless latched. -/
def execOcholdEnd (c : Fin 72) (s : State) : Out :=
  let l := within60 (getRc c.val s).oc s
  .next (if hasCause c.val cOC s then
    dropCause c.val cOC (onlyIf (!chLatched c.val s) (wrB (ROOK_CH_STAT_OC c.val) false)
      (wr (ROOK_CH_STAT_OCN c.val) l.length (setRc c.val { getRc c.val s with oc := l } s)))
  else s)

/-- POWER_STAGE_FAULT (R248, R297, R299): the line reads low while the engine does not drive it. The group's channels stop
hard, Rook holds the line low, and the FLTMAX-th fault within 60 s latches the group. -/
def execPowerStageFault (g : Fin 18) (s : State) : Out :=
  let g := g.val
  .next (if rdB (MODG_STAT_DRIVE g) s then s
  else
    let cs := groupChans g s
    let s1 := forEach cs (fun c t => hardStop c t) (setGr g grFAULT (wrB (MODG_STAT_LINE g) false s))
    let s2 := count (MODG_CNT2_FAULT_COUNT g) (MODG_STAT_FAULT_SAT g) (8 + g) s1
    let l := s.ns.toNat :: within60 (mapGet (fun _ => []) s.rook.flt g) s
    let s3 := onRook (fun q => { q with flt := mapSet (fun _ => []) q.flt g (l.take 15) }) (tripLog cs (0x5100 + g) s2)
    let s4 := wrB (ROOK_GRP_STAT_HOLDING g) true (wr (ROOK_GRP_STAT_FLTN g) (min l.length 15) s3)
    driveLine g (if Nat.ble (rd ROOK_RETRY_FLTMAX s) l.length then
      wrB (ROOK_GRP_STAT_LATCH g) true
        (onRook (fun q => { q with latchGr := if q.latchGr.contains g then q.latchGr else g :: q.latchGr }) s4)
    else s4))

/-- FLTHOLD_END (R299): the group may be released again, and its stopped channels wait for the pop-free start. -/
def execFltholdEnd (g : Fin 18) (s : State) : Out :=
  let g := g.val
  .next (if rdB (ROOK_GRP_STAT_HOLDING g) s then
    let s1 := wr (ROOK_GRP_STAT_FLTN g) (within60 (mapGet (fun _ => []) s.rook.flt g) s).length (wrB (ROOK_GRP_STAT_HOLDING g) false s)
    if s.rook.latchGr.contains g then s1
    else
      let s2 := forEach (groupChans g s1) (fun c t => if safeMuted c t then t else clearStop c t) s1
      restartGroup g s2
  else s)

/-- The channels of a rail. -/
def chansOfRail (r : Nat) (s : State) : List Nat := (modChans s).filter fun c => rd (MOD_CFG_RAIL c) s == r

/-- A rail dips (R297). -/
def railDip (r : Nat) (s : State) : State :=
  if rookArmed s && !rdB (ROOK_RAIL_STAT_DIP r) s then
    forEach (chansOfRail r s) (fun c t => addCause c cDIP t)
      (tripLog (chansOfRail r s) (0x5500 + r) (wrB (ROOK_RAIL_STAT_DIP r) true s))
  else s

/-- RDCLR_END (R297): the rail's fast values have stayed at or above LO + FHYST for RDCLR. -/
def execRdclrEnd (r : Fin 8) (s : State) : Out :=
  let x := 144 + r.val
  .next (if rdB (ROOK_RAIL_STAT_DIP r.val) s &&
      decide (rdI (SNS_FAST_LO x) s + 8 * rd (SNS_HYST_FHYST x) s ≤ cmpPart (rdI (SNS_FASTV_VALUE x) s)) then
    forEach (chansOfRail r.val s) (fun c t => dropCause c cDIP t) (wrB (ROOK_RAIL_STAT_DIP r.val) false s)
  else s)

/-- A stuck stream mutes its channel, or every channel of its rail (R297); `on` false when the flag clears. -/
def stuckCause (x : Nat) (on : Bool) (s : State) : State :=
  if x < 144 then
    let other := rdB (SNS_FLAG_STUCK (if x % 2 = 0 then x + 1 else x - 1)) s
    if on then addCause (x / 2) cSTUCK s else if other then s else dropCause (x / 2) cSTUCK s
  else
    let r := x - 144
    forEach (chansOfRail r s) (fun c t => if on then addCause c cRSTUCK t else dropCause c cRSTUCK t)
      (wrB (ROOK_RAIL_STAT_STUCK r) on s)

/-- A stream is stuck (R273): its channel, or every channel on its rail, is safe-muted while Rook is armed. -/
def senseStuck (x : Nat) (s : State) : State :=
  if rdB SNS_CTL_RUN s && streamOn x s && !rdB (SNS_FLAG_STUCK x) s then
    let s1 := setStream x { getStream x s with calm := 0 }
      (wrB (bitOf (SNS_STUCK_STUCK (x / 32)) (x % 32)) true (wrB (SNS_FLAG_STUCK x) true s))
    let cs := if x < 144 then [x / 2] else chansOfRail (x - 144) s
    if rookArmed s then checkLines (stuckCause x true (tripLog cs (0x5B00 + x) s1)) else s1
  else s

/-- SENSE_STUCK (R273). -/
def execSenseStuck (x : Fin 152) (s : State) : Out := .next (senseStuck x.val s)

/-- The flag clears after four CIC periods in a row with a transition (R273). -/
def clearStuck (x : Nat) (s : State) : State :=
  if rdB (SNS_FLAG_STUCK x) s && Nat.ble 4 (getStream x s).calm then
    stuckCause x false (wrB (bitOf (SNS_STUCK_STUCK (x / 32)) (x % 32)) false (wrB (SNS_FLAG_STUCK x) false s))
  else s

/-! ### Sense results (R265-R274, R297) -/

/-- Rook counts the current's fast values over HI in a row: two trip (R297). -/
def fastToRook (x : Nat) (v : Int) (s : State) : State :=
  let hi := overHi (rd (SNS_FAST_HI x) s) v
  let d := getStream x s
  let s1 := setStream x { d with hiRun := if hi then d.hiRun + 1 else 0 } s
  let c := x / 2
  if x < 144 && x % 2 == 1 && hi && Nat.ble 1 d.hiRun && rookArmed s && rdB (ROOK_CH_CFG_EN c) s &&
      rdB (ROOK_CH_CFG_OC_EN c) s && !hasCause c cOCL s then ocTrip c s1
  else s1

/-- The measured voltage of a rail, to 0.01 V; an invalid value counts as none (R236, R274). -/
def railMeas (x : Nat) (v : Int) (ok : Bool) (s : State) : State :=
  if x < 144 then s
  else
    let r := x - 144
    wrSat (RAIL_MEAS_VMEAS r) (if ok then (rndDiv (v * rd (RAIL_SENSE_FS r) s) (2 ^ 23)).toNat else 0) s

/-- SENSE_FAST_VALUE (R265-R267, R270, R272): formed from the bits since the last one; an invalid value takes no part in the
comparators. -/
def execSenseFastValue (x : Fin 152) (bits : List Bool) (s : State) : Out :=
  let x := x.val
  .next (if rdB SNS_CTL_RUN s && streamOn x s then
    let r := fastValue x bits s
    let s1 := railMeas x r.1 r.2.1 (clearStuck x r.2.2)
    if r.2.1 then
      fastToRook x r.1 (compare2 (SNS_FLAG_FHI x) (SNS_FLAG_FLO x) (rd (SNS_FAST_HI x) s) (rd (SNS_FAST_LO x) s)
        (rd (SNS_HYST_FHYST x) s) x r.1 s1)
    else s1
  else s)

/-- A current's slow value enters the mean square of the channel (R289). -/
def slowToRook (x : Nat) (v : Int) (s : State) : State :=
  if x < 144 && x % 2 == 1 then
    let r := getRc (x / 2) s
    setRc (x / 2) { r with sumI2 := r.sumI2 + v.natAbs * v.natAbs, nI := r.nI + 1 } s
  else s

/-- SENSE_SLOW_VALUE (R265, R267, R268, R270-R274): `ns` is the instant of stream 0's value. -/
def execSenseSlowValue (x : Fin 152) (ns : BitVec 64) (s : State) : Out :=
  let x := x.val
  .next (if rdB SNS_CTL_RUN s then
    let s0 := if x = 0 then
      { wr SNS_OUTIDX_IDX (((getStream 0 s).fastN - 1) / senseD s) s with senseAt := ns }
    else s
    if streamOn x s then
      let r := slowValue x s0
      let ok := Nat.ble (setTaps (rd (SNS_SCFG_SET x) s) s + 4) (getStream x s).fastN
      let s1 := wrB (SNS_FLAG_VALID x) ok r.2
      let s2 := wrB SNS_STAT_VALID (senseValid s1) s1
      if ok then
        slowToRook x r.1 (compare2 (SNS_FLAG_SHI x) (SNS_FLAG_SLO x) (rd (SNS_SLOW_HI x) s) (rd (SNS_SLOW_LO x) s)
          (rd (SNS_HYST_SHYST x) s) x r.1 s2)
      else s2
    else s0
  else s)

/-- SENSE_DIP_VALUE (R271, R297): two valid values in a row below LO trip RAILDIP. -/
def execSenseDipValue (r : Fin 8) (bits : BitVec 4) (s : State) : Out :=
  let x := 144 + r.val
  .next (if rdB SNS_CTL_RUN s && streamOn x s then
    let v := dipValue x bits s
    let low := v.2.1 && underLo (rd (SNS_FAST_LO x) s) v.1
    let d := getStream x v.2.2
    let s1 := setStream x { d with below := if low then d.below + 1 else 0 } v.2.2
    if low && Nat.ble 1 d.below then railDip r.val s1 else s1
  else s)

/-! ### The thermal model and gain (R289-R292) -/

/-- The constants of a channel. -/
def constOf (c : Nat) (s : State) : RookConst :=
  match s.rook.consts.find? fun e => e.1 == c with
  | some e => e.2
  | none => ⟨0, 1, 1, 1, 1, 0, 0, 0, false, []⟩

/-- T_a in 0.1 °C: the cabinet's latest usable report, or TAMAX without one for 10 s (R289). -/
def ambient (c : Nat) (s : State) : Int :=
  let cab := rd (ROOK_CH_CFG_CAB c) s
  if cab = 0x3F || Nat.ble 10000 (rd (CAB_AGE_AGE cab) s) then s.rook.tamax else mapGet (fun _ => 0) s.rook.ta cab

/-- The temperatures of the first update after arming, in 0.001 °C (R291). -/
def firstTemp (c : Nat) (s : State) : Int :=
  let cab := rd (ROOK_CH_CFG_CAB c) s
  if cab != 0x3F && s.rook.fresh.contains cab then ambient c s * 100 + rd (ROOK_CH_TLIM_TMARGIN c) s * 1000
  else (rd (ROOK_CH_TLIM_TLIM c) s : Int) * 100 - 20000

/-- The power in µW over the last millisecond: I²rms × R_e(T_c) (R289). -/
def coilPower (c : Nat) (tc : Int) (s : State) : Int :=
  let r := getRc c s
  let amp := rd (ROOK_CH_VSFS_ISFS c) s
  let re : Int := rd (ROOK_CH_RREF_RREF c) s * (1000000000 + rd (ROOK_CH_RREF_ALPHA c) s * (tc - 20000))
  (r.sumI2 * amp * amp : Nat) * re / (max r.nI 1 * 2 ^ 46 * 10000000000 : Nat)

/-- The equations of R289 over 1 ms, from temperatures in 0.001 °C: the coil and the magnet. -/
def thermalStep (c : Nat) (tc tm : Int) (s : State) : Int × Int :=
  let k := constOf c s
  let flow := (tc - tm) * 1000000 / (max k.rcm 1 : Nat)
  let out := (tm - ambient c s * 100) * 1000000 / (max k.rma 1 : Nat)
  (tc + (coilPower c tc s - flow) / (max k.cc 1 * 1000 : Nat), tm + (flow - out) / (max k.cm 1 * 1000 : Nat))

/-- A number within 0.01 °C of one computed: how Rook integrates and rounds is not stated (log entry 45: DEDUCED). -/
def nearTemp (t : Int) (s : State) : Int × State :=
  let r := pickNat 0 20 s
  (t - 10 + r.1, r.2)

/-- The largest n with (n / 2^23)^2000 ≤ 10^-a: the factor of an attenuation of `a` in 0.01 dB, in Q1.23. -/
def attFactor (a : Nat) : Nat := bisect (fun n => Nat.ble (n ^ 2000 * 10 ^ a) (2 ^ 46000)) 24 0

/-- The target of G_th (R292): none when off, else its attenuation in 0.001 dB. -/
def thermalTarget (c : Nat) (tc : Int) (wasOff : Bool) (s : State) : Option Nat :=
  let lim : Int := rd (ROOK_CH_TLIM_TLIM c) s * 100
  let knee : Int := rd (ROOK_CH_TLIM_TKNEE c) s * 1000
  if lim ≤ tc || (wasOff && decide (lim - 5000 ≤ tc)) then none
  else if tc < lim - knee then some 0
  else some (12000 * (tc - (lim - knee)) / (max knee 1)).toNat

/-- G_th moves towards its target by one millisecond: up to 20 dB/s falling and 2 dB/s rising, and off over 100 ms (R292). -/
def thermalGain (c : Nat) (tc : Int) (s : State) : State :=
  let r := getRc c s
  match thermalTarget c tc r.off s with
  | none =>
    let s1 := if r.off then s
      else raise 28 (0x5600 + c) 0 (setRc c { r with off := true, gth := rampTo r.gth 0 (msSamples 100 s), att := 144000 } s)
    wrB (ROOK_CH_STAT_THCUT c) true (wrB (ROOK_CH_STAT_THLIM c) true s1)
  | some t =>
    let a := if r.att < t then min t (r.att + 20) else max t (r.att - 2)
    let g := attFactor (a / 10)
    wrB (ROOK_CH_STAT_THCUT c) false (wrB (ROOK_CH_STAT_THLIM c) (a != 0)
      (setRc c { r with off := false, att := a, gth := ⟨rampNow r.gth, g, 0, msSamples 1 s⟩ } s))

/-- Show and keep the temperatures. -/
def setTemp (c : Nat) (tc tm : Int) (s : State) : State :=
  wrI (ROOK_CH_TEMP_TC c) (rndDiv tc 100) (wrI (ROOK_CH_TEMP_TM c) (rndDiv tm 100)
    (setRc c { getRc c s with temp := some (tc, tm) } s))

/-- THERMAL_UPDATE (R289, R291, R292), every 1 ms. -/
def execThermalUpdate (c : Fin 72) (s : State) : Out :=
  let c := c.val
  .next (if rookArmed s && rdB (ROOK_CH_CFG_EN c) s && rdB (ROOK_CH_CFG_TH_EN c) s then
    let s1 := match (getRc c s).temp with
      | none => setTemp c (firstTemp c s) (firstTemp c s) s
      | some (tc, tm) =>
        let x := thermalStep c tc tm s
        let a := nearTemp x.1 s
        let b := nearTemp x.2 a.2
        setTemp c a.1 b.1 b.2
    let s2 := setRc c { getRc c s1 with sumI2 := 0, nI := 0 } s1
    thermalGain c (((getRc c s2).temp).getD (0, 0)).1 s2
  else s)

/-- A valid measurement moves T_c by 1 % of the difference (R290); `rm` in 0.01 Ω. -/
def useRmeas (c rm : Nat) (s : State) : State :=
  let rref := rd (ROOK_CH_RREF_RREF c) s
  let alpha := rd (ROOK_CH_RREF_ALPHA c) s
  match (getRc c s).temp with
  | none => s
  | some (tc, tm) =>
    if rref = 0 || alpha = 0 then s
    else
      let tmeas : Int := 20000 + ((rm * 10 : Nat) - (rref : Int)) * 1000000000 / (rref * alpha : Nat)
      setTemp c (tc + (tmeas - tc) / 100) tm s

/-- IMPEDANCE_MEASURE (R293): from programme, every 100 ms; the band filter is not given by its coefficients, so R_meas and
whether the current reached IMIN are free (log entry 34: DESIGN CHOICE). -/
def execImpedanceMeasure (c : Fin 72) (s : State) : Out :=
  let c := c.val
  .next (if rookArmed s && rdB (ROOK_CH_CFG_EN c) s && !rdB (ROOK_CH_CFG_PILOT c) s then
    let used := freeVal 1 s == 1
    let s1 := freeNext s
    let rm := freeVal 16 s1
    let s2 := freeNext s1
    if used then useRmeas c rm.toNat (wr (ROOK_CH_Z_RM c) rm.toNat s2) else s2
  else s)

/-- A line flag rises or falls (R295): with LINEACT it safe-mutes the channel. -/
def lineFlags (c : Nat) (opn sht : Bool) (s : State) : State :=
  let was := rdB (ROOK_CH_STAT_LINE_OPEN c) s || rdB (ROOK_CH_STAT_LINE_SHORT c) s
  let s1 := wrB (ROOK_CH_STAT_LINE_OPEN c) opn (wrB (ROOK_CH_STAT_LINE_SHORT c) sht s)
  if (opn || sht) && !was then
    if rdB (ROOK_CH_CFG_LINEACT c) s then addCause c cLINE (tripLog [c] (0x5700 + c) s1) else raise 28 (0x5700 + c) 0 s1
  else if !(opn || sht) && was then dropCause c cLINE s1
  else s1

/-- PILOT_WINDOW (R294, R295): Z_p over 1 ms. How the phasors are rounded is not stated: |Z_p| and Re(Z_p) are free. -/
def execPilotWindow (c : Fin 72) (s : State) : Out :=
  let c := c.val
  .next (if rookArmed s && rdB (ROOK_CH_CFG_EN c) s && rdB (ROOK_CH_CFG_PILOT c) s && Nat.ble 4 s.nS then
    let z := (freeVal 16 s).toNat
    let s1 := freeNext s
    let re := (freeVal 16 s1).toNat
    let s2 := wr (ROOK_CH_Z_ZP c) z (freeNext s1)
    let s3 := if (constOf c s).pilotRref then useRmeas c re (wr (ROOK_CH_Z_RM c) re s2) else s2
    let r := getRc c s3
    let hi := Nat.blt (rd (ROOK_CH_ZLIM_ZHI c) s) z
    let lo := Nat.blt z (rd (ROOK_CH_ZLIM_ZLO c) s)
    let q := { r with
      zOpen := if hi then r.zOpen + 1 else 0
      zShort := if lo then r.zShort + 1 else 0
      zIn := if hi || lo then 0 else r.zIn + 1 }
    let stay := Nat.blt q.zIn 1000
    lineFlags c ((rdB (ROOK_CH_STAT_LINE_OPEN c) s && stay) || Nat.ble 100 q.zOpen)
      ((rdB (ROOK_CH_STAT_LINE_SHORT c) s && stay) || Nat.ble 100 q.zShort) (setRc c q s3)
  else s)

/-! ### The excursion gain (R296) -/

/-- The own feed for a data block, or the partner's (R296). -/
def rookFeed (k c : Nat) (s : State) : Option (List Int) :=
  match ownFeed k c s with
  | some xs => some xs
  | none => partnerFeed k c s

/-- max |x| in 0.01 mm over a data block: the displacement filter's format is not stated, so it is free, and zero while
nothing but zeros has come (log entry 34: DESIGN CHOICE). -/
def displacement (k c : Nat) (s : State) : Nat × State :=
  let quiet := match rookFeed k c s with
    | some xs => xs.all (· == 0)
    | none => true
  if quiet && !(getMod c s).dirty then (0, s) else ((freeVal 24 s).toNat, freeNext s)

/-- EXCURSION_GAIN (R296): G_x for data block k, by BCYC 30,000 of block k + 2; not written in time, the old one stays. -/
def execExcursionGain (c : Fin 72) (written : Bool) (s : State) : Out :=
  let c := c.val
  .next (if rookArmed s && rdB (ROOK_CH_CFG_EN c) s && rdB (ROOK_CH_CFG_X_EN c) s && tlRun s then
    if written then
      let x := displacement (dataBlock 2 s) c s
      let r := getRc c x.2
      let lim := rd (ROOK_CH_X_XLIM c) s
      let cap := if x.1 ≤ lim then unity else lim * unity / x.1
      let rise := pickNat r.gx (ceilDiv (r.gx * attFactor 0) (attFactor (600 / max (24 * rd (ROOK_CH_X_XREL c) s) 1 + 1))) x.2
      let g := min unity (min cap rise.1)
      let s1 := setRc c { getRc c rise.2 with gx := g } rise.2
      let s2 := wrB (ROOK_CH_STAT_XLIM c) (Nat.blt g unity) s1
      onlyIf (Nat.blt g unity) (count (ROOK_CH_CNT_XLIM_COUNT c) (ROOK_CH_STAT_XLIM_SAT c) 28) s2
    else
      onlyIf (Nat.blt (getRc c s).gx unity) (count (ROOK_CH_CNT_XLIM_COUNT c) (ROOK_CH_STAT_XLIM_SAT c) 28)
        (count ROOK_CNT2_XLATE_COUNT ROOK_EVT_XLATE_SAT 28 s)
  else s)

/-! ### The protection gain stage (R287, R302) -/

/-- One sample through the stage: the input is mixed with the priority source, then the gain; the result alone is rounded
(R287, R302). -/
def stageSample (pag : Nat) (r : RookCh) (x p : Int) : Int × Nat × RookCh :=
  let m := rampNow r.pa
  let y := x * ((unity : Int) - m) * unity + p * pag * m
  let g := (rndDiv (rampNow r.mf * min (rampNow r.gth) r.gx : Nat) unity).toNat
  ((satI 24 (rndDiv (y * g) (unity ^ 3))).1, g, { r with mf := rampNext r.mf, gth := rampNext r.gth, pa := rampNext r.pa })

/-- A block of samples through the stage. -/
def stageBlock (pag : Nat) : RookCh → Nat → List (Int × Int) → List Int × Nat × RookCh
  | r, g, [] => ([], g, r)
  | r, _, (x, p) :: l =>
    let y := stageSample pag r x p
    let z := stageBlock pag y.2.2 y.2.1 l
    (y.1 :: z.1, z.2.1, z.2.2)

/-- PAGAIN as a factor in Q1.23, at most 1.0 (R302). -/
def paFactor (c : Nat) (s : State) : Nat :=
  let g := rdI (ROOK_CH_PA_PAGAIN c) s
  if g = -32768 then 0 else attFactor (-g).toNat

/-- The stage of a channel for a data block (R287, R294, R302), in which every channel takes part (log entry 44: DEDUCED); a
pilot that is added makes the played signal differ from zero. -/
def rookStage (k c : Nat) (s : State) : State :=
  let xs := (List.range s.nS).map fun i => sInt (getSamp k skCAP (4096 + c) i s)
  let src := rd (ROOK_CH_PA_PASRC c) s
  let ps := if hasPa c s then (List.range s.nS).map fun i => sInt (getSamp k skFE src i s) else xs.map fun _ => 0
  let r := stageBlock (paFactor c s) (getRc c s) (rd (ROOK_CH_GAIN_G c) s) (xs.zip ps)
  let s1 := wr (ROOK_CH_GAIN_G c) r.2.1 (setRc c r.2.2 s)
  let s2 := forEach r.1.zipIdx (fun e t => setSamp k skCAP (4096 + c) e.2 (toSamp e.1) t) s1
  let pilot := rdB (ROOK_CH_CFG_EN c) s && rdB (ROOK_CH_CFG_PILOT c) s && !safeMuted c s && Nat.ble 4 s.nS
  onlyIf (pilot || r.1.any (· != 0)) (fun t => setMod c { getMod c t with dirty := true } t) s2

/-- SOURCE_SELECT (R240, R287): at BCYC 40,000 of block k + 2 the sources of data block k are chosen and pass Rook's stage.
The samples played are kept beside the captures, at 4,096 plus the channel. -/
def execSourceSelect (s : State) : Out :=
  let k := dataBlock 2 s
  .next (if tlRun s then forEach (modChans s) (fun c t => rookStage k c (selectChan k c t)) s else s)

/-! ### Safety inputs (R300-R302, R305) -/

/-- Everything that follows the inputs in effect: mute factors, the priority source, the outputs, relay and lines. -/
def inputsFollow (s : State) : State :=
  let pa := sfAny 2 s
  let s1 := forEach (modChans s) (fun c t =>
    let r := getRc c t
    let on := pa && hasPa c t
    wrB (ROOK_CH_STAT_PA c) on
      (mfFollow c (setRc c { r with pa := rampTo r.pa (if on then unity else 0) (msSamples (rd ROOK_TIMES_PAXF t) t) } t))) s
  checkLines (onlyIf (sfAny 3 s) openRelay (outputsFollow s1))

/-- A priority announcement raises a wake request for every group with a priority source (R302). -/
def paWake (s : State) : State :=
  forEach (List.range 18) (fun g t =>
    if (groupChans g t).any (fun c => hasPa c t) then wakeGroups (rd (MODG_CFG_ACTGRP g) t) t else t) s

/-- An input becomes active (R300): a hold ends; SFIN1's function raises wakes, and EVENT logs under a detail that the spec
does not state (log entry 43: DESIGN CHOICE). -/
def sfRise (n : Nat) (s : State) : State :=
  let s1 := wrB (bitOf ROOK_SFIN_HOLD n) false (wrB (bitOf ROOK_SFIN_ACT n) true s)
  let s2 := onlyIf (sfFn n s == 5) (fun t => freeNext (raise 28 (0x5000 + (freeVal 12 t).toNat) 0 t)) s1
  onlyIf (sfFn n s == 2) paWake s2

/-- An input becomes inactive (R300): its hold starts and STUCK clears. -/
def sfFall (n : Nat) (s : State) : State :=
  wrB (bitOf ROOK_SFIN_STUCK n) false (wrB (bitOf ROOK_SFIN_HOLD n) true (wrB (bitOf ROOK_SFIN_ACT n) false s))

/-- One sample of an input (R300): active after 3 in a row, inactive after 10. -/
def sfSample (n : Nat) (level : Bool) (s : State) : State :=
  let on := level == rdB (bitOf ROOK_SFCFG_POL n) s
  let d := mapGet (fun _ => (⟨0, 0⟩ : SfSt)) s.rook.sf n
  let e : SfSt := if on then ⟨min (d.on + 1) 10, 0⟩ else ⟨0, min (d.off + 1) 10⟩
  let s1 := wrB (bitOf ROOK_SFIN_RAW n) level (onRook (fun q => { q with sf := mapSet (fun _ => ⟨0, 0⟩) q.sf n e }) s)
  if !rdB (bitOf ROOK_SFIN_ACT n) s && Nat.ble 3 e.on then sfRise n s1
  else if rdB (bitOf ROOK_SFIN_ACT n) s && Nat.ble 10 e.off then sfFall n s1
  else s1

/-- SFIN_SAMPLE (R300): the four levels, every 10 µs. -/
def execSfinSample (levels : BitVec 4) (s : State) : Out :=
  let s1 := forEach (List.range 4) (fun n t => sfSample n (levels.getLsbD n) t) s
  .next (if rdReg ROOK_SFIN_ACT.addr s1 / 16 == rdReg ROOK_SFIN_ACT.addr s / 16 then s1 else inputsFollow s1)

/-- SFIN_HOLD_END (R300): 250 ms after an input became inactive its effect ends. -/
def execSfinHoldEnd (n : Fin 4) (s : State) : Out :=
  .next (if rdB (bitOf ROOK_SFIN_HOLD n.val) s then inputsFollow (wrB (bitOf ROOK_SFIN_HOLD n.val) false s) else s)

/-- SFIN_STUCK (R300): active for 60 s without a break; its effect continues. -/
def execSfinStuck (n : Fin 4) (s : State) : Out :=
  .next (if rdB (bitOf ROOK_SFIN_ACT n.val) s && !rdB (bitOf ROOK_SFIN_STUCK n.val) s then
    raise 28 (0x5800 + n.val) 0 (wrB (bitOf ROOK_SFIN_STUCK n.val) true s)
  else s)

/-! ### Watchdogs and clocks (R306, R307) -/

/-- CC_WATCHDOG_READ (R306): a heartbeat word unchanged at one read raises the core's NMI, at the next it is logged and the
core reset. -/
def execCcWatchdogRead (n : Fin 4) (word : BitVec 32) (s : State) : Out :=
  let n := n.val
  .next (if rookArmed s && rdB (bitOf ROOK_WD_CWDEN n) s then
    let same := match s.rook.words.find? fun e => e.1 == n with
      | some e => e.2 == word
      | none => false
    let st := if same then mapGet (fun _ => 0) s.rook.stale n + 1 else 0
    let s1 := onRook (fun q => { q with words := mapInsert n word q.words, stale := mapSet (fun _ => 0) q.stale n st }) s
    let s2 := wrB (bitOf ROOK_WD_CC_OK n) (!same) s1
    if st = 1 then settle (144 + n) (wrCsr (144 + n) 0x104 1 s2)
    else if st = 2 then
      onPea (144 + n) (fun p => { p with stall := .halted })
        (requestReset (261 + n) (raise 28 (0x5910 + n) 0 (count ROOK_CNT_WD_COUNT ROOK_EVT_WD_SAT 28 s2)))
    else s2
  else s)

/-- The heartbeat of Tempo at a block boundary (R306): it comes unless Tempo is in domain reset. -/
def rookTick (s : State) : State :=
  if !rookArmed s then s
  else if inReset 1 s then
    let m := s.rook.tempoMiss + 1
    let s1 := onRook (fun q => { q with tempoMiss := m, tempoRun := 0 }) s
    if m = rd ROOK_WD_TWD s then
      let s2 := raise 28 0x5900 0 (count ROOK_CNT_WD_COUNT ROOK_EVT_WD_SAT 28 (wrB ROOK_WD_TEMPO_OK false s1))
      requestReset 1 (forEach (modChans s2) (fun c t => mfFollow c t) (onRook (fun q => { q with tempoMute := true }) s2))
    else s1
  else
    let n := s.rook.tempoRun + 1
    let s1 := onRook (fun q => { q with tempoMiss := 0, tempoRun := n }) (wrB ROOK_WD_TEMPO_OK true s)
    if s.rook.tempoMute && Nat.ble 24 n then
      let s2 := onRook (fun q => { q with tempoMute := false }) s1
      forEach (modChans s2) (fun c t => mfFollow c t) s2
    else s1

/-- A clock out of range (R307): the hardware safe state; with Rook's own clock bad its cores take NMI. -/
def clockBad (rook : Bool) (s : State) : State :=
  if s.rook.clkBad then wrB ROOK_STAT_CLKOK false s
  else
    let s1 := raise 28 0x5A01 0 (enterHwSafe (onRook (fun q => { q with clkBad := true }) (wrB ROOK_STAT_CLKOK false s)))
    let s2 := onlyIf (rookArmed s) (wr ROOK_STAT_STATE rkRESTART) s1
    if rook then s2
    else settle 149 (wrCsr 149 0x104 1 (settle 148 (wrCsr 148 0x104 1 s2)))

/-- CLOCK_MONITOR_WINDOW (R307): which of Rook's own clock, the pod clock and the sense bit clock are within ±5 %. -/
def execClockMonitorWindow (rook pods sense : Bool) (s : State) : Out :=
  .next (if rook && pods && sense then wrB ROOK_STAT_CLKOK true s else clockBad rook s)

/-- CLOCK_RECOVERED (R307): every clock has been in range for 1 s; Rook arms again. -/
def execClockRecovered (s : State) : Out :=
  .next (if s.rook.clkBad && rdB ROOK_STAT_CLKOK s then
    let s1 := onRook (fun q => { q with clkBad := false }) s
    if rdB ROOK_STAT_SAFECFG s && rd ROOK_STAT_STATE s != rkSAFE then leaveHwSafe (wr ROOK_STAT_STATE rkARMED s1) else s1
  else s)

/-! ### Requests of the key store (R204, R222) -/

/-- Rook safe-mutes every modulator. -/
def rookMuteAll (s : State) : State := forEach (modChans s) (fun c t => addCause c cKEYS t) s

/-- Rook safe-mutes every modulator and opens the speaker relay, which stays open (R222). -/
def rookMuteOpen (s : State) : State := openRelay (onRook (fun q => { q with hold := true }) (rookMuteAll s))

end Sys2Proof.Machine
end

