-- ==== Sys2Proof/Machine/KeyStore.lean ====
section
/-! DEFINITION. The key store (R185-R230): fuses and the security epoch, the commands, seal windows and zeroisation, JTAG and
its unlock, and the SAKs of MACsec. Cryptographic checks are symbolic: a command carries their outcome (log entry 27: DESIGN CHOICE). -/

namespace Sys2Proof.Machine

/-- Change the key store's part of the state. -/
def onKs (f : KeySt → KeySt) (s : State) : State := { s with ks := f s.ks }

/-! ### Fuses and the epoch (R186-R194) -/

/-- E: the index of the lowest unblown EPOCH bit, 0 to 64 (R191). -/
def epochOf (bits : BitVec 64) : Nat := ((List.range 64).find? fun i => !bits.getLsbD i).getD 64

/-- What `KS_STAT` shows of the fuses. -/
def showFuses (s : State) : State :=
  wr KS_STAT_EPOCH (epochOf s.ks.epochBits) (wr KS_STAT_LIFE (if s.ks.fa then 2 else if s.ks.owned then 1 else 0) s)

/-- May a signed object with this EPOCH be used (R192)? -/
def epochOk (e : Nat) (s : State) : Bool := Nat.ble (epochOf s.ks.epochBits) e && Nat.ble e 64

/-- Does R193 hold: the image's EPOCH is ahead, audio has run for 60 s with no fault of class 0x1 or 0x2, and the other slot
follows or the image forces? -/
def epochDue (s : State) : Bool :=
  let k := s.tl.k.toNat
  let ran := match s.image.started with
    | some b => Nat.ble (b + 1440000) k && Nat.ble (s.image.lastBad + 1440000) (k + 1)
    | none => false
  s.image.owner && Nat.blt (epochOf s.ks.epochBits) s.image.epoch && Nat.ble s.image.epoch 64 && ran &&
    (s.image.force || match s.image.other with
      | some e => Nat.ble s.image.epoch e
      | none => false)

/-- `KS_STAT.EPOCH_PEND`: the advance is deferred by R193. -/
def showPend (s : State) : State :=
  wrB KS_STAT_EPOCH_PEND (s.image.owner && Nat.blt (epochOf s.ks.epochBits) s.image.epoch) s

/-- Blow epoch bits one at a time, each verified before the next (R194); `verify` tells which bits verify. -/
def blowEpoch : List Bool → Nat → State → State
  | [], _, s => s
  | ok :: r, goal, s =>
    let e := epochOf s.ks.epochBits
    if goal ≤ e then s
    else if ok then blowEpoch r goal (onKs (fun q => { q with epochBits := q.epochBits ||| (1 <<< e) }) s)
    else wrB KS_STAT_FUSE_ERR true s

/-! ### SAKs (R225, R226, R424) -/

/-- The transmit association of a MAC. -/
def getSec (m : Nat) (s : State) : SecSt := mapGet (fun _ => SecSt.reset) s.ks.sec m

/-- Set the transmit association of a MAC. -/
def setSec (m : Nat) (x : SecSt) (s : State) : State :=
  onKs (fun q => { q with sec := mapSet (fun _ => SecSt.reset) q.sec m x }) s

/-- Does a key-store slot hold a key? -/
def slotValid (i : Nat) (s : State) : Bool := rdB (bitOf (KS_SLOTS_VALID (i / 32)) (i % 32)) s

/-- Is the transmit association of a MAC active (R424)? -/
def secActive (m : Nat) (s : State) : Bool :=
  rdB (MS_CFG_EN m) s && rdB (ETH_STAT_LINK m) s && !rdB (MS_TXSTAT_STOPPED m) s &&
    match (getSec m s).tx with
    | some a => slotValid (4 * m + a) s
    | none => false

/-- What `MS_TXSTAT` shows of the association. -/
def showSec (m : Nat) (s : State) : State :=
  let s1 := match (getSec m s).tx with
    | some a =>
      let x := match s.ks.saks.find? fun e => e.1 == 4 * m + a with
        | some e => Nat.ble 2 e.2.cipher.val
        | none => false
      wrB (MS_TXSTAT_XPN m) x (wr (MS_TXSTAT_AN m) a s)
    | none => s
  wrB (MS_TXSTAT_ACTIVE m) (secActive m s1) s1

/-- Clear a slot: the key is gone. -/
def clearSlot (i : Nat) (s : State) : State :=
  let s1 := wrB (bitOf (KS_SLOTS_VALID (i / 32)) (i % 32)) false
    (onKs (fun q => { q with keys := mapErase i q.keys, saks := mapErase i q.saks }) s)
  if i < 48 then showSec (i / 4) s1 else s1

/-- Put a key into a slot. -/
def fillSlot (i : Nat) (key : BitVec 256) (s : State) : State :=
  wrB (bitOf (KS_SLOTS_VALID (i / 32)) (i % 32)) true (onKs (fun q => { q with keys := mapInsert i key q.keys }) s)

/-- The transmit side moves to a new AN: packet numbers start at 1, and the AN before waits for its retirement (R226). -/
def moveTx (m a : Nat) (s : State) : State :=
  let x := getSec m s
  let s1 := setSec m { x with tx := some a, next := none, old := if x.tx == some a then none else x.tx } s
  let s2 := wrB (MS_TXSTAT_STOPPED m) false (wr (MS_TXPN_HI_PN m) 0 (wr (MS_TXPN_LO_PN m) 1 s1))
  showSec m s2

/-- Retire the AN that waits for it: its slot is cleared (R226). -/
def retireOld (m : Nat) (s : State) : State :=
  match (getSec m s).old with
  | some a => clearSlot (4 * m + a) (setSec m { getSec m s with old := none } s)
  | none => s

/-- May a rekey name this AN: not the one in use for transmit (R226)? -/
def rekeyOk (m a : Nat) (s : State) : Bool := (getSec m s).tx != some a

/-- Install a SAK (R226): receive is active at once; transmit moves with the first frame of a block at or after the apply
BSN, at once where the MAC has none yet. An earlier rekey not yet retired is replaced, and its old AN retired. -/
def installSak (r : SakRecord) (apply : BitVec 32) (s : State) : State :=
  let m := r.mac.val
  let a := r.an.val
  let s0 := retireOld m s
  let s1 := fillSlot (4 * m + a) r.key (onKs (fun q => { q with saks := mapInsert (4 * m + a) r q.saks }) s0)
  let rt := if r.retire = 0 then 10 else r.retire.toNat
  let s2 := setSec m { getSec m s1 with next := some (a, apply), retire := rt } s1
  if (getSec m s2).tx.isNone then moveTx m a s2 else showSec m s2

/-- The transmit side of a MAC at a block boundary (R226). -/
def secTick (m : Nat) (s : State) : State :=
  match (getSec m s).next with
  | some (a, b) => if serialLater 32 b.toNat (s.tl.k.toNat % 2 ^ 32) then s else moveTx m a s
  | none => s

/-- SAK_RETIRE (R226): RETIRE seconds after the move. -/
def execSakRetire (m : Fin 12) (s : State) : Out := .next (retireOld m.val s)

/-! ### Zeroisation (R204, R205) -/

/-- A pod's bit of `KS_SEALPODS` (R203, R228). -/
def showSealPod (n : Nat) (s : State) : State := wrB (bitOf KS_SEALPODS_PODS n) (podSealed n s) s

/-- Every Halvon session ends (R204, R538). -/
def endAllSessions (s : State) : State :=
  if s.halv.sessions.isEmpty then s
  else raise 261 0xD003 0 { s with halv := { s.halv with sessions := [], castle := [] } }

/-- Zeroise every window and all key material (R204). -/
def zeroiseAll (s : State) : State :=
  let s1 := forEach (List.range 64) (fun i t => clearSlot i t) (zeroisePeas (List.range 144) s)
  endAllSessions (onKs (fun q => { q with gck := false, golden := [], keys := [], saks := [] }) s1)

/-- After zeroisation LOCK is 0, the windows read 0 and every task entry of the pea is disabled (R205). -/
def zeroisedPea (q : Nat) (s : State) : State :=
  let s1 := wrB (KS_SEAL_CTL_EMPTY q) true (wrB (KS_SEAL_CTL_LOCK q) false (zeroSealWindows q s))
  forEach (List.range 64) (fun e t => onlyIf (taskOn (q / 9) (q % 9) e t) (wrB (TASK_CFG_EN (q / 9) (q % 9) e) false) t) s1

/-- JTAG opens once zeroisation has completed (R222, R224): scope 3 blows FA. -/
def openJtag (s : State) : State :=
  let sc := s.ks.opening
  if sc = 0 then s
  else
    let s1 := onKs (fun q => { q with opening := 0, fa := q.fa || sc == 3 }) (wr KS_STAT_JTAG sc s)
    showFuses s1

/-- ZEROISATION_DONE (R205, R222). -/
def execZeroisationDone (s : State) : Out :=
  .next (if rdB KS_STAT_ZBUSY s then
    let s1 := forEach s.ks.zeroing (fun q t => zeroisedPea q t) s
    let s2 := forEach (List.range 16) (fun n t => showSealPod n t) (onKs (fun q => { q with zeroing := [] }) s1)
    openJtag (wrB KS_EVT_ZDONE true (wrB KS_STAT_ZBUSY false s2))
  else s)

/-- SEAL_LOCK (R201, R230): the windows are locked. -/
def execSealLock (q : Fin 144) (s : State) : Out :=
  .next (showSealPod (q.val / 9) (wrB (KS_SEAL_CTL_LOCK q.val) true s))

/-! ### Commands (R229) -/

/-- A command's result stands (R229). -/
def ksResult (err : Nat) (s : State) : State := wr KS_RESULT_ERR err (wrB KS_RESULT_DONE true s)

/-- A GO: with a command running it completes with ERR 1, and else the command runs (R229). -/
def ksGo (op slot : Nat) (job : KsJob) (s : State) : State :=
  if s.ks.job.isSome then ksResult 1 s
  else onKs (fun q => { q with job := some job }) (wr KS_CMD_GO 1 (wr KS_CMD_SLOT slot (wr KS_CMD_OP op s)))

/-- KS_UNWRAP (R196, R197, R229). -/
def execKsUnwrap (slot : Fin 64) (record tagOk : Bool) (key : BitVec 256) (s : State) : Out :=
  .next (ksGo 1 slot.val (.unwrap slot.val record tagOk key) s)
/-- KS_DECRYPT (R198, R229). -/
def execKsDecrypt (slot : Fin 64) (tagOk : Bool) (dst : BitVec 40) (plain : List Byte) (s : State) : Out :=
  .next (ksGo 2 slot.val (.decrypt slot.val tagOk dst.toNat plain) s)
/-- KS_BUILD_GOLDEN (R199, R229). -/
def execKsBuildGolden (slot : Fin 64) (tagOk : Bool) (dst : BitVec 40) (words : List (BitVec 32)) (s : State) : Out :=
  .next (ksGo 3 slot.val (.golden slot.val tagOk dst.toNat words) s)
/-- KS_SESSION (R229, R536). -/
def execKsSession (num : BitVec 32) (key : BitVec 256) (s : State) : Out :=
  .next (ksGo 4 (rd KS_CMD_SLOT s) (.session num.toNat key) s)
/-- KS_SAK_INSTALL (R226, R229). -/
def execKsSakInstall (slot : Fin 64) (r : SakRecord) (apply : BitVec 32) (s : State) : Out :=
  .next (ksGo 5 slot.val (.sak slot.val r apply) s)
/-- KS_SLOT_CLEAR (R229). -/
def execKsSlotClear (slot : Fin 64) (s : State) : Out := .next (ksGo 6 slot.val (.clear slot.val) s)

/-- What a ZEROISE does at once (R204): hardware clears RUN in every pod and Rook safe-mutes. -/
def zeroiseNow (s : State) : State :=
  rookMuteAll (forEach (List.range 16) (fun n t => onlyIf (rdB (POD_CTL_RUN n) t) (wrB (POD_CTL_RUN n) false) t) (zeroiseAll s))

/-- KS_ZEROISE (R204, R229): never refused. -/
def execKsZeroise (s : State) : Out :=
  .next (if s.ks.job.isSome then ksResult 1 (zeroiseNow s) else zeroiseNow (ksGo 7 (rd KS_CMD_SLOT s) .zeroise s))

/-- KS_EPOCH_ADVANCE (R193, R194, R229). -/
def execKsEpochAdvance (verify : List Bool) (s : State) : Out := .next (ksGo 8 (rd KS_CMD_SLOT s) (.epoch verify) s)
/-- KS_PROVISION (R187, R229): `production` tells whether Nolwald's production runtime on CC0 gives it. -/
def execKsProvision (production : Bool) (owner safety : BitVec 384) (s : State) : Out :=
  .next (ksGo 9 (rd KS_CMD_SLOT s) (.provision production owner safety) s)
/-- KS_RANDOM (R229). -/
def execKsRandom (s : State) : Out := .next (ksGo 0xA (rd KS_CMD_SLOT s) .random s)
/-- KS_KILL_JTAG (R229): `owner` tells whether an owner runtime gives it. -/
def execKsKillJtag (owner : Bool) (s : State) : Out := .next (ksGo 0xB (rd KS_CMD_SLOT s) (.killJtag owner) s)

/-- KS_BAD_OP (R229): an OP of no command completes with ERR 6; one of a command is no event of this row. -/
def execKsBadOp (op : BitVec 8) (s : State) : Out :=
  .next (if 1 ≤ op.toNat ∧ op.toNat ≤ 0xB then s
    else if s.ks.job.isSome then ksResult 1 s
    else ksResult 6 (wr KS_CMD_OP op.toNat s))

/-- The DRAM offset of an address, with `n` bytes from it in DRAM (R454, R465). -/
def dramOffset (a n : Nat) (s : State) : Option Nat :=
  if 0x1000000000 ≤ a ∧ a + n ≤ 0x1000000000 + rd DRC_MAP_TOP s * 2 ^ 20 then some (a - 0x1000000000) else none

/-- Write bytes to DRAM from an offset on. -/
def wrDramBytes : List Byte → Nat → State → State
  | [], _, s => s
  | b :: r, a, s => wrDramBytes r (a + 1) (wrDram a b s)

/-- The words of golden chunks, 1,024 each, from a chunk number on (R199). -/
def goldChunks : Nat → Nat → List Word → List (Nat × List Word) → List (Nat × List Word)
  | 0, _, _, m => m
  | _, _, [], m => m
  | n + 1, i, ws, m => goldChunks n (i + 1) (ws.drop 1024) (mapInsert i (ws.take 1024) m)

/-- Free bytes into DRAM (R229). -/
def randomBytes (a n : Nat) (s : State) : State :=
  forEach (List.range n) (fun i t => freeNext (wrDram (a + i) (freeVal 8 t) t)) s

/-- May the device key be used (R188, R222)? -/
def deviceKeyOk (s : State) : Bool := rdB KS_STAT_PUF_OK s && !s.ks.fa

/-- A hash goes into its fuse registers, word 0 first. -/
def putHash (f : Nat → FRef) (h : BitVec 384) (s : State) : State :=
  forEach (List.range 12) (fun i t => wr (f i) (h.toNat / 2 ^ (32 * (11 - i)) % 2 ^ 32) t) s

/-- What a command does when it completes, and its ERR (R229). -/
def runJob (j : KsJob) (s : State) : Nat × State :=
  match j with
  | .unwrap slot record tagOk key =>
    if slot < 48 then (6, s)
    else if !deviceKeyOk s || rd KS_STAT_JTAG s != 0 then (2, s)
    else if !record then (4, count KS_CNT_UNWRAP_FAIL_COUNT KS_EVT_UNWRAP_SAT 6 s)
    else if !tagOk then (3, count KS_CNT_UNWRAP_FAIL_COUNT KS_EVT_UNWRAP_SAT 6 s)
    else (0, fillSlot slot key s)
  | .decrypt slot tagOk dst plain =>
    if !slotValid slot s then (2, s)
    else
      match dramOffset dst plain.length s with
      | none => (6, s)
      | some a => if tagOk then (0, wrDramBytes plain a s) else (3, s)
  | .golden slot tagOk dst words =>
    if !slotValid slot s then (2, s)
    else if dst % 4096 != 0 || words.isEmpty || words.length % 1024 != 0 || (dramOffset dst (4 * words.length) s).isNone then (6, s)
    else if !tagOk then (3, s)
    else if !s.ks.gck && !rdB KS_STAT_TRNG_OK s then (5, s)
    else (0, onKs (fun q => { q with gck := true, golden := goldChunks (words.length / 1024) (dst / 4096) words q.golden }) s)
  | .session num _ =>
    if !deviceKeyOk s then (2, s)
    else if !rdB KS_STAT_TRNG_OK s then (5, s)
    else if num = 0 then (6, s)
    else (0, s)
  | .sak slot r apply =>
    if slot != 4 * r.mac.val + r.an.val then (6, s)
    else if rekeyOk r.mac.val r.an.val s then (0, installSak r apply s)
    else (2, s)
  | .clear slot => (0, clearSlot slot s)
  | .zeroise => (0, s)
  | .epoch verify =>
    if epochDue s then (0, showPend (showFuses (blowEpoch verify s.image.epoch s))) else (2, s)
  | .provision production owner safety =>
    if production && !s.ks.owned && !s.ks.fa then
      (0, showFuses (onKs (fun q => { q with owned := true })
        (putHash KS_OWNER_HASH_HASH owner (putHash KS_SAFETY_HASH_HASH safety s))))
    else (2, s)
  | .random =>
    if !rdB KS_STAT_TRNG_OK s then (5, s)
    else
      match dramOffset (rd KS_ARG1_ADDR_HI s * 2 ^ 32 + rd KS_ARG0_ADDR s) (rd KS_ARG2_LEN s) s with
      | none => (6, s)
      | some a => (0, randomBytes a (rd KS_ARG2_LEN s) s)
  | .killJtag owner => if owner then (0, wrB KS_STAT_JKILL true s) else (2, s)

/-- KS_COMMAND_DONE (R229). -/
def execKsCommandDone (s : State) : Out :=
  .next (match s.ks.job with
  | none => s
  | some j =>
    let r := runJob j (onKs (fun q => { q with job := none }) (wr KS_CMD_GO 0 s))
    ksResult r.1 r.2)

/-- TRNG_HEALTH_FAIL (R190). -/
def execTrngHealthFail (s : State) : Out := .next (wrB KS_STAT_TRNG_OK false s)

/-! ### JTAG (R220-R224) -/

/-- JTAG_IDCODE (R220): the identification code is returned; the spec does not state it, so it is free (log entry 47: DESIGN CHOICE). -/
def execJtagIdcode (s : State) : Out :=
  .next (freeNext (onKs (fun q => { q with jtagReg := 0, jtagOut := freeVal 64 s }) s))
/-- JTAG_BYPASS (R220). -/
def execJtagBypass (s : State) : Out := .next (onKs (fun q => { q with jtagReg := 1, jtagOut := 0 }) s)

/-- DEVICE_ID (R186). -/
def deviceIdKs (s : State) : BitVec 64 := BitVec.ofNat 64 (rd (KS_DEVID_ID 1) s * 2 ^ 32 + rd (KS_DEVID_ID 0) s)

/-- UNLOCK_CHAL (R220, R223): a fresh nonce replaces the one before, unless randomness is missing (R190), a failure is less
than 1 s old, or three have failed. -/
def execUnlockChal (s : State) : Out :=
  let s0 := onKs (fun q => { q with jtagReg := 2 }) s
  .next (if !rdB KS_STAT_TRNG_OK s || Nat.blt s.ns.toNat s.ks.quietUntil || Nat.ble 3 s.ks.fails || rd KS_STAT_JTAG s != 0 then s0
    else
      let n := freeVal 256 s0
      freeNext (onKs (fun q => { q with nonce := some n, chal := some (deviceIdKs s, epochOf q.epochBits, n) }) s0))

/-- Does an unlock response pass every check (R221-R223)? -/
def unlockOk (r : UnlockResponse) (s : State) : Bool :=
  let sc := r.scope.toNat
  s.ks.nonce == some r.nonce && r.device == deviceIdKs s && r.reserved == 0 && r.sigOk &&
    Nat.ble 1 sc && Nat.ble sc 3 && epochOk r.epoch.toNat s &&
    (sc == 3 || (s.image.owner && !rdB KS_STAT_JKILL s)) && Nat.blt s.ks.fails 3

/-- UNLOCK_RESP (R221-R224): valid, Rook mutes and opens the relay, zeroisation runs, and JTAG opens at its completion;
scope 3 also loses the device secret. A response that fails a check is counted. -/
def execUnlockResp (r : UnlockResponse) (s : State) : Out :=
  let s0 := onKs (fun q => { q with jtagReg := 3 }) s
  .next (if rd KS_STAT_JTAG s != 0 then s0
    else if unlockOk r s then
      let s1 := onKs (fun q => { q with opening := r.scope.toNat, nonce := none }) (zeroiseAll (rookMuteOpen s0))
      if r.scope = 3 then wrB KS_STAT_PUF_OK false (onKs (fun q => { q with secret := false }) s1) else s1
    else
      count KS_CNT_JTAG_FAIL_COUNT KS_EVT_JTAG_SAT 6
        (onKs (fun q => { q with fails := q.fails + 1, quietUntil := s.ns.toNat + 1000000000 }) s0))

end Sys2Proof.Machine
end

