-- ==== Sys2Proof/Machine/Flash.lean ====
section
/-! DEFINITION. The flash store (R471-R497): configuration slots and jobs, dies and bad blocks, wear and background jobs,
capture and the flight recorder, the event log, recovery and life. -/

namespace Sys2Proof.Machine

/-- Change the flash store. -/
def onFl (f : FlashSt → FlashSt) (s : State) : State := { s with flash := f s.flash }

/-- Is the flash store in service: ready, or degraded (R497)? -/
def flReady (s : State) : Bool := rd FL_STAT_STATE s == 2 || rd FL_STAT_STATE s == 3

/-- A configuration slot (R484). -/
def getSlot (i : Nat) (s : State) : SlotSt := mapGet (fun _ => SlotSt.reset) s.flash.slots i

/-- Set a slot, and what the registers show of it. -/
def setSlot (i : Nat) (x : SlotSt) (s : State) : State :=
  let s1 := onFl (fun f => { f with slots := mapSet (fun _ => SlotSt.reset) f.slots i x }) s
  if i = 0 then wr FL_SLOTA_SEQ x.seq.toNat (wrB FL_SLOTST_ACOMMIT x.committed s1)
  else wr FL_SLOTB_SEQ x.seq.toNat (wrB FL_SLOTST_BCOMMIT x.committed s1)

/-! ### Space, wear and life (R489, R490, R495) -/

/-- A number that the descriptor states; 0 without one. -/
def descNat (f : FlashDesc → Nat) (s : State) : Nat :=
  match s.flash.desc with
  | some d => f d
  | none => 0

/-- The bytes of CAP that no capture holds. -/
def capFree (s : State) : Nat := descNat (fun d => d.capBytes.toNat) s - (s.flash.captures.map (·.bytes)).foldl (· + ·) 0

/-- The bytes free for a new window: with CAPFULL, those of captures without PROTECT count as free (R489). -/
def capRoom (s : State) : Nat :=
  let keep := s.flash.captures.filter fun c => !rdB FL_CTL_CAPFULL s || c.protect || c.recording
  descNat (fun d => d.capBytes.toNat) s - (keep.map (·.bytes)).foldl (· + ·) 0

/-- The bytes that captures wrote in the last 365 days (R490). -/
def wearBytes (s : State) : Nat :=
  ((s.flash.wear.filter fun e => Nat.blt s.ns.toNat (e.1 + 31536000000000000)).map (·.2)).foldl (· + ·) 0

/-- What the registers show of space, wear and backlog (R497). -/
def showCapture (s : State) : State :=
  let staged := fun (w : Writer) => ((w.staged.map (·.blocks)).foldl (· + ·) 0 + w.cur.length) / 24
  let s1 := wrSat FL_BACKLOG_REC (staged s.flash.recw) (wrSat FL_BACKLOG_CAP (staged s.flash.cap) s)
  let s2 := wr FL_SPACE_FREE (capFree s / 1048576) s1
  wrSat FL_WEAR_USED (wearBytes s * 100 / max 1 (descNat (fun d => d.capBytes.toNat) s)) s2

/-- The least SPARE left on any die, in percent and per thousand of its pool. -/
def spareLeft (scale : Nat) (s : State) : Nat :=
  let pool := max 1 (descNat (fun d => d.spare.toNat) s)
  match s.flash.desc with
  | none => 0
  | some d => (d.dies.map fun x => (pool - min pool (mapGet (fun _ => 0) s.flash.spareUsed x.val)) * scale / pool).foldl min scale

/-- Low life is flagged and logged, once per start (R495). -/
def showLife (s : State) : State :=
  let s1 := wr FL_LIFE_SPARE (spareLeft 100 s) s
  let low := Nat.blt (rd FL_LIFE_REMAIN s1) 10 || (s.flash.desc.isSome && Nat.blt (spareLeft 1000 s) 5)
  if low && flReady s then
    onlyIf (!s1.flash.lifeLogged) (fun t => raise 96 0xC330 0 (onFl (fun f => { f with lifeLogged := true }) t)) (wrB FL_STAT_LIFELOW true s1)
  else s1

/-! ### Dies (R477-R483) -/

/-- The key of a block. -/
def blockKey (die block : Nat) : Nat := die * 65536 + block

/-- Is a block in a bad-block table (R479)? -/
def badBlock (die block : Nat) (s : State) : Bool := s.flash.factory.contains (die, block) || s.flash.grown.contains (die, block)

/-- Put an operation into its die's queue: urgent ones first, then in arrival order (R483). -/
def enqueue (op : NandOp) (s : State) : State :=
  onFl (fun f =>
    let q := mapGet (fun _ => []) f.queues op.die.val
    let q' := if op.urgent then q.filter (·.urgent) ++ [op] ++ q.filter (!·.urgent) else q ++ [op]
    { f with queues := mapSet (fun _ => []) f.queues op.die.val q' }) s

/-- `FLC_STAT.BUSY` shows the channels with an operation. -/
def showBusy (s : State) : State :=
  forEach (List.range 4) (fun c t => wrB (FLC_STAT_BUSY c) (t.flash.queues.any fun e => e.1 % 4 == c && !e.2.isEmpty) t) s

/-- A background job is queued, with its operations; a block queued already keeps the earlier deadline (R481, R482). -/
def queueJob (kind die block deadline : Nat) (tlc : Bool) (s : State) : State :=
  match s.flash.bg.find? fun j => j.kind == kind && j.die == die && j.block == block with
  | some j => onFl (fun f => { f with bg := f.bg.map fun x => if x == j then { x with deadline := min x.deadline deadline } else x }) s
  | none =>
    let op := fun k => (⟨Fin.ofNat 64 die, BitVec.ofNat 16 block, 0, k, tlc, false⟩ : NandOp)
    showBusy (enqueue (op .erase) (enqueue (op .read) (onFl (fun f => { f with bg := f.bg ++ [⟨kind, die, block, deadline, false⟩] }) s)))

/-- A refresh is queued so many ns before its deadline (R482). -/
def queueRefresh (die block within : Nat) (tlc : Bool) (s : State) : State := queueJob 0 die block (s.ns.toNat + within) tlc s

/-- A block enters the grown table: its data move to a replacement from SPARE (R479). -/
def growBad (die block : Nat) (s : State) : State :=
  if badBlock die block s then s
  else
    let s1 := onFl (fun f => { f with
      grown := f.grown ++ [(die, block)]
      spareUsed := mapSet (fun _ => 0) f.spareUsed die (mapGet (fun _ => 0) f.spareUsed die + 1)
      bg := f.bg.filter fun j => !(j.die == die && j.block == block) }) s
    showLife (raise 96 (0xC100 + die) 0 (count FL_CNT2_GROWN_COUNT FL_STAT_GROWN_SAT 96 s1))

/-- A finding of a read: one beyond step 1, or a scan's at or above 60 % (R481, R482). -/
def finding (die block share : Nat) (tlc : Bool) (s : State) : State :=
  queueRefresh die block (if 80 ≤ share then 3600000000000 else 86400000000000) tlc s

/-- A read ends (R478, R481). -/
def readDone (op : NandOp) (r : NandResult) (s : State) : State :=
  let d := op.die.val
  let b := op.block.toNat
  let key := blockKey d b
  let n := mapGet (fun _ => 0) s.flash.reads key + 1
  let s1 := onFl (fun f => { f with reads := mapSet (fun _ => 0) f.reads key n }) s
  let s2 := onlyIf (!r.ok || Nat.ble 2 r.step.val) (count FL_CNT_RETRY_COUNT FL_STAT_RETRY_SAT 96) s1
  let s3 := if r.ok then onlyIf (Nat.ble 2 r.step.val) (finding d b r.share.toNat op.tlc) s2
    else
      let arg := (freeVal 32 s2).toNat
      growBad d b (raise 96 0xC001 arg (count FL_CNT_UNCORR_COUNT FL_STAT_UNCORR_SAT 96 (freeNext s2)))
  onlyIf (n == if op.tlc then 20000 else 50000) (queueRefresh d b 0 op.tlc) s3

/-- The spread of a die's erase counts that calls for static levelling, and the block of the lowest count (R480). -/
def levelOf (die : Nat) (s : State) : Option Nat :=
  let l := s.flash.erases.filter fun e => e.1 / 65536 == die && !badBlock die (e.1 % 65536) s
  let hi := (l.map (·.2)).foldl max 0
  let lo := (l.map (·.2)).foldl min hi
  if 200 < hi - lo then (l.find? fun e => e.2 == lo).map fun e => e.1 % 65536 else none

/-- An erase ends: a refresh or levelling of the block is complete, and the block may have worn out (R479-R481). -/
def eraseDone (op : NandOp) (s : State) : State :=
  let d := op.die.val
  let b := op.block.toNat
  let key := blockKey d b
  let n := mapGet (fun _ => 0) s.flash.erases key + 1
  let mine := fun (j : BgJob) => j.kind != 2 && j.die == d && j.block == b
  let refreshed := s.flash.bg.any fun j => mine j && j.kind == 0
  let s1 := onFl (fun f => { f with
    erases := mapSet (fun _ => 0) f.erases key n, reads := mapSet (fun _ => 0) f.reads key 0, bg := f.bg.filter fun j => !mine j }) s
  let s2 := onlyIf refreshed (count FL_CNT2_REFRESH_COUNT FL_STAT_REFRESH_SAT 96) s1
  let rated := descNat (fun x => if op.tlc then x.ratedTlc.toNat else x.ratedSlc.toNat) s
  let s3 := onlyIf (rated != 0 && Nat.blt (3 * rated) (2 * n)) (growBad d b) s2
  match levelOf d s3 with
  | some lo => queueJob 1 d lo (s3.ns.toNat + 604800000000000) op.tlc s3
  | none => s3

/-- NAND_OPERATION_DONE (R478-R483): a die ends an operation and its queue advances. A block in a bad-block table is never
erased or programmed. -/
def execNandOperationDone (op : NandOp) (r : NandResult) (s : State) : Out :=
  let d := op.die.val
  let b := op.block.toNat
  let c := d % 4
  let s1 := showBusy (onFl (fun f => { f with queues := mapSet (fun _ => []) f.queues d ((mapGet (fun _ => []) f.queues d).erase op) }) s)
  .next (match op.kind with
    | .read => readDone op r s1
    | .program =>
      if badBlock d b s then s1
      else if r.ok then s1
      else growBad d b (count (FLC_CNT_PFAIL_COUNT c) (FLC_STAT_PFAIL_SAT c) (97 + c) s1)
    | .erase =>
      if badBlock d b s then s1
      else if r.ok then eraseDone op s1
      else growBad d b (count (FLC_CNT_EFAIL_COUNT c) (FLC_STAT_EFAIL_SAT c) (97 + c) s1))

/-- RETENTION_SCAN (R481, R482): the blocks at or above 60 % of the hard decoder's capability; the next scan has 24 h from
when it falls due, 168 h on. -/
def execRetentionScan (findings : List (Fin 64 × BitVec 16 × BitVec 8)) (s : State) : Out :=
  .next (if flReady s then
    let s1 := forEach (findings.filter fun e => Nat.ble 60 e.2.2.toNat) (fun e t => finding e.1.val e.2.1.toNat e.2.2.toNat true t) s
    onFl (fun f => { f with bg := f.bg.filter (fun j => j.kind != 2) ++ [⟨2, 0, 0, s.ns.toNat + 691200000000000, false⟩] }) s1
  else s)

/-- JOB_URGENT (R482): a background job's slack falls below twice its duration; its operations go first. -/
def execJobUrgent (index : BitVec 16) (s : State) : Out :=
  .next (match s.flash.bg[index.toNat]? with
  | none => s
  | some j =>
    if j.urgent then s
    else
      let mine := fun (o : NandOp) => j.kind != 2 && o.die.val == j.die && o.block.toNat == j.block
      let s1 := onFl (fun f =>
        let q := (mapGet (fun _ => []) f.queues j.die).map fun o => if mine o then { o with urgent := true } else o
        { f with
          bg := f.bg.map fun x => if x == j then { x with urgent := true } else x
          queues := mapSet (fun _ => []) f.queues j.die (q.filter (·.urgent) ++ q.filter (!·.urgent)) }) s
      raise 96 0xC320 0 (count FL_CNT4_URGENT_COUNT FL_STAT_URGENT_SAT 96 s1))

/-! ### Jobs (R484, R485, R489, R497) -/

/-- A job ends with a result. -/
def jobResult (err : Nat) (s : State) : State := wr FL_JOB_RES_ERR err (wrB FL_JOB_RES_DONE true s)

/-- Start a job: refused as busy while one runs, or with the error of its check; ARG's bits beyond its own are 0. -/
def startJob (op arg err : Nat) (j : FlashJob) (s : State) : State :=
  if rdB FL_JOB_CTL_GO s then jobResult 1 s
  else
    let s1 := wr FL_JOB_CTL_ARG arg (wr FL_JOB_CTL_OP op s)
    if err != 0 then jobResult err s1
    else onFl (fun f => { f with job := some j }) (wrB FL_JOB_CTL_GO true (wr FL_JOB_RES_ERR 0 (wrB FL_JOB_RES_DONE false s1)))

/-- The buffer that the job registers name. -/
def jobAddr (s : State) : Nat := rd FL_JOB_LO_ADDR s + rd FL_JOB_HI_ADDR s * 2 ^ 32

/-- Its length. -/
def jobLen (s : State) : Nat := rd FL_JOB_LEN_LEN s

/-- The buffer must lie in DRAM. -/
def bufferErr (s : State) : Nat := if (dramOffset (jobAddr s) (jobLen s) s).isSome ∧ jobLen s ≠ 0 then 0 else 3

/-- The error of a job that needs the store in service. -/
def serviceErr (e : Nat) (s : State) : Nat := if flReady s then e else 2

/-- The SEQ that a commit takes: one more than the higher of the two slots', by R16; 1 for the first (R484, log entry 55: DEDUCED). -/
def nextSlotSeq (s : State) : Nat :=
  let a := (getSlot 0 s).seq.toNat
  let b := (getSlot 1 s).seq.toNat
  (if serialLater 32 b a then b else a) + 1

/-- IMG_WRITE (R484, R485): not to the slot booted from; the slot is erased first. -/
def execImgWrite (slot : Fin 2) (s : State) : Out :=
  let err := serviceErr (if rd FL_SLOTST_BOOTED s = slot.val ∧ s.image.owner then 6 else bufferErr s) s
  let s1 := startJob 1 slot.val err (.imgWrite slot.val (jobAddr s) (jobLen s) (nextSlotSeq s)) s
  .next (if err = 0 ∧ ¬ rdB FL_JOB_CTL_GO s then wrB FL_SLOTST_WRITING true (setSlot slot.val SlotSt.reset s1) else s1)

/-- IMG_READ (R497). -/
def execImgRead (slot : Fin 2) (s : State) : Out :=
  let x := getSlot slot.val s
  let err := serviceErr (if !x.committed then 2 else if bufferErr s != 0 || Nat.blt (jobLen s) x.bytes.length then 3 else 0) s
  .next (startJob 2 slot.val err (.imgRead slot.val (jobAddr s) (jobLen s)) s)

/-- FL_LOG_READ (R492, R497). -/
def execFlLogRead (s : State) : Out :=
  .next (startJob 3 0 (serviceErr (bufferErr s) s) (.logRead (rd FL_JOB_ARG_VALUE s) (jobAddr s) (jobLen s)) s)

/-- The capture that `FL_JOB_ARG` names: an error if there is none. -/
def captureErr (s : State) : Nat := if s.flash.captures.any fun c => c.id == rd FL_JOB_ARG_VALUE s then 0 else 3

/-- CAP_DELETE (R489): a recording capture is refused. -/
def execCapDelete (s : State) : Out :=
  let id := rd FL_JOB_ARG_VALUE s
  let err := if captureErr s != 0 then 3 else if s.flash.captures.any fun c => c.id == id && c.recording then 2 else 0
  .next (startJob 4 0 (serviceErr err s) (.capDelete id) s)

/-- CAP_PROTECT (R489). -/
def execCapProtect (on : Bool) (s : State) : Out :=
  .next (startJob 5 (bit1 on) (serviceErr (captureErr s) s) (.capProtect (rd FL_JOB_ARG_VALUE s) on) s)

/-- FORMAT (R471, R474, R479): refused for unsuitable parts and for a layout whose capture and recorder dies meet. -/
def execFormat (d : FlashDesc) (bad : List (Fin 64 × BitVec 16)) (s : State) : Out :=
  let err := if !d.partsOk || d.capDies.any fun x => d.recDies.contains x then 3 else 0
  .next (startJob 6 0 err (.format d (bad.map fun e => (e.1.val, e.2.toNat))) s)

/-- SCAN_NOW (R481). -/
def execScanNow (s : State) : Out := .next (startJob 7 0 (serviceErr 0 s) .scan s)

/-- FL_LIFE (R495). -/
def execFlLife (s : State) : Out := .next (startJob 8 0 (serviceErr (bufferErr s) s) (.life (jobAddr s) (jobLen s)) s)

/-- FL_BAD_OP (R497): ERR 3. -/
def execFlBadOp (op : BitVec 8) (s : State) : Out :=
  .next (if Nat.ble 1 op.toNat && Nat.ble op.toNat 8 then s
    else if rdB FL_JOB_CTL_GO s then jobResult 1 s
    else jobResult 3 (wr FL_JOB_CTL_ARG 0 (wr FL_JOB_CTL_OP op.toNat s)))

/-- The bytes of a DRAM range. -/
def dramBytes (a n : Nat) (s : State) : List (BitVec 8) :=
  match dramOffset a n s with
  | some o => (List.range n).map fun i => rdDram (o + i) s
  | none => []

/-- Put bytes into a DRAM range. -/
def putDram (a : Nat) (bs : List (BitVec 8)) (s : State) : State :=
  match dramOffset a bs.length s with
  | some o => wrDramBytes bs o s
  | none => s

/-- The durable records from a sequence on, by R16. -/
def durableFrom (first : Nat) (s : State) : List (Nat × FaultRec) :=
  s.flash.pages.flatten.filter fun e => !serialLater 32 first e.1

/-- The registers' view of the parts after FORMAT or at start (R497). -/
def showGeometry (s : State) : State :=
  match s.flash.desc with
  | none => s
  | some d =>
    let s1 := wr FL_GEOM_PLANES d.planes.val (wr FL_GEOM_DIES d.dies.length s)
    let s2 := wr FL_GEOM_RECDIES d.recDies.length (wr FL_GEOM_CAPDIES d.capDies.length s1)
    forEach (List.range 4) (fun c t =>
      let ds := d.dies.filter fun x => x.val % 4 == c
      let mask := ((List.range 4).filter fun e => ds.any fun x => x.val / 4 % 4 == e).foldl (fun a e => a + 2 ^ e) 0
      wr (FLC_STAT_DIES c) ds.length (wr (FLC_CFG_CEMASK c) mask (wrB (FLC_CFG_EN c) (!ds.isEmpty) t))) s2

/-- The effect of a job that succeeds. -/
def jobEffect (j : FlashJob) (s : State) : State :=
  match j with
  | .imgWrite slot a n seq => setSlot slot ⟨dramBytes a n s, BitVec.ofNat 32 seq, true⟩ s
  | .imgRead slot a _ => putDram a (getSlot slot s).bytes s
  | .logRead first a n => putDram a (((durableFrom first s).take (n / 32)).flatMap fun e => recBytes e.1 e.2) s
  | .capDelete id => showCapture (onFl (fun f => { f with captures := f.captures.filter fun c => c.id != id }) s)
  | .capProtect id on => onFl (fun f => { f with captures := f.captures.map fun c => if c.id = id then { c with protect := on } else c }) s
  | .format d bad =>
    let s1 := onFl (fun _ => { FlashSt.reset with formatted := true, desc := some d, factory := bad, logBuf := s.flash.logBuf, logLost := s.flash.logLost }) s
    showCapture (showGeometry (setSlot 1 SlotSt.reset (setSlot 0 SlotSt.reset (wr FL_STAT_STATE 2 s1))))
  | .scan => onFl (fun f => { f with bg := f.bg.filter (fun j => j.kind != 2) ++ [⟨2, 0, 0, s.ns.toNat + 86400000000000, false⟩] }) s
  | .life a n => randomBytes a n s

/-- FLASH_JOB_DONE (R484, R497): the running job completes, well or not. -/
def execFlashJobDone (ok : Bool) (s : State) : Out :=
  .next (match s.flash.job with
  | none => s
  | some j =>
    let s1 := wrB FL_JOB_CTL_GO false (wrB FL_SLOTST_WRITING false (onFl (fun f => { f with job := none }) s))
    if ok then jobResult 0 (jobEffect j s1)
    else match j with
      | .imgWrite slot _ _ _ => jobResult 4 (raise 96 (0xC340 + slot) 0 s1)
      | _ => jobResult 4 s1)

/-! ### Capture (R486-R490) -/

/-- The enabled capture destinations, in channel order (R134, R488). -/
def captureDests (s : State) : List Nat :=
  ((List.range 1024).filterMap fun i => (listedDests s).find? fun d => rdBehind (DST_CFG_EN d) s == 1 && rdBehind (DST_CFG_KIND d) s == 6 &&
    rdBehind (DST_IDX_INDEX d) s == i)

/-- The bytes of a data block of so many channels. -/
def blockBytes (nch : Nat) (s : State) : Nat := nch * s.nS * 3

/-- The admission rule of R487, over a set of dies. -/
def rateFits (dies nch : Nat) (s : State) : Bool :=
  let tp := descNat (fun d => d.tprog.toNat) s
  tp != 0 && Nat.ble (12 * blockBytes nch s * 24000 * tp) (10 * descNat (fun d => d.unit.toNat) s * dies * 1000000)

/-- Would so many more bytes exceed the wear budget (R490)? -/
def wearFits (bytes : Nat) (s : State) : Bool :=
  Nat.ble (wearBytes s + bytes) (rd FL_WEAR_BUDGET s * descNat (fun d => d.capBytes.toNat) s)

/-- What comes of a request for a capture window (R552). -/
inductive CapRes where
  | ok | rate | space | wear | state
  deriving DecidableEq, Repr

/-- Is any capture destination's source tainted (R211)? -/
def captureTainted (s : State) : Bool := (captureDests s).any fun d => srcTaintNow (rdBehind (DST_CFG_SRC d) s) s

/-- The code of the N rate (R488). -/
def rateCode (s : State) : Nat := if s.nS = 2 then 0 else if s.nS = 4 then 1 else 2

/-- Open a capture window of absolute blocks (R487, R489, R490, R552), and log why it is refused. -/
def openCapture (start stop : Nat) (protect : Bool) (s : State) : CapRes × State :=
  let nch := (captureDests s).length
  let bytes := (stop - start) * blockBytes nch s
  if rd FL_STAT_CAP s != 0 || !flReady s then (.state, s)
  else if !rateFits (rd FL_GEOM_CAPDIES s) nch s then (.rate, raise 96 0xC312 0 s)
  else if Nat.blt (capRoom s) bytes || Nat.ble 1024 s.flash.captures.length then (.space, raise 96 0xC311 0 s)
  else if !wearFits bytes s then (.wear, raise 96 0xC310 0 s)
  else
    let id := s.flash.nextId
    let enc := captureTainted s && s.image.exportKey
    let c : Capture := ⟨id, BitVec.ofNat 32 start, BitVec.ofNat 32 start, nch, rateCode s, enc, protect, false, true, 0, []⟩
    (.ok, wr FL_CAP_CAPID id (wr FL_STAT_CAP 1 (onFl (fun f => { f with
      nextId := f.nextId + 1
      captures := f.captures ++ [c]
      window := some ⟨id, start, stop, protect⟩
      cap := { Writer.reset with id := id } }) s)))

/-- Change a window's stop (R37, R490). -/
def changeStop (w : CapWindow) (stop : Nat) (s : State) : CapRes × State :=
  let nch := (captureDests s).length
  let from_ := max w.start (s.tl.k.toNat - 3)
  if Nat.blt w.stop stop && !wearFits ((stop - from_) * blockBytes nch s) s then (.wear, raise 96 0xC310 0 s)
  else (.ok, onFl (fun f => { f with window := some { w with stop := stop } }) s)

/-- Blocks staged by a writer. -/
def stagedBlocks (w : Writer) : Nat := (w.staged.map (·.blocks)).foldl (· + ·) 0 + w.cur.length

/-- Close the chunk in hand of a writer (R488). -/
def closeChunk (recorder enc meterOnly : Bool) (nch : Nat) (w : Writer) (s : State) : Writer :=
  match w.cur, w.cur.getLast? with
  | (b0, _) :: _, some (b1, _) =>
    let gen := fun b => mapGet (fun _ => BitVec.ofNat 16 (rd GLB_GEN_GEN s)) s.tl.gens b
    let c : Chunk := {
      recorder := recorder, id := w.id, index := w.index, first := BitVec.ofNat 32 b0, blocks := w.cur.length, gen := gen b1, nch := nch
      rate := rateCode s, encrypted := enc, gap := w.gap, mixed := gen b0 != gen b1, meterOnly := meterOnly
      time := BitVec.ofNat 64 (blockStart b0), samples := w.cur.flatMap (·.2), series := w.series }
    { w with index := w.index + 1, gap := false, cur := [], staged := w.staged ++ [c], series := [] }
  | _, _ => w

/-- A writer takes a data block: beyond 900 ms of staged data it is dropped whole (R486). A drop ends the chunk in hand, and
the next one has GAP. The answer says whether the block was dropped, and whether a run of drops begins. -/
def takeBlock (recorder enc meterOnly : Bool) (nch k : Nat) (xs : List (BitVec 24)) (w : Writer) (s : State) : Writer × Bool × Bool :=
  if 21600 ≤ stagedBlocks w then ({ closeChunk recorder enc meterOnly nch w s with gap := true, dropping := true }, true, !w.dropping)
  else
    let w1 := { w with cur := w.cur ++ [(k, xs)], dropping := false }
    (if w1.cur.length = 240 then closeChunk recorder enc meterOnly nch w1 s else w1, false, false)

/-- Count a dropped data block of capture or recorder, and log the first of a run (R486, R491). -/
def countDrop (recorder first : Bool) (s : State) : State :=
  let s1 := if recorder then count FL_CNT3_RECDROP_COUNT FL_STAT_RECDROP_SAT 96 s else count FL_CNT3_CAPDROP_COUNT FL_STAT_CAPDROP_SAT 96 s
  onlyIf first (raise 96 (if recorder then 0xC301 else 0xC300) 0) s1

/-- The capture that the window records. -/
def windowCapture (w : CapWindow) (s : State) : Option Capture := s.flash.captures.find? fun c => c.id == w.id

/-- The capture ends (R486, R490). -/
def endCapture (s : State) : State :=
  match s.flash.window with
  | none => s
  | some w =>
    let c := windowCapture w s
    let s1 := onFl (fun f => { f with
      window := none
      cap := closeChunk false ((c.map (·.encrypted)).getD false) false ((c.map (·.nch)).getD 0) f.cap s
      captures := f.captures.map fun c => if c.id = w.id then { c with recording := false } else c }) s
    showCapture (wr FL_STAT_CAP 0 s1)

/-- The capture writer at a block boundary, for data block `d`, whose output transfer has ended (R486). -/
def captureBlock (d : Nat) (s : State) : State :=
  match s.flash.window with
  | none => s
  | some w =>
    if d < w.start then s
    else if w.stop ≤ d then endCapture s
    else
      let c := windowCapture w s
      let xs := (List.range s.nS).flatMap fun i => (captureDests s).map fun q => getSamp d skCAP (rdBehind (DST_IDX_INDEX q) s) i s
      let r := takeBlock false ((c.map (·.encrypted)).getD false) false ((c.map (·.nch)).getD 0) d xs s.flash.cap s
      let s1 := wr FL_STAT_CAP 2 (onFl (fun f => { f with cap := r.1 }) s)
      let s2 := onlyIf r.2.1 (countDrop false r.2.2) s1
      if w.stop ≤ d + 1 then endCapture s2 else showCapture s2

/-! ### The flight recorder (R491) -/

/-- The channels that the recorder keeps: kind and index of their samples, with their taint. -/
def recordedChannels (s : State) : List (Nat × Nat × Bool) :=
  let srcOf := fun kind idx => (listedDests s).find? fun d => rdBehind (DST_CFG_EN d) s == 1 && rdBehind (DST_CFG_KIND d) s == kind && rdBehind (DST_IDX_INDEX d) s == idx
  let tainted := fun kind idx => match srcOf kind idx with
    | some d => srcTaintNow (rdBehind (DST_CFG_SRC d) s) s
    | none => false
  ((modChans s).map fun c => (skCAP, 4096 + c, tainted 4 c)) ++
    s.image.recChans.map fun e => (if e.1 = 2 then skEGR else skTDM, e.2, tainted e.1 e.2)

/-- A new recorder session (R491). -/
def newSession (s : State) : State :=
  let id := s.flash.nextId
  onFl (fun f => { f with
    nextId := f.nextId + 1
    recw := { f.recw with id := id, index := 0, gap := true, cur := [], sums := [], series := [], seriesAt := 0 }
    recKeys := if s.image.exportKey then f.recKeys ++ [id] else f.recKeys }) s

/-- The quantised meter series of a tainted channel (R212, R491): sums over a period of QRATE, then a record. -/
def seriesStep (i k : Nat) (xs : List (BitVec 24)) (w : Writer) (s : State) : Writer :=
  let old := (w.sums.find? fun e => e.1 == i).getD (i, 0, 0, 0)
  let pk := (xs.map fun x => (sInt x).natAbs).foldl max old.2.1
  let sq := (xs.map fun x => (sInt x).natAbs * (sInt x).natAbs).foldl (· + ·) old.2.2.1
  let n := old.2.2.2 + xs.length
  let rest := w.sums.filter fun e => e.1 != i
  let q := max s.image.qstep 1
  if (k + 1) % (24000 / max s.image.qrate 1) = 0 then
    { w with sums := rest, series := w.series ++ [(i, quantMag pk q, quantMag (isqrt (sq / max n 1)) q, w.seriesAt % 65536)] }
  else { w with sums := (i, pk, sq, n) :: rest }

/-- The recorder writer at a block boundary (R491); in QUIET it writes nothing. -/
def recorderBlock (d : Nat) (s : State) : State :=
  if !tlRun s || rd PWR_STAT_STATE s == 3 || !flReady s then wrB FL_STAT_REC false s
  else
    let chans := recordedChannels s
    let hide := fun (e : Nat × Nat × Bool) => e.2.2 && !s.image.exportKey
    let enc := chans.any (·.2.2) && s.image.exportKey
    let xs := (List.range s.nS).flatMap fun i => (chans.filter (!hide ·)).map fun e => getSamp d e.1 e.2.1 i s
    let w0 := forEach (chans.zipIdx.filter fun e => hide e.1) (fun e w => seriesStep e.2 d (getSamps d e.1.1 e.1.2.1 s) w s) s.flash.recw
    let w1 := if (d + 1) % (24000 / max s.image.qrate 1) = 0 then { w0 with seriesAt := w0.seriesAt + 1 } else w0
    let r := takeBlock true enc (chans.any hide) (chans.filter (!hide ·)).length d xs w1 s
    let s1 := onFl (fun f => { f with recw := r.1 }) (wrB FL_STAT_REC true s)
    showCapture (onlyIf r.2.1 (countDrop true r.2.2) s1)

/-- CAPTURE_DELIVERY_TIMEOUT (R486, R491): a data block that has not been delivered to DRAM within 8 blocks is dropped whole;
what follows it starts a chunk with GAP. -/
def execCaptureDeliveryTimeout (recorder : Bool) (blk : BitVec 32) (s : State) : Out :=
  let w := if recorder then s.flash.recw else s.flash.cap
  let k := (widen 32 blk.toNat s.tl.k.toNat).toNat
  .next (if w.cur.any fun e => e.1 == k then
    let before := w.cur.filter fun e => Nat.blt e.1 k
    let after := w.cur.filter fun e => Nat.blt k e.1
    let nch := match w.cur with
      | (_, xs) :: _ => xs.length / max s.nS 1
      | [] => 0
    let enc := (s.flash.captures.any fun c => c.id == w.id && c.encrypted) || (recorder && s.flash.recKeys.contains w.id)
    let w1 := { closeChunk recorder enc false nch { w with cur := before } s with gap := true, cur := after, dropping := after.isEmpty }
    countDrop recorder (!w.dropping) (onFl (fun f => if recorder then { f with recw := w1 } else { f with cap := w1 }) s)
  else s)

/-- The bytes of a chunk (R488, R491). -/
def chunkBytes (c : Chunk) : Nat := 64 + c.samples.length * 3 + c.series.length * 8

/-- Delete the oldest captures without PROTECT until so many bytes are free (R489). -/
def makeRoom (n : Nat) : Nat → State → State
  | 0, s => s
  | i + 1, s =>
    if n ≤ capFree s then s
    else match s.flash.captures.find? fun c => !c.protect && !c.recording with
      | some c => makeRoom n i (onFl (fun f => { f with captures := f.captures.erase c }) s)
      | none => s

/-- Drop the oldest chunks of the recorder's ring until it fits; sessions without a chunk lose their key (R491). -/
def trimRing (f : FlashSt) : Nat → List Chunk → List Chunk
  | 0, l => l
  | i + 1, l =>
    let size := (l.map chunkBytes).foldl (· + ·) 0
    if size ≤ (match f.desc with
      | some d => d.recBytes.toNat
      | none => 0) then l else trimRing f i (l.drop 1)

/-- CAPTURE_CHUNK_PROGRAM (R486-R491): the first staged chunk of capture or recorder is programmed. -/
def execCaptureChunkProgram (recorder : Bool) (s : State) : Out :=
  let w := if recorder then s.flash.recw else s.flash.cap
  .next (match w.staged with
  | [] => s
  | c :: rest =>
    if !flReady s then s
    else if recorder then
      let l := s.flash.ring ++ [c]
      let ring := trimRing s.flash l.length l
      showCapture (onFl (fun f => { f with
        ring := ring
        recKeys := f.recKeys.filter fun i => i == w.id || ring.any fun x => x.id == i
        recw := { w with staged := rest } }) s)
    else
      let s1 := onlyIf (rdB FL_CTL_CAPFULL s) (makeRoom (chunkBytes c) 1024) s
      showCapture (onFl (fun f => { f with
        cap := { w with staged := rest }
        wear := (s.ns.toNat, c.samples.length * 3) :: f.wear.filter fun e => Nat.blt s.ns.toNat (e.1 + 31536000000000000)
        captures := f.captures.map fun x => if x.id = c.id then
          { x with bytes := x.bytes + chunkBytes c, last := BitVec.ofNat 32 (c.first.toNat + c.blocks - 1), chunks := x.chunks ++ [c] } else x }) s1))

/-- CHECKPOINT (R494): META names the last stripe unit programmed, here by the chunks of the recording capture and of the
ring. -/
def execCheckpoint (s : State) : Out :=
  let n := match s.flash.captures.find? (·.recording) with
    | some c => c.chunks.length
    | none => 0
  .next (if flReady s then onFl (fun f => { f with ckpt := some (n, f.ring.length) }) s else s)

/-! ### The event log (R492, R493) -/

/-- A record arrives for the log (R493): one of pair scope is written by the king holder alone (R324). -/
def logArrive (seq : Nat) (r : FaultRec) (s : State) : State :=
  if r.pair && paired s && !isHolder s then s
  else if 4096 ≤ s.flash.logBuf.length then
    count FL_CNT4_LOGDROP_COUNT FL_STAT_LOGDROP_SAT 96 (onFl (fun f => { f with logLost := f.logLost + 1 }) s)
  else onFl (fun f => { f with logBuf := f.logBuf ++ [(seq, r)] }) s

/-- LOG_PAGE_FLUSH (R492, R493): a page of up to 510 records is programmed; a full ring loses its oldest block first; records
lost meanwhile are summed up in one record. -/
def execLogPageFlush (s : State) : Out :=
  let page := s.flash.logBuf.take 510
  .next (match page.getLast? with
  | none => s
  | some e =>
    if !flReady s then s
    else
      let full := Nat.ble (descNat (fun d => d.logPages.toNat) s) s.flash.pages.length
      let keep := if full then s.flash.pages.drop (max 1 (descNat (fun d => d.logBlock.toNat) s)) else s.flash.pages
      let s1 := wr FL_LOGSEQ_SEQUENCE e.1 (onFl (fun f => { f with pages := keep ++ [page], logBuf := f.logBuf.drop 510 }) s)
      let lost := s.flash.logLost
      if lost = 0 then s1
      else raiseRec { mkRec 96 0xC302 lost s1 with lost := true } (onFl (fun f => { f with logLost := 0 }) s1))

/-! ### Power loss and start (R494) -/

/-- Power loss takes what is not on flash; Pawn's records still enter the log once the flash store runs (R504, R583). -/
def flashPowerLoss (s : State) : State :=
  onFl (fun f => { f with
    logBuf := f.logBuf.filter (fun e => e.2.island == 7), logLost := 0, job := none, bg := [], queues := [], window := none, cap := Writer.reset, recw := Writer.reset, lifeLogged := false }) s

/-- FLASH_START (R494): the manager reads META; a capture that was recording is closed at its last kept block. -/
def flashStart (s : State) : State :=
  if !s.flash.formatted then wr FL_STAT_STATE 4 s
  else
    let cut := s.flash.captures.any (·.recording)
    let s1 := onFl (fun f => { f with
      captures := f.captures.map fun c => if c.recording then { c with recording := false, truncated := true } else c }) s
    let failed := (List.range 4).any fun c => rd (FLC_STAT_STATE c) s == 3
    let s2 := wr FL_STAT_STATE (if failed then 3 else 2) (showGeometry s1)
    let s3 := setSlot 1 (getSlot 1 s2) (setSlot 0 (getSlot 0 s2) s2)
    let s4 := match s3.flash.pages.flatten.getLast? with
      | some e => wr FL_LOGSEQ_SEQUENCE e.1 s3
      | none => s3
    showLife (showCapture (onlyIf cut (raise 96 0xC350 0) s4))

end Sys2Proof.Machine
end

