-- ==== Sys2Proof/Machine/Feu.lean ====
section
/-! DEFINITION. The fault and event unit (R504, R574-R577, R581-R583): intake of records, owner records, and Pawn's fault
record. -/

namespace Sys2Proof.Machine

/-- A code of Pawn's fault record, 0 the newest (R498, R504). -/
def flogRef (i : Nat) : FRef := if i % 2 = 0 then PWR_FLOG_NEWER (i / 2) else PWR_FLOG_OLDER (i / 2)

/-- A power or boot code enters Pawn's fault record (R504); the time of the last one is kept for R193. -/
def pawnRecord (code : Nat) (s : State) : State :=
  let s1 := forEach [7, 6, 5, 4, 3, 2, 1] (fun i t => wr (flogRef i) (rd (flogRef (i - 1)) t) t) s
  let s2 := wr PWR_FAULT_LOGN (min 8 (rd PWR_FAULT_LOGN s + 1)) (wr PWR_FAULT_CODE code (wr (flogRef 0) code s1))
  { s2 with image := { s2.image with lastBad := s2.tl.k.toNat + 1 } }

/-- The islands with waiting records, in rotation from after the one served last (R575). -/
def feuTurn (s : State) : List Nat :=
  let w := mapKeys s.feu.queues
  w.filter (Nat.blt s.feu.served ·) ++ w.filter (Nat.ble · s.feu.served)

/-- A run of drops ends once no queue is full: it is summed up in one record of ISL265 (R574, R583). -/
def dropSummary (s : State) : State :=
  if s.feu.dropRun = 0 || s.feu.queues.any (fun e => Nat.ble 4 e.2.length) then s
  else
    let n := s.feu.dropRun
    raiseRec { mkRec 265 0xE200 n s with lost := true } { s with feu := { s.feu with dropRun := 0 } }

/-- The counter of a class (R580). -/
def classCount (c : Nat) : FRef := if c % 2 = 0 then FEU_CCNT_LO_COUNT (c / 2) else FEU_CCNT_HI_COUNT (c / 2)

/-- A record is taken in (R575): sequenced, logged, copied to Pawn, passed to subscribers, and shown. -/
def takeIn (r : FaultRec) (s : State) : State :=
  let seq := rd FEU_SEQ_SEQUENCE s
  let cls := r.code.toNat / 4096
  let ws := recWords seq r
  let s1 := logArrive seq r (seqNext FEU_SEQ_SEQUENCE s)
  let s2 := onlyIf (cls == 1 || cls == 2) (pawnRecord r.code.toNat) s1
  let s3 := forEach (List.range 8) (fun i t => wr (FEU_LASTREC_DATA i) ((ws[i]?).getD 0).toNat t) (queueFault cls ws s2)
  let s4 := wr (bitOf FEU_PEND_CLASS cls) 1 (count (classCount cls) (bitOf FEU_CSAT_SAT cls) 265 s3)
  settle (144 + rd FEU_CTL_IRQCORE s4) s4

/-- FEU_INTAKE (R575): one record of the next island in rotation. -/
def execFeuIntake (s : State) : Out :=
  .next (match feuTurn s with
  | [] => s
  | isl :: _ =>
    match feuQueue isl s with
    | [] => s
    | r :: rest =>
      let s1 := setFeuQueue isl rest { s with feu := { s.feu with served := isl } }
      dropSummary (takeIn r s1))

/-- The island of a crossbar master (R577). -/
def masterIsland (m : Nat) : Nat :=
  if m < 4 then 261 + m
  else if m = 4 then 28
  else if m = 6 then 6
  else if m = 7 then 1
  else if m = 8 then 2
  else if m = 9 then 29
  else if m = 0xA ∨ m = 0x20 ∨ m = 0x21 then 96
  else if m = 0xB then 58
  else if m = 0xE then 7
  else if 0x10 ≤ m ∧ m < 0x20 then 101 + 10 * (m - 0x10)
  else 265

/-- A write of `FEU_RAISE` (R577): whether it is refused with an error response, and what it does. -/
def feuRaise (code master : Nat) (user : Bool) (s : State) : Bool × State :=
  let by_ := fun (r : FaultRec) => { r with master := BitVec.ofNat 6 master, write := true, user := user }
  if code / 4096 = 0xF then
    (false, raiseOn 265 (by_ { mkRec 265 code (rd FEU_RAISEARG_ARG s) s with island := masterIsland master }) s)
  else (true, raiseRec (by_ (mkRec 265 0xE201 0 s)) s)

/-- FEU_RAISE (R577). -/
def execFeuRaise (code : BitVec 16) (master : BitVec 6) (user : Bool) (s : State) : Out :=
  .next (feuRaise code.toNat master.toNat user s).2

end Sys2Proof.Machine
end

