-- ==== Sys2Proof/Machine/Time.lean ====
section
/-! DEFINITION. The timebase and PTP (R338-R355): setting and steering it, the domain servos and their selection, stamps,
capture units and triggers. -/

namespace Sys2Proof.Machine

/-- Change the time part of the state. -/
def onClock (f : TimeSt → TimeSt) (s : State) : State := { s with time := f s.time }

/-! ### The timebase (R338-R341) -/

/-- The timebase is set to a time (R339): numbering is valid from now on, and the power-on count runs on beside it (R583). -/
def setTimebase (t : Nat) (s : State) : State :=
  wrB GLB_TLSTAT_VALID true { s with
    ns := BitVec.ofNat 64 t, frac := 0
    time := { s.time with validAt := if tlValid s then s.time.validAt + t - s.ns.toNat else t }
    pawn := { s.pawn with skew := s.pawn.skew + t - s.ns.toNat }
    tl := { s.tl with k := BitVec.ofNat 49 (blockAt t) } }

/-- The timebase has run on to a time: never back, and once blocks are numbered never out of the block in progress, which
BLOCK_BOUNDARY alone ends. -/
def runTo (t : Nat) (s : State) : State :=
  if s.ns.toNat ≤ t && (!tlValid s || blockAt t == s.tl.k.toNat) then { s with ns := BitVec.ofNat 64 t } else s

/-- TB_SET_GO (R339): refused with CFGERR while audio runs. -/
def execTbSetGo (s : State) : Out :=
  .next (if tlRun s then wrB TB_STAT_CFGERR true s
    else wr TB_STAT_STATE 1 (setTimebase (rd TB_SET_LO_NS s + rd TB_SET_HI_NS s * 2 ^ 32) s))

/-- FREESTART_TIMEOUT (R339): ACQTO after the first PTP port was enabled, a timebase still unset starts from 0 with y = 0. -/
def execFreestartTimeout (s : State) : Out :=
  .next (if rdB TB_CTL_FREESTART s && !tlValid s && (List.range 8).any (fun p => rdB (PTP_PCFG_EN p) s) then
    wr TB_RATE_Y 0 (wr TB_STAT_STATE 1 (setTimebase 0 s))
  else s)

/-- TB_NS_LO_READ (R341, R565): HI and FRAC are latched at the tick of the read, `ns` and `frac`. -/
def execTbNsLoRead (ns : BitVec 64) (frac : BitVec 32) (s : State) : Out :=
  let s1 := { runTo ns.toNat s with frac := frac }
  .next (wr TB_FRAC_FRAC frac.toNat (wr TB_NS_HI_NS (s1.ns.toNat / 2 ^ 32) (wr TB_NS_LO_NS (s1.ns.toNat % 2 ^ 32) s1)))

/-! ### Domain servos (R346-R348) -/

/-- A domain servo beside its registers. -/
def getDom (d : Nat) (s : State) : DomSt := mapGet (fun _ => DomSt.reset) s.time.doms d

/-- Set a domain servo. -/
def setDom (d : Nat) (x : DomSt) (s : State) : State :=
  onClock (fun q => { q with doms := mapSet (fun _ => DomSt.reset) q.doms d x }) s

/-- Is a domain LOCKED? -/
def domLocked (d : Nat) (s : State) : Bool := rd (TB_DSTAT_STATE d) s == 3

/-- A domain's state changes; an exit from LOCKED is logged (R346). -/
def setDomState (d st : Nat) (s : State) : State :=
  onlyIf (domLocked d s && st != 3) (raise 4 (0x8010 + d) 0) (wr (TB_DSTAT_STATE d) st s)

/-- Show the offset of a domain, saturating (R346). -/
def showOffset (d : Nat) (s : State) : State := wrI (TB_DOFF_OFFSET d) (clampI (-2147483648) 2147483647 (getDom d s).offset) s

/-- The selected domain changes (R347). -/
def switchDom (d : Nat) (s : State) : State :=
  if rd TB_STAT_SEL s = d then s
  else raise 4 (0x8020 + d) 0 (count TB_CNT_SWITCH_COUNT TB_STAT_SWITCH_SAT 4 (wr TB_STAT_SEL d s))

/-- In a pair with PAIRFOL, the standby's domain: the one whose grandmaster the holder names (R347). -/
def followDom (s : State) : Option Nat :=
  if rdB TB_CTL_PAIRFOL s && paired s && !isHolder s then
    match s.pair.beat with
    | some h => (List.range 2).find? fun d =>
        domLocked d s && rd (TB_DGM_GM d 0) s + rd (TB_DGM_GM d 1) s * 2 ^ 32 == h.gm.toNat
    | none => none
  else none

/-- Select again after a change of servo state (R347); a return to PREF waits for WTR, or with REVERT clear for the other
domain's loss of lock. -/
def selectDom (s : State) : State :=
  let pref := rd TB_CTL_PREF s
  let cur := rd TB_STAT_SEL s
  match followDom s with
  | some d => switchDom d s
  | none =>
    if domLocked cur s then s
    else if domLocked pref s then switchDom pref s
    else if domLocked (1 - pref) s then switchDom (1 - pref) s
    else s

/-- DOMAIN_WTR_EXPIRY (R347): PREF has been LOCKED for WTR. -/
def execDomainWtrExpiry (s : State) : Out :=
  .next (if rdB TB_CTL_REVERT s && domLocked (rd TB_CTL_PREF s) s && (followDom s).isNone then
    switchDom (rd TB_CTL_PREF s) s
  else s)

/-- Clamp a frequency to ±200 ppm, in 0.001 ppm (R338). -/
def clampF (f : Int) : Int := clampI (-200000) 200000 f

/-- The applied rate y = f + p (R338). -/
def setRate (f p : Int) (s : State) : State := wrI TB_RATE_Y (clampF f + p) s

/-- A phase output of the servo, clamped to ±SLEW: how it follows from the bandwidth is not stated (log entry 49: DEDUCED). -/
def freePhase (s : State) : Int × State :=
  let n := rd TB_CTL_SLEW s * 1000
  let r := pickNat 0 (2 * n) s
  ((r.1 : Int) - n, r.2)

/-- `TB_STAT.FAR` and `DISAGREE` (R340, R348). -/
def showFar (s : State) : State :=
  let far := Nat.blt 100000000 (getDom (rd TB_STAT_SEL s) s).offset.natAbs
  let s1 := onlyIf (far && !rdB TB_STAT_FAR s) (raise 4 0x8030 0) (wrB TB_STAT_FAR far s)
  wrB TB_STAT_DISAGREE (domLocked 0 s && domLocked 1 s &&
    Nat.blt 1000 ((getDom 0 s).offset - (getDom 1 s).offset).natAbs) s1

/-- The timebase is stepped to its domain before audio start (R339): every domain's offset is from now on less by the step. -/
def stepTimebase (d : Nat) (s : State) : State :=
  let off := (getDom d s).offset
  let s1 := setTimebase ((s.ns.toNat : Int) + off).toNat s
  let s2 := forEach (List.range 2) (fun e t => showOffset e (setDom e { getDom e t with offset := (getDom e t).offset - off } t)) s1
  raise 4 0x8040 0 (count TB_CNT_STEP_COUNT TB_STAT_STEP_SAT 4 s2)

/-- The selected domain steers the timebase (R339, R340, R348). -/
def steer (s : State) : State :=
  let d := rd TB_STAT_SEL s
  let off := (getDom d s).offset
  let f := rdI (TB_DFREQ_FREQ d) s
  if rd (TB_DSTAT_STATE d) s < 2 then s
  else if domLocked d s || rd (TB_DSTAT_STATE d) s == 2 && !(getDom d s).locked then
    if !tlRun s && Nat.blt (rd TB_STEPTH_STEPTH s) off.natAbs then
      showFar (wr TB_STAT_STATE (if domLocked d s then 2 else 1) (stepTimebase d s))
    else if !tlValid s then s
    else if tlRun s && Nat.blt 1000 off.natAbs then
      let p : Int := rd TB_CTL_SLEW s * 1000
      showFar (wr TB_STAT_STATE 3 (setRate f (if off < 0 then -p else p) s))
    else
      let p := freePhase s
      showFar (wr TB_STAT_STATE (if domLocked d s then 2 else 1) (setRate f p.1 p.2))
  else s

/-- Holdover (R348): the selected domain has lost its lock and none can be selected; f keeps a mean whose terms are not
kept by the spec's registers, so it is free (log entry 49: DEDUCED), and p is 0. -/
def holdover (s : State) : State :=
  let d := rd TB_STAT_SEL s
  if !domLocked d s && (getDom d s).locked && tlValid s && rd TB_STAT_STATE s != 4 && rd TB_STAT_STATE s != 5 then
    let f := pickNat 0 400000 s
    wr TB_STAT_STATE 4 (setRate ((f.1 : Int) - 200000) 0 f.2)
  else s

/-- After a change of servo state. -/
def servoChanged (s : State) : State := showFar (holdover (selectDom s))

/-- The PTP ports that serve a domain. -/
def portServes (p d : Nat) (s : State) : Bool := rdB (PTP_PCFG_EN p) s && rdB (bitOf (PTP_PCFG_DOM p) d) s

/-- The state of a port in a domain. -/
def portState (p d : Nat) (s : State) : Nat := if d = 0 then rd (PTP_PSTAT_STATE0 p) s else rd (PTP_PSTAT_STATE1 p) s

/-- Set the state of a port in a domain. -/
def setPort (p d st : Nat) (s : State) : State := if d = 0 then wr (PTP_PSTAT_STATE0 p) st s else wr (PTP_PSTAT_STATE1 p) st s

/-- Has a domain a port in SLAVE? -/
def hasSlave (d : Nat) (s : State) : Bool := (List.range 8).any fun p => portServes p d s && portState p d s == 8

/-- A domain's servo follows its ports (R346). -/
def portsChanged (d : Nat) (s : State) : State :=
  let st := rd (TB_DSTAT_STATE d) s
  if !rdB (TB_DCFG_EN d) s then servoChanged (setDomState d 0 s)
  else if hasSlave d s then
    if st = 0 || st = 1 || st = 4 then servoChanged (setDom d { getDom d s with good := 0, bad := 0 } (setDomState d 2 s)) else s
  else if st = 3 then servoChanged (setDomState d 4 s)
  else if st = 0 || st = 2 then servoChanged (setDomState d 1 s)
  else s

/-- PTP_SYNC (R346): the servo of a domain takes a Sync of its SLAVE port: the residual decides the state, and the model's
offset and rate after the loop's correction are `offset` and `freq`, since the loop's gains are not stated (log entry
49: DEDUCED). -/
def execPtpSync (p : Fin 8) (d : Fin 2) (offset : BitVec 64) (residual : BitVec 32) (freq mpd : BitVec 24) (gm : BitVec 64) (s : State) : Out :=
  let d := d.val
  .next (if rdB (TB_DCFG_EN d) s && portServes p.val d s && portState p.val d s == 8 then
    let r := residual.toInt.natAbs
    let x := getDom d s
    let good := if Nat.ble r (10 * rd (TB_DCFG_LOCKTH d) s) then x.good + 1 else 0
    let bad := if Nat.blt 1000 r then x.bad + 1 else 0
    let st := rd (TB_DSTAT_STATE d) s
    let st2 := if st = 3 then (if Nat.ble 4 bad then 2 else 3) else if Nat.ble 16 good then 3 else 2
    let s1 := setDom d ⟨offset.toInt, if st2 = st then good else 0, if st2 = st then bad else 0, x.locked || st2 == 3⟩ s
    let s2 := wr (TB_DMPD_MPD d) mpd.toNat (wr (TB_DFREQ_FREQ d) freq.toNat (showOffset d s1))
    let s3 := wr (TB_DGM_GM d 1) (gm.toNat / 2 ^ 32) (wr (TB_DGM_GM d 0) (gm.toNat % 2 ^ 32) s2)
    let s4 := selectDom (setDomState d st2 s3)
    holdover (showFar (if rd TB_STAT_SEL s4 = d then steer s4 else s4))
  else s)

/-- ANNOUNCE_TIMEOUT (R346): a LOCKED domain holds over, one before any lock listens; its SLAVE ports listen. -/
def execAnnounceTimeout (d : Fin 2) (s : State) : Out :=
  let d := d.val
  .next (if rdB (TB_DCFG_EN d) s then
    portsChanged d (forEach (List.range 8) (fun p t => onlyIf (portState p d t == 8) (setPort p d 3) t) s)
  else s)

/-- The threshold rules on the edges of a PPS (R344, R346): the edge's distance from the nearest whole second. -/
def ppsEdge (t : Nat) (s : State) : State :=
  let near := (t + 500000000) / 1000000000 * 1000000000
  let off := absDiff t near
  let q := s.time
  let good := if Nat.ble off (10 * rd (TB_DCFG_LOCKTH (rd TB_CTL_PREF s)) s) then q.ppsGood + 1 else 0
  let bad := if Nat.blt 1000 off then q.ppsBad + 1 else 0
  let was := rd TB_STAT_STATE s == 5
  let now := if was then Nat.blt bad 4 else Nat.ble 16 good
  let s1 := onClock (fun x => { x with
    ppsGood := good, ppsBad := bad, ppsOnce := x.ppsOnce || now
    clockClass := if now then 6 else if x.ppsOnce then 7 else 248 }) s
  let p := if Nat.blt 1000 off && tlRun s then
      (let m : Int := rd TB_CTL_SLEW s * 1000; (if t < near then m else -m, s1)) else freePhase s1
  wr TB_STAT_STATE (if now then 5 else if was then 4 else rd TB_STAT_STATE s) (setRate (rdI TB_RATE_Y s) p.1 p.2)

/-- PPS_EDGE (R344): in GM role with GMPPS set, an edge on the REFIN that PPSSRC names, stamped `stamp`, is taken as a whole
second. -/
def execPpsEdge (r : Fin 6) (stamp : BitVec 64) (s : State) : Out :=
  .next (if rdB TB_CTL_GMPPS s && rd TB_CTL_PPSSRC s == r.val && tlValid s &&
      (List.range 8).any (fun p => (List.range 2).any fun d => portServes p d s && portState p d s == 5) then
    ppsEdge stamp.toNat (runTo stamp.toNat s)
  else s)

/-! ### Event messages and their stamps (R345, R349, R350) -/

/-- The mode of a MAC: 1 1000BASE-X, 2 10 Gb/s, 3 25 Gb/s by its lane, and 4 to 6 MGMT at 1,000, 100 and 10 Mb/s. -/
def macMode (m : Nat) (s : State) : Nat :=
  if m = 12 then (match rd MG_STAT_SPEEDNOW s with
    | 0 => 6
    | 1 => 5
    | _ => 4)
  else
    match (List.range 16).find? fun n => rd (LN_CFG_MAC n) s == m && Nat.ble 1 (rd (LN_CFG_MODE n) s) && Nat.ble (rd (LN_CFG_MODE n) s) 5
        && rd (LN_STAT_STATE n) s != 8 with
    | some n => (match rd (LN_CFG_MODE n) s with
      | 1 => 1
      | 2 => 2
      | 4 => 2
      | _ => 3)
    | none => 3

/-- The stamp corrections in 0.1 ns: ingress and egress (R349). -/
def stampCorr (mode : Nat) : Nat × Nat :=
  match mode with
  | 1 => (3640, 2960)
  | 2 => (924, 708)
  | 3 => (582, 436)
  | 4 => (480, 400)
  | 5 => (2800, 2400)
  | _ => (28000, 24000)

/-- A stamp in units of 0.25 ns from a latch time in the same units (R349), to the nearest unit. -/
def makeStamp (p : Nat) (egress : Bool) (latch : Nat) (s : State) : Nat :=
  let c := stampCorr (macMode (rd (PTP_PCFG_MAC p) s) s)
  let d : Int := if egress then (c.2 : Int) + rdI (PTP_PADJ_EG p) s else -((c.1 : Int) + rdI (PTP_PADJ_IN p) s)
  (rndDiv ((latch : Int) * 5 + d * 2) 5).toNat

/-- The state in which the stack's verdict leaves a port (R343, R345): MONLY is never SLAVE, SONLY never MASTER, and a
SHARED port is MASTER only on the king holder. -/
def portVerdict (p : Nat) (st : Nat) (s : State) : Nat :=
  if st = 8 && rdB (PTP_PCFG_MONLY p) s then 6
  else if st = 5 && rdB (PTP_PCFG_SONLY p) s then 3
  else if st = 5 && rdB (PTP_PCFG_SHARED p) s && paired s && !isHolder s then 9
  else st

/-- PTP_EVENT_MESSAGE (R343, R345, R349, R350): a message passes port `p` at the latch time, in 0.25 ns; `waiting` stamps
stand in the FIFO; `bad`: malformed or unsupported; `verdict`: the state that the stack, which runs in firmware, then gives
the port in the domain. -/
def execPtpEventMessage (p : Fin 8) (d : Fin 2) (egress : Bool) (latch : BitVec 66) (waiting : Fin 33) (bad : Bool) (verdict : Fin 9) (s : State) : Out :=
  let p := p.val
  let d := d.val
  .next (if !rdB (PTP_PCFG_EN p) s then s
    else if bad then count (PTP_PCNT_BADMSG_COUNT p) (PTP_PSTAT_BAD_SAT p) 4 s
    else if waiting.val = 32 then count (PTP_PCNT_TSERR_COUNT p) (PTP_PSTAT_TSERR_SAT p) 4 s
    else
      let t := makeStamp p egress latch.toNat s
      let key := p * 2 + (if egress then 1 else 0)
      let l := mapGet (fun _ => []) s.time.stamps key
      let s1 := onClock (fun q => { q with
        stamps := mapSet (fun _ => []) q.stamps key
          (l.drop (l.length - waiting.val) ++ [(BitVec.ofNat 64 (t / 4), BitVec.ofNat 2 t)]) }) s
      if portServes p d s then portsChanged d (setPort p d (portVerdict p verdict.val s) s1) else s1)

/-! ### Capture units (R352, R353) -/

/-- A capture unit beside its registers. -/
def getCap (u : Nat) (s : State) : CapSt := mapGet (fun _ => CapSt.reset) s.time.caps u

/-- Set a capture unit; its registers show the oldest stamp, and hold their value when none is left (R565). -/
def setCap (u : Nat) (c : CapSt) (s : State) : State :=
  let s1 := wr (CAP_STAT_LEVEL u) c.stamps.length
    (onClock (fun q => { q with caps := mapSet (fun _ => CapSt.reset) q.caps u c }) s)
  match c.stamps with
  | [] => s1
  | (t, f) :: _ =>
    wr (CAP_SUB_SUB u) f.toNat (wr (CAP_NS_HI_NS u) (t.toNat / 2 ^ 32) (wr (CAP_NS_LO_NS u) (t.toNat % 2 ^ 32) s1))

/-- Does an edge qualify for the unit? -/
def capEdge (u : Nat) (rising : Bool) (s : State) : Bool :=
  match rd (CAP_CFG_EDGE u) s with
  | 0 => rising
  | 1 => !rising
  | 2 => true
  | _ => false

/-- CAPTURE_EDGE (R352, R353): every (DIV + 1)-th qualifying edge is stamped; `sub` in 2^-8 ns. -/
def execCaptureEdge (u : Fin 32) (rising : Bool) (ns : BitVec 64) (sub : BitVec 8) (s : State) : Out :=
  let u := u.val
  .next (if rdB (CAP_CFG_EN u) s && capEdge u rising s then
    let c := getCap u s
    if c.edges < rd (CAP_CFG_DIV u) s then setCap u { c with edges := c.edges + 1 } s
    else
      let s1 := seqNext (CAP_CNT_EDGE_SEQUENCE u) s
      if c.stamps.length < 4 then setCap u { c with edges := 0, stamps := c.stamps ++ [(ns, sub &&& 0xC0)] } s1
      else
        let s2 := setCap u { c with edges := 0, dropped := true } (count (CAP_CNT_OVF_COUNT u) (CAP_STAT_OVF_SAT u) 4 s1)
        onlyIf (!c.dropped) (raise 4 (0x8200 + u) 0) s2
  else s)

/-- CAP_POP (R353): the oldest stamp leaves. -/
def execCapPop (u : Fin 32) (s : State) : Out :=
  let c := getCap u.val s
  .next (setCap u.val { c with stamps := c.stamps.drop 1, dropped := c.dropped && Nat.blt 1 c.stamps.length } s)

/-! ### Triggers (R354, R355) -/

/-- A trigger beside its registers. -/
def getTrg (t : Nat) (s : State) : TrgSt := mapGet (fun _ => TrgSt.reset) s.time.trgs t

/-- Set a trigger. -/
def setTrg (t : Nat) (x : TrgSt) (s : State) : State :=
  onClock (fun q => { q with trgs := mapSet (fun _ => TrgSt.reset) q.trgs t x }) s

/-- The target of a trigger. -/
def trgTarget (t : Nat) (s : State) : Nat := rd (TRG_TGT_LO_NS t) s + rd (TRG_TGT_HI_NS t) s * 2 ^ 32

/-- The period of a trigger in 2^-32 ns. -/
def trgPeriod (t : Nat) (s : State) : Nat := rd (TRG_PER_NS_NS t) s * 2 ^ 32 + rd (TRG_PER_FRAC_FRAC t) s

/-- The actions of a firing (R354): the interrupt line, and what the CKOUT does. CKOUT5 is not there while it carries the
lease line (R362). -/
def trgActions (t : Nat) (s : State) : State :=
  let a := fun b => rdB (bitOf (TRG_CFG_ACT t) b) s
  let o := rd (TRG_CFG_OUT t) s
  let ok := Nat.blt o 6 && !(o == 5 && rdB DRN_CFG_LLINE s)
  let m := rd (CKO_CFG_MODE o) s
  let s1 := onlyIf (a 0) (onClock (fun q => { q with irqs := t :: q.irqs.filter (· != t) })) s
  let s2 := onlyIf (a 1 && ok && (m == 1 || m == 2)) (wrB (CKO_STAT_RUN o) true) s1
  let s3 := onlyIf (a 2 && ok && m == 3) (onClock (fun q => { q with
    pulses := mapSet (fun _ => 0) q.pulses o (mapGet (fun _ => 0) q.pulses o + 1) })) s2
  onlyIf (a 3 && ok && rd (CKO_ALIGN_MODE o) s == 1) (fun u => wr (CKO_STAT_AERR o) 0 (wrB (CKO_STAT_ALIGNED o) true u)) s3

/-- Move the target on by whole periods (R354). -/
def trgAdvance (t n : Nat) (s : State) : State :=
  let x := trgTarget t s * 2 ^ 32 + (getTrg t s).frac + n * trgPeriod t s
  let ns := x / 2 ^ 32 % 2 ^ 64
  setTrg t ⟨x % 2 ^ 32, false⟩ (wr (TRG_TGT_HI_NS t) (ns / 2 ^ 32) (wr (TRG_TGT_LO_NS t) (ns % 2 ^ 32) s))

/-- A trigger fires at time `now` (R354, R355). -/
def trgFire (t now : Nat) (late : Bool) (s : State) : State :=
  let s1 := trgActions t s
  let s2 := if late then
      raise 4 (0x8300 + t) 0 (count (TRG_CNT_LATE_COUNT t) (TRG_STAT_LATE_SAT t) 4 (wrB (TRG_STAT_LATE t) true s1))
    else s1
  if rdB (TRG_CFG_PERIODIC t) s && trgPeriod t s != 0 then
    let past := now * 2 ^ 32 - (trgTarget t s * 2 ^ 32 + (getTrg t s).frac)
    let n := if late then past / trgPeriod t s else 0
    trgAdvance t (n + 1) (onlyIf (n != 0) (countN n (TRG_CNT_SKIP_COUNT t) (TRG_STAT_SKIP_SAT t) 4) s2)
  else setTrg t { getTrg t s2 with fired := true } s2

/-- TRIGGER_ARM (R355): EN is set; a target that is already past fires at the next tick, late. -/
def execTriggerArm (t : Fin 32) (s : State) : Out :=
  let s1 := setTrg t.val { getTrg t.val s with fired := false } (wrB (TRG_CFG_EN t.val) true s)
  .next (if rdB (TRG_CFG_EN t.val) s then s
    else if Nat.blt (trgTarget t.val s) s.ns.toNat then trgFire t.val s.ns.toNat true s1 else s1)

/-- TRIGGER_FIRE (R354): the timebase, at `ns`, has reached the target of an armed trigger. -/
def execTriggerFire (t : Fin 32) (ns : BitVec 64) (s : State) : Out :=
  let s1 := runTo ns.toNat s
  .next (if rdB (TRG_CFG_EN t.val) s && !(getTrg t.val s).fired && Nat.ble (trgTarget t.val s) s1.ns.toNat then
    trgFire t.val s1.ns.toNat false s1
  else s1)

end Sys2Proof.Machine
end

