-- ==== Sys2Proof/Machine/Ether.lean ====
section
/-! DEFINITION. The Ethernet MACs (R397-R411, R422-R424): flow control, transmit queues and launch, link loss and return,
low-power idle, MACsec on transmit and receive. -/

namespace Sys2Proof.Machine

/-- Change Ethernet's part of the state. -/
def onEth (f : EthSt → EthSt) (s : State) : State := { s with eth := f s.eth }

/-- A MAC beside its registers. -/
def getMac (m : Nat) (s : State) : MacSt := mapGet (fun _ => MacSt.reset) s.eth.macs m

/-- Set a MAC. -/
def setMac (m : Nat) (x : MacSt) (s : State) : State :=
  onEth (fun e => { e with macs := mapSet (fun _ => MacSt.reset) e.macs m x }) s

/-- The island of a MAC (R427). -/
def macIsl (m : Nat) : Nat := if m = 12 then 59 else 46 + m

/-- The rate of a MAC in Mb/s. -/
def macRate (m : Nat) (s : State) : Nat :=
  match macMode m s with
  | 1 => 1000
  | 2 => 10000
  | 3 => 25000
  | 4 => 1000
  | 5 => 100
  | _ => 10

/-- The class of a priority (R398). -/
def classOf (m p : Nat) (s : State) : Nat := rd ⟨(ETH_PCPMAP_MAP m).addr, 3 * p, 3⟩ s

/-! ### PAUSE and PFC (R406) -/

/-- Is a class of a MAC stopped? -/
def stopped (m tc : Nat) (s : State) : Bool :=
  (getMac m s).stopAll || (getMac m s).stopPfc.any fun p => classOf m p s == tc

/-- `ETH_FC.PAUSED` shows the classes stopped. -/
def showPaused (m : Nat) (s : State) : State :=
  forEach (List.range 8) (fun t u => wrB (bitOf (ETH_FC_PAUSED m) t) (stopped m t u) u) s

/-- The first PAUSE or PFC acted on since the MAC came up is logged (R426). -/
def fcActed (m : Nat) (s : State) : State :=
  if (getMac m s).fcLogged then s
  else raise (macIsl m) (0xA020 + m) 0 (setMac m { getMac m s with fcLogged := true } s)

/-- A PAUSE frame (R406): a time of 0 resumes at once; the end of another time comes as PAUSE_EXPIRY. -/
def takePause (m time : Nat) (s : State) : State :=
  let s1 := count (ETH_CNT3_PAUSE_COUNT m) (ETH_STAT_PAUSE_SAT m) (macIsl m) s
  if rdB (ETH_FC_RXPAUSE m) s then
    showPaused m (fcActed m (setMac m { getMac m s1 with stopAll := time != 0 } s1))
  else s1

/-- A PFC frame (R406). -/
def takePfc (m vector : Nat) (times : List Nat) (s : State) : State :=
  let s1 := count (ETH_CNT3_PAUSE_COUNT m) (ETH_STAT_PAUSE_SAT m) (macIsl m) s
  let ps := (List.range 8).filter fun p => vector / 2 ^ p % 2 == 1 && rdB (bitOf (ETH_FC_PFCEN m) p) s
  if ps.isEmpty then s1
  else
    let keep := (getMac m s1).stopPfc.filter fun p => !ps.contains p
    showPaused m (fcActed m (setMac m { getMac m s1 with stopPfc := keep ++ ps.filter fun p => nth times p != 0 } s1))

/-- PAUSE_EXPIRY (R406): the time of a PAUSE, or of a priority's PFC, runs out. -/
def execPauseExpiry (m : Fin 13) (priority : Option (Fin 8)) (s : State) : Out :=
  let x := getMac m.val s
  .next (showPaused m.val (match priority with
    | none => setMac m.val { x with stopAll := false } s
    | some p => setMac m.val { x with stopPfc := x.stopPfc.filter (· != p.val) } s))

/-! ### MACsec (R422-R424) -/

/-- What MACsec adds to a frame (R422), in bytes. -/
def secOverhead (m : Nat) (s : State) : Nat :=
  if Nat.blt m 12 && rdB (MS_CFG_EN m) s then (if rdB (MS_CFG_INCSCI m) s then 32 else 24) else 0

/-- The next transmit packet number. -/
def txPn (m : Nat) (s : State) : Nat := rd (MS_TXPN_LO_PN m) s + rd (MS_TXPN_HI_PN m) s * 2 ^ 32

/-- The packet numbers move on (R227): the rekey-due event, and the stop after the last number. -/
def pnNext (m : Nat) (s : State) : State :=
  let x := rdB (MS_TXSTAT_XPN m) s
  let pn := txPn m s
  let due := if x then 2 ^ 62 else 0xC0000000
  let final := if x then 2 ^ 64 - 1 else 2 ^ 32 - 1
  if pn = final then
    showSec m (raise (macIsl m) (0xA030 + m) 0 (wrB (MS_TXSTAT_STOPPED m) true s))
  else
    let s1 := wr (MS_TXPN_HI_PN m) ((pn + 1) / 2 ^ 32) (wr (MS_TXPN_LO_PN m) ((pn + 1) % 2 ^ 32) s)
    onlyIf (pn + 1 == due) (wrB (MS_TXSTAT_REKEYDUE m) true) s1

/-- A frame goes to the controlled port (R226, R422, R227): transmit moves to a new AN whose block has come; without an
active association the frame is not sent, and counted if the packet numbers are exhausted. The answer says whether it is
sent. -/
def secSend (m : Nat) (s : State) : Bool × State :=
  if Nat.blt m 12 && rdB (MS_CFG_EN m) s then
    let s1 := secTick m s
    if secActive m s1 then (true, pnNext m s1)
    else (false, onlyIf (rdB (MS_TXSTAT_STOPPED m) s1) (count (MS_CNT_DROP_COUNT m) (MS_EVT_DROP_SAT m) (macIsl m)) s1)
  else (true, s)

/-- Count a frame that fails in the lookup of its association (R423). -/
def countNosa (m : Nat) (s : State) : State := count (MS_CNT2_NOSA_COUNT m) (MS_EVT_NOSA_SAT m) (macIsl m) s

/-- The receive channel of an SCI. -/
def rxChannel (m : Nat) (sci : Nat) (s : State) : Option Nat :=
  (List.range 16).find? fun i =>
    rdB (bitOf (MS_RXEN_EN m) i) s && rd (MS_SCI_LO_SCI m i) s + rd (MS_SCI_HI_SCI m i) s * 2 ^ 32 == sci

/-- Replay protection (R423), for a frame whose association is known: whether the frame is kept; the highest number follows
frames that verify. -/
def rxReplay (m i : Nat) (t : RxSec) (s : State) : Bool × State :=
  let key := i * 4 + t.an.val
  let high := mapGet (fun _ => 0) (getMac m s).rxPn key
  if rdB (MS_CFG_REPLAY m) s && Nat.blt (t.pn.toNat + rd (MS_WIN_WINDOW m) s) high then
    (false, count (MS_CNT2_REPLAY_COUNT m) (MS_EVT_REPLAY_SAT m) (macIsl m) s)
  else (true, onlyIf t.icvOk (setMac m { getMac m s with
      rxPn := mapSet (fun _ => 0) (getMac m s).rxPn key (max high t.pn.toNat) }) s)

/-- MACsec on receive (R422, R423): whether the frame goes on. -/
def secReceive (m : Nat) (f : RxFrame) (s : State) : Bool × State :=
  let free := match f.payload with
    | .pause _ => true
    | .pfc _ _ => true
    | .lldp => true
    | _ => false
  if !(Nat.blt m 12 && rdB (MS_CFG_EN m) s) || free || rd (MS_CFG_VALIDATE m) s == 0 then (true, s)
  else
    let strict := rd (MS_CFG_VALIDATE m) s == 2
    match f.sec with
    | none => (!strict, countNosa m s)
    | some t =>
      match rxChannel m t.sci.toNat s with
      | none => (!strict, countNosa m s)
      | some i =>
        if !slotValid (4 * m + t.an.val) s then (!strict, countNosa m s)
        else if t.icvOk then rxReplay m i t s
        else
          let s1 := count (MS_CNT_BADICV_COUNT m) (MS_EVT_BADICV_SAT m) (macIsl m) s
          if strict then (false, s1) else rxReplay m i t s1

/-! ### Transmit (R401-R405, R410) -/

/-- LPI ends at once (R410). -/
def endLpi (m : Nat) (s : State) : State := wrB (ETH_STAT_LPITX m) false s

/-- Does one frame leave before another (R403): higher class, then the earlier launch instant, then the lower entry? -/
def leavesBefore (a b : TxFrame) : Bool :=
  if a.tc != b.tc then Nat.blt b.tc a.tc
  else if a.launch != b.launch then Nat.blt a.launch b.launch
  else Nat.blt a.entry b.entry

/-- The frame that leaves first. -/
def firstFrame : List TxFrame → Option TxFrame
  | [] => none
  | f :: r => match firstFrame r with
    | none => some f
    | some g => if leavesBefore g f then some g else some f

/-- How long after its launch instant a frame may begin (R402, R410). -/
def launchTol (m : Nat) (s : State) : Nat :=
  rd (ETH_TSN_LTOL m) s + (if inQuiet s then rd (ETH_EEE_TWTX m) s * 100 else 0)

/-- An audio-class frame enters its queue; one built while the MAC is down is discarded (R408). -/
def queueAudio (m : Nat) (f : TxFrame) (s : State) : State :=
  if rdB (ETH_STAT_LINK m) s then endLpi m (setMac m { getMac m s with audio := (getMac m s).audio ++ [f] } s)
  else count (ETH_CNT2_FLUSH_COUNT m) (ETH_STAT_FLUSH_SAT m) (macIsl m) s

/-- FRAME_LAUNCH (R402, R403, R324): at `ns` the first of the frames whose launch instant is reached begins; a standby's
SHARED frames are discarded at the MAC. -/
def execFrameLaunch (m : Fin 13) (ns : BitVec 64) (s : State) : Out :=
  let m := m.val
  let x := getMac m s
  let t := ns.toNat
  .next (if !rdB (ETH_STAT_LINK m) s then s
    else match firstFrame (x.audio.filter fun f => Nat.ble f.launch t && Nat.ble t (f.launch + launchTol m s) && !stopped m f.tc s) with
    | none => s
    | some f =>
      let s1 := endLpi m (setMac m { x with audio := x.audio.erase f } s)
      if f.shared && !isHolder s then s1
      else
        let r := secSend m s1
        if r.1 then
          let s2 := seqNext (ETH_TXSEQ_TXFRAME_SEQUENCE m) (setMac m { getMac m r.2 with sent := some f } r.2)
          onlyIf (Nat.blt f.entry 512) (seqNext (SOUT_SEQ_TX_SEQUENCE f.entry)) s2
        else r.2)

/-- LAUNCH_DEADLINE_DROP (R402): frames not begun by their instant plus the tolerance are dropped. -/
def execLaunchDeadlineDrop (m : Fin 13) (ns : BitVec 64) (s : State) : Out :=
  let m := m.val
  let x := getMac m s
  let gone := x.audio.filter fun f => Nat.blt (f.launch + launchTol m s) ns.toNat
  .next (forEach gone (fun f t =>
    onlyIf (Nat.blt f.entry 512) (count (SOUT_CNT_DROP_COUNT f.entry) (SOUT_STAT_DROP_SAT f.entry) 58)
      (count (ETH_CNT2_LAUNCHDROP_COUNT m) (ETH_STAT_LAUNCHDROP_SAT m) (macIsl m) t))
    (setMac m { x with audio := x.audio.filter fun f => !Nat.blt (f.launch + launchTol m s) ns.toNat } s))

/-- Would a control-class frame that begins at `t` have left before the launch instant of every frame that waits (R403)? -/
def fitsBefore (m bytes t : Nat) (s : State) : Bool :=
  (getMac m s).audio.all fun f => Nat.ble (t * macRate m s + (8 + bytes) * 8000) (f.launch * macRate m s)

/-- The bytes of a control-class frame as sent. -/
def ctlBytes (m : Nat) (f : CtlFrame) (s : State) : Nat := f.bytes.toNat + (if f.lldp then 0 else secOverhead m s)

/-- The control-class frame that may begin at `t`: the first of the highest class whose first frame is not stopped, has
credit if the class is shaped (R405), and fits. -/
def ctlChoice (m t credit : Nat) (s : State) : Option (Nat × CtlFrame) :=
  ([7, 6, 5, 4, 3, 2, 1, 0].filterMap fun c => (getMac m s).ctl.find? fun e => e.2.tc.val == c).find? fun e =>
    let c := e.2.tc.val
    !stopped m c s && (!rdB (ETH_TCCFG_CBS m c) s || c == 0 || Nat.ble 6 c || credit / 2 ^ c % 2 == 1) && fitsBefore m (ctlBytes m e.2 s) t s

/-- CONTROL_FRAME_SEND (R403, R405, R410): firmware may hand over a frame, and at `ns` the MAC begins a control-class frame
if one may begin; `credit`: the classes whose shaper has credit. -/
def execControlFrameSend (m : Fin 13) (frame : Option CtlFrame) (credit : BitVec 8) (ns : BitVec 64) (s : State) : Out :=
  let m := m.val
  let s1 := match frame with
    | some f => if rdB (ETH_TCCFG_LT m f.tc.val) s then s
        else endLpi m (setMac m { getMac m s with ctl := (getMac m s).ctl ++ [(ns.toNat, f)] } s)
    | none => s
  .next (if !rdB (ETH_STAT_LINK m) s1 then s1
    else match ctlChoice m ns.toNat credit.toNat s1 with
    | none => s1
    | some e =>
      let s2 := endLpi m (setMac m { getMac m s1 with ctl := (getMac m s1).ctl.erase e } s1)
      let r := if e.2.lldp then (true, s2) else secSend m s2
      onlyIf r.1 (seqNext (ETH_TXSEQ_TXFRAME_SEQUENCE m)) r.2)

/-- CONTROL_FRAME_TIMEOUT (R408): control-class frames that have waited 8 ms since the later of their queuing and the link
going down are dropped. -/
def execControlFrameTimeout (m : Fin 13) (ns : BitVec 64) (s : State) : Out :=
  let m := m.val
  let x := getMac m s
  let old := fun (e : Nat × CtlFrame) => Nat.ble (max e.1 x.downAt + 8000000) ns.toNat
  .next (if rdB (ETH_STAT_LINK m) s then s
    else countN (x.ctl.filter old).length (ETH_CNT3_CTLDROP_COUNT m) (ETH_STAT_CTLDROP_SAT m) (macIsl m)
      (setMac m { x with ctl := x.ctl.filter fun e => !old e } s))

/-! ### Link loss and return (R408) -/

/-- The PTP ports of a MAC take a state in the domains they serve. -/
def macPorts (m st : Nat) (s : State) : State :=
  let ps := (List.range 8).filter fun p => rdB (PTP_PCFG_EN p) s && rd (PTP_PCFG_MAC p) s == m
  forEach [0, 1] (fun d t => portsChanged d t)
    (forEach ps (fun p t => forEach [0, 1] (fun d u => onlyIf (portServes p d u) (setPort p d st) u) t) s)

/-- A MAC goes down (R408, R424, R426): audio-class frames are flushed and counted, its PTP port enters FAULTY. -/
def macDown (m : Nat) (s : State) : State :=
  if !rdB (ETH_STAT_LINK m) s then s
  else
    let x := getMac m s
    let s1 := endLpi m (wrB (ETH_STAT_LPIRX m) false (wrB (ETH_STAT_LINK m) false s))
    let s2 := setMac m { x with audio := [], downAt := s.ns.toNat, stopAll := false, stopPfc := [], fcLogged := false } s1
    let s3 := countN x.audio.length (ETH_CNT2_FLUSH_COUNT m) (ETH_STAT_FLUSH_SAT m) (macIsl m) (showPaused m s2)
    raise (macIsl m) (0xA000 + m) 0 (onlyIf (Nat.blt m 12) (showSec m) (macPorts m 1 s3))

/-- A MAC comes up (R408, R426). -/
def macUp (m : Nat) (s : State) : State :=
  if rdB (ETH_STAT_LINK m) s then s
  else raise (macIsl m) (0xA010 + m) 0 (onlyIf (Nat.blt m 12) (showSec m) (wrB (ETH_STAT_LINK m) true s))

/-- LINK_DOWN (R408): MGMT's PHY, or the lane of another MAC, reports link down. -/
def execLinkDown (m : Fin 13) (s : State) : Out :=
  .next (macDown m.val (onlyIf (m.val == 12) (wrB MG_STAT_LINK false) s))

/-- Is a lane that serves the MAC up (R370, R373)? -/
def laneUp (m : Nat) (s : State) : Bool :=
  (List.range 16).any fun n => rd (LN_CFG_MAC n) s == m && Nat.ble 1 (rd (LN_CFG_MODE n) s) && Nat.ble (rd (LN_CFG_MODE n) s) 5 &&
    rd (LN_STAT_STATE n) s == 6 && rdB (LN_STAT_BLOCK n) s

/-- LINK_UP (R408, R425): the lane of a MAC, or MGMT's PHY, reports link up; the PHY's in-band status counts with SPEED 3,
and a half-duplex report holds the link down. -/
def execLinkUp (m : Fin 13) (speed : Fin 3) (half : Bool) (s : State) : Out :=
  .next (if m.val = 12 then
    if half then macDown 12 (wrB MG_STAT_FDERR true (wrB MG_STAT_LINK false s))
    else
      let v := if rd MG_CFG_SPEED s = 3 then speed.val else rd MG_CFG_SPEED s
      macUp 12 (wr MG_STAT_SPEEDNOW v (wrB MG_STAT_FDERR false (wrB MG_STAT_LINK true s)))
  else if laneUp m.val s then macUp m.val s
  else s)

/-! ### Low-power idle (R409, R410) -/

/-- Does the MAC's mode support low-power idle (R409)? -/
def lpiMode (m : Nat) (s : State) : Bool :=
  if m = 12 then Nat.ble 1 (rd MG_STAT_SPEEDNOW s)
  else (List.range 16).any fun n => rd (LN_CFG_MAC n) s == m && (rd (LN_CFG_MODE n) s == 4 || rd (LN_CFG_MODE n) s == 5) &&
    rd (LN_STAT_STATE n) s == 6

/-- LPI_ENTER (R409): in QUIET, with EN, a wake time and empty queues, and no frame in flight as the command says. -/
def execLpiEnter (m : Fin 13) (s : State) : Out :=
  let x := getMac m.val s
  .next (if inQuiet s && rdB (ETH_EEE_EN m.val) s && rd (ETH_EEE_TWTX m.val) s != 0 && x.audio.isEmpty && x.ctl.isEmpty &&
      lpiMode m.val s && rdB (ETH_STAT_LINK m.val) s then wrB (ETH_STAT_LPITX m.val) true s else s)

end Sys2Proof.Machine
end

