-- ==== Sys2Proof/Machine/Lanes.lean ====
section
/-! DEFINITION. The serial lanes (R368-R395): signal, bring-up of Ethernet and Dranan lanes, training, capability exchange,
block lock, error windows, equalisers, eye scans, failure and spare lanes. -/

namespace Sys2Proof.Machine

/-- A lane beside its registers. -/
def getLane (n : Nat) (s : State) : LaneSt := mapGet (fun _ => LaneSt.reset) s.lanes n

/-- Set a lane. -/
def setLane (n : Nat) (x : LaneSt) (s : State) : State := { s with lanes := mapSet (fun _ => LaneSt.reset) s.lanes n x }

/-! The states of `LN_STAT.STATE` (R396). -/
/-- Off. -/
def lnOFF : Nat := 0
/-- Waiting for a signal or a termination. -/
def lnDETECT : Nat := 1
/-- Auto-negotiation. -/
def lnAN : Nat := 2
/-- Training. -/
def lnTRAIN : Nat := 3
/-- Bit and block lock. -/
def lnLOCK : Nat := 4
/-- Capability exchange. -/
def lnEXCHANGE : Nat := 5
/-- In service. -/
def lnACTIVE : Nat := 6
/-- A spare that waits. -/
def lnSTANDBY : Nat := 7
/-- Failed. -/
def lnFAILED : Nat := 8
/-- Test mode. -/
def lnTEST : Nat := 9

/-- The mode of a lane. -/
def lnMode (n : Nat) (s : State) : Nat := rd (LN_CFG_MODE n) s

/-- The state of a lane. -/
def lnState (n : Nat) (s : State) : Nat := rd (LN_STAT_STATE n) s

/-- Is the lane in an Ethernet mode (R370)? -/
def lnEth (n : Nat) (s : State) : Bool := Nat.ble 1 (lnMode n s) && Nat.ble (lnMode n s) 5

/-- Is the lane in a KR mode? -/
def lnKr (n : Nat) (s : State) : Bool := lnMode n s == 4 || lnMode n s == 5

/-- Does a spare stand by for a Dranan lane (R387)? -/
def spareDranan (n : Nat) (s : State) : Bool :=
  lnMode n s == 7 && (List.range 16).any fun k => rdB (bitOf (LN_SPCFG_FOR n) k) s && lnMode k s == 6

/-- Does the lane run the Dranan bring-up (R374, R387)? -/
def lnDranan (n : Nat) (s : State) : Bool := lnMode n s == 6 || spareDranan n s

/-- Is the lane declared failed? -/
def lnFailed (n : Nat) (s : State) : Bool := rdB (bitOf LN_FAILED_FAILED n) s

/-- An eye scan that runs when its lane leaves its state completes with every bit of ERRS set (R384). -/
def abortScan (n : Nat) (s : State) : State :=
  if rdB (LN_ESCAN_GO n) s then
    wrB (LN_STAT_ESCERR n) true (wr (LN_ESCERR_ERRS n) 0xFFFFFFFF (wrB (LN_ESCAN_DONE n) true (wrB (LN_ESCAN_GO n) false s)))
  else s

/-- Move a lane to a state. -/
def setLn (n st : Nat) (s : State) : State := if lnState n s = st then s else wr (LN_STAT_STATE n) st (abortScan n s)

/-- The lane's link is down: its MAC, or its framer, loses it (R313, R372). -/
def lnDown (n : Nat) (s : State) : State :=
  let s1 := wrB (LN_STAT_HIBER n) false (wrB (LN_STAT_BLOCK n) false s)
  if lnEth n s then onlyIf (Nat.blt (rd (LN_CFG_MAC n) s) 12) (macDown (rd (LN_CFG_MAC n) s)) s1
  else onlyIf (lnMode n s == 6 || lnMode n s == 7) (framerLost n) s1

/-! ### Equalisers (R382, R383) -/

/-- The preset of the receiver and the initial coefficients of the transmitter (R383, R377). -/
def lnPreset (n : Nat) (s : State) : State :=
  let s1 := forEach (List.range 5) (fun i t => wr (LN_DFE_TAP n i) 0 t) (wr (LN_RXEQ_CTLE n) 6 s)
  if rdB (LN_TXEQ_FIXED n) s then s1
  else wr (LN_TXEQ_MAIN n) 56 (wr (LN_TXEQ_POST n) 6 (wr (LN_TXEQ_PRE n) 2 s1))

/-- Training begins: from the preset at first use or where R383 says so, else from the last adapted values. -/
def startTrain (n : Nat) (s : State) : State :=
  let x := getLane n s
  let s1 := onlyIf (!x.adapted || x.preset) (lnPreset n) s
  setLn n lnTRAIN (setLane n { x with adapted := true, preset := false, ready := false, run := 0, stPre := 0, stPost := 0 } s1)

/-- A receiver settles: the settings it reaches are those of its adaptation, which the spec does not give (log entry 52: DEDUCED). -/
def settleLane (n : Nat) (s : State) : State :=
  if rdB (LN_RXEQ_FREEZE n) s then s
  else
    let s1 := freeNext (wr (LN_RXEQ_CTLE n) (freeVal 4 s).toNat s)
    forEach (List.range 5) (fun i t => freeNext (wr (LN_DFE_TAP n i) (freeVal 6 t).toNat t)) s1

/-- A lane without training seeks lock, adapting its receiver (R373, R382). -/
def startLock (n : Nat) (s : State) : State :=
  let x := getLane n s
  let s1 := onlyIf (!x.adapted || x.preset) (lnPreset n) s
  setLn n lnLOCK (settleLane n (setLane n { x with adapted := true, preset := false } s1))

/-! ### Bring-up (R373, R374, R387) -/

/-- What follows DETECT in an Ethernet mode. -/
def ethNext (n : Nat) (s : State) : State :=
  if lnKr n s then (if rdB (LN_CFG_AN n) s then setLn n lnAN s else startTrain n s) else startLock n s

/-- Bring-up starts afresh. -/
def bringUp (n : Nat) (s : State) : State :=
  let s1 := setLane n { getLane n s with probes := 0, term := false, ready := false, run := 0, cap := [], got := false, hiberRun := 0, lossAt := none }
    (lnDown n s)
  if lnEth n s then
    let s2 := setLn n lnDETECT s1
    if rdB (LN_STAT_SIG n) s2 then ethNext n s2 else s2
  else if lnDranan n s then setLn n lnDETECT s1
  else if lnMode n s = 8 then setLn n lnTEST s1
  else setLn n lnOFF s1

/-- The lane is in service; a failed one leaves FAILED (R388). -/
def lnActive (n : Nat) (s : State) : State :=
  wrB (bitOf LN_FAILED_FAILED n) false (setLn n lnACTIVE (setLane n { getLane n s with fails := 0 } s))

/-- LANE_SIGNAL_SET (R372): bring-up starts afresh. -/
def execLaneSignalSet (n : Fin 16) (s : State) : Out :=
  let n := n.val
  .next (if !lnEth n s then s
  else
    let s1 := wrB (LN_STAT_SIG n) true s
    if lnState n s = lnFAILED then s1 else bringUp n s1)

/-- LANE_SIGNAL_LOSS (R372): link down, and back to DETECT; never a failure. -/
def execLaneSignalLoss (n : Fin 16) (s : State) : Out :=
  let n := n.val
  .next (if !lnEth n s then s
  else
    let s1 := wrB (LN_STAT_SIG n) false s
    if lnState n s = lnFAILED then s1 else bringUp n s1)

/-! ### Failure and spares (R386-R392) -/

/-- The lane that carries the role of lane `n` in its place. -/
def replacedBy (n : Nat) (s : State) : Option Nat := (List.range 16).find? fun m => m != n && rd (LN_STAT_ROLEOF m) s == n

/-- Does a spare qualify for lane `n` (R388)? -/
def spareFits (n m : Nat) (s : State) : Bool :=
  lnMode m s == 7 && rd (LN_STAT_ROLEOF m) s == m && !lnFailed m s && rdB (bitOf (LN_SPCFG_FOR m) n) s && m != n &&
    (if lnEth n s then true else lnState m s == lnSTANDBY && (getLane m s).swap.isNone)

/-- A substitution is logged and counted on both lanes (R389, R395). -/
def substituted (n m : Nat) (s : State) : State :=
  let c := fun k => count (LN_CNT2_SUB_COUNT k) (LN_STAT_SUB_SAT k) (30 + k)
  raise (30 + n) (0x9020 + n) 0 (c m (c n s))

/-- An Ethernet substitution (R391): MAC, MODE and equaliser settings move to the spare, which comes up. -/
def moveEth (n m : Nat) (s : State) : State :=
  let s1 := wr (LN_CFG_MAC m) (rd (LN_CFG_MAC n) s) (wr (LN_CFG_MODE m) (lnMode n s) s)
  let s2 := wrReg (LN_TXEQ_PRE m).addr (rdReg (LN_TXEQ_PRE n).addr s) (wrReg (LN_RXEQ_CTLE m).addr (rdReg (LN_RXEQ_CTLE n).addr s)
    (wrReg (LN_DFE_TAP m 0).addr (rdReg (LN_DFE_TAP n 0).addr s) s1))
  let s3 := wr (LN_STAT_ROLEOF m) n (wr (LN_CFG_MAC n) 15 s2)
  bringUp m (setLane m { getLane m s3 with adapted := true, fails := 0 } (substituted n m s3))

/-- The logical lane that a lane carries (R389). -/
def ownLogical (n : Nat) (s : State) : Nat :=
  ((List.range 4).find? fun l => drLane l s == n).getD (rd (LN_STAT_LLANE n) s)

/-- A failed lane seeks a spare among those from `lo` (R388, R389); `f`: the block boundary at which it failed. -/
def seekSpare (n lo f : Nat) (s : State) : State :=
  match (List.range 16).find? fun m => Nat.ble lo m && spareFits n m s with
  | none => raise (30 + n) (0x9030 + n) 0 s
  | some m =>
    if lnEth n s then moveEth n m s
    else setLane m { getLane m s with swap := some ⟨f + 4, ownLogical n s, n, true, false, false⟩ } s

/-- A lane is declared failed (R386, R395). -/
def failLane (n f : Nat) (s : State) : State :=
  if lnState n s = lnFAILED then s
  else if lnFailed n s then setLn n lnFAILED (lnDown n s)
  else
    let s1 := setLane n { getLane n s with lossAt := none, hiberRun := 0, losses := [] } (lnDown n s)
    let s2 := raise (30 + n) (0x9010 + n) 0 (wrB (bitOf LN_FAILED_FAILED n) true (setLn n lnFAILED s1))
    if (replacedBy n s2).isSome then s2 else seekSpare n 0 f s2

/-- A lane fails by itself (R386), at the next block boundary. -/
def autoFail (n : Nat) (s : State) : State := failLane n (s.tl.k.toNat + 1) s

/-- A training has failed (R373, R374, R383, R386): the third in a row presets, and declares the lane failed where it may. -/
def trainFailed (n : Nat) (next : State → State) (s : State) : State :=
  let x := getLane n s
  let s1 := count (LN_CNT2_TRAINFAIL_COUNT n) (LN_STAT_TRAINFAIL_SAT n) (30 + n) s
  let third := x.fails + 1 == 3
  let s2 := setLane n { getLane n s1 with fails := if third then 0 else x.fails + 1, preset := x.preset || third } s1
  let present := if lnEth n s then rdB (LN_STAT_SIG n) s else x.term
  if third && rdB (LN_CFG_AUTOSUB n) s && present then autoFail n s2 else next s2

/-- KR_AUTONEG (R369, R373): auto-negotiation, or then training, of a KR lane ends, well or not. -/
def execKrAutoneg (n : Fin 16) (ok : Bool) (s : State) : Out :=
  let n := n.val
  .next (if !lnKr n s then s
    else if lnState n s = lnAN then (if ok then startTrain n s else s)
    else if lnState n s = lnTRAIN then
      if ok then setLn n lnLOCK (settleLane n s) else trainFailed n (fun t => setLn n lnDETECT t |> ethNext n) s
    else s)

/-- DETECT_PROBE (R374): a probe finds a termination or not; the fourth found in a row leads to TRAIN. -/
def execDetectProbe (n : Fin 16) (found : Bool) (s : State) : Out :=
  let n := n.val
  .next (if lnDranan n s && lnState n s == lnDETECT then
    let x := getLane n s
    let c := if found then x.probes + 1 else 0
    let s1 := setLane n { x with probes := c, term := c == 4 } s
    if c = 4 then startTrain n s1 else s1
  else s)

/-- DETECT_TIMEOUT (R374, R395): DETECT again; only the first timeout is logged. -/
def execDetectTimeout (n : Fin 16) (s : State) : Out :=
  let n := n.val
  .next (if lnDranan n s && lnState n s == lnDETECT then
    let x := getLane n s
    let s1 := setLane n { x with probes := 0, logged := true } s
    if x.logged then s1 else raise (30 + n) (0x9000 + n) 0 s1
  else s)

/-- A tap's answer to a request (R376, R377): the new magnitude and the status; `others`: the rest of the swing taken. -/
def tapStep (req status v limit others : Nat) : Nat × Nat :=
  if req = 0 then (v, 0)
  else if status != 0 then (v, status)
  else if req = 1 then (if v = 0 then (v, 3) else (v - 1, 1))
  else if req = 2 then (if limit ≤ v ∨ 64 < v + 1 + others + 32 then (v, 2) else (v + 1, 1))
  else (v, 0)

/-- The partner's requests move the own transmitter (R376, R377). A coefficient's increment makes its magnitude smaller,
since c(−1) and c(+1) are negative (log entry 52: DEDUCED). -/
def takeRequests (n w : Nat) (s : State) : State :=
  if rdB (LN_TXEQ_FIXED n) s then s
  else if w / 16 % 2 = 1 then wr (LN_TXEQ_MAIN n) 64 (wr (LN_TXEQ_POST n) 0 (wr (LN_TXEQ_PRE n) 0 s))
  else if w / 32 % 2 = 1 then wr (LN_TXEQ_MAIN n) 56 (wr (LN_TXEQ_POST n) 6 (wr (LN_TXEQ_PRE n) 2 s))
  else
    let x := getLane n s
    let pre := tapStep (w % 4) x.stPre (rd (LN_TXEQ_PRE n) s) 15 (rd (LN_TXEQ_POST n) s)
    let post := tapStep (w / 4 % 4) x.stPost (rd (LN_TXEQ_POST n) s) 31 pre.1
    wr (LN_TXEQ_MAIN n) (64 - pre.1 - post.1) (wr (LN_TXEQ_POST n) post.1 (wr (LN_TXEQ_PRE n) pre.1
      (setLane n { x with stPre := pre.2, stPost := post.2 } s)))

/-- Is the CRC of a training control word right (R376, R616)? -/
def controlCrcOk (w : Nat) : Bool := crc 8 7 0 (bitsMsb 24 w) == w / 2 ^ 24

/-- TRAINING_FRAME (R375-R377): a frame's control word; `settled`: the own adaptation has settled. TRAIN passes when the
lane has sent RX_READY and has had it in 16 frames in a row. -/
def execTrainingFrame (n : Fin 16) (word : BitVec 32) (settled : Bool) (s : State) : Out :=
  let n := n.val
  let w := word.toNat
  .next (if lnDranan n s && lnState n s == lnTRAIN then
    let ok := controlCrcOk w
    let s1 := onlyIf ok (takeRequests n w) s
    let x := getLane n s1
    let s2 := onlyIf (settled && !x.ready) (settleLane n) s1
    let run := if ok && w / 1024 % 2 == 1 then x.run + 1 else 0
    let s3 := setLane n { getLane n s2 with ready := x.ready || settled, run := run } s2
    if x.ready && Nat.ble 16 run then setLn n lnLOCK s3 else s3
  else s)

/-- TRAIN_TIMEOUT (R374): back to DETECT; the third in a row declares the lane failed. -/
def execTrainTimeout (n : Fin 16) (s : State) : Out :=
  let n := n.val
  .next (if lnState n s != lnTRAIN then s
    else if lnDranan n s then trainFailed n (fun t => setLn n lnDETECT (setLane n { getLane n t with probes := 0 } t)) s
    else if lnKr n s then trainFailed n (fun t => setLn n lnDETECT t |> ethNext n) s
    else s)

/-- BLOCK_LOCK_ACQUIRED (R373, R374, R381): LOCK leads to EXCHANGE, or on an Ethernet lane to ACTIVE; a lane in ACTIVE that
had lost it has it again. -/
def execBlockLockAcquired (n : Fin 16) (s : State) : Out :=
  let n := n.val
  let up := fun t => onlyIf (lnEth n t && Nat.blt (rd (LN_CFG_MAC n) t) 12) (macUp (rd (LN_CFG_MAC n) t)) t
  .next (if lnState n s = lnLOCK then
    let s1 := wrB (LN_STAT_BLOCK n) true s
    if lnEth n s then up (lnActive n s1)
    else if lnDranan n s then setLn n lnEXCHANGE (setLane n { getLane n s1 with cap := [], got := false } s1)
    else s1
  else if lnState n s = lnACTIVE ∧ ¬ rdB (LN_STAT_BLOCK n) s then
    up (wrB (LN_STAT_BLOCK n) true (setLane n { getLane n s with lossAt := none } s))
  else s)

/-- LOCK_TIMEOUT (R373, R374). -/
def execLockTimeout (n : Fin 16) (s : State) : Out :=
  let n := n.val
  .next (if lnState n s != lnLOCK then s
    else if lnDranan n s then startTrain n s
    else if lnKr n s then ethNext n s
    else if lnEth n s then startLock n s
    else s)

/-! ### Capability exchange (R378-R380, R310, R321) -/

/-- The CRC-32 of IEEE 802.3 over words sent least significant bit first, as it stands in its field (R378, R616). -/
def crc32Words (ws : List (BitVec 64)) : Nat :=
  let r := crc 32 0x04C11DB7 0xFFFFFFFF (ws.flatMap fun w => bitsLsb 64 w.toNat)
  (List.range 32).foldl (fun a i => a + (1 - r / 2 ^ (31 - i) % 2) * 2 ^ i) 0

/-- The capability word of a lane (R378), with its ninth word. -/
def capWord (n : Nat) (s : State) : List (BitVec 64) :=
  let role := if lnMode n s = 6 then 0 else 1
  let ll := if role = 0 then ownLogical n s else 0
  let w0 := 2 ^ 56 + rd GLB_ID_STEP s * 2 ^ 48 + rd GLB_ID_PART s * 2 ^ 32 + rd DRN_PAIRID_PAIRID s * 2 ^ 16 + 4 * 2 ^ 12 + ll * 2 ^ 10 +
    n * 2 ^ 6 + (if (getLane n s).got then 2 ^ 5 else 0) + role
  let ws := [BitVec.ofNat 64 w0, BitVec.ofNat 64 (deviceId s)] ++
    (List.range 6).map fun i => BitVec.ofNat 64 (s.image.digest.toNat / 2 ^ (64 * (5 - i)))
  ws ++ [BitVec.ofNat 64 (crc32Words ws * 2 ^ 32)]

/-- CAPABILITY_SEND (R378). -/
def execCapabilitySend (n : Fin 16) (s : State) : Out :=
  .next (if lnState n.val s = lnEXCHANGE then setLane n.val { getLane n.val s with capOut := capWord n.val s } s else s)

/-- A field of word 0 of a capability word. -/
def capField (ws : List (BitVec 64)) (lo w : Nat) : Nat := (ws.headD 0).toNat / 2 ^ lo % 2 ^ w

/-- Is a capability word accepted by R379? -/
def capAccepted (n : Nat) (ws : List (BitVec 64)) (s : State) : Bool :=
  let role := if lnMode n s = 6 then 0 else 1
  capField ws 56 8 == 1 && capField ws 12 4 == 4 && capField ws 6 4 == n && capField ws 0 3 == role &&
    (role == 1 || capField ws 10 2 == ownLogical n s)

/-- The DEVICE_ID of a capability word. -/
def capDevice (ws : List (BitVec 64)) : Nat := ((ws[1]?).getD 0).toNat

/-- May the two engines pair by a capability word (R310)? -/
def capPairs (ws : List (BitVec 64)) (s : State) : Bool :=
  capField ws 16 16 == rd DRN_PAIRID_PAIRID s && capDevice ws != deviceId s

/-- What the four Dranan lanes must agree in (R380): DEVICE_ID, PAIRID and DIGEST. -/
def capIdentity (ws : List (BitVec 64)) : Nat × List (BitVec 64) := (capField ws 16 16, ws.drop 1)

/-- The four Dranan lanes are in service (R380, R321): they agree, and the pair is known and matched or not; else each
returns to EXCHANGE. -/
def capsAgree (s : State) : State :=
  let ls := (List.range 4).map fun l => drLane l s
  if ls.all fun n => lnState n s == lnACTIVE then
    let ref := (getLane (drLane 0 s) s).cap
    if ls.all fun n => capIdentity (getLane n s).cap == capIdentity ref then
      let own := ((capWord (drLane 0 s) s).drop 2).take 6
      pairDerive (wrB DRN_STAT_MATCH (ref.drop 2 == own)
        (wr (DRN_PDEV_ID 1) (capDevice ref / 2 ^ 32) (wr (DRN_PDEV_ID 0) (capDevice ref % 2 ^ 32) s)))
    else forEach ls (fun n t => setLn n lnEXCHANGE (setLane n { getLane n t with cap := [], got := false } t)) s
  else s

/-- CAPABILITY_WORD (R379, R380, R310): the nine words received. The second of two equal accepted words, with ACK, passes
EXCHANGE. -/
def execCapabilityWord (n : Fin 16) (words : List (BitVec 64)) (s : State) : Out :=
  let n := n.val
  let ws := words.take 8
  .next (if lnState n s != lnEXCHANGE || words.length != 9 || (words.drop 8).headD 0 != BitVec.ofNat 64 (crc32Words ws * 2 ^ 32) then s
    else if !capAccepted n ws s then raise (30 + n) (0x9040 + n) 0 s
    else if !capPairs ws s then raise islPair 0x7010 0 s
    else
      let x := getLane n s
      let noAck := fun (l : List (BitVec 64)) => (l.headD 0 &&& ~~~ (0x20 : BitVec 64)) :: l.drop 1
      if noAck x.cap == noAck ws && capField ws 5 1 == 1 then
        let s1 := setLane n { x with cap := ws, got := true } s
        if lnMode n s = 6 then capsAgree (lnActive n s1)
        else wrB (bitOf LN_FAILED_FAILED n) false (setLn n lnSTANDBY s1)
      else setLane n { x with cap := ws, got := true } s)

/-- EXCHANGE_TIMEOUT (R374): 100 ms without a valid word. -/
def execExchangeTimeout (n : Fin 16) (s : State) : Out :=
  .next (if lnState n.val s = lnEXCHANGE then setLn n.val lnLOCK (wrB (LN_STAT_BLOCK n.val) false s) else s)

/-! ### Lock and errors in service (R381, R385, R386) -/

/-- A lane in ACTIVE loses block lock; three losses within 1 s declare it failed (R381, R386). -/
def lockLoss (n ns : Nat) (s : State) : State :=
  if lnState n s != lnACTIVE || !rdB (LN_STAT_BLOCK n) s then s
  else
    let x := getLane n s
    let recent := (ns :: x.losses).filter fun t => Nat.blt ns (t + 1000000000)
    let s1 := count (LN_CNT_LOCKLOSS_COUNT n) (LN_STAT_LOCKLOSS_SAT n) (30 + n) (lnDown n s)
    let s2 := setLane n { getLane n s1 with losses := recent, lossAt := if lnEth n s then none else some s.tl.k.toNat } s1
    if Nat.ble 3 recent.length && rdB (LN_CFG_AUTOSUB n) s then autoFail n s2 else s2

/-- BLOCK_LOCK_LOSS (R373, R381, R386). -/
def execBlockLockLoss (n : Fin 16) (ns : BitVec 64) (s : State) : Out := .next (lockLoss n.val ns.toNat s)

/-- RELOCK_TIMEOUT (R381): block lock has not returned within 10 ms. -/
def execRelockTimeout (n : Fin 16) (s : State) : Out :=
  let n := n.val
  .next (if lnState n s != lnACTIVE || rdB (LN_STAT_BLOCK n) s then s
    else if lnEth n s then ethNext n s
    else startTrain n (setLane n { getLane n s with lossAt := none } s))

/-- The invalid sync headers that make a window HIBER (R385), by mode. -/
def hiberLimit (n : Nat) (s : State) : Nat := if lnMode n s = 2 ∨ lnMode n s = 4 then 16 else 97

/-- HIBER_WINDOW (R385, R386): a window ends with so many invalid headers. -/
def execHiberWindow (n : Fin 16) (invalid : BitVec 32) (s : State) : Out :=
  let n := n.val
  .next (if lnState n s != lnACTIVE || lnMode n s == 1 then s
    else
      let bad := Nat.ble (hiberLimit n s) invalid.toNat
      let x := getLane n s
      let run := if bad then x.hiberRun + 1 else 0
      let s1 := onlyIf bad (count (LN_CNT_HBER_COUNT n) (LN_STAT_HBER_SAT n) (30 + n)) (wrB (LN_STAT_HIBER n) bad s)
      let s2 := setLane n { getLane n s1 with hiberRun := run } s1
      if Nat.ble 3 run && rdB (LN_CFG_AUTOSUB n) s then autoFail n s2 else s2)

/-- LN_CTL_FAIL (R386). -/
def execLnCtlFail (n : Fin 16) (s : State) : Out := .next (autoFail n.val s)

/-- A failed lane without a replacement starts its bring-up again (R388). -/
def lnRetry (n : Nat) (s : State) : State :=
  if lnState n s == lnFAILED && (replacedBy n s).isNone then bringUp n s else s

/-- LANE_RETRY_BRINGUP (R388). -/
def execLaneRetryBringup (n : Fin 16) (s : State) : Out := .next (lnRetry n.val s)

/-- LN_CTL_CLEAR (R392): a replaced lane becomes a free spare with the FOR of its replacement; another failed lane starts its
bring-up; else nothing. -/
def execLnCtlClear (n : Fin 16) (s : State) : Out :=
  let n := n.val
  .next (if !lnFailed n s then s
    else match replacedBy n s with
    | none => lnRetry n s
    | some m =>
      let s1 := wr (LN_SPCFG_FOR n) (rd (LN_SPCFG_FOR m) s) (wr (LN_CFG_MAC n) 15 (wr (LN_CFG_MODE n) 7 s))
      let s2 := wr (LN_STAT_ROLEOF n) n (wrB (bitOf LN_FAILED_FAILED n) false s1)
      bringUp n (setLane n { getLane n s2 with preset := true, fails := 0 } s2))

/-- LN_CTL_RESTART (R396). -/
def execLnCtlRestart (n : Fin 16) (s : State) : Out := .next (if lnState n.val s = lnFAILED then lnRetry n.val s else bringUp n.val s)

/-- LN_CTL_PRESET (R383). -/
def execLnCtlPreset (n : Fin 16) (s : State) : Out := .next (setLane n.val { getLane n.val s with preset := true } s)

/-! ### Dranan substitution (R389, R390) -/

/-- Is a swap block's TYPE and CRC right (R389)? -/
def swapCrcOk (w : BitVec 64) : Bool :=
  w.toNat % 256 == 0x66 && crc 16 0x1021 0xFFFF (bitsLsb 48 w.toNat) == w.toNat / 2 ^ 48

/-- Does the own request stand against one for another logical lane on the same spare (R390)? -/
def ownStands (s : State) : Bool :=
  match s.pair.last with
  | some h => ranksHigher h.frame s
  | none => true

/-- A partner's swap block on a spare (R389, R390). -/
def takeSwap (n blk ll src : Nat) (ack : Bool) (s : State) : State :=
  let x := getLane n s
  match x.swap with
  | some q =>
    if ack then (if q.mine && q.ll == ll && q.block == blk then setLane n { x with swap := some { q with acked := true } } s else s)
    else if q.ll = ll then setLane n { x with swap := some { q with block := max q.block blk, theirs := true } } s
    else if q.mine && ownStands s then s
    else
      let s1 := setLane n { x with swap := some ⟨blk, ll, src, false, true, false⟩ } s
      if q.mine then seekSpare q.src (n + 1) (s.tl.k.toNat + 1) s1 else s1
  | none => if ack then s else setLane n { x with swap := some ⟨blk, ll, src, false, true, false⟩ } s

/-- SWAP_BLOCK (R389): a swap block arrives on a spare in STANDBY. -/
def execSwapBlock (n : Fin 16) (payload : BitVec 64) (s : State) : Out :=
  let n := n.val
  let w := payload.toNat
  .next (if lnState n s == lnSTANDBY && swapCrcOk payload then
    takeSwap n (widen 32 (w / 2 ^ 8 % 2 ^ 32) s.tl.k.toNat).toNat (w / 2 ^ 40 % 4) (w / 2 ^ 42 % 16) (w / 2 ^ 46 % 2 == 1) s
  else s)

/-- SWAP_BLOCK_DUE (R389): at the swap block the logical lane moves to the spare, if a request was received or answered;
otherwise the requesting engine goes on to its next spare. -/
def execSwapBlockDue (n : Fin 16) (s : State) : Out :=
  let n := n.val
  let x := getLane n s
  .next (match x.swap with
  | none => s
  | some q =>
    if s.tl.k.toNat < q.block then s
    else
      let s1 := setLane n { x with swap := none } s
      if q.theirs || q.acked then
        let s2 := framerLost n (wr (LN_STAT_LLANE n) q.ll (wr (LN_STAT_ROLEOF n) q.src s1))
        substituted q.src n (setLn n lnACTIVE s2)
      else if q.mine then seekSpare q.src (n + 1) s.tl.k.toNat s1
      else s1)

/-- What the lanes do at a block boundary (R386): a Dranan lane whose loss of block lock lasts to the second boundary after
it is declared failed. -/
def laneTick (s : State) : State :=
  let k := s.tl.k.toNat
  forEach (List.range 16) (fun n t =>
    match (getLane n t).lossAt with
    | some b => if Nat.ble (b + 2) k && rdB (LN_CFG_AUTOSUB n) t && lnState n t == lnACTIVE then failLane n k t else t
    | none => t) s

/-- Spares in STANDBY enter electrical idle in QUIET (R394). -/
def lanesQuiet (s : State) : State := forEach (List.range 16) (fun n t => onlyIf (lnState n t == lnSTANDBY) (setLn n lnOFF) t) s

/-- Spares run their bring-up again on return to RUN (R394). -/
def lanesRun (s : State) : State :=
  forEach (List.range 16) (fun n t => onlyIf (spareDranan n t && lnState n t == lnOFF) (bringUp n) t) s

/-! ### Adaptation and eye scan (R382, R384, R393) -/

/-- One step of a tap, held at the ends of its range. -/
def tapMove (up : Bool) (v : Nat) : Nat := ofSigned 6 (satI 6 (toSigned 6 v + if up then 1 else -1)).1

/-- DFE_ADAPT (R382, R393): after 1,024 decisions each tap moves one step, up where the product of signs is positive; in TEST
the pattern errors among them are added. -/
def execDfeAdapt (n : Fin 16) (up : BitVec 5) (errors : BitVec 11) (s : State) : Out :=
  let n := n.val
  let st := lnState n s
  .next (if Nat.ble lnLOCK st && st != lnFAILED then
    let s1 := if rdB (LN_RXEQ_FREEZE n) s then s
      else forEach (List.range 5) (fun i t => wr (LN_DFE_TAP n i) (tapMove (up.getLsbD i) (rd (LN_DFE_TAP n i) t)) t) s
    onlyIf (st == lnTEST) (wrSat (LN_TESTERR_ERRS n) (rd (LN_TESTERR_ERRS n) s + errors.toNat)) s1
  else s)

/-- EYE_SCAN_GO (R384). -/
def execEyeScanGo (n : Fin 16) (phase : BitVec 6) (voff : BitVec 7) (dwell : BitVec 4) (s : State) : Out :=
  let n := n.val
  .next (if rdB (LN_ESCAN_GO n) s || voff.toNat == 64 then wrB (LN_STAT_ESCERR n) true s
    else
      wrB (LN_ESCAN_GO n) true (wrB (LN_ESCAN_DONE n) false (wr (LN_ESCAN_DWELL n) dwell.toNat (wr (LN_ESCAN_VOFF n) voff.toNat
        (wr (LN_ESCAN_PHASE n) phase.toNat s)))))

/-- EYE_SCAN_DONE (R384): 2^(24 + DWELL) decisions are compared. -/
def execEyeScanDone (n : Fin 16) (errs : BitVec 64) (s : State) : Out :=
  let n := n.val
  .next (if rdB (LN_ESCAN_GO n) s then
    wrSat (LN_ESCERR_ERRS n) errs.toNat (wrB (LN_ESCAN_DONE n) true (wrB (LN_ESCAN_GO n) false s))
  else s)

end Sys2Proof.Machine
end

