-- ==== Sys2Proof/Machine/Streams.lean ====
section
/-! DEFINITION. Received frames and the media streams (R398-R400, R412-R421, R210). -/

namespace Sys2Proof.Machine

/-! ### Entries and their words in force (R420, R429) -/

/-- An ingress entry beside its registers. -/
def getSin (i : Nat) (s : State) : SinSt := mapGet (fun _ => SinSt.reset) s.eth.sins i

/-- Set an ingress entry. -/
def setSin (i : Nat) (x : SinSt) (s : State) : State :=
  onEth (fun e => { e with sins := mapSet (fun _ => SinSt.reset) e.sins i x }) s

/-- The address of word `j` of an ingress entry. -/
def sinAddr (i j : Nat) : Nat := 0x44200000 + i * 0x40 + 4 * j

/-- The address of word `j` of an egress entry. -/
def soutAddr (e j : Nat) : Nat := 0x44208000 + e * 0x40 + 4 * j

/-- A field of an ingress entry's words: of `ws`, or of the reset words where there are none. -/
def sinField (ws : List (BitVec 32)) (i : Nat) (f : FRef) : Nat :=
  let j := (f.addr - sinAddr i 0) / 4
  getField ((ws[j]?).getD (regReset f.addr)) f.lo f.w

/-- A field of an ingress entry in force. -/
def sinNow (i : Nat) (f : FRef) (s : State) : Nat := sinField (getSin i s).words i f

/-- A field of an egress entry in force. -/
def soutNow (e : Nat) (f : FRef) (s : State) : Nat :=
  let j := (f.addr - soutAddr e 0) / 4
  getField (((mapGet (fun _ => []) s.eth.souts e)[j]?).getD (regReset f.addr)) f.lo f.w

/-- The shadow words of an entry: its configuration registers. -/
def shadowWords (a : Nat → Nat) (s : State) : List (BitVec 32) := (List.range 11).map fun j => rdReg (a j) s

/-- `SIN_STAT.PEND` and `SOUT_STAT.PEND` show whether the shadow differs from the copy in force (R420). -/
def showStreamPend (ingress : Bool) (i : Nat) (s : State) : State :=
  if ingress then
    wrB (SIN_STAT_PEND i) ((List.range 11).any fun j =>
      rdReg (sinAddr i j) s != (((getSin i s).words)[j]?).getD (regReset (sinAddr i j))) s
  else
    wrB (SOUT_STAT_PEND i) ((List.range 11).any fun j =>
      rdReg (soutAddr i j) s != ((mapGet (fun _ => []) s.eth.souts i)[j]?).getD (regReset (soutAddr i j))) s

/-- The blocks of a packet (R412). -/
def packetBlocks (ptime : Nat) : Nat :=
  match ptime with
  | 1 => 3
  | 2 => 6
  | 3 => 8
  | 4 => 24
  | _ => 1

/-- Set the state of an ingress entry, and what the common registers show of it (R429). -/
def setSinState (i st : Nat) (s : State) : State :=
  wrB (bitOf (ST_STALE_STALE (i / 32)) (i % 32)) (st == 3)
    (wrB (bitOf (ST_LIVE_LIVE (i / 32)) (i % 32)) (st == 2) (wr (SIN_STAT_STATE i) st s))

/-- The ingress entries that listed state or listed words name: every entry that has been committed. -/
def sinEntries (s : State) : List Nat := mapKeys s.eth.sins

/-! ### Commits (R420, R421) -/

/-- Do the formats and counts of an entry's words suit each other? -/
def formatLegal (fmt ptime nch ch : Nat) : Bool :=
  Nat.ble 1 nch && Nat.ble nch 64 && Nat.ble ptime 4 && (fmt == 0) == (ptime == 0) && Nat.ble (ch + nch) 2048

/-- May the shadow of an ingress entry be put in force (R421)? -/
def sinLegal (i : Nat) (s : State) : Bool :=
  let same := fun f => rd f s == sinNow i f s
  let ch := rd (SIN_CFG_CH_FIRST i) s
  let n := rd (SIN_FMT_NCH i) s
  (!rdB SG_CTL_RUN s || (same (SIN_CFG_TAINT i) && same (SIN_CFG_SHARED i))) &&
  (!rdB (SIN_CFG_EN i) s ||
    (formatLegal (rd (SIN_CFG_FMT i) s) (rd (SIN_FMT_PTIME i) s) n ch && rd (SIN_FMT_DLY i) s != 0 && rd (SIN_AGE_AGE i) s != 0 &&
      Nat.blt (rd (SIN_CFG_MACA i) s) 12 && (!rdB (SIN_CFG_MERGE i) s || Nat.blt (rd (SIN_CFG_MACB i) s) 12) &&
      (sinEntries s).all fun o => o == i || sinNow o (SIN_CFG_EN o) s == 0 ||
        !overlap ch n (sinNow o (SIN_CFG_CH_FIRST o) s) (sinNow o (SIN_FMT_NCH o) s)))

/-- The channels that an entry's words taint at their origin (R206). -/
def sinTaints (ws : List (BitVec 32)) (i : Nat) : List Nat :=
  if sinField ws i (SIN_CFG_EN i) == 1 && sinField ws i (SIN_CFG_TAINT i) == 1 then
    (List.range (sinField ws i (SIN_FMT_NCH i))).map (· + sinField ws i (SIN_CFG_CH_FIRST i)) else []

/-- Does a commit change what an entry matches or its channels (R420)? -/
def sinRematch (a b : List (BitVec 32)) (i : Nat) : Bool :=
  [SIN_CFG_EN i, SIN_CFG_FMT i, SIN_CFG_MERGE i, SIN_CFG_SRCCHK i, SIN_CFG_MACA i, SIN_CFG_MACB i, SIN_CFG_CH_FIRST i, SIN_FMT_NCH i,
    SIN_KEYA_KEY i 0, SIN_KEYA_KEY i 1, SIN_KEYB_KEY i 0, SIN_KEYB_KEY i 1, SIN_SRCA_ADDR i, SIN_SRCB_ADDR i, SIN_VLAN_VIDA i,
    SIN_VLAN_VIDB i].any fun f => sinField a i f != sinField b i f

/-- An entry starts to wait (R420, R529): its legs, samples and ramps are forgotten. -/
def sinWait (i : Nat) (s : State) : State :=
  let x := getSin i s
  let s1 := setSin i { SinSt.reset with words := x.words, old := x.old } s
  wrB (SIN_STAT_LEGB i) false (wrB (SIN_STAT_LEGA i) false
    (setSinState i (if sinNow i (SIN_CFG_EN i) s1 == 1 then 1 else 0) s1))

/-- Put an entry's shadow in force. -/
def sinCommit (i : Nat) (s : State) : State :=
  let x := getSin i s
  let ws := shadowWords (sinAddr i) s
  let s1 := setSin i { x with words := ws, old := x.words } s
  let gone := sinTaints x.words i
  let s2 := { s1 with image := { s1.image with taintIn := s1.image.taintIn.filter (fun c => !gone.contains c) ++ sinTaints ws i } }
  showStreamPend true i (onlyIf (sinRematch x.words ws i) (sinWait i) s2)

/-- A commit is refused (R421). -/
def refuseCommit (s : State) : State := wrB ST_STAT_CFGERR true s

/-- SIN_COMMIT (R420, R421). -/
def execSinCommit (i : Fin 512) (s : State) : Out := .next (if sinLegal i.val s then sinCommit i.val s else refuseCommit s)

/-- May the shadow of an egress entry be put in force (R421)? -/
def soutLegal (e : Nat) (s : State) : Bool :=
  (!rdB SG_CTL_RUN s || rd (SOUT_CFG_SHARED e) s == soutNow e (SOUT_CFG_SHARED e) s) &&
  (!rdB (SOUT_CFG_EN e) s ||
    (formatLegal (rd (SOUT_CFG_FMT e) s) (rd (SOUT_FMT_PTIME e) s) (rd (SOUT_FMT_NCH e) s) (rd (SOUT_CFG_CH_FIRST e) s) &&
      Nat.ble (rd (SOUT_FMT_LAUNCH e) s) 40000 && Nat.blt (rd (SOUT_CFG_MAC e) s) 12 &&
      (rd (SOUT_CFG_FMT e) s == 0 || Nat.ble 96 (rd (SOUT_RTP_PT e) s)) &&
      rdB (ETH_TCCFG_LT (rd (SOUT_CFG_MAC e) s) (rd (SOUT_CFG_TC e) s)) s))

/-- Is an egress entry sent only by the other engine now (R324)? -/
def soutHeld (e : Nat) (s : State) : Bool := soutNow e (SOUT_CFG_SHARED e) s == 1 && paired s && !isHolder s

/-- `SOUT_STAT.STATE` (R411, R429). -/
def showSout (e : Nat) (s : State) : State :=
  wr (SOUT_STAT_STATE e) (if soutNow e (SOUT_CFG_EN e) s == 0 then 0 else if inQuiet s then 3 else if soutHeld e s then 2 else 1) s

/-- SOUT_COMMIT (R420, R421): the new content applies from the next packet built. -/
def execSoutCommit (e : Fin 512) (s : State) : Out :=
  let e := e.val
  .next (if soutLegal e s then
    showStreamPend false e (showSout e (onEth (fun q => { q with
      souts := mapSet (fun _ => []) q.souts e (shadowWords (soutAddr e) s) }) s))
  else refuseCommit s)

/-! ### Receive classification (R398-R400) -/

/-- The frame's VID: 0 when untagged or priority-tagged. -/
def rxVid (f : RxFrame) : Nat :=
  match f.tag with
  | some t => t.1.toNat
  | none => 0

/-- Is a frame's VLAN accepted (R398)? -/
def vlanOk (m : Nat) (f : RxFrame) (s : State) : Bool :=
  rxVid f == 0 || (List.range 8).any fun i => rdB (ETH_VLAN_EN m i) s && rd (ETH_VLAN_VID m i) s == rxVid f

/-- Does a media packet carry what an entry's leg is matched on (R412)? `b`: leg B. -/
def keyMatches (ws : List (BitVec 32)) (i : Nat) (b : Bool) (p : RxPayload) : Bool :=
  let k := fun j => sinField ws i (if b then SIN_KEYB_KEY i j else SIN_KEYA_KEY i j)
  match p with
  | .aaf stream _ _ _ _ _ _ => sinField ws i (SIN_CFG_FMT i) == 0 && stream.toNat == k 0 + k 1 * 2 ^ 32
  | .rtp dst port src _ _ _ _ => sinField ws i (SIN_CFG_FMT i) == 1 && dst.toNat == k 0 && port.toNat == k 1 % 65536 &&
      (sinField ws i (SIN_CFG_SRCCHK i) == 0 || src.toNat == sinField ws i (if b then SIN_SRCB_ADDR i else SIN_SRCA_ADDR i))
  | _ => false

/-- Does a frame on a MAC match a leg of an entry (R399, R417)? -/
def legMatches (ws : List (BitVec 32)) (i m : Nat) (b : Bool) (f : RxFrame) : Bool :=
  sinField ws i (SIN_CFG_EN i) == 1 && (!b || sinField ws i (SIN_CFG_MERGE i) == 1) &&
  sinField ws i (if b then SIN_CFG_MACB i else SIN_CFG_MACA i) == m &&
  sinField ws i (if b then SIN_VLAN_VIDB i else SIN_VLAN_VIDA i) == rxVid f && keyMatches ws i b f.payload

/-- The words of an entry that a frame is processed under (R420). -/
def wordsFor (i : Nat) (f : RxFrame) (s : State) : List (BitVec 32) :=
  if f.begun.any (fun n => n.val == i) then (getSin i s).old else (getSin i s).words

/-- The entries and legs that a frame matches. -/
def rxMatches (m : Nat) (f : RxFrame) (s : State) : List (Nat × Bool) :=
  (sinEntries s).flatMap fun i => [(i, false), (i, true)].filter fun e => legMatches (wordsFor i f s) i m e.2 f

/-- Groups of three bytes, the first most significant, as samples. -/
def samples3 : List (BitVec 8) → List (BitVec 24)
  | a :: b :: c :: r => (a ++ b ++ c) :: samples3 r
  | _ => []

/-- The upper 24 bits of groups of four bytes, as samples (R412). -/
def samples4 : List (BitVec 8) → List (BitVec 24)
  | a :: b :: c :: _ :: r => (a ++ b ++ c) :: samples4 r
  | _ => []

/-- The samples of a media packet under an entry, or none where the checks of R412 fail. -/
def rxSamples (ws : List (BitVec 32)) (i : Nat) (p : RxPayload) (s : State) : Option (List (BitVec 24)) :=
  let nch := sinField ws i (SIN_FMT_NCH i)
  match p with
  | .aaf _ _ _ rate chans bits data =>
    let w := if bits.toNat = 32 then 4 else 3
    if rate.toNat = s.nS * 24000 ∧ chans.toNat = nch ∧ (bits.toNat = 24 ∨ bits.toNat = 32) ∧ data.length % (nch * w) = 0 then
      some (if w = 4 then samples4 data else samples3 data) else none
  | .rtp _ _ _ _ _ sumOk data => if sumOk ∧ data.length % (nch * 3) = 0 then some (samples3 data) else none
  | _ => none

/-! ### Ingress placement (R415-R417) -/

/-- The whole number nearest `q` + `r`/`n`; a tie is free. -/
def nearest (q r n : Nat) (s : State) : Nat × State :=
  if 2 * r < n then (q, s) else if n < 2 * r then (q + 1, s) else pickNat q (q + 1) s

/-- The N-domain sample count, from block 0, of a packet's first sample (R415, R39); a tie between two sample instants is
free. -/
def firstSample (ws : List (BitVec 32)) (i arrived : Nat) (p : RxPayload) (s : State) : Nat × State :=
  let o := toSigned 32 (sinField ws i (SIN_OFFS_O i))
  match p with
  | .aaf _ _ ts _ _ _ _ =>
    let x := (widen 32 (ofSigned 32 ((ts.toNat : Int) - o)) arrived).toNat * s.nS * 24000
    nearest (x / 1000000000) (x % 1000000000) 1000000000 s
  | .rtp _ _ _ _ ts _ _ =>
    let n0 : Int := (blockAt arrived * s.nS : Nat)
    let d := toSigned 32 (ofSigned 32 ((ts.toNat : Int) - (n0 + o)))
    ((n0 + d).toNat, s)
  | _ => (0, s)

/-- The ingress window open at a time: that of this data block (R416). -/
def windowAt (ns : Nat) : Nat := blockAt (ns - 1000)

/-- Where a stored sample stands: block, channel of the entry, place. -/
def storeKey (j c n : Nat) : Nat := (j * 64 + c) * 8 + n

/-- Is the block of a sample past or too far ahead (R416)? -/
def outsideWindows (j arrived : Nat) : Bool := Nat.blt j (windowAt arrived) || Nat.blt (blockAt arrived + 63) j

/-- A sample is stored for its block; in an open window it reaches the silence detector of its channel (R416, R152). -/
def placeSample (ws : List (BitVec 32)) (i arrived j n c : Nat) (x : BitVec 24) (s : State) : State :=
  let q := getSin i s
  let s1 := setSin i { q with
    store := mapInsert (storeKey j c n) x q.store
    first := match q.first with
      | some b => some (min b j)
      | none => some j } s
  onlyIf (j == windowAt arrived) (detect (sinField ws i (SIN_CFG_CH_FIRST i) + c) j x) s1

/-- The samples of a used packet are placed, each instant's channels in turn (R415, R416). -/
def placeSamples (ws : List (BitVec 32)) (i arrived n0 : Nat) (xs : List (BitVec 24)) (s : State) : State :=
  let nch := sinField ws i (SIN_FMT_NCH i)
  let dly := sinField ws i (SIN_FMT_DLY i)
  let blk := fun (e : BitVec 24 × Nat) => (n0 + e.2 / nch) / s.nS + dly
  let late := xs.zipIdx.any fun e => outsideWindows (blk e) arrived
  let s1 := forEach (xs.zipIdx.filter fun e => !outsideWindows (blk e) arrived) (fun e t =>
    placeSample ws i arrived (blk e) ((n0 + e.2 / nch) % s.nS) (e.2 % nch) e.1 t) s
  onlyIf late (count (SIN_CNT_TIME_COUNT i) (SIN_STAT_TIME_SAT i) 58) s1

/-- The sequence number of a packet and its width. -/
def rxSeq (p : RxPayload) : Nat × Nat :=
  match p with
  | .aaf _ seq _ _ _ _ _ => (seq.toNat, 8)
  | .rtp _ _ _ seq _ _ _ => (seq.toNat, 16)
  | _ => (0, 16)

/-- The merge record (R417): whether the frame is used. A number 64 or more behind the newest is too old. -/
def mergeStep (i seq w : Nat) (s : State) : Bool × State :=
  let q := getSin i s
  match q.newest with
  | none => (true, setSin i { q with newest := some seq, seen := [seq] } s)
  | some n =>
    let d := toSigned w (ofSigned w ((seq : Int) - n))
    if q.seen.contains seq then (false, s)
    else if d ≤ -64 then (false, count (SIN_CNT_TIME_COUNT i) (SIN_STAT_TIME_SAT i) 58 s)
    else
      let top := if 0 < d then seq else n
      (true, setSin i { q with
        newest := some top
        seen := (seq :: q.seen).filter fun v => Nat.blt (ofSigned w ((top : Int) - v)) 64 } s)

/-- A used frame makes an entry LIVE (R419); after STALE its samples fade in over 10 ms. -/
def sinLive (i : Nat) (s : State) : State :=
  let st := rd (SIN_STAT_STATE i) s
  if st = 2 then s
  else
    let q := getSin i s
    let g : GuardSt := ⟨0, 0, if st = 3 then some 0 else none, none, 0⟩
    setSinState i 2 (setSin i { q with first := none, fade := 0, guards := List.replicate (sinNow i (SIN_FMT_NCH i) s) g } s)

/-- The data blocks that a leg has delivered samples for. -/
def noteLeg (i : Nat) (b : Bool) (js : List Nat) (s : State) : State :=
  let q := getSin i s
  setSin i (if b then { q with legB := (js ++ q.legB).eraseDups } else { q with legA := (js ++ q.legA).eraseDups }) s

/-- A media frame reaches an entry by a leg (R412, R415-R417, R420). A frame under the words before a commit that changed
the match is placed under them, and leaves the new entry's legs, record and state alone. -/
def takeMedia (m i : Nat) (b : Bool) (f : RxFrame) (s : State) : State :=
  let ws := wordsFor i f s
  let cur := !sinRematch ws (getSin i s).words i
  let s1 := onlyIf cur (wrB (if b then SIN_STAT_LEGB i else SIN_STAT_LEGA i) true) s
  match rxSamples ws i f.payload s1 with
  | none => count (ETH_CNT4_BADFMT_COUNT m) (ETH_STAT_BADFMT_SAT m) (macIsl m) s1
  | some xs =>
    let t := f.at_.toNat
    let r := firstSample ws i t f.payload s1
    let nch := sinField ws i (SIN_FMT_NCH i)
    if cur then
      let js := ((List.range (xs.length / nch)).map fun n => (r.1 + n) / s.nS + sinField ws i (SIN_FMT_DLY i)).eraseDups
      let s2 := noteLeg i b js r.2
      let u := if sinField ws i (SIN_CFG_MERGE i) == 1 then mergeStep i (rxSeq f.payload).1 (rxSeq f.payload).2 s2 else (true, s2)
      if u.1 then
        placeSamples ws i t r.1 xs (sinLive i (seqNext (if b then SIN_SEQ_RXB_SEQUENCE i else SIN_SEQ_RXA_SEQUENCE i) u.2))
      else u.2
    else
      let js := xs.zipIdx.map fun e => ((r.1 + e.2 / nch) / s.nS + sinField ws i (SIN_FMT_DLY i), r.1 + e.2 / nch, e.2 % nch, e.1)
      let ok := js.filter fun e => !outsideWindows e.1 t
      let s2 := forEach ok (fun e u => feIntake (sinField ws i (SIN_CFG_CH_FIRST i) + e.2.2.1) e.1 (e.2.1 % s.nS) e.2.2.2 u) r.2
      onlyIf (ok.length != js.length) (count (SIN_CNT_TIME_COUNT i) (SIN_STAT_TIME_SAT i) 58) s2

/-- The frame fits its region of the receive buffer (R400): the region's frames that still wait, and the frame itself. -/
def regionAfter (held : List Nat) (f : RxFrame) (size : Nat) : Option (List Nat) :=
  let l := held.drop (held.length - f.waiting.toNat)
  if l.sum + f.bytes.toNat ≤ size then some (l ++ [f.bytes.toNat]) else none

/-- Count a frame that finds its region full (R400). -/
def countRxOvf (m : Nat) (s : State) : State := count (ETH_CNT_RXOVF_COUNT m) (ETH_STAT_RXOVF_SAT m) (macIsl m) s

/-- A frame for the control region (R399 row 5). -/
def takeControl (m : Nat) (f : RxFrame) (s : State) : State :=
  match regionAfter (getMac m s).rxCtl f 32768 with
  | some l => setMac m { getMac m s with rxCtl := l } s
  | none => countRxOvf m s

/-- A frame that is for no one (R399 row 6). -/
def countUnmatched (m : Nat) (s : State) : State := count (ETH_CNT5_UNMATCHED_COUNT m) (ETH_STAT_UNMATCHED_SAT m) (macIsl m) s

/-- Is the frame for the firmware by its address (R399 row 5)? -/
def forFirmware (m : Nat) (f : RxFrame) (s : State) : Bool :=
  f.payload == .lldp || f.dst.toNat == 2 ^ 48 - 1 || f.dst.toNat == rd (ETH_ADDR_HI_ADDR m) s * 2 ^ 32 + rd (ETH_ADDR_LO_ADDR m) s

/-- Rows 2 to 6 of R399. PTP messages go to the stack, whose part comes as its own commands. -/
def classify (m : Nat) (f : RxFrame) (s : State) : State :=
  let ptpHere := f.payload == .ptp && (List.range 8).any fun p => rdB (PTP_PCFG_EN p) s && rd (PTP_PCFG_MAC p) s == m
  let hits := if m = 12 then [] else rxMatches m f s
  if ptpHere then s
  else if !hits.isEmpty then
    match regionAfter (getMac m s).rxMedia f 229376 with
    | some l => forEach hits (fun e t => takeMedia m e.1 e.2 f t) (setMac m { getMac m s with rxMedia := l } s)
    | none => countRxOvf m s
  else match f.payload with
    | .heartbeat w k tagOk => netHeartbeat w k tagOk s
    | _ => if forFirmware m f s then takeControl m f s else countUnmatched m s

/-- FRAME_RECEIVE (R398-R400, R406, R423): checks, MACsec, and the first row of R399 that the frame meets. A MAC that is down
or not enabled receives nothing. -/
def execFrameReceive (m : Fin 13) (f : RxFrame) (s : State) : Out :=
  let m := m.val
  .next (if !rdB (ETH_CFG_EN m) s || !rdB (ETH_STAT_LINK m) s then s
    else match f.payload with
    | .lpi on => if lpiMode m s then wrB (ETH_STAT_LPIRX m) on s else s
    | p =>
      if !f.fcsOk then count (ETH_CNT_FCS_COUNT m) (ETH_STAT_FCS_SAT m) (macIsl m) s
      else if Nat.blt f.bytes.toNat 64 || Nat.blt (rd (ETH_CFG_MAXLEN m) s) f.bytes.toNat then
        count (ETH_CNT4_LEN_COUNT m) (ETH_STAT_LEN_SAT m) (macIsl m) s
      else
        let r := secReceive m f s
        if !r.1 then r.2
        else if !vlanOk m f s then countUnmatched m r.2
        else
          let s1 := seqNext (ETH_RXSEQ_RXFRAME_SEQUENCE m) r.2
          match p with
          | .pause time => takePause m time.toNat s1
          | .pfc v times => takePfc m v.toNat (times.map (·.toNat)) s1
          | _ => classify m f s1)

/-! ### Missing samples and stale streams (R418, R419) -/

/-- An entry enters STALE (R419): its channels fade, their gates close, and the entry is counted and logged. -/
def sinStale (i : Nat) (s : State) : State :=
  let q := getSin i s
  let s1 := setSinState i 3 (setSin i { q with fade := 0, store := [] } s)
  let s2 := count (SIN_CNT2_STALE_COUNT i) (SIN_STAT_STALE_SAT i) 58 s1
  let chs := (List.range (sinNow i (SIN_FMT_NCH i) s)).map (· + sinNow i (SIN_CFG_CH_FIRST i) s)
  raise 58 (0xA200 + i) 0 (forEach chs (fun c t => closeGate c t) s2)

/-- STREAM_AGE_EXPIRY (R419): AGE has passed since the last used frame or the commit. -/
def execStreamAgeExpiry (i : Fin 512) (s : State) : Out :=
  .next (if rd (SIN_STAT_STATE i.val) s == 1 || rd (SIN_STAT_STATE i.val) s == 2 then sinStale i.val s else s)

/-- LEG_AGE_EXPIRY (R417): AGE has passed without a frame on a leg of a merged entry. -/
def execLegAgeExpiry (i : Fin 512) (b : Bool) (s : State) : Out :=
  let f := if b then SIN_STAT_LEGB i.val else SIN_STAT_LEGA i.val
  .next (if sinNow i.val (SIN_CFG_MERGE i.val) s == 1 && rdB f s then raise 58 (0xA400 + i.val) 0 (wrB f false s) else s)

/-- The samples of a channel of an entry for data block `j`, if all came. -/
def storedSamples (q : SinSt) (j c n : Nat) : Option (List Int) :=
  let l := (List.range n).filterMap fun i => (q.store.find? fun e => e.1 == storeKey j c i).map fun e => sInt e.2
  if l.length = n then some l else none

/-- The samples of a channel that fades to zero over 1 ms (R419). -/
def staleFade (last : Int) (done n : Nat) : List Int :=
  (List.range n).map fun i =>
    let j := done + i + 1
    if 24 * n ≤ j then 0 else rndDiv (last * ((24 * n : Nat) - j : Int)) (24 * n)

/-- A guard's step for a channel of a SHARED entry (R331, R418): a missing block holds the last sample. -/
def holdStep (g : GuardSt) (own : Option (List Int)) (n : Nat) : List Int × GuardSt :=
  match own with
  | some xs => guardStep { g with run := 0 } (some xs) n
  | none => (List.replicate n g.last, { g with run := g.run + 1 })

/-- Deliver a channel's samples of data block `j` to the front-end. -/
def deliverIn (c j : Nat) (xs : List Int) (s : State) : State :=
  forEach xs.zipIdx (fun e t => feTake c j e.2 (toSamp e.1) t) s

/-- An entry's data block when its window closes (R416-R419). -/
def sinClose (i j : Nat) (s : State) : State :=
  let q := getSin i s
  let ch := sinNow i (SIN_CFG_CH_FIRST i) s
  let nch := sinNow i (SIN_FMT_NCH i) s
  let shared := sinNow i (SIN_CFG_SHARED i) s == 1
  let merged := sinNow i (SIN_CFG_MERGE i) s == 1
  let drop := fun (x : SinSt) => { x with
    store := x.store.filter fun e => Nat.blt j (e.1 / 512), legA := x.legA.filter (Nat.blt j ·), legB := x.legB.filter (Nat.blt j ·) }
  let st := rd (SIN_STAT_STATE i) s
  if st = 2 then
    if (match q.first with
      | some b => Nat.blt j b
      | none => true) then setSin i (drop q) s
    else
      let own := (List.range nch).map fun c => storedSamples q j c s.nS
      let full := own.all fun o => o.isSome
      let gs := (List.range nch).map fun c => (q.guards[c]?).getD ⟨0, 0, none, none, 0⟩
      let s1 := onlyIf (!full) (count (SIN_CNT_LOST_COUNT i) (SIN_STAT_LOST_SAT i) 58) s
      let s2 := onlyIf (merged && q.legA.contains j != q.legB.contains j) (count (SIN_CNT2_LEGLOSS_COUNT i) (SIN_STAT_LEGLOSS_SAT i) 58) s1
      if shared && !full && gs.any (fun g => Nat.ble (rd DRN_CFG_SHOLD s) g.run) then
        let s3 := sinStale i (setSin i (drop q) s2)
        let s4 := forEach gs.zipIdx (fun e t => deliverIn (ch + e.2) j (staleFade e.1.last 0 s.nS) t) s3
        setSin i { getSin i s4 with fade := s.nS } s4
      else
        let outs := (gs.zip own).map fun e =>
          let o := if full then e.2 else none
          if shared then holdStep e.1 o s.nS else guardStep e.1 o s.nS
        let s3 := setSin i { drop q with guards := outs.map (·.2) } s2
        forEach outs.zipIdx (fun e t => deliverIn (ch + e.2) j e.1.1 t) s3
  else if st = 3 then
    let s1 := forEach q.guards.zipIdx (fun e t => deliverIn (ch + e.2) j (staleFade e.1.last q.fade s.nS) t) s
    setSin i { drop q with fade := q.fade + s.nS } s1
  else s

/-- The samples of a data block whose window opens reach the detectors (R416, R152). -/
def sinOpen (i j : Nat) (s : State) : State :=
  let ch := sinNow i (SIN_CFG_CH_FIRST i) s
  forEach ((getSin i s).store.filter fun e => e.1 / 512 == j) (fun e t => detect (ch + e.1 / 8 % 64) j e.2 t) s

/-- INGRESS_WINDOW_CLOSE (R416, R418): 1,000 ns into a block the window of the data block before it closes and its own
opens. The front-end then processes that data block (R137). -/
def execIngressWindowClose (s : State) : Out :=
  let k := s.tl.k.toNat
  .next (if tlValid s && Nat.blt s.eth.closed k then
    let s1 := forEach (sinEntries s) (fun i t => sinClose i (k - 1) t) (onEth (fun e => { e with closed := k }) s)
    let s2 := feProcess (k - 1) s1
    forEach (sinEntries s2) (fun i t => sinOpen i k t) s2
  else s)

/-! ### Egress (R210, R412-R414) -/

/-- The tainted network egress channels under MODE 2 of an entry (R209, R210). -/
def taintedOut (e : Nat) (s : State) : List Nat :=
  let ch := soutNow e (SOUT_CFG_CH_FIRST e) s
  (listedDests s).filterMap fun d =>
    let c := rdBehind (DST_IDX_INDEX d) s
    if rdBehind (DST_CFG_EN d) s == 1 && rdBehind (DST_CFG_KIND d) s == 2 && Nat.ble ch c && Nat.blt c (ch + soutNow e (SOUT_FMT_NCH e) s) &&
        exportMode 2 c s == 2 && srcTaintNow (rdBehind (DST_CFG_SRC d) s) s then some c else none

/-- R210 on a data block of an entry: with a tainted channel and no active association its zeros are noted and counted,
once. -/
def zeroCheck (e k : Nat) (s : State) : State :=
  if soutNow e (SOUT_CFG_EN e) s == 1 && !s.eth.zeroed.contains (e, k) && !secActive (soutNow e (SOUT_CFG_MAC e) s) s && !(taintedOut e s).isEmpty then
    count KS_CNT2_EXPORT_ZERO_COUNT KS_EVT_EXPORT_SAT 6 (onEth (fun q => { q with zeroed := (e, k) :: q.zeroed }) s)
  else s

/-- The sample of an egress channel as a packet carries it. -/
def egressSample (e k c i : Nat) (ts : List Nat) (s : State) : BitVec 24 :=
  if s.eth.zeroed.contains (e, k) && ts.contains c then 0 else getSamp k skEGR c i s

/-- The packet of an entry whose last data block is `k` (R412, R413). -/
def buildPacket (e k : Nat) (s : State) : TxFrame :=
  let p := packetBlocks (soutNow e (SOUT_FMT_PTIME e) s)
  let k0 := k + 1 - p
  let aaf := soutNow e (SOUT_CFG_FMT e) s == 0
  let o := toSigned 32 (soutNow e (SOUT_OFFS_O e) s)
  let ch := soutNow e (SOUT_CFG_CH_FIRST e) s
  let nch := soutNow e (SOUT_FMT_NCH e) s
  let ts := taintedOut e s
  let head := (if aaf then 46 else 62) - (if soutNow e (SOUT_CFG_TAG e) s == 1 then 0 else 4)
  { tc := soutNow e (SOUT_CFG_TC e) s
    launch := blockStart (k + 2) + soutNow e (SOUT_FMT_LAUNCH e) s
    entry := e
    bytes := max 64 (head + nch * 3 * s.nS * p)
    block := k0
    seq := if aaf then k0 % 256 else k0 / p % 65536
    time := if aaf then ofSigned 32 ((blockStart k0 : Int) + o) else ofSigned 32 (((k0 * s.nS : Nat) : Int) + o)
    shared := soutNow e (SOUT_CFG_SHARED e) s == 1
    zeroed := (List.range p).any fun i => s.eth.zeroed.contains (e, k0 + i)
    samples := (List.range p).flatMap fun b => (List.range s.nS).flatMap fun i => (List.range nch).map fun c => egressSample e (k0 + b) (ch + c) i ts s }

/-- EGRESS_PACKET_BUILD (R411, R413, R414): an enabled entry takes the data block delivered in this block; with the last
block of a packet it builds and queues it. -/
def execEgressPacketBuild (e : Fin 512) (s : State) : Out :=
  let e := e.val
  let k := dataBlock 2 s
  .next (if soutNow e (SOUT_CFG_EN e) s == 0 || !tlRun s || Nat.blt s.tl.k.toNat 2 then s
    else if inQuiet s then showSout e s
    else
      let s1 := zeroCheck e k (showSout e s)
      if (k + 1) % packetBlocks (soutNow e (SOUT_FMT_PTIME e) s) != 0 then s1
      else
        let f := buildPacket e k s1
        queueAudio (soutNow e (SOUT_CFG_MAC e) s) f (wrB (SOUT_STAT_ZERO e) f.zeroed s1))

/-- What the egress entries do at a block boundary: R210 for the data block of the block that ends; notes of old data blocks
go. -/
def egressTick (s : State) : State :=
  let k := s.tl.k.toNat
  let es := (mapKeys s.eth.souts).filter fun e => soutNow e (SOUT_CFG_EN e) s == 1
  let s1 := onEth (fun q => { q with zeroed := q.zeroed.filter fun z => Nat.blt k (z.2 + 32) }) s
  forEach es (fun e t => showSout e (onlyIf (tlRun t && Nat.ble 3 k && !inQuiet t) (zeroCheck e (k - 3)) t)) s1

end Sys2Proof.Machine
end

