-- ==== Sys2Proof/Machine/Pawn.lean ====
section
/-! DEFINITION. Pawn (R498-R517, R583, R588, R589): power-on reset, sequencing, the diagnostic target, power-good losses,
PMBus, QUIET, STOPPING, warm restarts, and Sprout's check of the boot copies. -/

namespace Sys2Proof.Machine

/-- Change Pawn's part of the state. -/
def onPawn (f : PawnSt → PawnSt) (s : State) : State := { s with pawn := f s.pawn }

/-! ### States and steps (R499-R504) -/

/-- The values of `PWR_STAT.STATE`. -/
def pwSTANDBY : Nat := 0
/-- See `pwSTANDBY`. -/
def pwWAKING : Nat := 1
/-- See `pwSTANDBY`. -/
def pwRUN : Nat := 2
/-- See `pwSTANDBY`. -/
def pwQUIET : Nat := 3
/-- See `pwSTANDBY`. -/
def pwFAILED : Nat := 4
/-- See `pwSTANDBY`. -/
def pwSTOPPING : Nat := 5

/-- Pawn's state. -/
def pawnState (s : State) : Nat := rd PWR_STAT_STATE s

/-- Is Pawn in RUN or QUIET? -/
def pawnUp (s : State) : Bool := pawnState s == pwRUN || pawnState s == pwQUIET

/-- A field of an entry as it has been in force since the last wake (R501, R531). -/
def entNow (f : FRef) (s : State) : Nat := getField (mapGet regReset s.pawn.words f.addr) f.lo f.w

/-- Entry fields take effect at the next wake (R531). -/
def takeEntries (s : State) : State :=
  let as := (List.range 12).flatMap fun e => [(PWR_ENT_CFG_EN e).addr, (PWR_ENT_SET_DLY e).addr]
  onPawn (fun p => { p with words := as.map fun a => (a, rdReg a s) }) s

/-- Is an entry enabled? -/
def entOn (e : Nat) (s : State) : Bool := entNow (PWR_ENT_CFG_EN e) s == 1

/-- Is an entry switched off in QUIET (entries 9-11 only)? -/
def entQoff (e : Nat) (s : State) : Bool := entOn e s && Nat.ble 9 e && entNow (PWR_ENT_CFG_QOFF e) s == 1

/-- Is an entry's regulator on PMBus? -/
def entPmb (e : Nat) (s : State) : Bool := entNow (PWR_ENT_CFG_PMB e) s == 1

/-- The oscillator check is step 12 (R502). -/
def oscStep : Nat := 12

/-- The steps in their order (R502); on leaving QUIET only the entries with QOFF (R512). -/
def stepOrder (s : State) : List Nat :=
  if s.pawn.leaving then (List.range 12).filter fun e => entQoff e s
  else (List.range 9).filter (entOn · s) ++ [oscStep] ++ ([9, 10, 11]).filter (entOn · s)

/-- The step after one. -/
def stepAfter (e : Nat) (s : State) : Option Nat := ((stepOrder s).dropWhile (· != e))[1]?

/-- Power-good of an entry, in `PWR_STAT.PG` and `PWR_ENT_STAT.PG`. -/
def setPg (e : Nat) (on : Bool) (s : State) : State := wrB (bitOf PWR_STAT_PG e) on (wrB (PWR_ENT_STAT_PG e) on s)

/-- Drive the PEN of an entry; a supply that is off gives no power-good. -/
def setPen (e : Nat) (on : Bool) (s : State) : State :=
  onlyIf (!on) (setPg e false) (wrB (PWR_ENT_STAT_PEN e) on s)

/-- Drive every high PEN low, in reverse order. -/
def dropPens (s : State) : State :=
  forEach ([11, 10, 9, 8, 7, 6, 5, 4, 3, 2, 1, 0] : List Nat) (fun e t => onlyIf (rdB (PWR_ENT_STAT_PEN e) t) (setPen e false) t) s

/-- The phase of the step. -/
def setPhase (n : Nat) (s : State) : State := onPawn (fun p => { p with phase := n }) s

/-- An entry's PEN goes high and power-good is awaited. -/
def drivePen (e : Nat) (s : State) : State := setPhase 2 (setPen e true s)

/-- Begin a step (R502, R503). -/
def beginStep (e : Nat) (s : State) : State :=
  let s1 := onPawn (fun p => { p with windows := 0 }) (wr PWR_STAT_STEP e s)
  if e = oscStep then setPhase 2 s1
  else if entPmb e s && entNow (PWR_ENT_SET_VNOM e) s != 0 then setPhase 1 s1
  else drivePen e s1

/-- Start WAKING from the first step (R500, R505). -/
def startWaking (s : State) : State :=
  let s1 := takeEntries (onPawn (fun p => { p with leaving := false, low := [], pmbBad := [] }) s)
  let s2 := wrB PWR_STAT_FAULT false (wr PWR_STAT_ATTEMPT 0 (wr PWR_STAT_STATE pwWAKING s1))
  match stepOrder s2 with
  | e :: _ => beginStep e s2
  | [] => s2

/-- Is a step running: in WAKING, or on leaving QUIET? -/
def stepping (s : State) : Bool := pawnState s == pwWAKING || (pawnState s == pwQUIET && s.pawn.leaving)

/-- WAKE_FAILED (R504): FAULT, every PEN low, and the outputs in their power-on state. -/
def wakeFailed (s : State) : State :=
  enterHwSafe (setPhase 0 (dropPens (wrB PWR_STAT_FAULT true (wr PWR_STAT_STATE pwFAILED s))))

/-- The attempt of the step fails (R504): retried after 100 ms at step `again`, at most three times. -/
def failStep (again : Nat) (s : State) : State :=
  let e := rd PWR_STAT_STEP s
  let a := rd PWR_STAT_ATTEMPT s
  let s1 := onlyIf (e != oscStep) (wrB (PWR_ENT_STAT_FAIL e) true) s
  if 3 ≤ a then wakeFailed (raise 7 (0x1020 + e) 0 s1)
  else
    let off := ((stepOrder s).dropWhile (· != again)).filter (· != oscStep)
    let s2 := forEach off.reverse (fun x t => setPen x false t) s1
    let s3 := count PWR_CNT_RETRY_COUNT PWR_EVT_RETRY_SAT 7 (raise 7 (0x1010 + e) 0 s2)
    setPhase 5 (wr PWR_STAT_ATTEMPT (a + 1) (wr PWR_STAT_STEP again s3))

/-- A step has passed; DLY runs. -/
def passStep (e : Nat) (s : State) : State :=
  setPhase 4 (onlyIf (e != oscStep) (fun t => wrB (PWR_ENT_STAT_FAIL e) false (setPg e true t)) s)

/-- STEP_PASS (R502): power-good has been high for 100 µs; with PMB set STATUS_WORD is read next. -/
def execStepPass (s : State) : Out :=
  let e := rd PWR_STAT_STEP s
  .next (if stepping s && s.pawn.phase == 2 && e != oscStep then
    if entPmb e s then setPhase 3 (setPg e true s) else passStep e s
  else s)

/-- PMBUS_TRANSACTION_DONE (R502): VOUT_COMMAND done, PEN goes high; STATUS_WORD read, a fault bit fails the step; no
acknowledgement fails it. -/
def execPmbusTransactionDone (ack fault : Bool) (s : State) : Out :=
  let e := rd PWR_STAT_STEP s
  .next (if stepping s && s.pawn.phase == 1 then (if ack then drivePen e s else failStep e s)
    else if stepping s && s.pawn.phase == 3 then (if ack && !fault then passStep e s else failStep e s)
    else s)

/-- STEP_TIMEOUT (R502, R503). -/
def execStepTimeout (s : State) : Out :=
  .next (if stepping s && (s.pawn.phase == 1 || s.pawn.phase == 2 || s.pawn.phase == 3) then failStep (rd PWR_STAT_STEP s) s else s)

/-- OSC_CHECK_WINDOW (R503): the cycles counted in 1 ms and the swing in mV; four good windows in a row pass the step. -/
def execOscCheckWindow (cycles : BitVec 17) (swing : BitVec 12) (s : State) : Out :=
  let n := cycles.toNat
  let amp := Nat.ble 300 swing.toNat
  let freq := Nat.ble (50 * absDiff n 49152) 49152
  .next (if stepping s && s.pawn.phase == 2 && rd PWR_STAT_STEP s == oscStep then
    let s1 := wrB PWR_OSC_FREQOK freq (wrB PWR_OSC_AMPOK amp (wrI PWR_OSC_FERR (clampI (-32768) 32767 (((n : Int) - 49152) * 10000 / 49152)) s))
    let w := if amp && freq then s.pawn.windows + 1 else 0
    let s2 := onPawn (fun p => { p with windows := w }) s1
    if 4 ≤ w then passStep oscStep s2 else s2
  else s)

/-- PASSED_ENTRY_PPG_FALL (R502): the attempt fails, and the retry restarts the sequence at that entry. -/
def execPassedEntryPpgFall (e : Fin 12) (s : State) : Out :=
  let order := stepOrder s
  let passed := (order.takeWhile (· != rd PWR_STAT_STEP s)) ++ (if s.pawn.phase = 4 then [rd PWR_STAT_STEP s] else [])
  .next (if stepping s && s.pawn.phase != 5 && passed.contains e.val then failStep e.val (setPg e.val false s) else s)

/-- STEP_RETRY (R504, R589): the step is tried again; 100 ms after a power-good loss Pawn wakes again. -/
def execStepRetry (s : State) : Out :=
  .next (if stepping s && s.pawn.phase == 5 then beginStep (rd PWR_STAT_STEP s) s
    else if pawnState s == pwSTANDBY && s.pawn.phase == 6 then startWaking (setPhase 0 s)
    else s)

/-! ### Restarts (R513, R529, R588, R591) -/

/-- The rows that the controllers list for repair, as the firmware saves them (R467); those repaired at this start are not
listed again. -/
def listedRows (s : State) : List (Nat × Nat × Nat × Nat) :=
  (List.range 2).flatMap fun n => ((List.range 8).filter fun i =>
      rdB (DRC_RPR_VALID n i) s && !rdB (DRC_RPR_DONE n i) s && !rdB (DRC_RPR_FAILED n i) s).map fun i =>
    (n, rd (DRC_RPR_RANK n i) s, rd (DRC_RPR_BANK n i) s, rd (DRC_RPR_ROW n i) s)

/-- What a restart leaves of a register: Pawn's own, and what the key store shows of fuses and of the boot region. -/
def keepsReg (a : Nat) : Bool :=
  (Nat.ble 0x4B000000 a && Nat.blt a 0x4B001000) || (Nat.ble 0x4A000008 a && Nat.blt a 0x4A0000B0) ||
  (Nat.ble 0x4A000400 a && Nat.blt a 0x4A000600)

/-- What stays in the key store: fuses, the device secret, and what lasts until power-on reset (R190, R222, R223). -/
def restartKeys (s t : State) : State :=
  let k : KeySt := { KeySt.reset with
    owned := s.ks.owned, fa := s.ks.fa, epochBits := s.ks.epochBits, secret := s.ks.secret, quietUntil := s.ks.quietUntil, fails := s.ks.fails }
  showFuses (wrB KS_STAT_JKILL (rdB KS_STAT_JKILL s) (wr KS_STAT_JTAG (rd KS_STAT_JTAG s)
    (wrB KS_STAT_TRNG_OK (rdB KS_STAT_TRNG_OK s) (wrB KS_STAT_PUF_OK s.ks.secret { t with ks := k }))))

/-- The memories lose what they held, with their supplies (log entry 57: DEDUCED). -/
def clearMem (s : State) : State := { s with mem := MemSt.reset }

/-- DRAM loses what it held. -/
def clearDram (s : State) : State := { s with mem := { s.mem with dram := [] } }

/-- The registers that a test names keep their values; the others read as at reset. -/
def keepRegs (p : Nat → Bool) (s : State) : State := { s with regs := s.regs.filter fun e => p e.1 }

/-- No local supply is low any more: the supplies are switched off. -/
def endDips (s : State) : State := { s with feu := { s.feu with dipped := [] } }

/-- Every island but Pawn's leaves reset (R513, R529), but for those whose own supply is still low (R588): the Pawn state, the
records that wait in Pawn's island, the latched trips of Rook's retained store, flash, fuses, DRAM repairs and memories carry over. -/
def restartIslands (s : State) : State :=
  let q := keepRegs keepsReg s
  let t : State := { State.reset with
    regs := q.regs
    mem := q.mem
    pending := q.pending
    ns := BitVec.ofInt 64 ((s.ns.toNat : Int) - s.pawn.skew)
    rook := { RookSt.reset with latchCh := s.rook.latchCh, latchDc := s.rook.latchDc, latchGr := s.rook.latchGr }
    flash := { s.flash with repairs := s.flash.repairs ++ (listedRows s).filter fun r => !s.flash.repairs.contains r }
    pawn := { s.pawn with skew := 0, booted := false, failed := [], quietSince := none, leaving := false, runNext := false, stopAudio := false }
    lanes := s.lanes.map fun e => (e.1, { LaneSt.reset with adapted := e.2.adapted })
    feu := { FeuSt.reset with queues := s.feu.queues.filter (fun e => e.1 == 7), dipped := s.feu.dipped }
    freeCtr := s.freeCtr }
  forEach s.feu.dipped (fun n u => wr (ISL_STAT_STATE n) 2 u) (restartKeys s (flashPowerLoss t))

/-- Does a boot copy pass (R515, R192, R224)? -/
def copyPasses (c : BootCopy) (s : State) : Bool :=
  let own := (List.range 12).all fun i => rd (KS_OWNER_HASH_HASH i) s == c.ownerHash.toNat / 2 ^ (32 * (11 - i)) % 2 ^ 32
  c.formOk && c.vendorOk && epochOk c.vendorEpoch.toNat s &&
    (if s.ks.fa then c.analysis
     else if s.ks.owned then own && c.sigOk && c.hashesOk && epochOk c.epoch.toNat s
     else c.sigZero && c.production)

/-- Sprout tries the boot copies in order and uses the first that passes (R513, R515). -/
def tryCopies : List BootCopy → State → State
  | [], s =>
    onPea 144 (fun p => { p with stall := .halted }) (wrB PWR_STAT_FAULT true (raise 261 0x2008 0 s))
  | c :: r, s => if copyPasses c s then onPawn (fun p => { p with booted := true }) s else tryCopies r (raise 261 (0x2000 + c.index.val) 0 s)

/-- SPROUT_BOOT (R513-R515): with the PUF check failed, boot continues. -/
def sproutBoot (s : State) : State :=
  let s1 := wr PWR_BOOT_FAILS (min 7 (rd PWR_BOOT_FAILS s + 1)) s
  tryCopies s.pawn.copies (onlyIf (!rdB KS_STAT_PUF_OK s1) (raise 261 0x2012 0) s1)

/-- A warm restart (R513): supplies stay on. -/
def warmRestart (s : State) : State :=
  let s1 := wr PWR_STAT_STEP 0xF (wr PWR_STAT_STATE pwRUN (setPhase 0 (restartIslands s)))
  sproutBoot (wrB GLB_RSTCAUSE_WARM true (wrB GLB_RSTCAUSE_POR false (wrB PWR_BOOT_NOIMAGE false (wrB PWR_STAT_FAULT false s1))))

/-- RUN is entered from WAKING (R513). -/
def enterRun (s : State) : State :=
  sproutBoot (wr PWR_STAT_ATTEMPT 0 (wr PWR_STAT_STEP 0xF (wr PWR_STAT_STATE pwRUN (setPhase 0 (restartIslands (wrB PWR_BOOT_NOIMAGE false s))))))

/-- STEP_DLY_END (R502, R512, R513): the next step starts; after the last one RUN is entered, from QUIET at the next block
boundary. `copies`: the boot copies that Sprout finds. -/
def execStepDlyEnd (copies : List BootCopy) (s : State) : Out :=
  .next (if stepping s && s.pawn.phase == 4 then
    match stepAfter (rd PWR_STAT_STEP s) s with
    | some e => beginStep e (wr PWR_STAT_ATTEMPT 0 s)
    | none =>
      if s.pawn.leaving then
        onPawn (fun p => { p with leaving := false, runNext := true }) (wr PWR_STAT_ATTEMPT 0 (wr PWR_STAT_STEP 0xF (setPhase 0 s)))
      else enterRun (onPawn (fun p => { p with copies := copies }) s)
  else s)

/-- PWR_RESTART (R513): a warm restart while the supplies are on. -/
def execPwrRestart (copies : List BootCopy) (s : State) : Out :=
  .next (if pawnUp s then warmRestart (onPawn (fun p => { p with copies := copies }) s) else s)

/-- POWER_ON_RESET (R188, R499, R500, R588): the engine is reset; with VDD_AON lost below 0.50 V Pawn's retained store is
cleared. The key store derives the device secret and its entropy source is tested. STANDBY is left at once with AUTO. -/
def execPowerOnReset (lost pufOk trngOk : Bool) (s : State) : Out :=
  let s0 := onlyIf lost (fun t => onPawn (fun _ => PawnSt.reset) (keepRegs (fun a => Nat.blt a 0x4B000000 || Nat.ble 0x4B001000 a) t)) (endDips s)
  let s1 := { onFl (fun f => { f with logBuf := [] }) (clearMem (restartIslands s0)) with ns := 0, rook := RookSt.reset, lanes := [], feu := FeuSt.reset }
  let s2 := onKs (fun k => { k with secret := pufOk && !k.fa, fails := 0, quietUntil := 0 }) s1
  let s3 := wrB KS_STAT_TRNG_OK trngOk (wrB KS_STAT_PUF_OK (pufOk && !s2.ks.fa) (wr KS_STAT_JTAG (if s2.ks.fa then 3 else 0) s2))
  let s4 := wr PWR_STAT_STEP 0xF (wr PWR_STAT_STATE pwSTANDBY (setPhase 0 (dropPens (wrB PWR_STAT_FAULT false s3))))
  .next (if rdB PWR_CFG_AUTO s4 then startWaking s4 else s4)

/-! ### Wake causes and the diagnostic target (R500, R505, R509) -/

/-- WAKE_PIN (R500): only in STANDBY. -/
def execWakePin (s : State) : Out := .next (if pawnState s == pwSTANDBY then startWaking s else s)

/-- PAWN_CMD_WAKE (R500, R509): ignored in other states than STANDBY. -/
def execPawnCmdWake (s : State) : Out :=
  .next (if pawnState s == pwSTANDBY then startWaking (onPawn (fun p => { p with out := [] }) s) else onPawn (fun p => { p with out := [] }) s)

/-- PAWN_CMD_RETRY (R505, R509): ignored in other states than WAKE_FAILED. -/
def execPawnCmdRetry (s : State) : Out :=
  .next (if pawnState s == pwFAILED then startWaking (onPawn (fun p => { p with out := [] }) s) else onPawn (fun p => { p with out := [] }) s)

/-- PAWN_STATE (R509): STATE in [2:0], NOIMAGE in [3]. -/
def execPawnState (s : State) : Out :=
  .next (onPawn (fun p => { p with out := [BitVec.ofNat 8 (pawnState s + 8 * rd PWR_BOOT_NOIMAGE s)] }) s)

/-- PAWN_FAULT (R509): a word, low byte first as PMBus sends it. -/
def execPawnFault (s : State) : Out :=
  .next (onPawn (fun p => { p with out := leNat 2 (rd PWR_FAULT_CODE s) }) s)

/-- PAWN_FLOG (R509): the fault record, newest first, each code big-endian. -/
def execPawnFlog (s : State) : Out :=
  .next (onPawn (fun p => { p with out := (List.range 8).flatMap fun i => beNat 2 (rd (flogRef i) s) }) s)

/-! ### STOPPING (R506) -/

/-- STOPPING starts (R506): Rook enters the hardware safe state, and audio stops at the next block boundary. -/
def startStopping (loss : Bool) (s : State) : State :=
  onPawn (fun p => { p with loss := loss, stopAudio := true, leaving := false, runNext := false, phase := 0 })
    (wr PWR_STAT_STATE pwSTOPPING (enterHwSafe s))

/-- PWR_STANDBY (R506): from RUN or QUIET; the bit reads 1 until STANDBY. -/
def execPwrStandby (s : State) : Out := .next (if pawnUp s then wr PWR_CTL_STANDBY 1 (startStopping false s) else s)

/-- Take in records until none waits. -/
def takeAll : Nat → State → State
  | 0, s => s
  | n + 1, s =>
    match execFeuIntake s with
    | .next t => takeAll n t
    | _ => s

/-- Flush pages until the log buffer is empty. -/
def flushPages : Nat → State → State
  | 0, s => s
  | n + 1, s =>
    match execLogPageFlush s with
    | .next t => flushPages n t
    | _ => s

/-- Every record that waits is taken in and logged. -/
def flushLog (s : State) : State :=
  let s1 := takeAll ((s.feu.queues.map (·.2.length)).foldl (· + ·) 1) s
  flushPages (s1.flash.logBuf.length / 510 + 2) s1

/-- Audio stops (R506): every RUN bit clears. -/
def stopAudio (s : State) : State :=
  let s1 := wrB GLB_TLSTAT_RUN false (wrB SG_CTL_RUN false (wrB TEMPO_CTL_EN false (wrB MOD_GCTL_RUN false s)))
  onPawn (fun p => { p with stopAudio := false }) (forEach (List.range 16) (fun n t => wrB (POD_CTL_RUN n) false t) s1)

/-- STOPPING_FLUSH_DONE (R506): the checkpoint is written and the log flushed; Pawn removes the supplies in reverse order and
enters STANDBY. What the supplies held is lost. -/
def execStoppingFlushDone (s : State) : Out :=
  .next (if pawnState s == pwSTOPPING then
    let s1 := match execCheckpoint (flushLog s) with
      | .next t => t
      | _ => s
    let s2 := clearMem (restartIslands (endDips (dropPens s1)))
    setPhase (if s.pawn.loss then 6 else 0) (wr PWR_STAT_STEP 0xF (wr PWR_CTL_STANDBY 0 (wr PWR_STAT_STATE pwSTANDBY s2)))
  else s)

/-! ### Power-good losses and PMBus (R506-R508, R589) -/

/-- The immediate effect of a loss of power-good (R589). -/
def lossEffect (e : Nat) (s : State) : State :=
  if e = 2 ∨ e = 3 then forEach (List.range 16) (fun n t => lockLoss n s.ns.toNat t) s
  else if e = 4 then forEach allStreams (fun x t => senseStuck x t) s
  else if e = 5 then
    match execFlashJobDone false s with
    | .next t => t
    | _ => s
  else if e = 6 ∨ e = 7 then warmRestart (clearDram s)
  else if e = 8 then clockBad true s
  else s

/-- PPG_LOSS (R506, R589). -/
def execPpgLoss (e : Fin 12) (s : State) : Out :=
  .next (if pawnUp s && entOn e.val s && !s.pawn.low.contains e.val then
    lossEffect e.val (raise 7 (0x1040 + e.val) 0 (setPg e.val false (onPawn (fun p => { p with low := e.val :: p.low }) s)))
  else s)

/-- PPG_LOSS_PERSIST (R589): entries 0-8 lead to STOPPING and a new wake; for 9-11 nothing more follows. -/
def execPpgLossPersist (e : Fin 12) (s : State) : Out :=
  .next (if pawnUp s && s.pawn.low.contains e.val && Nat.blt e.val 9 then startStopping true s else s)

/-- The fault of an entry's regulator is logged once per episode (R507). -/
def pmbFault (e : Nat) (bad : Bool) (s : State) : State :=
  if bad then
    if s.pawn.pmbBad.contains e then s
    else raise 7 (0x1060 + e) 0 (onPawn (fun p => { p with pmbBad := e :: p.pmbBad }) s)
  else onPawn (fun p => { p with pmbBad := p.pmbBad.filter (· != e) }) s

/-- PMBUS_POLL (R507): every entry with PMB set; `levels`: the power-good inputs at the poll, which end a loss. -/
def execPmbusPoll (reads : List PmbRead) (levels : BitVec 12) (s : State) : Out :=
  .next (if pawnUp s then
    let s1 := forEach (List.range 12) (fun e t => onlyIf (rdB (PWR_ENT_STAT_PEN e) t) (setPg e (levels.getLsbD e)) t) s
    let s2 := onPawn (fun p => { p with low := p.low.filter fun e => !levels.getLsbD e }) s1
    forEach reads (fun r t =>
      let e := r.entry.val
      if !entOn e t || !entPmb e t then t
      else
        let u := if r.ack then
            wr (PWR_ENT_STAT_TEMP e) r.temp.toNat (wr (PWR_ENT_TEL_IOUT e) r.iout.toNat (wr (PWR_ENT_TEL_VOUT e) r.vout.toNat t))
          else t
        pmbFault e (!r.ack || r.fault) u) s2
  else s)

/-- SCL_LOW_TIMEOUT (R606): as target Pawn releases the bus, with no effect on its state; as controller the transaction
fails, of a step by R502, of a poll by R507. -/
def execSclLowTimeout (asTarget : Bool) (e : Fin 12) (s : State) : Out :=
  .next (if asTarget then s
    else if stepping s && (s.pawn.phase == 1 || s.pawn.phase == 3) then failStep (rd PWR_STAT_STEP s) s
    else if pawnUp s && entOn e.val s && entPmb e.val s then pmbFault e.val true s
    else s)

/-- AVS_STEP (R508): after audio start, one step of 5 mV towards the target of the delay monitors, within 720-800 mV. -/
def execAvsStep (target : BitVec 10) (s : State) : Out :=
  let goal := max 720 (min 800 target.toNat)
  let v := rd PWR_AVS_VSET s
  .next (if pawnUp s && rdB PWR_CFG_AVSEN s && entOn 0 s && entPmb 0 s && s.image.started.isSome then
    let s1 := if Nat.blt target.toNat 720 && !s.pawn.avsLogged then raise 7 0x1080 0 (onPawn (fun p => { p with avsLogged := true }) s) else s
    wr PWR_AVS_VSET (if v < goal then min goal (v + 5) else max goal (v - 5)) s1
  else s)

/-! ### QUIET (R510-R512) -/

/-- The block since which the graph has been quiet, at a block boundary (R510). -/
def quietWatch (s : State) : State :=
  onPawn (fun p => { p with quietSince := if rdB SG_QUIET_QUIET s then some (p.quietSince.getD s.tl.k.toNat) else none }) s

/-- The conditions of QUIET (R510). -/
def quietOk (s : State) : Bool :=
  let long := match s.pawn.quietSince with
    | some b => Nat.ble (b + rd PWR_CFG_QDLY s * 24000) s.tl.k.toNat
    | none => false
  pawnState s == pwRUN && rdB PWR_CFG_QEN s && rdB SG_QUIET_QUIET s && long && rd FL_STAT_CAP s == 0 && !rdB ROOK_STAT_PA s &&
    rd PWR_CTL_STANDBY s == 0

/-- QUIET_ENTRY (R511): at a block boundary. -/
def execQuietEntry (s : State) : Out :=
  .next (if quietOk s then
    let s1 := count PWR_CNT_QUIET_COUNT PWR_EVT_QUIET_SAT 7 (wr PWR_STAT_STATE pwQUIET s)
    let s2 := lanesQuiet (quietGroups s1)
    let s3 := forEach (List.range 8) (fun r t => railCommand r t) (forEach (mapKeys s2.eth.souts) (fun e t => showSout e t) s2)
    let s4 := forEach ((stepOrder s3).filter (entQoff · s3)).reverse (fun e t => setPen e false t) (wrB FL_STAT_REC false s3)
    pairDerive s4
  else s)

/-- Leave QUIET (R512): the entries with QOFF are run, then RUN follows at the next block boundary. -/
def leaveQuiet (s : State) : State :=
  if pawnState s != pwQUIET || s.pawn.leaving || s.pawn.runNext then s
  else
    let s1 := onPawn (fun p => { p with leaving := true }) s
    match stepOrder s1 with
    | e :: _ => beginStep e (wr PWR_STAT_ATTEMPT 0 s1)
    | [] => onPawn (fun p => { p with leaving := false, runNext := true }) s1

/-- QUIET_EXIT (R512): the graph is no longer quiet, Rook requests RUN, or a capture window has been accepted. -/
def execQuietExit (s : State) : Out :=
  .next (if !rdB SG_QUIET_QUIET s || rdB ROOK_STAT_PA s || rd FL_STAT_CAP s != 0 then leaveQuiet s else s)

/-- PWR_RUN (R512). -/
def execPwrRun (s : State) : Out := .next (leaveQuiet s)

/-- RUN is entered from QUIET at a block boundary (R252, R409, R411, R491, R512). -/
def quietEnds (s : State) : State :=
  if s.pawn.runNext && pawnState s == pwQUIET then
    let s1 := lanesRun (onPawn (fun p => { p with runNext := false, quietSince := none }) (wr PWR_STAT_STATE pwRUN s))
    let s2 := newSession (forEach (List.range 13) (fun m t => endLpi m t) (startGroups s1))
    pairDerive (forEach (mapKeys s2.eth.souts) (fun e t => showSout e t) s2)
  else s

end Sys2Proof.Machine
end

