-- ==== Sys2Proof/Machine/Bridges.lean ====
section
/-! DEFINITION. Bridges between the L and N domains (R170-R181, R184). -/

namespace Sys2Proof.Machine

/-- Change the bridges' and ports' part of the state. -/
def onEdge (f : EdgeSt → EdgeSt) (s : State) : State := { s with edge := f s.edge }

/-- A bridge. -/
def getBridge (b : Nat) (s : State) : BridgeSt := mapGet (fun _ => BridgeSt.reset) s.edge.bridges b

/-- Set a bridge. -/
def setBridge (b : Nat) (x : BridgeSt) (s : State) : State :=
  onEdge (fun e => { e with bridges := mapSet (fun _ => BridgeSt.reset) e.bridges b x }) s

/-! The states of `BRG_STAT.STATE`. -/
/-- Idle. -/
def brIDLE : Nat := 0
/-- Settling. -/
def brSETTLE : Nat := 1
/-- Tracking. -/
def brTRACK : Nat := 2
/-- Crossfade to locked. -/
def brTOLOCK : Nat := 3
/-- Locked. -/
def brLOCKED : Nat := 4
/-- Crossfade to tracking. -/
def brTOTRACK : Nat := 5
/-- RANGE. -/
def brRANGE : Nat := 6

/-- A bridge's state. -/
def brState (b : Nat) (s : State) : Nat := rd (BRG_STAT_STATE b) s

/-- The N rate in Hz (R168). -/
def nRateHz (s : State) : Nat := s.nS * 24000

/-- The L rate of a bridge in Hz (R169). -/
def bridgeHz (b : Nat) (s : State) : Nat := lRateHz (rd (BRG_CFG_LRATE b) s)

/-- Is locked mode possible: both rates in the 48 kHz family at 1:1, 1:2 or 1:4 (R171)? -/
def lockable (b : Nat) (s : State) : Bool := Nat.ble 3 (rd (BRG_CFG_LRATE b) s) && Nat.ble (rd (BRG_CFG_LRATE b) s) 5

/-- The nominal group delay in ns (R181): locked without φ, or tracking at the output rate. -/
def bridgeDelay (b : Nat) (locked : Bool) (s : State) : Nat :=
  let l := bridgeHz b s
  let n := nRateHz s
  if locked then
    if l = n then 41667 else 41667 + (4000000000 + min l n / 2) / min l n
  else
    let out := if b % 2 = 0 then n else l
    (16000000000 + out / 2) / out

/-- `BRG_LOCKED0` and `BRG_LOCKED1` show the locked bridges (R184). -/
def showLocked (b : Nat) (on : Bool) (s : State) : State :=
  wrB (bitOf (if b < 32 then BRG_LOCKED0_LOCKED else BRG_LOCKED1_LOCKED) (b % 32)) on s

/-- Set a bridge's state and the locked summary. -/
def setBr (b st : Nat) (s : State) : State := showLocked b (st == brLOCKED) (wr (BRG_STAT_STATE b) st s)

/-- Is the bridge on the locked path, or leaving it? -/
def brLockedPath (b : Nat) (s : State) : Bool := brState b s == brTOLOCK || brState b s == brLOCKED

/-- Report the delay in force (R181): locked delays add φ, tracking delays their departure from nominal, in ns. -/
def showDelay (b : Nat) (departure : Int) (s : State) : State :=
  let n := nRateHz s
  if brLockedPath b s then
    wrI (BRG_DELAY_DELAY b) (bridgeDelay b true s + (getBridge b s).phi * 1000000000 / (65536 * n : Nat)) s
  else wrI (BRG_DELAY_DELAY b) (bridgeDelay b false s + departure) s

/-- Report φ modulo a period and the unwrapped deviation (R177, R184). -/
def showPhase (b : Nat) (phi : Int) (s : State) : State :=
  let x := getBridge b s
  let s1 := setBridge b { x with phi := phi } s
  wrI (BRG_PHASE_PHI b) (phi % 65536)
    (wrI (BRG_PHASE_DEV b) (if brLockedPath b s then (satI 16 ((phi - x.phi0) / 64)).1 else 0) s1)

/-- A bridge starts (R179): tracking with its output at zero, measuring for 200 ms. -/
def bridgeStart (b : Nat) (s : State) : State :=
  if rdB (BRG_CFG_EN b) s then setBr b brSETTLE (setBridge b { getBridge b s with updates := 0, partnerAt := none, asked := false } s)
  else setBr b brIDLE s

/-- A crossfade towards locked mode starts; φ is stored as φ0 (R176, R178). -/
def enterLocked (b : Nat) (s : State) : State :=
  let x := getBridge b s
  showPhase b x.phi (setBr b brTOLOCK (setBridge b { x with phi0 := x.phi, partnerAt := none, asked := false } s))

/-- Count an exit from locked mode (R177). -/
def countExit (b : Nat) (s : State) : State := count (BRG_CNT_EXIT_COUNT b) (BRG_STAT_EXIT_SAT b) 3 s

/-- A bridge leaves locked mode: at once on loss of clock, else by a crossfade (R177, R178). -/
def leaveLocked (b : Nat) (atOnce : Bool) (s : State) : State :=
  if brLockedPath b s then
    if atOnce then countExit b (setBr b brTRACK (setBridge b { getBridge b s with updates := 0, leftAt := s.tl.k.toNat + 1 } s))
    else countExit b (setBr b brTOTRACK s)
  else s

/-- Does the bridge change mode together with the partner's (R180)? -/
def inSync (b : Nat) (s : State) : Bool := rdB (BRG_CFG_PAIRSYNC b) s && mirrors s

/-- A decision carried to the partner (R180); both act at data block `d` + 3. -/
def decide3 (b d : Nat) (lock : Bool) (s : State) : State :=
  onPair (fun p => { p with bridgeNext := p.bridgeNext ++ [(d + 3, b, lock)] }) s

/-- An exit by rate or phase (R177, R180). -/
def exitLocked (b : Nat) (s : State) : State :=
  if !brLockedPath b s then s
  else if inSync b s then
    let d := s.tl.k.toNat
    if s.pair.bridgeNext.any fun e => e.2.1 == b && !e.2.2 then s
    else decide3 b d false (sendMirror (.bridge (BitVec.ofNat 24 d) (Fin.ofNat 64 b) false) s)
  else leaveLocked b false s

/-- Does a port fault or loss of clock stand on the bridge's port (R176)? -/
def portFault (b : Nat) (s : State) : Bool := rdB (TDM_STAT_FAULT (b / 2)) s

/-- Does the bridge meet the conditions for locked mode (R176)? -/
def meetsLock (b : Nat) (s : State) : Bool :=
  let x := getBridge b s
  brState b s == brTRACK && lockable b s && rd (BRG_CFG_MODE b) s == 0 && Nat.ble 10 x.updates &&
    rdB (BRG_STAT_LOCKQ b) s && !portFault b s &&
    (x.leftAt == 0 || Nat.ble (x.leftAt - 1 + rd (BRG_CFG_RELOCK b) s * 24000) s.tl.k.toNat)

/-- Enter locked mode, alone or with the partner (R176, R180). -/
def tryLock (b : Nat) (s : State) : State :=
  if !meetsLock b s then s
  else if !inSync b s then enterLocked b s
  else
    let x := getBridge b s
    let d := s.tl.k.toNat
    match x.partnerAt with
    | some _ => decide3 b d true (setBridge b { x with partnerAt := none, asked := true }
        (sendMirror (.bridge (BitVec.ofNat 24 d) (Fin.ofNat 64 b) true) s))
    | none => if x.asked then s
      else setBridge b { x with asked := true } (sendMirror (.bridge (BitVec.ofNat 24 d) (Fin.ofNat 64 b) true) s)

/-- BRIDGE_RATE_UPDATE (R176, R177, R181): every 100 ms the 1 s mean error in 0.001 ppm; φ unwrapped, in 1/65,536 of an N
sample; the departure of the tracking delay from nominal, in ns. -/
def execBridgeRateUpdate (b : Fin 64) (err : BitVec 24) (phi departure : BitVec 32) (s : State) : Out :=
  let b := b.val
  .next (if brState b s == brIDLE then s
  else
    let s1 := wrB (BRG_STAT_LOCKQ b) (Nat.ble err.toInt.natAbs 100) (wr (BRG_RATIO_ERR b) err.toNat s)
    let s2 := setBridge b { getBridge b s1 with
      updates := if brState b s1 == brTRACK && !portFault b s1 then (getBridge b s1).updates + 1 else 0 } s1
    let s3 := showDelay b departure.toInt (showPhase b phi.toInt s2)
    if brLockedPath b s3 then
      if Nat.blt 1000 err.toInt.natAbs || Nat.blt 32768 (phi.toInt - (getBridge b s3).phi0).natAbs then exitLocked b s3 else s3
    else tryLock b s3)

/-- BRIDGE_LOCK_EXIT (R177): a phase deviation over half an N sample, a mean error over 1 ppm, or loss of clock. -/
def execBridgeLockExit (b : Fin 64) (phi : BitVec 32) (clockLost : Bool) (s : State) : Out :=
  let b := b.val
  .next (if !brLockedPath b s then s
  else if clockLost then leaveLocked b true s
  else
    let s1 := showPhase b phi.toInt s
    if Nat.blt 32768 (phi.toInt - (getBridge b s1).phi0).natAbs || Nat.blt 1000 (rdI (BRG_RATIO_ERR b) s1).natAbs then exitLocked b s1
    else s1)

/-- BRIDGE_CROSSFADE_END (R178): windows of R176 begin after it, and the relock time with them. -/
def execBridgeCrossfadeEnd (b : Fin 64) (s : State) : Out :=
  let b := b.val
  .next (if brState b s == brTOLOCK then setBr b brLOCKED s
  else if brState b s == brTOTRACK then
    showDelay b 0 (setBr b brTRACK (setBridge b { getBridge b s with updates := 0, leftAt := s.tl.k.toNat + 1 } s))
  else s)

/-- BRIDGE_SLIP (R174): the tracking path of a running bridge slips. -/
def execBridgeSlip (b : Fin 64) (s : State) : Out :=
  .next (if brState b.val s == brIDLE then s else count (BRG_CNT_SLIP_COUNT b.val) (BRG_STAT_SLIP_SAT b.val) 3 s)

/-- BRIDGE_RANGE_ENTRY (R175): the L rate leaves ±2,000 ppm. -/
def execBridgeRangeEntry (b : Fin 64) (err : BitVec 24) (s : State) : Out :=
  let b := b.val
  .next (if brState b s != brIDLE && Nat.blt 2000000 err.toInt.natAbs then
    setBr b brRANGE (onlyIf (brLockedPath b s) (countExit b) (wr (BRG_RATIO_ERR b) err.toNat s)) else s)

/-- BRIDGE_RANGE_EXIT (R175): after 1 s within ±1,000 ppm the bridge goes on in tracking mode. -/
def execBridgeRangeExit (b : Fin 64) (s : State) : Out :=
  .next (if brState b.val s == brRANGE then setBr b.val brTRACK (setBridge b.val { getBridge b.val s with updates := 0 } s) else s)

/-- BRIDGE_SETTLE_END (R179): after 200 ms the output ramps in; its two updates count towards the first window. -/
def execBridgeSettleEnd (b : Fin 64) (s : State) : Out :=
  .next (if brState b.val s == brSETTLE then setBr b.val brTRACK (setBridge b.val { getBridge b.val s with updates := 2 } s) else s)

/-- A partner's decision arrives (R180): a decision to enter is met if this engine meets R176 too, and waits else. -/
def partnerBridge (d b : Nat) (lock : Bool) (s : State) : State :=
  let x := getBridge b s
  if !rdB (BRG_CFG_PAIRSYNC b) s then s
  else if !lock then decide3 b d false s
  else if x.asked then decide3 b d true s
  else if meetsLock b s then
    decide3 b d true (setBridge b { x with asked := true } (sendMirror (.bridge (BitVec.ofNat 24 d) (Fin.ofNat 64 b) true) s))
  else setBridge b { x with partnerAt := some d } s

/-- RECORD_MIRROR (R180, R321, R322): entries are taken in the order of their numbers; one already received is passed over,
and one after a gap waits to be sent again. Bridge decisions among them are met at once. -/
def execRecordMirror (crcOk : Bool) (first : BitVec 32) (entries : List MirrorEntry) (s : State) : Out :=
  let s1 := onRecord crcOk (fun t => forEach entries.zipIdx (fun e u =>
    if first + BitVec.ofNat 32 e.2 == u.pair.mirrorGot + 1 then
      takeMirror e.1 (onPair (fun p => { p with mirrorGot := p.mirrorGot + 1 }) u)
    else u) t) s
  .next (forEach s1.pair.bridgeIn (fun e t => partnerBridge e.1 e.2.1 e.2.2 t) (onPair (fun p => { p with bridgeIn := [] }) s1))

/-- Mode changes that both engines make at this data block (R180). -/
def bridgeTick (s : State) : State :=
  let k := s.tl.k.toNat
  let due := s.pair.bridgeNext.filter fun e => Nat.ble e.1 k
  forEach due (fun e t =>
    if e.2.2 then onlyIf (brState e.2.1 t == brTRACK) (enterLocked e.2.1) t else leaveLocked e.2.1 false t)
    (onPair (fun p => { p with bridgeNext := p.bridgeNext.filter fun e => !Nat.ble e.1 k }) s)

end Sys2Proof.Machine
end

