-- ==== Sys2Proof/Machine/Tdm.lean ====
section
/-! DEFINITION. TDM audio ports (R439-R452). -/

namespace Sys2Proof.Machine

/-- A port. -/
def getTdm (p : Nat) (s : State) : TdmSt := mapGet (fun _ => TdmSt.reset) s.edge.ports p

/-- Set a port. -/
def setTdm (p : Nat) (x : TdmSt) (s : State) : State :=
  onEdge (fun e => { e with ports := mapSet (fun _ => TdmSt.reset) e.ports p x }) s

/-! The sync states of R444. -/
/-- OFF. -/
def tdOFF : Nat := 0
/-- NOCLK. -/
def tdNOCLK : Nat := 1
/-- HUNT. -/
def tdHUNT : Nat := 2
/-- RUN. -/
def tdRUN : Nat := 3

/-- A port's state. -/
def tdState (p : Nat) (s : State) : Nat := rd (TDM_STAT_STATE p) s

/-- The slot width in bit clocks (R452). -/
def slotWidth (code : Nat) : Nat :=
  match code with
  | 0 => 16
  | 1 => 24
  | _ => 32

/-- Bit clocks per frame (R439). -/
def bpf (p : Nat) (s : State) : Nat := rd (TDM_CFG_SLOTS p) s * slotWidth (rd (TDM_CFG_SWIDTH p) s)

/-- Are the format words of a port legal (R439, R442, R443)? -/
def tdmLegal (cfg fs : Word) (lrate : Nat) : Bool :=
  let slots := getField cfg 8 6
  let sw := slotWidth (getField cfg 16 2)
  let dw := getField cfg 20 5
  getField cfg 16 2 != 3 && Nat.ble 1 slots && Nat.ble slots 32 && Nat.ble 16 dw && Nat.ble dw 24 && Nat.ble dw sw &&
    Nat.blt (getField cfg 27 5) (slots * sw) && Nat.blt (getField fs 0 11) (slots * sw) &&
    Nat.ble (slots * sw * lRateHz lrate) 49152000

/-- The L rate of a port, in frames per second. -/
def portHz (p : Nat) (s : State) : Nat := bridgeHz (2 * p) s

/-- The frames of the 1 ms fade, and of the 10 ms ramp (R448, R449). -/
def fadeFrames (p : Nat) (s : State) : Nat := (portHz p s + 500) / 1000
/-- See `fadeFrames`. -/
def rampFrames (p : Nat) (s : State) : Nat := (portHz p s + 50) / 100

/-- The gain of a port as a fraction (R448, R449): `pos` counts the frames of the fade, or of the ramp. -/
def portGain (p : Nat) (s : State) : Nat × Nat :=
  let x := getTdm p s
  match rd (TDM_STAT_GAIN p) s with
  | 0 => (1, 1)
  | 1 => (fadeFrames p s - x.pos, fadeFrames p s)
  | 2 => (0, 1)
  | _ => (min x.pos (rampFrames p s), rampFrames p s)

/-- A sample times the port's gain. -/
def portScale (p : Nat) (v : DWord) (s : State) : DWord :=
  let g := portGain p s
  if g.1 = g.2 then v else toSamp (rndDiv (sInt v * g.1) (max g.2 1))

/-- The bridges of a port lose their clock (R177). -/
def bridgesLost (p : Nat) (s : State) : State := leaveLocked (2 * p + 1) true (leaveLocked (2 * p) true s)

/-- A port fault (R447-R449): the first of an episode is logged and starts the fade; one during the ramp starts the fade
from the gain in force. -/
def portFaulted (p detail : Nat) (s : State) : State :=
  if !rdB (TDM_STAT_FAULT p) s then
    raise (61 + p) (0xA000 + detail + p) 0 (wr (TDM_STAT_GAIN p) 1 (wrB (TDM_STAT_FAULT p) true
      (setTdm p { getTdm p s with pos := 0, lost := false } s)))
  else if rd (TDM_STAT_GAIN p) s == 3 then
    let g := portGain p s
    wr (TDM_STAT_GAIN p) 1 (setTdm p { getTdm p s with pos := fadeFrames p s - g.1 * fadeFrames p s / max g.2 1 } s)
  else s

/-- The good frames are counted again. -/
def clearGood (p : Nat) (s : State) : State := wr (TDM_MEAS_GOOD p) 0 s

/-- A frame-sync error (R445): HUNT begins. -/
def syncError (p : Nat) (s : State) : State :=
  let s1 := count (TDM_CNT_SYNC_COUNT p) (TDM_STAT_SYNC_SAT p) (61 + p) s
  clearGood p (portFaulted p 0x800 (setTdm p { getTdm p s1 with hunt := 0 } (wr (TDM_STAT_STATE p) tdHUNT s1)))

/-- The port loses its clock (R446). -/
def clockLoss (p : Nat) (s : State) : State :=
  if rdB (TDM_STAT_CLKLOSS p) s then s
  else
    let s1 := count (TDM_CNT2_CLKLOSS_COUNT p) (TDM_STAT_CLKLOSS_SAT p) (61 + p) (wrB (TDM_STAT_CLKLOSS p) true s)
    let s2 := clearGood p (portFaulted p 0x840 s1)
    bridgesLost p (setTdm p { getTdm p s2 with lost := true } s2)

/-- The port's clock has returned (R446, R451). -/
def clockBack (p : Nat) (s : State) : State :=
  if rdB (TDM_STAT_CLKLOSS p) s then raise (61 + p) (0xA860 + p) 0 (wrB (TDM_STAT_CLKLOSS p) false s) else s

/-- Recovery begins once the fade has ended and the port is clean (R449); after a loss of clock it takes no time, and the
bridges start anew (R179). -/
def tryRecover (p : Nat) (s : State) : State :=
  if rdB (TDM_STAT_FAULT p) s && rd (TDM_STAT_GAIN p) s == 2 && tdState p s == tdRUN && Nat.ble 16 (rd (TDM_MEAS_GOOD p) s) then
    if (getTdm p s).lost then
      bridgeStart (2 * p + 1) (bridgeStart (2 * p) (wr (TDM_STAT_GAIN p) 0 (wrB (TDM_STAT_FAULT p) false s)))
    else wr (TDM_STAT_GAIN p) 3 (setTdm p { getTdm p s with pos := 0 } s)
  else s

/-! ### Samples through the bridges -/

/-- The number of the N sample that a sample of a locked 1:1 bridge leaves with (R172): its arrival plus one block plus φ, to
the nearest instant. -/
def leaveNumber (b ns : Nat) (s : State) : Nat :=
  let x : Int := ns * 3 * s.nS * 65536 / 125000 + s.nS * 65536 + (getBridge b s).phi
  ((x + 32768) / 65536).toNat

/-- The number of the N sample in force at a time less a delay in ns. -/
def sampleNumber (ns delay : Nat) (s : State) : Nat := (ns - delay) * 3 * s.nS / 125000

/-- The N samples that one frame gives: those after the last one given, at most 8 blocks of them. -/
def newSamples (last top : Nat) (s : State) : List Nat :=
  if last = 0 || top < last || last + 8 * s.nS < top then [top] else (List.range (top + 1 - last)).map fun i => last + i

/-- One slot's sample leaves the input bridge into the front-end (R137, R172): locked 1:1 bit-exact, in other modes what the
conversion makes of the signal, free but zero for zeros (log entry 34: DESIGN CHOICE); settling and RANGE give zeros. -/
def bridgeIn (p c : Nat) (ms : List Nat) (v : DWord) (s : State) : State :=
  let b := 2 * p
  let exact := brState b s == brLOCKED && bridgeHz b s == nRateHz s
  let st := brState b s
  forEach ms (fun m t =>
    let k := m / t.nS
    let i := m % t.nS
    if exact then feTake c k i v t
    else if st == brIDLE || st == brSETTLE || st == brRANGE || !(getDet c t).dirty then feTake c k i 0 t
    else let q := pickSamp t; feTake c k i q.1 q.2) s

/-- The slots of a port that are in use. -/
def rxSlots (p : Nat) (s : State) : List Nat :=
  (List.range (rd (TDM_CFG_SLOTS p) s)).filter fun n => rdB (bitOf (TDM_RXMASK_MASK p) n) s && rdB (TDM_CFG_RXEN p) s

/-- A frame's samples go to the bridge: those of a good frame are tested for silence (R450). -/
def passFrame (p : Nat) (vs : List DWord) (tested : Bool) (ns : Nat) (s : State) : State :=
  let b := 2 * p
  let top := if brLockedPath b s then leaveNumber b ns s else sampleNumber (ns + rd (BRG_DELAY_DELAY b) s) 0 s
  let ms := newSamples (getTdm p s).lastN top s
  let s1 := forEach (rxSlots p s) (fun n t =>
    let v := vs.getD n 0
    let c := 2048 + p * 32 + n
    let t1 := onlyIf tested (detect c (top / t.nS) v) t
    bridgeIn p c ms (portScale p v t1) t1) s
  setTdm p { getTdm p s1 with lastN := top + 1 } s1

/-- The data bits of a slot as a sample (R441). -/
def slotSample (p : Nat) (v : DWord) (s : State) : DWord :=
  let dw := rd (TDM_CFG_DWIDTH p) s
  BitVec.ofNat 24 (v.toNat % 2 ^ dw * 2 ^ (24 - dw))

/-- An output sample rounded to DWIDTH bits and saturated (R441), as the bits of the slot. -/
def slotBits (dw : Nat) (v : DWord) : DWord :=
  BitVec.ofNat 24 (ofSigned dw (satI dw (rndDiv (sInt v) (2 ^ (24 - dw)))).1)

/-- The sample of an output slot at a time (R172, R441): exact through a locked 1:1 bridge, in other modes free but zero for
silence so far (log entries 34: DESIGN CHOICE, 40: DEDUCED). Sample 0 of data block `k` stands at the start of block `k` + 3. -/
def outSample (p n ns : Nat) (s : State) : DWord × State :=
  let b := 2 * p + 1
  let idx := p * 32 + n
  if brState b s == brLOCKED && bridgeHz b s == nRateHz s then
    let m := sampleNumber ns (rd (BRG_DELAY_DELAY b) s) s
    (getSamp (m / s.nS - 3) skTDM idx (m % s.nS) s, s)
  else if brState b s == brIDLE || brState b s == brSETTLE || brState b s == brRANGE ||
      !(s.graph.samp.any fun e => e.1 / 65536 % 8 == skTDM && e.1 / 8 % 8192 == idx) then (0, s)
  else pickSamp s

/-- The output frame that goes out (R441, R448): each slot's sample times the port's gain; masked slots are 0. -/
def sendFrame (p ns : Nat) (s : State) : State :=
  if !rdB (TDM_CFG_TXEN p) s then s
  else
    let r := (List.range (rd (TDM_CFG_SLOTS p) s)).foldl (fun (a : List DWord × State) n =>
      if rdB (bitOf (TDM_TXMASK_MASK p) n) a.2 then
        let q := outSample p n ns a.2
        (a.1 ++ [slotBits (rd (TDM_CFG_DWIDTH p) q.2) (portScale p q.1 q.2)], q.2)
      else (a.1 ++ [0], a.2)) (([] : List DWord), s)
    setTdm p { getTdm p r.2 with sent := r.1 } r.2

/-- A frame of the fade or the ramp has passed. -/
def gainFrame (p : Nat) (s : State) : State :=
  let x := getTdm p s
  match rd (TDM_STAT_GAIN p) s with
  | 1 => setTdm p { x with pos := min (x.pos + 1) (fadeFrames p s) } s
  | 3 => setTdm p { x with pos := min (x.pos + 1) (rampFrames p s) } s
  | _ => s

/-- Does a frame pass its checks (R442, R444): an active edge at count BPF and the right width of FS? -/
def frameGood (p counted : Nat) (edge : Bool) (fsw : Nat) (s : State) : Bool :=
  edge && counted == bpf p s && (rd (TDM_FS_FSW p) s == 0 || rd (TDM_FS_FSW p) s == fsw)

/-- A good frame in RUN: counted, its samples passed, a frame sent. -/
def goodFrame (p : Nat) (slots : List DWord) (ns : Nat) (s : State) : State :=
  let vs := slots.map fun v => slotSample p v s
  let s1 := wrSat (TDM_MEAS_GOOD p) (rd (TDM_MEAS_GOOD p) s + 1) (seqNext (TDM_FRAME_FRAME_SEQUENCE p) s)
  let fading := rd (TDM_STAT_GAIN p) s1 == 1 || rd (TDM_STAT_GAIN p) s1 == 2
  let s2 := if fading then passFrame p (getTdm p s1).lastGood false ns (forEach (rxSlots p s1) (fun n t =>
      detect (2048 + p * 32 + n) (sampleNumber ns 0 t / t.nS) (vs.getD n 0) t) s1)
    else passFrame p vs true ns (setTdm p { getTdm p s1 with lastGood := vs } s1)
  tryRecover p (gainFrame p (sendFrame p ns s2))

/-- A frame that brings no samples: the port repeats its last good frame under the fading gain (R448). -/
def emptyFrame (p ns : Nat) (send : Bool) (s : State) : State :=
  gainFrame p (onlyIf send (sendFrame p ns) (passFrame p (getTdm p s).lastGood false ns s))

/-- TDM_FRAME (R441-R450): a frame ends with `counted` bit clocks counted; `edge` says that an active FS edge ends it, `fsw`
is the count of the inactive edge, `slots` holds the data bits of each slot, `ns` is the time. -/
def execTdmFrame (p : Fin 32) (counted : BitVec 12) (edge : Bool) (fsw : BitVec 12) (slots : List DWord) (ns : BitVec 64)
    (s : State) : Out :=
  let p := p.val
  let good := frameGood p counted.toNat edge fsw.toNat s
  let s0 := wr (TDM_MEAS_BPF p) counted.toNat s
  .next (if tdState p s == tdRUN then
    if good then goodFrame p slots ns.toNat s0 else emptyFrame p ns.toNat true (syncError p s0)
  else if tdState p s == tdHUNT then
    let n := if good then (getTdm p s).hunt + 1 else 0
    let s1 := setTdm p { getTdm p s0 with hunt := n } s0
    let s2 := if n = 4 then clockBack p (clearGood p (wr (TDM_STAT_STATE p) tdRUN s1)) else s1
    emptyFrame p ns.toNat true s2
  else s)

/-- TDM_CLOCK_GAP (R444, R446): no BCK edge for 4 µs. -/
def execTdmClockGap (p : Fin 32) (s : State) : Out :=
  .next (if tdState p.val s == tdOFF then s
    else clockLoss p.val (setTdm p.val { getTdm p.val s with hunt := 0 } (wr (TDM_STAT_STATE p.val) tdNOCLK s)))

/-- FIRST_BCK_EDGE (R444). -/
def execFirstBckEdge (p : Fin 32) (s : State) : Out :=
  .next (if tdState p.val s == tdNOCLK then
    wr (TDM_STAT_STATE p.val) tdHUNT (setTdm p.val { getTdm p.val s with hunt := 0 } s) else s)

/-- TDM_HUNT_TIMEOUT (R446). -/
def execTdmHuntTimeout (p : Fin 32) (s : State) : Out :=
  .next (if tdState p.val s == tdHUNT then clockLoss p.val s else s)

/-- A frame met a full or an empty FIFO (R447). -/
def xrun (p : Nat) (s : State) : State :=
  clearGood p (portFaulted p 0x820 (count (TDM_CNT_XRUN_COUNT p) (TDM_STAT_XRUN_SAT p) (61 + p) s))

/-- TDM_OVERRUN (R447): a received frame finds the input FIFO full. -/
def execTdmOverrun (p : Fin 32) (s : State) : Out := .next (if tdState p.val s == tdRUN then xrun p.val s else s)

/-- TDM_UNDERRUN (R447): a frame starts with the output FIFO empty. -/
def execTdmUnderrun (p : Fin 32) (s : State) : Out := .next (if tdState p.val s == tdRUN then xrun p.val s else s)

/-- TDM_COAST_FRAME (R448): without a clock the port gives frames at the last measured rate; nothing is sent. -/
def execTdmCoastFrame (p : Fin 32) (ns : BitVec 64) (s : State) : Out :=
  .next (if tdState p.val s == tdNOCLK && rdB (TDM_STAT_FAULT p.val) s then emptyFrame p.val ns.toNat false s else s)

/-- TDM_FADE_END (R448, R449). -/
def execTdmFadeEnd (p : Fin 32) (s : State) : Out :=
  .next (if rd (TDM_STAT_GAIN p.val) s == 1 then tryRecover p.val (wr (TDM_STAT_GAIN p.val) 2 s) else s)

/-- TDM_RAMP_END (R449): the episode ends. -/
def execTdmRampEnd (p : Fin 32) (s : State) : Out :=
  .next (if rd (TDM_STAT_GAIN p.val) s == 3 then wr (TDM_STAT_GAIN p.val) 0 (wrB (TDM_STAT_FAULT p.val) false s) else s)

/-- TDM_RESYNC (R449): it counts as a frame-sync error. -/
def execTdmResync (p : Fin 32) (s : State) : Out :=
  .next (if tdState p.val s == tdRUN || tdState p.val s == tdHUNT then syncError p.val s else s)

/-- A port is enabled or disabled (R444): it waits for its clock. -/
def tdmEnable (p : Nat) (on : Bool) (s : State) : State :=
  if on then onlyIf (tdState p s == tdOFF) (wr (TDM_STAT_STATE p) tdNOCLK) s
  else wrReg (TDM_STAT_STATE p).addr 0 (setTdm p TdmSt.reset s)

end Sys2Proof.Machine
end

