-- ==== Sys2Proof/Machine/Reset.lean ====
section
/-! DEFINITION. Domain resets and supply dips of islands (R578, R588, R591): what stops while an island is in reset, and how
its domain recovers. -/

namespace Sys2Proof.Machine

/-- Islands whose domain reset ends in a warm restart (R591). -/
def fatalIsland (n : Nat) : Bool :=
  (Nat.ble 2 n && Nat.ble n 6) || n == 26 || n == 27 || n == 29 || (Nat.ble 93 n && Nat.ble n 96) || (Nat.ble 266 n && Nat.ble n 274)

/-- Islands supplied from VDD_AON, for which a software request is refused (R578, R588). -/
def aonIsland (n : Nat) : Bool := n == 0 || n == 7 || n == 28 || n == 265

/-- The entries of the stream tables that the running configuration enables. -/
def usedStreams (s : State) : List Nat := (mapKeys s.eth.sins).filter fun i => sinNow i (SIN_CFG_EN i) s == 1

/-- What stops when an island enters domain reset (R591). -/
def islandDown (n : Nat) (s : State) : State :=
  let s1 :=
    if 101 ≤ n ∧ n ≤ 260 then
      let pod := (n - 101) / 10
      let p := (n - 101) % 10
      if p = 0 then
        let t := { s with pods := { s.pods with marks := s.pods.marks.filter fun e => e.1 / 2048 != pod } }
        zeroisePeas ((List.range 9).map (peaNo pod ·)) (forEach (List.range 9) (fun q u => stopPea pod q u) t)
      else declareFailed pod (p - 1) s
    else if 8 ≤ n ∧ n ≤ 25 then driveLine (n - 8) (forEach (groupChans (n - 8) s) (fun c t => hardStop c t) s)
    else if 30 ≤ n ∧ n ≤ 45 then setLn (n - 30) lnOFF (lockLoss (n - 30) s.ns.toNat s)
    else if (46 ≤ n ∧ n ≤ 57) ∨ n = 59 then macDown (if n = 59 then 12 else n - 46) s
    else if n = 58 then forEach (usedStreams s) (fun i t => sinStale i t) s
    else if 61 ≤ n ∧ n ≤ 92 then onlyIf (tdState (n - 61) s != tdOFF) (clockLoss (n - 61)) s
    else if n = 261 then onHalv (fun h => { h with sessions := [], castle := [] }) (onPea 144 (fun p => { p with stall := .halted }) s)
    else if 262 ≤ n ∧ n ≤ 264 then onPea (n - 117) (fun p => { p with stall := .halted }) s
    else s
  if fatalIsland n then warmRestart (flushLog s1) else resetRegs n s1

/-- A domain reset of an island begins (R578); a request for one already in reset joins it. -/
def beginReset (n : Nat) (s : State) : State := if inReset n s then s else islandDown n (requestReset n s)

/-- ISL_RESET (R578): a request of CC0; for an island supplied from VDD_AON it is refused. -/
def execIslReset (n : Fin 275) (s : State) : Out := .next (if aonIsland n.val then s else beginReset n.val s)

/-- Write the kept register records of the running image that name the island (R591). -/
def rewriteRecords (n : Nat) (s : State) : State :=
  forEach (s.image.records.filter fun r => inIsland n r.1) (fun r t => softWrite r.1 r.2 t) s

/-- The golden copies of a pod's peas go back into their memories (R199, R591). -/
def reloadPod (pod : Nat) (s : State) : State :=
  forEach (List.range 9) (fun p t =>
    let q := peaNo pod p
    { t with
      mem := { t.mem with
        prog := fillWindow (fun _ => 0) (q * 16384) 0 16384 (q * 16384) t.mem.goldProg t.mem.prog
        x := fillWindow (fun _ => 0) (q * 65536) 0 65536 (q * 65536) t.mem.goldX t.mem.x
        y := fillWindow (fun _ => 0) (q * 65536) 0 65536 (q * 65536) t.mem.goldY t.mem.y }
      cores := mapErase q t.cores
      pods := { t.pods with
        run := mapErase q t.pods.run
        tasks := t.pods.tasks.filter fun e => e.1 / 64 != q } }) s

/-- Seal windows of nonzero length are locked again once the seal transfers have been made (R201). -/
def relock (pod : Nat) (s : State) : State :=
  showSealPod pod (forEach (List.range 9) (fun p t =>
    let q := peaNo pod p
    onlyIf (rd (KS_SEAL_P_LEN q) t != 0 || rd (KS_SEAL_X_LEN q) t != 0 || rd (KS_SEAL_Y_LEN q) t != 0) (wrB (KS_SEAL_CTL_LOCK q) true) t) s)

/-- The domain of an island recovers (R591). -/
def islandUp (n : Nat) (s : State) : State :=
  if n = 28 then
    let k := s.rook
    wr ROOK_STAT_STATE rkLOADING { s with rook := { RookSt.reset with
      latchCh := k.latchCh, latchDc := k.latchDc, latchGr := k.latchGr, lastEvent := k.lastEvent, clkBad := k.clkBad } }
  else
    let s1 := rewriteRecords n s
    if n = 1 then wrB TEMPO_CTL_EN (tlRun s1) s1
    else if 101 ≤ n ∧ n ≤ 260 then
      let pod := (n - 101) / 10
      let p := (n - 101) % 10
      if p = 0 then
        let s2 := forEach (List.range 9) (fun q t => rewriteRecords (n + 1 + q) t) (reloadPod pod s1)
        relock pod (wrB (POD_CTL_RUN pod) (tlRun s2) s2)
      else
        forEach (List.range 64) (fun e t => onlyIf ((getTask pod (p - 1) e t).movedTo != 0) (wrB (TASK_CTL_MOVED pod (p - 1) e) true) t)
          (forEach (List.range 64) (fun e t => wrB (TASK_CFG_EN pod (p - 1) e) false t) (wr (PEA_STAT_STATE pod (p - 1)) 2 s1))
    else if 8 ≤ n ∧ n ≤ 25 then onlyIf (tlRun s1) (requestEnable (n - 8)) s1
    else if 30 ≤ n ∧ n ≤ 45 then bringUp (n - 30) s1
    else if n = 58 then
      forEach (mapKeys s1.eth.souts) (fun e t => showSout e t) (forEach (usedStreams s1) (fun i t => sinWait i (sinCommit i t)) s1)
    else if 61 ≤ n ∧ n ≤ 92 then tdmEnable (n - 61) (rdB (TDM_CFG_EN (n - 61)) s1) s1
    else if 97 ≤ n ∧ n ≤ 100 then onlyIf (rdB (FLC_CFG_EN (n - 97)) s1) (wr (FLC_STAT_STATE (n - 97)) 2) (showGeometry s1)
    else if 261 ≤ n ∧ n ≤ 264 then { s1 with cores := mapErase (n - 117) s1.cores }
    else s1

/-- An island leaves domain reset: every register of it holds its reset value (R578), and its domain recovers. -/
def endReset (n : Nat) (s : State) : State :=
  islandUp n (wr (ISL_STAT_STATE n) 0 (wr (ISL_CTL_RESET n) 0 (resetRegs n s)))

/-- DOMAIN_RESET_END (R578, R591): a supply that is still low holds the island in reset. -/
def execDomainResetEnd (n : Fin 275) (s : State) : Out :=
  .next (if inReset n.val s && !s.feu.dipped.contains n.val then endReset n.val s else s)

/-- SUPPLY_DIP (R588): the island's own supply is below its threshold for 20 ns; islands on VDD_AON have no such supply. -/
def execSupplyDip (n : Fin 275) (s : State) : Out :=
  .next (if aonIsland n.val || s.feu.dipped.contains n.val then s
    else beginReset n.val { s with feu := { s.feu with dipped := n.val :: s.feu.dipped } })

/-- SUPPLY_RETURN (R588): 20 µs after the supply has returned the island leaves reset. -/
def execSupplyReturn (n : Fin 275) (s : State) : Out :=
  let s1 := { s with feu := { s.feu with dipped := s.feu.dipped.filter (· != n.val) } }
  .next (if s.feu.dipped.contains n.val && inReset n.val s then endReset n.val s1 else s1)

end Sys2Proof.Machine
end

