-- ==== Sys2Proof/Machine/Access.lean ====
section
/-! DEFINITION. Accesses to registers: the island of an address, the firewall and its fixed rules, decode errors, and what a
read returns (R454, R464, R558-R565, R578). -/

namespace Sys2Proof.Machine

/-! ### Islands (R558, R559) -/

/-- The island that owns a register address of a span (R558, R559). -/
def islandOf (a : Nat) : Nat :=
  if a < 0x40100000 then 0
  else if a < 0x40200000 then 1
  else if a < 0x41000000 then
    let n := (a - 0x40200000) / 0x10000
    let q := a % 0x10000 / 0x1000
    if 1 ≤ q ∧ q ≤ 9 then 101 + 10 * n + q else 101 + 10 * n
  else if a < 0x42000000 then 2
  else if a < 0x43000000 then 3
  else if a < 0x43012000 then 8 + (a - 0x43000000) / 0x1000
  else if 0x43020000 ≤ a ∧ a < 0x43020480 then 8 + (a - 0x43020000) / 0x40
  else if a < 0x43200000 then 26
  else if a < 0x44000000 then 27
  else if a < 0x44010000 then 30 + (a - 0x44000000) / 0x1000
  else if a < 0x44100000 then 29
  else if a < 0x44200000 then 46 + min 11 ((a - 0x44100000) / 0x400)
  else if a < 0x44300000 then 58
  else if a < 0x44400000 then 46 + min 11 ((a - 0x44300000) / 0x200)
  else if a < 0x44500000 then 60
  else if a < 0x45000000 then 59
  else if a < 0x45100000 then 4
  else if a < 0x46000000 then 5
  else if a < 0x47000000 then 61 + (a - 0x46000000) / 0x400
  else if a < 0x48000000 then 29
  else if a < 0x48100000 then 93
  else if a < 0x49000000 then (if 0x48101000 ≤ a ∧ a < 0x48102000 then 95 else 94)
  else if a < 0x49001000 then 96
  else if a < 0x4A000000 then (if a < 0x49001400 then 97 + (a - 0x49001000) / 0x100 else 96)
  else if a < 0x4B000000 then 6
  else if a < 0x4C000000 then 7
  else if a < 0x4F000000 then 265
  else 28

/-- Are the supplies of the islands beside those on VDD_AON up and their islands out of reset (R500, R513)? -/
def islandsUp (s : State) : Bool := pawnUp s || pawnState s == pwSTOPPING

/-- What `ISL_STAT.STATE` of an island shows (R580): pod peas are clock-gated in QUIET (R511). -/
def islandState (n : Nat) (s : State) : Nat :=
  if inReset n s then 2
  else if !aonIsland n && !islandsUp s then 3
  else if inQuiet s && 101 ≤ n && n ≤ 260 && (n - 101) % 10 != 0 then 1
  else 0

/-! ### The firewall (R228, R275, R278, R435, R464, R497, R531, R578) -/

/-- Does a register hold a field that software can write? -/
def writableReg (a : Nat) : Bool := accMask (· != Acc.ro) a != 0

/-- Does a fixed rule refuse an access, and with which detail of class 0x6 (R615)? -/
def fixedRefusal (m : Nat) (write user : Bool) (a : Nat) : Option Nat :=
  if 0x4A000000 ≤ a ∧ a < 0x4A002000 then (if m = 0 ∧ !user then none else some 2)
  else if 0x4F000000 ≤ a ∧ a < 0x4F004000 then (if write && m != 4 && (rowOf a).isSome then some 3 else none)
  else if 0x43200000 ≤ a ∧ a < 0x43208000 then (if write && m != 4 && writableReg a then some 3 else none)
  else if 0x44401000 ≤ a ∧ a < 0x444017E0 then (if write && m != 4 && writableReg a then some 3 else none)
  else if 0x49000000 ≤ a ∧ a < 0x49002000 then (if m < 4 then none else some 4)
  else if 0x4B000000 ≤ a ∧ a < 0x4B001000 then (if write && m != 0 then some 4 else none)
  else if 0x4C001000 ≤ a ∧ a < 0x4C002130 ∧ a % 16 = 4 then (if write && m != 0 then some 4 else none)
  else none

/-- Does a firewall region match an address (R464)? -/
def regionHas (r a : Nat) (s : State) : Bool :=
  rdB (FW_ATTR_EN r) s && Nat.ble (rd (FW_BASE_BASE r) s) (a / 4096) && Nat.ble (a / 4096) (rd (FW_LIMIT_LIMIT r) s)

/-- Is a master's bit set in a mask of a region? -/
def maskBit (lo hi : FRef) (m : Nat) (s : State) : Bool := if m < 32 then rdB (bitOf lo m) s else rdB (bitOf hi (m - 32)) s

/-- The highest-numbered enabled region that matches decides; with none, LOCK does (R464). -/
def regionAllows (m : Nat) (write user : Bool) (a : Nat) (s : State) : Bool :=
  match (List.range 64).reverse.find? fun r => regionHas r a s with
  | none => !rdB FW_CTL_LOCK s
  | some r =>
    (if write then maskBit (FW_WMASK_LO_MASK r) (FW_WMASK_HI_MASK r) m s
     else maskBit (FW_RMASK_LO_MASK r) (FW_RMASK_HI_MASK r) m s) &&
    !(rdB (FW_ATTR_SUPR r) s && user && Nat.blt m 5)

/-- Why the firewall refuses an access: the detail of R615, fixed rules first (R464). -/
def fwRefusal (m : Nat) (write user : Bool) (a : Nat) (s : State) : Option Nat :=
  match fixedRefusal m write user a with
  | some d => some d
  | none => if regionAllows m write user a s then none else some 1

/-- A refused access is counted and logged with the master and the address (R464, R615). -/
def logRefusal (d m : Nat) (write user : Bool) (a : Nat) (s : State) : State :=
  raiseAccess 93 d m write user a (count XB_CNT2_FWREF_COUNT XB_STAT_FWREF_SAT 93 s)

/-- An access that the default target answers, or that R560 does not perform (R454, R560). -/
def decodeError (m a : Nat) (s : State) : State :=
  raise 93 0xB001 0 (count XB_CNT_DECERR_COUNT XB_STAT_DECERR_SAT 93
    (wr XB_DECERR_HI_MASTER m (wr XB_DECERR_HI_ADDR (a / 2 ^ 32) (wr XB_DECERR_LO_ADDR (a % 2 ^ 32) s))))

/-- Does an access to a register of a span get an error response because its island is in reset or unpowered (R454, R578)?
An island in domain reset is logged. -/
def islandError (a : Nat) (s : State) : Bool × State :=
  match islandState (islandOf a) s with
  | 2 => (true, raise 93 0xB003 0 s)
  | 3 => (true, s)
  | _ => (false, s)

/-! ### Reads (R562, R564, R565) -/

/-- What a read of a register returns: its word, with the fields that are shown from elsewhere in the state. -/
def readReg (a : Nat) (s : State) : Word :=
  let v := rdReg a s &&& ~~~ accMask (· == .wo) a
  if a = GLB_BSN_BSN.addr then BitVec.ofNat 32 (bsnNow s)
  else if 0x41020000 ≤ a ∧ a < 0x41030000 ∧ a % 16 = 12 then
    let d := (a - 0x41020000) / 16
    putField (putField v 0 1 (if s.graph.xfades.any (·.1 == d) then 1 else 0))
      1 1 (if s.graph.gains.any (fun e => e.1 == a - 4 && Nat.blt e.2.i e.2.len) then 1 else 0)
  else if 0x41030000 ≤ a ∧ a < 0x41031000 ∧ a % 8 = 0 then putField v 1 12 (groupMembers ((a - 0x41030000) / 8) s)
  else if 0x41040000 + 16 * 2048 ≤ a ∧ a < 0x4104C000 ∧ a % 16 = 0 then putField v 0 1 1
  else if 0x4C001000 ≤ a ∧ a < 0x4C002130 ∧ a % 16 = 0 then putField v 0 2 (islandState ((a - 0x4C001000) / 16) s)
  else taintBits a v s

/-- The side effects of reads (R41, R268, R341, R565); the phase error that the DPLL measures is free (log entry 49: DEDUCED). -/
def readEffect (a : Nat) (s : State) : State :=
  if a = GLB_BSN_BSN.addr then wr GLB_BLKHI_K_HI (if tlValid s then s.tl.k.toNat / 2 ^ 32 else 0) s
  else if a = SNS_OUTIDX_IDX.addr then wr SNS_TLATCH_TIME (s.senseAt.toNat % 2 ^ 32) s
  else if a = TB_NS_LO_NS.addr then
    wr TB_FRAC_FRAC s.frac.toNat (wr TB_NS_HI_NS (s.ns.toNat / 2 ^ 32) (wr TB_NS_LO_NS (s.ns.toNat % 2 ^ 32) s))
  else if a = DPLL_PHASE_PHASE.addr ∧ s.time.selected then wr DPLL_PHASE_PHASE (freeVal 32 s).toNat (freeNext s)
  else s

/-- A read of the register at an address by a master: whether it gets an error response, the word, and what it leaves. -/
def registerRead (m : Nat) (user : Bool) (a : Nat) (s : State) : Bool × Word × State :=
  match fwRefusal m false user a s with
  | some d => (true, 0, logRefusal d m false user a s)
  | none =>
    if a % 4 != 0 || (blockOf a).isNone then (true, 0, decodeError m a s)
    else
      let r := islandError a s
      if r.1 then (true, 0, r.2) else
        let s1 := readEffect a s
        (false, readReg a s1, s1)

end Sys2Proof.Machine
end

