-- ==== Sys2Proof/Machine/Dpll.lean ====
section
/-! DEFINITION. The cleanup DPLL, its references and the clock outputs (R356-R364). -/

namespace Sys2Proof.Machine

/-- The DPLL states of R357. -/
def dpFREERUN : Nat := 0
/-- See `dpFREERUN`. -/
def dpACQ : Nat := 1
/-- See `dpFREERUN`. -/
def dpLOCKED : Nat := 2
/-- See `dpFREERUN`. -/
def dpHOLD : Nat := 3
/-- See `dpFREERUN`. -/
def dpLOST : Nat := 4

/-- Is a candidate qualified? -/
def qualified (c : Nat) (s : State) : Bool := rdB (bitOf DPLL_STAT_QUAL c) s

/-- The loop bandwidth in 0.01 Hz; a reserved code counts as the widest. -/
def loopBw (s : State) : Nat :=
  match rd DPLL_CTL_BW s with
  | 0 => 1
  | 1 => 10
  | 2 => 100
  | 3 => 1000
  | _ => 10000

/-- Is a REFIN too slow for the bandwidth: below 20 times it (R356)? -/
def tooSlow (r : Nat) (s : State) : Bool := Nat.blt (rd (REF_CFG_FREQ r) s * 100) (20 * loopBw s)

/-- May a candidate qualify (R356, R362)? -/
def mayQualify (c : Nat) (s : State) : Bool :=
  if c = 6 then rd TB_STAT_STATE s == 2 || rd TB_STAT_STATE s == 3 || rd TB_STAT_STATE s == 5
  else if c = 7 then rdB DRN_STAT_ALIGN s
  else rd (REF_CFG_FREQ c) s != 0 && !tooSlow c s && !(c == 5 && rdB DRN_CFG_LLINE s)

/-- The qualified candidate of the highest priority; ties go to the lower number (R359). -/
def bestByPrio (s : State) : Option Nat :=
  (List.range 8).foldl (fun b c =>
    if !qualified c s || rd (DPLL_PRIO_PRI c) s == 15 then b
    else match b with
      | some x => if Nat.blt (rd (DPLL_PRIO_PRI c) s) (rd (DPLL_PRIO_PRI x) s) then some c else b
      | none => some c) none

/-- The candidate that the DPLL should use: in a pair MAN while it is qualified, and else by priority (R359). -/
def bestRef (s : State) : Option Nat :=
  if rdB DRN_CFG_EN s && qualified (rd DPLL_CTL_MAN s) s then some (rd DPLL_CTL_MAN s) else bestByPrio s

/-- A phase step of the output, in ps (R183, R360): one larger than 1 ns is recorded and counted. -/
def phaseStep (step : BitVec 24) (s : State) : State :=
  onlyIf (Nat.blt 1000 step.toInt.natAbs) (fun t => count MXC_CNT_STEP_COUNT MXC_STAT_STEP_SAT 3 (wr MXC_STEP_LAST step.toNat t)) s

/-- Take a reference (R357, R359, R360): `near` tells whether it lies within ±0.1 ppm of the output. -/
def takeRef (c : Nat) (near : Bool) (step : BitVec 24) (s : State) : State :=
  let st := rd DPLL_STAT_STATE s
  let again := s.time.selected && rd DPLL_STAT_SEL s == c
  let s1 := wr DPLL_STAT_STATE (if st = dpLOCKED && near then dpLOCKED else dpACQ) (wr DPLL_STAT_SEL c s)
  let s2 := onClock (fun q => { q with selected := true }) s1
  if again || !s.time.selected then phaseStep step s2
  else raise 5 (0x8100 + c) 0 (count DPLL_CNT_SWITCH_COUNT DPLL_STAT_SWITCH_SAT 5 (phaseStep step s2))

/-- No reference is left (R357, R358): HOLDOVER with a valid history, else LOST. -/
def loseRef (s : State) : State :=
  let ok := rdB DPLL_STAT_HIST s
  let s1 := count DPLL_CNT_HOLD_COUNT DPLL_STAT_HOLD_SAT 5 (wr DPLL_STAT_STATE (if ok then dpHOLD else dpLOST) s)
  if ok then raise 5 0x8110 0 s1 else raise 5 0x8111 0 (wr DPLL_LOCKT_LOCKT 0 (wrB DPLL_STAT_HIST false s1))

/-- REF_QUALIFY (R356, R357): a candidate becomes qualified; without a reference in use the DPLL takes the best at once. -/
def execRefQualify (c : Fin 8) (ferr : BitVec 24) (near : Bool) (step : BitVec 24) (s : State) : Out :=
  let c := c.val
  .next (if mayQualify c s then
    let s1 := wr (bitOf DPLL_STAT_QUAL c) 1 s
    let s2 := if c < 6 then wr (REF_STAT_FERR c) ferr.toNat (wrB (REF_STAT_MISS c) false (wrB (REF_STAT_SLOWREF c) false (wrB (REF_STAT_QUAL c) true s1))) else s1
    let st := rd DPLL_STAT_STATE s
    if rdB DPLL_STAT_OPEN s || st == dpACQ || st == dpLOCKED then s2
    else
      match bestRef s2 with
      | some b => takeRef b near step s2
      | none => s2
  else if c < 6 then wrB (REF_STAT_SLOWREF c) (rd (REF_CFG_FREQ c) s != 0 && tooSlow c s) s
  else s)

/-- REF_DISQUALIFY (R356, R359): at once; the DPLL switches down or holds over. -/
def execRefDisqualify (c : Fin 8) (miss : Bool) (ferr : BitVec 24) (near : Bool) (step : BitVec 24) (s : State) : Out :=
  let c := c.val
  .next (if qualified c s && (Nat.blt c 6 || !mayQualify c s) then
    let s1 := wr (bitOf DPLL_STAT_QUAL c) 0 s
    let s2 := if c < 6 then
        count (REF_CNT_DISQ_COUNT c) (REF_STAT_DISQ_SAT c) 5
          (wr (REF_STAT_FERR c) ferr.toNat (wrB (REF_STAT_MISS c) miss (wrB (REF_STAT_QUAL c) false s1)))
      else s1
    let st := rd DPLL_STAT_STATE s
    if rdB DPLL_STAT_OPEN s || rd DPLL_STAT_SEL s != c || !(st == dpACQ || st == dpLOCKED) then s2
    else
      match bestRef s2 with
      | some b => takeRef b near step s2
      | none => loseRef s2
  else s)

/-- DPLL_LOCK (R357). -/
def execDpllLock (s : State) : Out :=
  .next (if rd DPLL_STAT_STATE s == dpACQ && !rdB DPLL_STAT_OPEN s then wr DPLL_STAT_STATE dpLOCKED s else s)

/-- DPLL_UNLOCK (R357): the phase error has exceeded 100 ns for 100 ms. -/
def execDpllUnlock (s : State) : Out :=
  .next (if rd DPLL_STAT_STATE s == dpLOCKED && !rdB DPLL_STAT_OPEN s then wr DPLL_STAT_STATE dpACQ s else s)

/-- HISTORY_VALID (R358): LOCKED for 60 s in total. -/
def execHistoryValid (s : State) : Out :=
  .next (if rd DPLL_STAT_STATE s == dpLOCKED && !rdB DPLL_STAT_OPEN s then
    wrB DPLL_STAT_HIST true (wr DPLL_LOCKT_LOCKT (max 60 (rd DPLL_LOCKT_LOCKT s)) s)
  else s)

/-- DPLL_REVERT (R359): WTR after a better candidate qualified; in a pair the better one is MAN. -/
def execDpllRevert (near : Bool) (step : BitVec 24) (s : State) : Out :=
  let st := rd DPLL_STAT_STATE s
  .next (if rdB DPLL_STAT_OPEN s || !(st == dpACQ || st == dpLOCKED) || !(rdB DPLL_CTL_REVERT s || rdB DRN_CFG_EN s) then s
    else match bestRef s with
    | some b => if b = rd DPLL_STAT_SEL s then s else takeRef b near step s
    | none => s)

/-- DPLL_OPEN (R361): setting OPEN freezes the state machine; clearing it acts as a switch to the selected reference and the
DPLL acquires. -/
def execDpllOpen (opn : Bool) (step : BitVec 24) (s : State) : Out :=
  let s1 := wrB DPLL_STAT_OPEN opn (wrB DPLL_CTL_OPEN opn s)
  .next (if opn || !rdB DPLL_STAT_OPEN s then s1
    else
      let c := rd DPLL_STAT_SEL s
      let s2 := raise 5 (0x8100 + c) 0 (count DPLL_CNT_SWITCH_COUNT DPLL_STAT_SWITCH_SAT 5 (phaseStep step s1))
      if qualified c s then wr DPLL_STAT_STATE dpACQ s2
      else
        match bestRef s2 with
        | some b => takeRef b false 0 (wr DPLL_STAT_STATE dpACQ s2)
        | none => loseRef s2)

/-- DPLL_FREQ_WRITE (R361): clamped to ±500 ppm, in 2^-40; ignored with CFGERR while the loop is closed. -/
def execDpllFreqWrite (v : BitVec 32) (s : State) : Out :=
  let m : Int := 549755813
  let c := clampI (-m) m v.toInt
  .next (if rdB DPLL_STAT_OPEN s then onlyIf (c != v.toInt) (wrB DPLL_STAT_FCLAMP true) (wrI DPLL_FREQ_FREQ c s)
    else wrB DPLL_STAT_CFGERR true s)

/-! ### Clock outputs (R362-R364) -/

/-- Does CKOUT5 carry the lease line (R362)? -/
def leaseOut (o : Nat) (s : State) : Bool := o == 5 && rdB DRN_CFG_LLINE s

/-- CKOUT_MODE_WRITE (R363, R367): structural; a CLOCK or FRAME output runs from the write on, and OFF and PULSE do not
run. -/
def execCkoutModeWrite (o : Fin 6) (mode : Fin 4) (s : State) : Out :=
  .next (if rdB SG_CTL_RUN s then wrB DPLL_STAT_CFGERR true s
    else wrB (CKO_STAT_RUN o.val) ((mode.val == 1 || mode.val == 2) && !leaseOut o.val s) (wr (CKO_CFG_MODE o.val) mode.val s))

/-- CKO_ALIGN_GO (R364): armed for the next reference edge. -/
def execCkoAlignGo (o : Fin 6) (s : State) : Out := .next (wr (CKO_ALIGN_GO o.val) 1 s)

/-- CKO_ALIGN_EDGE (R364): a reference edge on SRC; `err` is the error measured against it, in ns. In ONCE mode after GO the
output is realigned; in TRACK mode every edge is measured. -/
def execCkoAlignEdge (o : Fin 6) (err : BitVec 16) (s : State) : Out :=
  let o := o.val
  .next (if leaseOut o s || !rdB (CKO_STAT_RUN o) s then s
    else if rd (CKO_ALIGN_MODE o) s == 1 && rdB (CKO_ALIGN_GO o) s then
      wr (CKO_STAT_AERR o) err.toNat (wrB (CKO_STAT_ALIGNED o) true (wr (CKO_ALIGN_GO o) 0 s))
    else if rd (CKO_ALIGN_MODE o) s == 2 then
      wr (CKO_STAT_AERR o) err.toNat (wrB (CKO_STAT_ALIGNED o) (Nat.ble err.toInt.natAbs 1) (wr (CKO_ALIGN_GO o) 0 s))
    else s)

end Sys2Proof.Machine
end

