-- ==== Sys2Proof/Machine/Dram.lean ====
section
/-! DEFINITION. Bandwidth reservations and their guarantee, fixed-priority fall-back, and the DRAM controllers (R458, R459,
R463-R467). -/

namespace Sys2Proof.Machine

/-- Change the crossbar's part of the state. -/
def onXb (f : XbSt → XbSt) (s : State) : State := { s with xb := f s.xb }

/-! ### Reservations (R458, R459) -/

/-- Is a DRAM controller in service (R465)? -/
def drcReady (n : Nat) (s : State) : Bool := rd (DRC_STAT_STATE n) s == 2

/-- The guaranteed rate by refresh multiplier, in 64 B units per block (R458). -/
def guaranteed (mult : Nat) (s : State) : Nat :=
  let one := if mult = 0 then 15559 else if mult = 1 then 14453 else 12239
  if drcReady 0 s && drcReady 1 s then 2 * one else if drcReady 0 s then one else 0

/-- The reservation that a master's register asks for. -/
def reservation (m : Nat) (s : State) : Nat := rd (XB_MRES_RES m) s

/-- The capture writer's and the flight-recorder writer's IDs (R453). -/
def mCAP : Nat := 0x20
/-- See `mCAP`. -/
def mREC : Nat := 0x21

/-- The sum of the reservations of masters without a shed order. -/
def baseReserved (s : State) : Nat :=
  (((List.range 63).filter fun m => m != mCAP && m != mREC).map fun m => reservation m s).foldl (· + ·) 0

/-- The reservations of capture and recorder in force for a multiplier (R459). -/
def shedPair (mult : Nat) (s : State) : Nat × Nat :=
  let g := guaranteed mult s
  let a := baseReserved s
  (min (reservation mCAP s) (g - a - reservation mREC s), min (reservation mREC s) (g - a))

/-- The higher multiplier that either controller reports (R459). -/
def reportedMult (s : State) : Nat := max (rd (DRC_STAT_RMULT 0) s) (rd (DRC_STAT_RMULT 1) s)

/-- The multiplier that decides shedding: it follows a higher report at once, and a lower one after 10 s. -/
def multStep (s : State) : State :=
  let r := reportedMult s
  let k := s.tl.k.toNat
  let x := s.xb
  if x.mult ≤ r then onXb (fun q => { q with mult := r, lowSince := none }) s
  else match x.lowSince with
    | none => onXb (fun q => { q with lowSince := some k }) s
    | some b => if b + 240000 ≤ k then onXb (fun q => { q with mult := r, lowSince := none }) s else s

/-- Is the admission test passed (R458)? -/
def admitReservations (s : State) : Bool :=
  Nat.ble (baseReserved s + reservation mCAP s + reservation mREC s) (guaranteed 0 s) && Nat.ble (baseReserved s) (guaranteed 2 s)

/-- The reservation in force of a master. -/
def inForce (m : Nat) (s : State) : Nat :=
  if m = mCAP then rd XB_SHED_CAP s else if m = mREC then rd XB_SHED_FREC s else reservation m s

/-- What the crossbar does at a block boundary (R458, R459): shedding follows the multiplier, and credits refill. -/
def xbTick (s : State) : State :=
  let s1 := multStep s
  let p := shedPair s1.xb.mult s1
  let shed := Nat.blt p.1 (reservation mCAP s1) || Nat.blt p.2 (reservation mREC s1)
  let was := rdB XB_STAT_SHED s1
  let s2 := wrB XB_STAT_SHED shed (wr XB_SHED_FREC p.2 (wr XB_SHED_CAP p.1 s1))
  let s3 := onlyIf (shed && !was) (raise 93 0xB020 0) (onlyIf (!shed && was) (raise 93 0xB021 0) s2)
  let s4 := onlyIf shed (count XB_CNT2_SHED_COUNT XB_STAT_SHED_SAT 93) s3
  let s5 := wr XB_BW_RESSUM (baseReserved s4 + p.1 + p.2) (wr XB_BW_GUAR (guaranteed (reportedMult s4) s4) s4)
  onXb (fun q => { q with
    credit := (List.range 63).foldl (fun l m => mapSet (fun _ => 0) l m (inForce m s5)) [], overSeen := [] }) s5

/-! ### Fall-back (R463) and the lock of the firewall (R464) -/

/-- A crossbar fault enters fixed-priority fall-back. -/
def fallBack (s : State) : State :=
  if rdB XB_STAT_FALLBACK s then s else raise 93 0xB010 0 (wrB XB_STAT_FALLBACK true s)

/-- ARBITER_PARITY_ERROR (R463). -/
def execArbiterParityError (s : State) : Out := .next (fallBack s)

/-- FBCLR clears FALLBACK while QOSEN is 1 (R463). -/
def clearFallback (s : State) : State := if rdB XB_CTL_QOSEN s then wrB XB_STAT_FALLBACK false s else s

/-- XB_FBCLR (R463, R468): `XB_CTL` is structural, so that a write of FBCLR while the graph runs is refused. -/
def execXbFbclr (s : State) : Out := .next (if rdB SG_CTL_RUN s then wrB XB_STAT_CFGERR true s else clearFallback s)

/-- FW_LOCK (R464). -/
def execFwLock (s : State) : Out := .next (wrB FW_CTL_LOCK true s)

/-! ### Controllers (R465-R467) -/

/-- The controller that holds a byte of DRAM, by its offset (R465). -/
def drcOf (offset : Nat) (s : State) : Nat :=
  if !rdB (DRC_CFG_EN 1) s then 0
  else if rdB DRC_MAP_ILV s then offset / 256 % 2
  else if 2 * offset < rd DRC_MAP_TOP s * 1048576 then 0 else 1

/-- A row becomes a repair candidate, if it is not one (R467). -/
def repairRow (n : Nat) (e : DramErr) (s : State) : State :=
  let same := fun i => rdB (DRC_RPR_VALID n i) s && rd (DRC_RPR_RANK n i) s == e.rank.toNat && rd (DRC_RPR_BANK n i) s == e.bank.toNat &&
    rd (DRC_RPR_ROW n i) s == e.row.toNat
  if (List.range 8).any same then s
  else match (List.range 8).find? fun i => !rdB (DRC_RPR_VALID n i) s with
    | none => wrB (DRC_STAT_RPRFULL n) true s
    | some i => wr (DRC_RPR_ROW n i) e.row.toNat (wr (DRC_RPR_BANK n i) e.bank.toNat (wr (DRC_RPR_RANK n i) e.rank.toNat
        (wrB (DRC_RPR_VALID n i) true s)))

/-- Correctable errors at two different addresses of a row within 24 h make it a candidate (R467). -/
def noteCe (n : Nat) (e : DramErr) (s : State) : State :=
  let t := s.ns.toNat
  let l := s.xb.ces.filter fun c => Nat.blt t (c.2.2 + 86400000000000)
  let twice := l.any fun c => c.1 == n && c.2.1.rank == e.rank && c.2.1.bank == e.bank && c.2.1.row == e.row && c.2.1.addr != e.addr
  onlyIf twice (repairRow n e) (onXb (fun q => { q with ces := (n, e, t) :: l }) s)

/-- A DRAM error (R466): counted, recorded and logged, a correctable one at most once per second. -/
def dramError (n : Nat) (e : DramErr) (s : State) : State :=
  let a := e.addr.toNat
  let s1 := wrB (DRC_ERRADDR_HI_UE n) e.ue (wr (DRC_ERRADDR_HI_ADDR n) (a / 2 ^ 32) (wr (DRC_ERRADDR_LO_ADDR n) (a % 2 ^ 32) s))
  if e.ue then raise (94 + n) (0xB110 + n) 0 (repairRow n e (count (DRC_CNT_UE_COUNT n) (DRC_STAT_UE_SAT n) (94 + n) s1))
  else
    let s2 := noteCe n e (count (DRC_CNT_CE_COUNT n) (DRC_STAT_CE_SAT n) (94 + n) s1)
    let due := match s2.xb.ceLog.find? fun c => c.1 == n with
      | some c => Nat.ble (c.2 + 1000000000) s.ns.toNat
      | none => true
    onlyIf due (fun t => raise (94 + n) (0xB100 + n) 0 (onXb (fun q => { q with ceLog := mapInsert n s.ns.toNat q.ceLog }) t)) s2

/-- MR4_READ (R466): the multiplier that a controller reports. -/
def execMr4Read (n : Fin 2) (rmult : Fin 3) (s : State) : Out :=
  .next (if drcReady n.val s then wr (DRC_STAT_RMULT n.val) rmult.val s else s)

/-- PATROL_SCRUB (R466): a pass over the whole memory ends; the errors it met are handled as any. -/
def execPatrolScrub (n : Fin 2) (errors : List DramErr) (s : State) : Out :=
  .next (if drcReady n.val s then
    seqNext (DRC_SCRUB_PASS_SEQUENCE n.val) (forEach errors (fun e t => dramError n.val e t) s)
  else s)

end Sys2Proof.Machine
end

