-- ==== Sys2Proof/Machine/RegWrite.lean ====
section
/-! DEFINITION. Writes of registers: which are refused, with and without an error response (R563 and the rules of the blocks),
what lands (R562, R567-R571), and the commands that a write of a register starts. -/

namespace Sys2Proof.Machine

/-- What becomes of a register write: it lands; it is refused without an error response; or with one. A refusal names the
flag that it sets, if the block has one. -/
inductive Verdict where
  | land
  | refuse (flag : Option FRef)
  | error (flag : Option FRef)
  deriving DecidableEq, Repr

/-- A write that lands only if a check passes; else it is refused with this flag set. -/
def needs (ok : Bool) (flag : FRef) : Verdict := if ok then .land else .refuse (some flag)

/-- A structural write: refused with an error response while the graph runs (R139, R184, R259, R366-R367, R396, R427, R468). -/
def structural (flag : Option FRef) (ok : Verdict) (s : State) : Verdict := if rdB SG_CTL_RUN s then .error flag else ok

/-- The state after a meaning, unchanged where it gives none. -/
def afterOut (o : Out) (s : State) : State :=
  match o with
  | .next t => t
  | _ => s

/-- The word that a write leaves in the RW and RWH fields of a register, the others as they are. -/
def plainWord (a : Nat) (v old : Word) : Word := (old &&& ~~~ accMask isPlain a) ||| (v &&& accMask isPlain a)

/-! ### Pods (R101, R102, R131) -/

/-- May a task entry be enabled with this configuration word (R102)? -/
def enableOk (n p e : Nat) (cfg : Word) (s : State) : Bool :=
  let d := rd (TASK_TIME_DEADLINE n p e) s
  let b := rd (TASK_TIME_BUDGET n p e) s
  d != 0 && b != 0 && Nat.ble d 41500 && Nat.ble b 41500 &&
    (getField cfg 1 1 == 0 || (List.range 4).any fun x => rd (TASK_TRIG_TH n p e x) s != 0)

/-- Writes of pod registers (R101, R131). -/
def podVerdict (a : Nat) (v : Word) (s : State) : Verdict :=
  let n := (a - 0x40200000) / 0x10000
  let o := a % 0x10000
  let bad := POD_STAT_CFGERR n
  if o = 0x8 then needs (Nat.ble (getField v 0 8 + 3 * getField v 8 8) 256) bad
  else if o = 0xC then needs (Nat.ble (getField v 16 15) 16384) bad
  else if o = 0x18 then needs (Nat.blt (getField v 0 4) 9) bad
  else if o = 0x40 then needs (Nat.ble 4 (getField v 20 4) && Nat.ble (getField v 20 4) 10 && getField v 0 20 % 4 == 0) bad
  else if 0x1000 ≤ o ∧ o < 0xA000 then
    let t := o % 0x1000
    if t < 0x800 then
      if t % 32 < 0x18 && rdB (POD_CTL_RUN n) s then .error (some (POD_STAT_WRERR n)) else .land
    else if 0x900 ≤ t ∧ t < 0xA00 then needs (Nat.blt (getField v 8 4) 9) bad
    else .land
  else .land

/-- A task's configuration word as it lands: EN stays 0 where R102 forbids it. -/
def taskWord (a : Nat) (v : Word) (s : State) : Bool × Word :=
  let n := (a - 0x40200000) / 0x10000
  let o := a % 0x10000
  if 0x40200000 ≤ a ∧ a < 0x41000000 ∧ 0x1000 ≤ o ∧ o < 0xA000 ∧ o % 0x1000 < 0x800 ∧ o % 32 = 0 ∧ getField v 0 1 = 1 ∧
      ¬ enableOk n (o / 0x1000 - 1) (o % 0x1000 / 32) v s then (true, putField v 0 1 0)
  else (false, v)

/-- What a landed write of a pod register starts (R98, R111, R114, R120, R131). -/
def podAfter (a : Nat) (v old : Word) (s : State) : State :=
  let n := (a - 0x40200000) / 0x10000
  let o := a % 0x10000
  if o = 0x18 then (if getField v 8 1 = 1 then declareFailed n (getField v 0 4) s else s)
  else if o = 0x40 ∨ o = 0x48 then dmaKick n s
  else if o = 0x4C then (if getField v 1 1 = 1 ∧ getField old 1 1 = 1 then dmaKick n s else s)
  else if 0x1000 ≤ o ∧ o < 0xA000 ∧ o % 0x1000 < 0x800 then
    let p := o / 0x1000 - 1
    let e := o % 0x1000 / 32
    if o % 32 = 0x18 then makeReady n p e s
    else if o % 32 = 0x1C then (if getField v 0 1 = 1 then cancelTask n p e s else s)
    else s
  else s

/-! ### The graph (R133-R140, R142) -/

/-- Is an address a table word of the graph, or the bounds of a phase? -/
def isTable (a : Nat) : Bool :=
  (Nat.ble 0x41000010 a && Nat.blt a 0x41000020) ||
  (Nat.ble 0x41010000 a && Nat.blt a 0x41068000 &&
    !(Nat.ble 0x41020000 a && Nat.blt a 0x41030000 && a % 16 == 12) &&
    !(Nat.ble 0x41040000 a && Nat.blt a 0x41060000 && a % 16 == 12)) ||
  (Nat.ble 0x41080000 a && Nat.blt a 0x41308000)

/-- The bits of a table word that change through applies while the graph runs; the others are structural (R139). -/
def applyBits (a : Nat) : Word :=
  if a < 0x41020000 then 0
  else if a < 0x41030000 then (if a % 16 = 0 then 0xFC00FFF1 else if a % 16 = 8 then 0xFFFFFFFF else 0)
  else if a < 0x41040000 then 0
  else if a < 0x41050000 then 0xFFFFFFFF
  else if a < 0x41060000 then (if a % 16 = 0 then 0xE else if a % 16 = 8 then 0xFFFFFFFF else 0)
  else if a < 0x41068000 then 0xFFFFFFFF
  else if a < 0x41080000 then 0
  else if a < 0x41300000 then (if a % 8 = 0 then 0x7000 else 0xFFFFFFFF)
  else 0

/-- A write of a table word while the graph runs (R139, R140): whether it gets an error response, and what it does. -/
def queueWrite (a : Nat) (v : Word) (s : State) : Bool × State :=
  let old := rdReg a s
  let new := plainWord a v old
  if (old ^^^ new) &&& ~~~ applyBits a != 0 then (true, refuseTable s)
  else if !rdB SG_WAPPLY_CTL_EN s then (false, refuseTable s)
  else if applyBits a == 0 then (false, s)
  else if !tableLegal a new s then (false, refuseTable s)
  else
    let c : Change := { elem := .word a, value := new, apply := BitVec.ofNat 32 (rd SG_WAPPLY_BSN_BSN s) }
    (false, onGraph (fun g => { g with queue := g.queue ++ [c] }) s)

/-- A write of a table word while the graph stands (R133, R134, R138, R142, R157, R208). -/
def tableWrite (a : Nat) (v : Word) (s : State) : State :=
  let new := plainWord a v (rdReg a s)
  if !tableLegal a new s then refuseTable s
  else if changesBreach [(a, new)] s && !changesBreach [] s then refuseTaint s
  else wrReg a new s

/-! ### Other blocks -/

/-- Writes of modulator and rail registers (R259). -/
def modVerdict (a : Nat) (v old : Word) (s : State) : Verdict :=
  if a < 0x43012000 then
    let c := (a - 0x43000000) / 0x400
    if a % 0x400 < 8 then structural (some (MOD_STAT_CFGERR c)) .land s else .land
  else if a < 0x43030000 then
    let g := (a - 0x43020000) / 0x40
    if a % 0x40 < 12 then structural (some (MODG_STAT_CFGERR g)) .land s else .land
  else if a = 0x43030000 then
    if (v ^^^ old) &&& accMask isPlain a &&& 0xFFFFFFFE != 0 then structural none .land s else .land
  else if 0x43100000 ≤ a ∧ a < 0x43100800 ∧ a % 0x100 < 12 then
    structural (some (RAIL_STAT_CFGERR ((a - 0x43100000) / 0x100))) .land s
  else .land

/-- Is a sense register locked while the chain runs (R275)? -/
def senseLocked (a : Nat) : Bool :=
  (Nat.ble 0x43200100 a && Nat.blt a 0x43200140) || (Nat.ble 0x43201000 a && Nat.blt a 0x43202300 && a % 32 < 16) ||
    Nat.ble 0x43204000 a

/-- Is a Rook register a configuration register, locked in ARMED (R284)? -/
def rookConfig (a : Nat) : Bool :=
  a == 0x4F000008 || a == 0x4F00000C || a == 0x4F000010 || a == 0x4F000028 ||
    (Nat.ble 0x4F001000 a && Nat.blt a 0x4F002200 && a % 64 < 0x20) ||
    (Nat.ble 0x4F003000 a && Nat.blt a 0x4F003280 && a % 16 == 4)

/-- Is a capture source code one of the table of R352? -/
def sourceCode (c : Nat) : Bool := Nat.blt c 6 || (Nat.ble 8 c && Nat.blt c 0xE) || (Nat.ble 0x10 c && Nat.blt c 0x34)

/-- Writes of timebase, PTP, capture and trigger registers (R339, R342, R352, R354, R366). -/
def timeVerdict (a : Nat) (v old : Word) (s : State) : Verdict :=
  let bad := TB_STAT_CFGERR
  if a = TB_SET_CTL_GO.addr then (if getField v 0 1 = 1 ∧ tlRun s then .error (some bad) else .land)
  else if 0x45000100 ≤ a ∧ a < 0x45000180 ∧ a % 0x40 = 0 then
    structural (some bad) (needs (Nat.blt (getField v 1 3) 5 && Nat.blt (getField v 16 3) 5) bad) s
  else if 0x45001000 ≤ a ∧ a < 0x45001200 ∧ a % 0x40 = 0 then
    let ok := needs (Nat.blt (getField v 1 4) 13 && getField v 9 2 != 3) bad
    if (v ^^^ old) &&& 0x61E != 0 then structural (some bad) ok s else ok
  else if 0x45002000 ≤ a ∧ a < 0x45002400 ∧ a % 32 = 0 then
    needs (getField v 1 2 != 3 && sourceCode (getField v 8 7)) bad
  else if 0x45003000 ≤ a ∧ a < 0x45003400 then
    let t := (a - 0x45003000) / 32
    let ok := fun (ns frac : Nat) => Nat.ble 64 ns || (ns == 0 && frac == 0)
    if a % 32 = 0x10 then needs (ok v.toNat (rd (TRG_PER_FRAC_FRAC t) s)) bad
    else if a % 32 = 0x14 then needs (ok (rd (TRG_PER_NS_NS t) s) v.toNat) bad
    else .land
  else .land

/-- Writes of DPLL, reference and clock-output registers (R367). -/
def dpllVerdict (a : Nat) (v : Word) (s : State) : Verdict :=
  let bad := DPLL_STAT_CFGERR
  if a = DPLL_CTL_BW.addr then needs (Nat.blt (getField v 0 3) 5) bad
  else if 0x45100100 ≤ a ∧ a < 0x45100180 ∧ a % 16 = 0 then structural (some bad) .land s
  else if 0x45100200 ≤ a ∧ a < 0x451002C0 then
    if a % 32 < 8 then structural (some bad) .land s
    else if a % 32 = 8 then needs (getField v 0 2 != 3 && sourceCode (getField v 8 7)) bad
    else .land
  else .land

/-- May a lane's configuration word stand (R368, R370)? -/
def laneLegal (n : Nat) (v : Word) (s : State) : Bool :=
  let mode := getField v 0 4
  let mac := getField v 4 4
  Nat.ble mode 8 && (Nat.blt mac 12 || mac == 15) &&
    (if 1 ≤ mode ∧ mode ≤ 5 then
      mac == 15 || (List.range 16).all fun o => o == n || rd (LN_CFG_MAC o) s != mac
     else mac == 15)

/-- Writes of lane registers (R368, R370, R377, R384, R396). -/
def laneVerdict (a : Nat) (v : Word) (s : State) : Verdict :=
  let n := (a - 0x44000000) / 0x1000
  let o := a % 0x1000
  let bad := LN_STAT_CFGERR n
  if 0x44010000 ≤ a then .land
  else if o = 0 then structural (some bad) (needs (laneLegal n v s) bad) s
  else if o = 0x28 then structural (some bad) .land s
  else if o = 0x2C then structural (some bad) (needs (getField v 0 2 != 3) bad) s
  else if o = 0xC then needs (Nat.ble (getField v 0 4 + getField v 8 5) 32) bad
  else if o = 0x18 then needs (getField v 8 7 != 64) (LN_STAT_ESCERR n)
  else .land

/-- Writes of MAC registers, with the offset in the MAC's block and its CFGERR (R405, R406, R427). -/
def macVerdict (o : Nat) (bad : FRef) (v : Word) (s : State) : Verdict :=
  if o < 0x30 then structural (some bad) .land s
  else if o = 0x30 then structural (some bad) (needs (getField v 0 1 == 0 || getField v 8 8 == 0) bad) s
  else if 0x40 ≤ o ∧ o < 0x60 then structural (some bad) (needs (getField v 0 1 == 0 || getField v 1 1 == 0) bad) s
  else .land

/-- Writes of a MAC's MACsec registers (R428). -/
def secVerdict (a : Nat) (v : Word) (s : State) : Verdict :=
  let bad := ETH_STAT_CFGERR ((a - 0x44300000) / 0x200)
  let o := a % 0x200
  if o = 0 then structural (some bad) (needs (getField v 1 2 != 3) bad) s
  else if o = 4 ∨ o = 8 ∨ (0x40 ≤ o ∧ o < 0xC0) then structural (some bad) .land s
  else .land

/-- Writes of field-bus registers (R431, R438). -/
def fbVerdict (a : Nat) (v : Word) (s : State) : Verdict :=
  let bad := FB_STAT_CFGERR ((a - 0x44400000) / 0x100)
  if 0x44401000 ≤ a then .land
  else if a % 0x100 = 0 then
    structural (some bad) (needs (getField v 1 1 == 0 || getField v 8 8 != 0 || Nat.ble 2 (getField v 16 8)) bad) s
  else if a % 0x100 = 4 then structural (some bad) .land s
  else .land

/-- Are a port's masks within its slots (R443)? -/
def masksFit (slots : Nat) (rx tx : Word) : Bool := Nat.blt rx.toNat (2 ^ slots) && Nat.blt tx.toNat (2 ^ slots)

/-- Writes of TDM registers (R443, R452). -/
def tdmVerdict (a : Nat) (v : Word) (s : State) : Verdict :=
  let p := (a - 0x46000000) / 0x400
  let bad := TDM_STAT_CFGERR p
  let rate := rd (BRG_CFG_LRATE (2 * p)) s
  let cfg := rdReg (TDM_CFG_EN p).addr s
  let fs := rdReg (TDM_FS_FSW p).addr s
  let rx := rdReg (TDM_RXMASK_MASK p).addr s
  let tx := rdReg (TDM_TXMASK_MASK p).addr s
  let o := a % 0x400
  if o = 0 then structural (some bad) (needs (tdmLegal v fs rate && masksFit (getField v 8 6) rx tx) bad) s
  else if o = 4 then structural (some bad) (needs (tdmLegal cfg v rate) bad) s
  else if o = 8 ∨ o = 12 then structural (some bad) (needs (masksFit (getField cfg 8 6) v 0) bad) s
  else .land

/-- Writes of crossbar, firewall and DRAM-controller registers (R456, R464, R468, R469). -/
def xbVerdict (a : Nat) (v : Word) (s : State) : Verdict :=
  if a < 0x48100000 then
    let bad := XB_STAT_CFGERR
    if a = 0x48000000 then structural (some bad) .land s
    else if 0x48000100 ≤ a ∧ a < 0x480004F0 ∧ a % 16 = 0 then
      let m := (a - 0x48000100) / 16
      structural (some bad) (needs (m == 4 || m == 0xA || (getField v 0 4 != 15 && getField v 4 4 != 15)) bad) s
    else if 0x48000100 ≤ a ∧ a < 0x480004F0 ∧ a % 16 = 4 then structural (some bad) .land s
    else if 0x48001000 ≤ a ∧ a < 0x48001800 then needs (!rdB FW_CTL_LOCK s) bad
    else .land
  else if a = 0x48102000 then structural (some (DRC_STAT_CFGERR 0)) .land s
  else if a % 0x1000 = 0 then
    let n := (a - 0x48100000) / 0x1000
    structural (some (DRC_STAT_CFGERR n)) (needs (getField v 1 2 != 3) (DRC_STAT_CFGERR n)) s
  else .land

/-- Fields of which a table gives a range of values or of codes, with the least and the greatest (R131, R230, R233, R260, R276,
R305, R308, R337, R366, R367, R396, R427, R468, R469, R497, R531); a value outside is a reserved code (R563, log entry 59:
DEDUCED). The field of each is that of the first register of its kind. -/
def valueRanges : List (FRef × Nat × Nat) := [
  (TASK_OUT_OUT_NUM 0 0 0, 0, 512), (TASK_REPAIR_MIG_N 0 0 0, 1, 15), (TASK_REPAIR_MIG_M 0 0 0, 1, 255),
  (MOD_CFG_MINPW 0, 10, 255), (MOD_VFS_VFS 0, 1, 20000), (MODG_CFG_CARRIER 0, 0, 2), (MODG_WAKE_WAKE 0, 1, 100),
  (MODG_WAKE_PRECHG 0, 0, 50), (MODG_WAKE_IDLE_DLY 0, 1, 60000), (MODG_START_ZSET 0, 1, 255),
  (MODG_START_MUTERAMP 0, 0, 2000), (MODG_START_STARTRAMP 0, 0, 2000), (MOD_GCTL_DIV, 0, 72), (MOD_GCTL_SPRATE, 5, 40),
  (RAIL_HOLD_HOLD 0, 0, 60000), (SNS_SETCFG_TAPS 0, 0, 384)] ++ [
  (ROOK_SFCFG_FN2, 0, 5), (ROOK_SFCFG_FN3, 0, 5), (ROOK_TIMES_EMRAMP, 1, 255), (ROOK_TIMES_PAXF, 1, 255),
  (ROOK_TIMES_RLYON, 1, 255), (ROOK_WD_TWD, 1, 15), (ROOK_WD_CWDMS, 10, 255), (ROOK_RETRY_OCMAX, 1, 15),
  (ROOK_RETRY_FLTMAX, 1, 15), (ROOK_CH_DC_DCPERS 0, 1, 10000), (ROOK_CH_DC_DCF 0, 1, 100), (ROOK_CH_TLIM_TKNEE 0, 1, 255)] ++ [
  (DRN_CFG_LEASE, 3, 240), (DRN_CFG_SHOLD, 1, 15), (DRN_CFG2_CLEAD, 12, 240), (DRN_CFG2_PKSLOT, 48, 63),
  (TB_CTL_PPSSRC, 0, 5), (TB_CTL_SLEW, 1, 10), (TB_CTL_WTR, 1, 255), (TB_CTL_ACQTO, 1, 255), (TB_DCFG_DOMAIN 0, 0, 127),
  (DPLL_CTL_WTR, 1, 255), (REF_QUAL_QUALPPM 0, 1, 1000), (REF_QUAL_QUALT 0, 1, 255), (CKO_DIV_DIV 0, 2, 16777215),
  (LN_TEST_RATE 0, 50, 1125), (ETH_CFG_MAXLEN 0, 1518, 9216), (ETH_CFG_MAXLEN 12, 1518, 9216), (ETH_TSN_LTOL 0, 0, 10000),
  (ETH_TSN_LTOL 12, 0, 10000), (XB_CTL_AGE_STEP, 1, 65535), (XB_TIMEOUT_TO, 1, 65535), (XB_MCFG_TAGS 0, 1, 8192),
  (DRC_SCRUB_PERIOD 0, 1, 255), (FL_CTL_LOGFLUSH, 10, 255), (KS_SEAL_P_LEN 0, 0, 16384), (PWR_CFG_QDLY, 1, 3600),
  (PWR_AVS_VSET, 720, 800), (PWR_ENT_CFG_TIMEOUT 0, 1, 255)]

/-- Does a word hold a value inside its range in every field that has one? A priority gain is at most 0 dB (R308). -/
def inRanges (a : Nat) (v : Word) : Bool :=
  match rowOf a with
  | none => true
  | some r =>
    (valueRanges.all fun e => e.1.addr != r.base ||
      (Nat.ble e.2.1 (getField v e.1.lo e.1.w) && Nat.ble (getField v e.1.lo e.1.w) e.2.2)) &&
    (r.base != (ROOK_CH_PA_PAGAIN 0).addr || toSigned 16 (getField v 12 16) ≤ 0)

/-- The CFGERR flag of a register's block, where it has one (R563). -/
def cfgErrOf (a : Nat) : Option FRef :=
  if a < 0x40200000 then none
  else if a < 0x41000000 then some (POD_STAT_CFGERR ((a - 0x40200000) / 0x10000))
  else if a < 0x42000000 then some SG_STAT_CFGERR
  else if a < 0x43000000 then some (BRG_STAT_CFGERR ((a - 0x42000000) / 0x40))
  else if a < 0x43020000 then some (MOD_STAT_CFGERR ((a - 0x43000000) / 0x400))
  else if a < 0x43030000 then some (MODG_STAT_CFGERR ((a - 0x43020000) / 0x40))
  else if a < 0x43100000 then none
  else if a < 0x43200000 then some (RAIL_STAT_CFGERR ((a - 0x43100000) / 0x100))
  else if a < 0x44000000 then some SNS_STAT_CFGERR
  else if a < 0x44100000 then some (LN_STAT_CFGERR ((a - 0x44000000) / 0x1000))
  else if a < 0x44200000 then some (ETH_STAT_CFGERR ((a - 0x44100000) / 0x400))
  else if a < 0x44500000 then none
  else if a < 0x45000000 then some (ETH_STAT_CFGERR 12)
  else if a < 0x45100000 then some TB_STAT_CFGERR
  else if a < 0x46000000 then some DPLL_STAT_CFGERR
  else if a < 0x47000000 then none
  else if a < 0x48000000 then some DRN_STAT_CFGERR
  else if a < 0x48100000 then some XB_STAT_CFGERR
  else if a < 0x49000000 then some (DRC_STAT_CFGERR ((a - 0x48100000) / 0x1000))
  else if a < 0x4A000000 then some FL_STAT_CFGERR
  else none

/-- What becomes of a write, by the rules of the register's block, its value aside. -/
def blockVerdict (a : Nat) (v old : Word) (s : State) : Verdict :=
  if a < 0x40200000 then .land
  else if a < 0x41000000 then podVerdict a v s
  else if a < 0x42000000 then .land
  else if a < 0x43000000 then
    let b := (a - 0x42000000) / 0x40
    if a < 0x42001000 ∧ a % 0x40 = 0 then
      structural (some (BRG_STAT_CFGERR b)) (needs (Nat.blt (getField v 1 2) 2 && Nat.blt (getField v 4 3) 6) (BRG_STAT_CFGERR b)) s
    else .land
  else if a < 0x43200000 then modVerdict a v old s
  else if a < 0x44000000 then (if senseLocked a && rdB SNS_CTL_RUN s then .error (some SNS_STAT_CFGERR) else .land)
  else if a < 0x44100000 then laneVerdict a v s
  else if a < 0x44200000 then macVerdict ((a - 0x44100000) % 0x400) (ETH_STAT_CFGERR ((a - 0x44100000) / 0x400)) v s
  else if a < 0x44300000 then .land
  else if a < 0x44400000 then secVerdict a v s
  else if a < 0x44500000 then fbVerdict a v s
  else if a < 0x45000000 then
    (if a = 0x44500400 then structural (some (ETH_STAT_CFGERR 12)) .land s else macVerdict (a - 0x44500000) (ETH_STAT_CFGERR 12) v s)
  else if a < 0x45100000 then timeVerdict a v old s
  else if a < 0x46000000 then dpllVerdict a v s
  else if a < 0x47000000 then tdmVerdict a v s
  else if a < 0x48000000 then (if a < 0x4700000C then structural (some DRN_STAT_CFGERR) .land s else .land)
  else if a < 0x49000000 then xbVerdict a v s
  else if a < 0x4A000000 then .land
  else if a < 0x4B000000 then
    (if 0x4A001000 ≤ a ∧ a < 0x4A001900 ∧ a % 16 < 12 ∧ rdB (KS_SEAL_CTL_LOCK ((a - 0x4A001000) / 16)) s then .error none else .land)
  else if a < 0x4C000000 then .land
  else if a < 0x4F000000 then
    (if 0x4C001000 ≤ a ∧ a % 16 = 4 ∧ getField v 0 1 = 1 ∧ aonIsland ((a - 0x4C001000) / 16) then .error none else .land)
  else (if rookConfig a && rookLocked s then .refuse (some ROOK_STAT_CFGLOCK) else .land)

/-- What becomes of a write, a reserved code in a field refused (R563). -/
def verdict (a : Nat) (v old : Word) (s : State) : Verdict :=
  match blockVerdict a v old s with
  | .land => if inRanges a v then .land else .refuse (cfgErrOf a)
  | w => w

/-! ### What a landed write starts -/

/-- A GO of the key store whose command needs nothing from outside; the others follow as their own commands (R229). -/
def ksAfter (v : Word) (s : State) : State :=
  let op := getField v 0 8
  if getField v 31 1 = 0 then s
  else if op = 6 then afterOut (execKsSlotClear ⟨getField v 8 6 % 64, Nat.mod_lt _ (by decide)⟩ s) s
  else if op = 7 then afterOut (execKsZeroise s) s
  else if op = 0xA then afterOut (execKsRandom s) s
  else afterOut (execKsBadOp (BitVec.ofNat 8 op) s) s

/-- A GO of the flash manager; FORMAT follows as its own command, since its descriptor comes from outside (R497). -/
def flAfter (v : Word) (s : State) : State :=
  let op := getField v 0 8
  let arg := getField v 8 1
  let slot : Fin 2 := if arg = 1 then 1 else 0
  if getField v 31 1 = 0 then s
  else if op = 1 then afterOut (execImgWrite slot s) s
  else if op = 2 then afterOut (execImgRead slot s) s
  else if op = 3 then afterOut (execFlLogRead s) s
  else if op = 4 then afterOut (execCapDelete s) s
  else if op = 5 then afterOut (execCapProtect (arg == 1) s) s
  else if op = 7 then afterOut (execScanNow s) s
  else if op = 8 then afterOut (execFlLife s) s
  else afterOut (execFlBadOp (BitVec.ofNat 8 op) s) s

/-- What a landed write of a timebase register starts (R339, R353-R355). -/
def timeAfter (a : Nat) (v old : Word) (s : State) : State :=
  if a = TB_SET_CTL_GO.addr then (if getField v 0 1 = 1 then afterOut (execTbSetGo s) s else s)
  else if 0x45002000 ≤ a ∧ a < 0x45002400 ∧ a % 32 = 0x14 then
    (if getField v 0 1 = 1 then afterOut (execCapPop ⟨(a - 0x45002000) / 32 % 32, Nat.mod_lt _ (by decide)⟩ s) s else s)
  else if 0x45003000 ≤ a ∧ a < 0x45003400 then
    let t := (a - 0x45003000) / 32 % 32
    if a % 32 = 0 then
      (if getField v 0 1 = 1 ∧ getField old 0 1 = 0 then
        afterOut (execTriggerArm ⟨t, Nat.mod_lt _ (by decide)⟩ (wrB (TRG_CFG_EN t) false s)) s else s)
    else if a % 32 = 8 ∨ a % 32 = 12 then setTrg t { getTrg t s with fired := false } s
    else s
  else s

/-- What a landed write of a DPLL register starts (R361, R363, R364). -/
def dpllAfter (a : Nat) (v old : Word) (s : State) : State :=
  if a = DPLL_CTL_OPEN.addr then
    (if getField v 5 1 = getField old 5 1 then s
     else afterOut (execDpllOpen (getField v 5 1 == 1) (freeVal 24 s) (freeNext s)) s)
  else if 0x45100200 ≤ a ∧ a < 0x451002C0 then
    let o : Fin 6 := ⟨(a - 0x45100200) / 32 % 6, Nat.mod_lt _ (by decide)⟩
    if a % 32 = 0 then afterOut (execCkoutModeWrite o ⟨getField v 0 2 % 4, Nat.mod_lt _ (by decide)⟩ s) s
    else if a % 32 = 8 then (if getField v 15 1 = 1 then afterOut (execCkoAlignGo o s) s else s)
    else s
  else s

/-- What a landed write of a lane register starts (R377, R383, R384, R386, R392, R396). -/
def laneAfter (a : Nat) (v old : Word) (s : State) : State :=
  let n : Fin 16 := ⟨(a - 0x44000000) / 0x1000 % 16, Nat.mod_lt _ (by decide)⟩
  let o := a % 0x1000
  if 0x44010000 ≤ a then s
  else if o = 0 then (if getField v 0 8 = getField old 0 8 then s else bringUp n.val s)
  else if o = 4 then
    let s1 := if getField v 0 1 = 1 then afterOut (execLnCtlRestart n s) s else s
    let s2 := if getField v 1 1 = 1 then afterOut (execLnCtlFail n s1) s1 else s1
    let s3 := if getField v 2 1 = 1 then afterOut (execLnCtlClear n s2) s2 else s2
    if getField v 3 1 = 1 then afterOut (execLnCtlPreset n s3) s3 else s3
  else if o = 0xC then wr (LN_TXEQ_MAIN n.val) (64 - rd (LN_TXEQ_PRE n.val) s - rd (LN_TXEQ_POST n.val) s) s
  else if o = 0x18 then
    (if getField v 31 1 = 1 then
      afterOut (execEyeScanGo n (BitVec.ofNat 6 (getField v 0 6)) (BitVec.ofNat 7 (getField v 8 7)) (BitVec.ofNat 4 (getField v 16 4)) s) s
     else s)
  else s

/-- What a landed write of a stream table register starts (R420). -/
def streamAfter (a : Nat) (v : Word) (s : State) : State :=
  if a < 0x44208000 then
    let i : Fin 512 := ⟨(a - 0x44200000) / 64 % 512, Nat.mod_lt _ (by decide)⟩
    if a % 64 < 0x2C then showStreamPend true i.val s
    else if a % 64 = 0x2C ∧ getField v 0 1 = 1 then afterOut (execSinCommit i s) s
    else s
  else if a < 0x44210000 then
    let e : Fin 512 := ⟨(a - 0x44208000) / 64 % 512, Nat.mod_lt _ (by decide)⟩
    if a % 64 < 0x2C then showStreamPend false e.val s
    else if a % 64 = 0x2C ∧ getField v 0 1 = 1 then afterOut (execSoutCommit e s) s
    else s
  else s

/-- What a landed write of a pair register starts (R333, R323). -/
def pairAfter (a : Nat) (v : Word) (s : State) : State :=
  if a = 0x4700000C then
    let s1 := if getField v 0 1 = 1 then afterOut (execDrnCastle s) s else s
    if getField v 2 1 = 1 then afterOut (execDrnResync s1) s1 else s1
  else if a < 0x4700000C then pairDerive s
  else s

/-- What a landed write starts: the commands of SC and WO fields, and what follows a change of a setting. -/
def writeAfter (m : Nat) (user : Bool) (a : Nat) (v old : Word) (s : State) : State :=
  if a = TEMPO_POP_POP.addr then (if getField v 0 1 = 1 then afterOut (execTempoPop s) s else s)
  else if a < 0x40200000 then s
  else if a < 0x41000000 then podAfter a v old s
  else if a = SG_WAPPLY_CTL_EN.addr then
    let s1 := if getField v 0 1 = getField old 0 1 then s else onGraph (fun g => { g with queue := [] }) s
    if getField v 1 1 = 1 then afterOut (execSgWapplyCommit s1) s1 else s1
  else if a < 0x43200000 then
    (if a = MOD_GCTL_RUN.addr ∧ getField v 0 1 = 1 ∧ getField old 0 1 = 0 then afterOut (execCarrierGridStart s) s else keepWord a old s)
  else if a = SNS_CTL_RUN.addr then
    (if getField v 0 1 = 1 ∧ getField old 0 1 = 0 then senseRun (wrB SNS_CTL_RUN false s) else s)
  else if a < 0x43201000 then (if 0x43200100 ≤ a ∧ a % 8 = 0 then computeGd ((a - 0x43200100) / 8) s else s)
  else if a < 0x44000000 then s
  else if a < 0x44100000 then laneAfter a v old s
  else if a < 0x44200000 then s
  else if a < 0x44300000 then streamAfter a v s
  else if 0x44400000 ≤ a ∧ a < 0x44401000 ∧ a % 0x100 = 0x20 then
    (if getField v 31 1 = 1 then
      afterOut (execFbTxGo ⟨(a - 0x44400000) / 0x100 % 4, Nat.mod_lt _ (by decide)⟩ (BitVec.ofNat 11 (getField v 0 11))
        (freeVal 1 s == 1) (freeNext s)) s
     else s)
  else if a < 0x45000000 then s
  else if a < 0x45100000 then timeAfter a v old s
  else if a < 0x46000000 then dpllAfter a v old s
  else if a < 0x47000000 then
    let p := (a - 0x46000000) / 0x400
    if a % 0x400 = 0 then (if getField v 0 1 = getField old 0 1 then s else tdmEnable p (getField v 0 1 == 1) s)
    else if a % 0x400 = 0x10 ∧ getField v 0 1 = 1 then afterOut (execTdmResync ⟨p % 32, Nat.mod_lt _ (by decide)⟩ s) s
    else s
  else if a < 0x48000000 then pairAfter a v s
  else if a = 0x48000000 then (if getField v 1 1 = 1 then clearFallback s else s)
  else if a = FL_JOB_CTL_GO.addr then flAfter v s
  else if a = KS_CMD_GO.addr then ksAfter v s
  else if 0x4A001000 ≤ a ∧ a < 0x4A001900 ∧ a % 16 = 12 then
    (if getField v 0 1 = 1 then afterOut (execSealLock ⟨(a - 0x4A001000) / 16 % 144, Nat.mod_lt _ (by decide)⟩ s) s else s)
  else if a = PWR_CTL_STANDBY.addr then
    let s1 := if getField v 0 1 = 1 then afterOut (execPwrStandby s) s else s
    let s2 := if getField v 1 1 = 1 then afterOut (execPwrRun s1) s1 else s1
    if getField v 2 1 = 1 then afterOut (execPwrRestart s2.pawn.copies s2) s2 else s2
  else if 0x4C001000 ≤ a ∧ a < 0x4C002130 ∧ a % 16 = 4 ∧ getField v 0 1 = 1 then beginReset ((a - 0x4C001000) / 16) s
  else if a = FEU_RAISE_CODE.addr then (feuRaise (getField v 0 16) m user s).2
  else s

/-! ### The write -/

/-- Registers whose fields only their own operation sets: `DPLL_FREQ` while the loop is closed (R361), a transmit command and a
scan (their fields go with GO). -/
def landPlain (a : Nat) (v : Word) (s : State) : State :=
  if a = DPLL_FREQ_FREQ.addr then afterOut (execDpllFreqWrite v s) s
  else if a = FEU_RAISE_CODE.addr then s
  else if 0x44000000 ≤ a ∧ a < 0x44010000 ∧ a % 0x1000 = 0x18 ∧ getField v 31 1 = 1 then s
  else if a = FL_JOB_CTL_GO.addr ∧ getField v 31 1 = 1 then s
  else softWrite a v s

/-- Does a write meet a hardware update of an RWH field (R567)? The trigger targets are the exception (R355). -/
def collides (met : Bool) (a : Nat) : Bool :=
  met && accMask (· == .rwh) a != 0 && !(Nat.ble 0x45003000 a && Nat.blt a 0x45003400)

/-- The hardware value of an RWH field stands, and the collision is recorded (R567, R568). -/
def recordCollision (a : Nat) (s : State) : State :=
  wr (ISL_COLL_ADDR (islandOf a)) (a % 2 ^ 28) (wrB (ISL_STAT_COLLIDE (islandOf a)) true s)

/-- A write of the register at an address of a span by a master, the firewall passed (R562-R564): whether it gets an error
response, and what it does. -/
def performWrite (m : Nat) (user met : Bool) (a : Nat) (v : Word) (s : State) : Bool × State :=
  let old := rdReg a s
  if 0x44418000 ≤ a ∧ a < 0x4441A000 then
    (false, onFb (fun f => { f with tx := (List.range 4).foldl (fun l i =>
      mapSet (fun _ => 0) l (a + i) (v.extractLsb' (8 * i) 8)) f.tx }) s)
  else if (rowOf a).isNone then (false, s)
  else if isTable a then (if rdB SG_CTL_RUN s then queueWrite a v s else (false, tableWrite a v s))
  else if a = FEU_RAISE_CODE.addr ∧ getField v 12 4 ≠ 0xF then (true, (feuRaise (getField v 0 16) m user s).2)
  else
    match verdict a v old s with
    | .error f =>
      let s1 := match f with | some g => wrB g true s | none => s
      (true, onlyIf (senseLocked a && Nat.ble 0x43200000 a && Nat.blt a 0x43208000) (logRefusal 3 m true user a) s1)
    | .refuse f => (false, match f with | some g => wrB g true s | none => s)
    | .land =>
      let t := taskWord a v s
      let hit := collides met a
      let w := if hit then (t.2 &&& ~~~ accMask (· == .rwh) a) ||| (old &&& accMask (· == .rwh) a) else t.2
      let s1 := onlyIf t.1
        (wrB (POD_STAT_CFGERR ((a - 0x40200000) / 0x10000)) true) (landPlain a w s)
      (false, writeAfter m user a w old (onlyIf hit (recordCollision a) s1))

/-- A write of one word to register space by a master (R454, R464, R558-R568, R578): whether it gets an error response, and
what it does. -/
def registerWrite (m : Nat) (user met : Bool) (a : Nat) (v : Word) (s : State) : Bool × State :=
  match fwRefusal m true user a s with
  | some d => (true, logRefusal d m true user a s)
  | none =>
    if a % 4 != 0 || (blockOf a).isNone then (true, decodeError m a s)
    else
      let r := islandError a s
      if r.1 then (true, r.2) else performWrite m user met a v r.2

/-- Is an address in register space (R558)? -/
def inRegSpace (a : Nat) : Bool := Nat.ble 0x40000000 a && Nat.blt a 0x50000000

/-- REGISTER_WRITE (R562): a master writes a word; `met`: the write falls in the cycle of a hardware update of an RWH field
of the register (R566, R567), whose value already stands. -/
def execRegisterWrite (master : BitVec 6) (user met : Bool) (addr v : BitVec 32) (s : State) : Out :=
  if inRegSpace addr.toNat then .next (registerWrite master.toNat user met addr.toNat v s).2 else .fault .illFormed

end Sys2Proof.Machine
end

