-- ==== Sys2Proof/Machine/Start.lean ====
section
/-! DEFINITION. From the vendor runtime to audio start (R516-R529): training and repairs, the admission of a configuration
slot, the loader, NOIMAGE, and the start of audio. -/

namespace Sys2Proof.Machine

/-! ### Slots (R517, R526) -/

/-- The island that logs boot faults: CC0's. -/
def islBoot : Nat := 261

/-- May a slot be tried (R517, R526): committed, its TRIED bit clear, not failed at this start? -/
def slotOpen (i : Nat) (s : State) : Bool :=
  (getSlot i s).committed && !rdB (bitOf PWR_BOOT_TRIED i) s && !s.pawn.failed.contains i

/-- The slots in their order (R517): the higher SEQ first; while FAILS is 3 or more the slot named by SLOT goes second. -/
def slotOrder (s : State) : List Nat :=
  if 3 ≤ rd PWR_BOOT_FAILS s then (if rd PWR_BOOT_SLOT s = 0 then [1, 0] else [0, 1])
  else if serialLater 32 (getSlot 1 s).seq.toNat (getSlot 0 s).seq.toNat then [1, 0] else [0, 1]

/-- The slot to try next. -/
def nextSlot (s : State) : Option Nat := (slotOrder s).find? fun i => slotOpen i s

/-- NOIMAGE (R526): FAULT is asserted and detail 0x060 logged; Rook stays in the hardware safe state. -/
def noImage (s : State) : State := wrB PWR_BOOT_NOIMAGE true (wrB PWR_STAT_FAULT true (raise islBoot 0x2060 0 s))

/-- With no slot left the engine enters NOIMAGE (R526). -/
def noSlotLeft (s : State) : State := if (nextSlot s).isNone then noImage s else s

/-! ### The vendor runtime (R465, R467, R472, R516) -/

/-- A row listed for repair is repaired before DRAM enters service (R467): entry `i` of its controller shows it. -/
def repairListed (i : Nat) (r : Nat × Nat × Nat × Nat) (ok : Bool) (s : State) : State :=
  let n := r.1
  let s1 := wr (DRC_RPR_ROW n i) r.2.2.2 (wr (DRC_RPR_BANK n i) r.2.2.1 (wr (DRC_RPR_RANK n i) r.2.1 (wrB (DRC_RPR_VALID n i) true s)))
  raise (94 + n) ((if ok then 0xB120 else 0xB130) + n) 0 (wrB (DRC_RPR_FAILED n i) (!ok) (wrB (DRC_RPR_DONE n i) ok s1))

/-- The listed rows of a controller, in their order, with what came of each. -/
def repairAll (n : Nat) (results : List Bool) (s : State) : State :=
  let rows := (s.flash.repairs.zip results).filter fun e => e.1.1 == n
  forEach (rows.zip (List.range 8)) (fun e t => repairListed e.2 e.1.1 e.1.2 t) s

/-- A controller has trained or failed (R465, R516). -/
def trainDrc (n : Nat) (ok : Bool) (s : State) : State :=
  if ok then wr (DRC_STAT_STATE n) 2 s
  else raise islBoot (0x2070 + n) 0 (raise (94 + n) (0xB140 + n) 0 (wr (DRC_STAT_STATE n) 3 s))

/-- `DRC_MAP.TOP` in MiB: seven eighths of the capacity in service, of `2 ^ (DENS + 1)` GiB per controller (R466). -/
def showTop (dens : Nat) (s : State) : State :=
  let n := (if drcReady 0 s then 1 else 0) + (if drcReady 1 s then 1 else 0)
  wr DRC_MAP_TOP (n * 2 ^ (dens + 1) * 896) s

/-- DRAM enters service (R465, R516): without DRC1 the engine runs on DRC0 alone, ILV clear. -/
def trainDram (fit1 ranks : Bool) (dens : Nat) (ok0 ok1 : Bool) (repaired : List Bool) (s : State) : State :=
  let cfg := fun n t => wr (DRC_CFG_DENS n) dens (wrB (DRC_CFG_RANKS n) ranks (wrB (DRC_CFG_EN n) true t))
  let s1 := trainDrc 0 ok0 (cfg 0 s)
  let s2 := if fit1 then trainDrc 1 ok1 (cfg 1 s1) else s1
  let s3 := if fit1 && ok1 then s2 else wrB DRC_MAP_ILV false (wrB (DRC_CFG_EN 1) false s2)
  onFl (fun f => { f with repairs := [] }) (showTop dens (repairAll 1 repaired (repairAll 0 repaired s3)))

/-- A flash channel trains (R472): one step back at a time, each logged; one that fails at 400 MT/s is FAILED. -/
def trainFlc (t : FlcTrain) (s : State) : State :=
  let c := t.chan.val
  let s1 := wr (FLC_CFG_CEMASK c) t.ceMask.toNat (wrB (FLC_CFG_EN c) true s)
  let s2 := forEach (List.range t.steps.val) (fun _ u => raise (97 + c) (0xC400 + c) 0 u) s1
  if t.ok then wr (FLC_STAT_STATE c) 2 (wr (FLC_CFG_RATE c) (t.rate.val - t.steps.val) s2)
  else raise (97 + c) (0xC410 + c) 0 (wr (FLC_STAT_STATE c) 3 s2)

/-- VENDOR_RUNTIME_START (R516): DRAM trains and rows are repaired, the flash manager starts, then the owner runtime. The
operands say what is fitted, how training and repairs end. -/
def execVendorRuntimeStart (fit1 ranks : Bool) (dens : Fin 4) (ok0 ok1 : Bool) (repaired : List Bool) (flash : List FlcTrain) (s : State) : Out :=
  .next (if s.pawn.booted && rd FL_STAT_STATE s == 0 then
    let s1 := trainDram fit1 ranks dens.val ok0 ok1 repaired s
    let s2 := flashStart (forEach flash (fun t u => trainFlc t u) s1)
    if ok0 then noSlotLeft s2 else noImage s2
  else s)

/-! ### Checks that need no write (R518-R525) -/

/-- Does an image carry the keys that this engine accepts, and their signature (R187, R192, R195, R524)? -/
def imageKeysOk (im : Image) (s : State) : Bool :=
  let own := (List.range 12).all fun i => rd (KS_OWNER_HASH_HASH i) s == im.ownerHash.toNat / 2 ^ (32 * (11 - i)) % 2 ^ 32
  let safe := (List.range 12).all fun i => rd (KS_SAFETY_HASH_HASH i) s == im.safetyHash.toNat / 2 ^ (32 * (11 - i)) % 2 ^ 32
  if s.ks.owned then own && safe && im.sigOk else im.vendor && im.sigOk

/-- Does Rook verify the safety section (R283)? -/
def safetyVerified (sec : SafetySection) (s : State) : Bool := sec.sigOk && sec.hashOk && epochOk sec.epoch.toNat s

/-- The integrity of an image: header, EPOCH, keys, signatures, hashes and digest (R525). -/
def imageIntegrity (im : Image) (s : State) : Bool :=
  im.headOk && epochOk im.epoch.toNat s && imageKeysOk im s && im.digestOk && (im.sections.all fun x => x.formOk && x.hashOk) &&
  safetyVerified im.safety s

/-- Sections of a type. -/
def ofType (n : Nat) (im : Image) : List ImgSection := im.sections.filter fun x => x.typ.toNat == n

/-- Is a register address a target of a section type (R520)? -/
def regTarget (typ a : Nat) : Bool :=
  let rng := fun lo hi => Nat.ble lo a && Nat.blt a hi
  let routing := rng 0x41010000 0x41014000 || rng 0x41020000 0x41030000 || rng 0x41080000 0x41280000
  match typ with
  | 2 => (rng 0x41000000 0x42000000 && !routing) || rng 0x42000000 0x42010000 || rng 0x43000000 0x43040000 || rng 0x43100000 0x43101000 ||
      rng 0x46000000 0x46008000 || rng 0x4B000100 0x4B0001C0
  | 3 => rng 0x40100000 0x40101000 || rng 0x40200000 0x40300000 || rng 0x48000100 0x48000500
  | 5 => routing || rng 0x41030000 0x41031000
  | 7 => rng 0x44000000 0x44011000 || rng 0x44100000 0x44104000 || rng 0x44200000 0x44211000 || rng 0x44300000 0x44302000 ||
      rng 0x44400000 0x44400400 || rng 0x44500000 0x44500800 || rng 0x45000000 0x45004000 || rng 0x45100000 0x45101000 ||
      rng 0x47000000 0x47001000
  | _ => false

/-- The pod pea or control core that a record's address names (R521), in the numbering of R42: none where it names none. -/
def recCore (space a : Nat) : Option Nat :=
  if space ≤ 4 then (if a / 2 ^ 16 % 16 ≤ 8 then some (peaNo (a / 2 ^ 44 % 16) (a / 2 ^ 16 % 16)) else none)
  else some (144 + a / 2 ^ 16 % 4)

/-- Is a memory a target of a section type (R520)? -/
def memTarget (typ space a : Nat) : Bool :=
  match typ with
  | 1 => Nat.ble 5 space && Nat.ble space 7 && a / 2 ^ 16 % 4 != 0
  | 3 => space == 1 || (Nat.ble 2 space && Nat.ble space 4 && (recCore space a).isSome)
  | 4 => Nat.ble 2 space && Nat.ble space 4 && (recCore space a).isSome
  | 7 => space == 5 || space == 6
  | _ => false

/-- Is a record within the targets of its section's type, and within the limits of R209, R212 and R522? -/
def recordOk (typ : Nat) (r : ImgRec) : Bool :=
  match r with
  | .reg a ws => (List.range ws.length).all fun i => regTarget typ (a.toNat + 4 * i)
  | .mem sp a _ => memTarget typ sp.toNat a.toNat
  | .zero sp a _ => memTarget typ sp.toNat a.toNat
  | .sealwin _ _ _ _ _ _ _ => typ == 4
  | .rolemask ms => typ == 8 && ms.length == 15
  | .grant _ => typ == 8
  | .revoke _ => typ == 8
  | .policy kind mode first last =>
    typ == 8 && (kind == 2 || kind == 3 || kind == 6) && Nat.ble mode.toNat 2 && Nat.ble first.toNat last.toNat && !(kind == 3 && mode == 2)
  | .expkey => typ == 8
  | .quant q r => typ == 8 && Nat.ble 1 q.toNat && Nat.ble q.toNat 60 && Nat.ble 1 r.toNat && Nat.ble r.toNat 50
  | .sak _ => typ == 7
  | .pairkey _ => typ == 7

/-- Does a section hold key material, which must be encrypted (R520)? -/
def holdsKeys (x : ImgSection) : Bool :=
  x.recs.any fun r => match r with
    | .sak _ => true
    | .pairkey _ => true
    | _ => false

/-- Is a section allowed, with its flags and records (R520)? -/
def sectionOk (x : ImgSection) : Bool :=
  let t := x.typ.toNat
  Nat.ble 1 t && Nat.ble t 9 && (!x.seal_ || (x.enc && t == 4)) && (t != 7 || x.enc || !holdsKeys x) && x.recs.all (recordOk t)

/-- The records of the ROLES section. -/
def roleRecs (im : Image) : List ImgRec := (ofType 8 im).flatMap (·.recs)

/-- The export policy that an image carries (R209). -/
def imagePolicy (im : Image) : List PolicyEntry :=
  (roleRecs im).filterMap fun r => match r with
    | .policy k m f l => some ⟨k.toNat, m.toNat, f.toNat, l.toNat⟩
    | _ => none

/-- Does an image carry an owner export key (R209)? -/
def imageExpKey (im : Image) : Bool := (roleRecs im).any fun r => match r with
  | .expkey => true
  | _ => false

/-- The grants, and the revoked serials, of an image (R218, R522). -/
def imageGrants (im : Image) : List Grant := (roleRecs im).filterMap fun r => match r with
  | .grant g => some g
  | _ => none

/-- See `imageGrants`. -/
def imageRevoked (im : Image) : List (BitVec 32) := (roleRecs im).filterMap fun r => match r with
  | .revoke x => some x
  | _ => none

/-- Each ENC section is served by one KEYBLOB, whose INDEX names its table entry (R520). -/
def keyBlobsOk (im : Image) : Bool :=
  let encs := (im.sections.zip (List.range im.sections.length)).filter fun e => e.1.enc
  (ofType 9 im).length == encs.length && encs.all fun e => (ofType 9 im).any fun b => b.index.toNat == e.2

/-- Section counts, flags, record targets and limits (R209, R211, R520-R522, R525). -/
def imageForm (im : Image) : Bool :=
  let count := fun n => (ofType n im).length
  im.sections.all sectionOk && Nat.ble (count 1) 1 && count 2 == 1 && count 3 == 1 && Nat.ble (count 4) 64 && count 5 == 1 && count 6 == 1 &&
  count 7 == 1 && count 8 == 1 && keyBlobsOk im && decide ((im.sections.map fun x => (x.typ, x.index)).Nodup) && Nat.ble im.rate.toNat 2 &&
  (im.safety.regs.all fun r => safetyTarget r.1.toNat) && Nat.ble (imageGrants im).length 1024 && Nat.ble (imageRevoked im).length 256 &&
  Nat.ble (imagePolicy im).length 64 && (imageExpKey im || !(imagePolicy im).any fun e => e.kind == 6 && e.mode == 2)

/-! ### The loader (R521-R523, R527) -/

/-- A step of the loader: whether it fails, and the state. -/
abbrev Load := Bool × State

/-- Run a step after what came before: a failure stays. -/
def loadEach {α : Type} (l : List α) (f : α → State → Load) (x : Load) : Load :=
  l.foldl (fun y a => let z := f a y.2; (y.1 || z.1, z.2)) x

/-- The registers that a REG record writes (R521): consecutive words. -/
def regWords (a : Nat) (ws : List (BitVec 32)) : List (Nat × Word) := ((List.range ws.length).map fun i => a + 4 * i).zip ws

/-- Two 32-bit words of a payload make a program bundle, its first word first (R518, R521). -/
def bundles : List (BitVec 32) → List Bundle64
  | a :: b :: r => (a ++ b) :: bundles r
  | _ => []

/-- Write a payload into a memory (R521). -/
def loadMem (space a : Nat) (ws : List (BitVec 32)) (s : State) : State :=
  let at_ := a % 65536
  match recCore space a with
  | none => s
  | some c =>
    let pairs := ws.zip (List.range ws.length)
    match space with
    | 1 => forEach pairs (fun e t => wrShared (a / 2 ^ 44 % 16) (at_ + e.2) e.1 t) s
    | 2 => forEach pairs (fun e t => wrX c (at_ + e.2) (e.1.setWidth 24) t) s
    | 3 => forEach pairs (fun e t => wrY c (at_ + e.2) (e.1.setWidth 24) t) s
    | 4 => forEach ((bundles ws).zip (List.range ws.length)) (fun e t => wrProg c (at_ + e.2) e.1 t) s
    | 5 => forEach pairs (fun e t => wrX c (at_ + e.2) (e.1.setWidth 24) t) s
    | 6 => forEach pairs (fun e t => wrY c (at_ + e.2) (e.1.setWidth 24) t) s
    | 7 => forEach ((bundles ws).zip (List.range ws.length)) (fun e t => wrProg c (at_ + e.2) e.1 t) s
    | _ => s

/-- Is a sealed payload a whole number of chunks within a seal window of its pea (R200)? -/
def sealFits (space a bytes : Nat) (s : State) : Bool :=
  match recCore space a with
  | none => false
  | some c =>
    let w := match space with
      | 2 => (rd (KS_SEAL_X_BASE c) s, rd (KS_SEAL_X_LEN c) s)
      | 3 => (rd (KS_SEAL_Y_BASE c) s, rd (KS_SEAL_Y_LEN c) s)
      | _ => (rd (KS_SEAL_P_BASE c) s, rd (KS_SEAL_P_LEN c) s)
    let len := bytes / (if space = 4 then 8 else 4)
    rdB (KS_SEAL_CTL_LOCK c) s && bytes % 4096 == 0 && Nat.ble w.1 (a % 65536) && Nat.ble (a % 65536 + len) (w.1 + w.2)

/-- One record; `sealed_`: of a SEALED section, whose payload goes through the golden copies into seal windows (R200). -/
def loadRec (sealed_ : Bool) (r : ImgRec) (s : State) : Load :=
  match r with
  | .reg a ws => loadEach (regWords a.toNat ws) (fun e t => registerWrite 0 false false e.1 e.2 t) (false, s)
  | .mem sp a ws =>
    if sealed_ && !sealFits sp.toNat a.toNat (4 * ws.length) s then (true, s) else (false, loadMem sp.toNat a.toNat ws s)
  | .zero sp a len =>
    if sealed_ && !sealFits sp.toNat a.toNat len.toNat s then (true, s)
    else (false, loadMem sp.toNat a.toNat (List.replicate (len.toNat / 4) 0) s)
  | .sak k => if rekeyOk k.mac.val k.an.val s then (false, installSak k 0 s) else (true, s)
  | .pairkey key => (false, fillSlot (rd DRN_CFG2_PKSLOT s) key s)
  | _ => (false, s)

/-- The seal windows of a SEALWIN record (R201). -/
def loadWindow (r : ImgRec) (s : State) : State :=
  match r with
  | .sealwin q pb pl xb xl yb yl =>
    wr (KS_SEAL_Y_LEN q.val) yl.toNat (wr (KS_SEAL_Y_BASE q.val) yb.toNat (wr (KS_SEAL_X_LEN q.val) xl.toNat (wr (KS_SEAL_X_BASE q.val) xb.toNat
      (wr (KS_SEAL_P_LEN q.val) pl.toNat (wr (KS_SEAL_P_BASE q.val) pb.toNat s)))))
  | _ => s

/-- LOCK follows (R201). -/
def lockWindow (r : ImgRec) (s : State) : State :=
  match r with
  | .sealwin q _ _ _ _ _ _ => showSealPod (q.val / 9) (wrB (KS_SEAL_CTL_LOCK q.val) true s)
  | _ => s

/-- Unwrap a section key and decrypt (R197, R198): what stops the section. -/
def unwrapSection (x : ImgSection) (s : State) : Load :=
  if !x.enc then (false, s)
  else if !deviceKeyOk s || rd KS_STAT_JTAG s != 0 then (true, s)
  else if x.unwrap != some true then (true, count KS_CNT_UNWRAP_FAIL_COUNT KS_EVT_UNWRAP_SAT 6 s)
  else if x.seal_ && !rdB KS_STAT_TRNG_OK s then (true, s)
  else (!x.tagOk, onlyIf x.seal_ (onKs (fun k => { k with gck := true })) s)

/-- The records of the sections of a type, in order. -/
def loadType (n : Nat) (im : Image) (x : Load) : Load :=
  loadEach (ofType n im) (fun c t => loadEach c.recs (loadRec c.seal_) (false, t)) x

/-- COEFF (R527): each SEALWIN, then LOCK, then the transfers. -/
def loadCoeff (im : Image) (x : Load) : Load :=
  let rs := (ofType 4 im).flatMap (·.recs)
  loadType 4 im (x.1, forEach rs (fun r t => lockWindow r t) (forEach rs (fun r t => loadWindow r t) x.2))

/-- The golden copies hold what the pod peas' memories hold as loaded (R126). -/
def buildGolden (s : State) : State :=
  { s with mem := { s.mem with
    goldX := s.mem.x.filter fun e => Nat.blt e.1 (144 * 65536)
    goldY := s.mem.y.filter fun e => Nat.blt e.1 (144 * 65536)
    goldProg := s.mem.prog.filter fun e => Nat.blt e.1 (144 * 16384) } }

/-- Every register write of the image's records (R591). -/
def imageRecords (im : Image) : List (Nat × Word) :=
  (im.sections.flatMap (·.recs)).flatMap fun r => match r with
    | .reg a ws => regWords a.toNat ws
    | _ => []

/-- The channels that the image's TDM marks taint (R206). -/
def tdmTaints (im : Image) : List Nat := im.taintTdm.flatMap fun p => (List.range 32).map fun i => 2048 + p.val * 32 + i

/-- While tables fill, every export target is allowed: the check over the finished graph follows (R207, R525). -/
def anyExport : List PolicyEntry := [⟨2, 1, 0, 65535⟩, ⟨3, 1, 0, 65535⟩, ⟨6, 1, 0, 65535⟩]

/-- ROLES go to the key store and the owner runtime (R527). -/
def takeRoles (im : Image) (s : State) : State :=
  let masks := (roleRecs im).filterMap fun r => match r with
    | .rolemask ms => some ms
    | _ => none
  let quant := (roleRecs im).filterMap fun r => match r with
    | .quant q r => some (q.toNat, r.toNat)
    | _ => none
  let q := quant.headD (5, 10)
  { s with image := { s.image with
    policy := imagePolicy im, exportKey := imageExpKey im, qstep := q.1, qrate := q.2, masks := masks.headD []
    grants := imageGrants im, revoked := imageRevoked im, scenes := im.scenes, params := im.params, recChans := im.recChans } }

/-- What the image says of itself (R192, R193, R378, R591). -/
def takeHead (im : Image) (s : State) : State :=
  { s with nS := 2 * 2 ^ im.rate.toNat, image := { s.image with
    taintIn := tdmTaints im, policy := anyExport, exportKey := true, owner := true, epoch := im.epoch.toNat, force := im.force
    other := im.other.map (·.toNat), digest := im.digest, records := imageRecords im } }

/-- PTP starts (R527): enabled ports listen in the domains they serve. -/
def startPtp (s : State) : State :=
  forEach (List.range 2) (fun d t =>
    portsChanged d (forEach (List.range 8) (fun p u => onlyIf (portServes p d u && rdB (TB_DCFG_EN d) u) (setPort p d 3) u) t)) s

/-- The whole of R527 in its order; `failed`: the peas that failed their self-test, declared by R120. -/
def loadImage (im : Image) (failed : List (Fin 144)) (s : State) : Load :=
  let s1 := takeHead im s
  let s2 := match execRookLoad im.safety s1 with | .next t => t | _ => s1
  let x2 := loadEach im.sections unwrapSection (!rookArmed s2, s2)
  let x3 := loadType 7 im (loadType 3 im (loadType 5 im (loadType 2 im x2)))
  let x4 := loadCoeff im x3
  let s5 := takeRoles im (buildGolden x4.2)
  let x6 := loadType 1 im (x4.1, s5)
  let s6 := wrB FW_CTL_LOCK true x6.2
  let s7 := startPtp (forEach (List.range 16) (fun n t => bringUp n t) s6)
  (x6.1, forEach failed (fun q t => declareFailed (q.val / 9) (q.val % 9) t) s7)

/-! ### Checks of the finished configuration (R525) -/

/-- Did a block refuse a write of the load with CFGERR? -/
def writeRefused (s : State) : Bool :=
  [SG_STAT_CFGERR, SG_STAT_TAINTERR, SNS_STAT_CFGERR, DRN_STAT_CFGERR, TB_STAT_CFGERR, DPLL_STAT_CFGERR, ST_STAT_CFGERR, XB_STAT_CFGERR].any
    (fun f => rdB f s) ||
  (List.range 16).any (fun n => rdB (POD_STAT_CFGERR n) s || rdB (LN_STAT_CFGERR n) s) || (List.range 64).any (fun b => rdB (BRG_STAT_CFGERR b) s) ||
  (List.range 72).any (fun c => rdB (MOD_STAT_CFGERR c) s) || (List.range 18).any (fun g => rdB (MODG_STAT_CFGERR g) s) ||
  (List.range 8).any (fun r => rdB (RAIL_STAT_CFGERR r) s) || (List.range 32).any (fun p => rdB (TDM_STAT_CFGERR p) s) ||
  (List.range 13).any (fun m => rdB (ETH_STAT_CFGERR m) s) || (List.range 4).any (fun p => rdB (FB_STAT_CFGERR p) s)

/-- Every listed table word passes its checks in the finished tables (R133-R166). -/
def tablesOk (s : State) : Bool := s.regs.all fun e => !isTable e.1 || tableLegal e.1 e.2 s

/-- The buses of a phase, and the sends that they name (R160: NUM counts whether sends are enabled or not). -/
def phaseLoad (p : Nat) (s : State) : Nat × Nat :=
  let bs := phaseBuses p s
  (bs.length, (bs.map fun b => rd (BUS_SENDS_NUM b) s).foldl (· + ·) 0)

/-- Do the summing phases fit (R160)? -/
def phasesOk (s : State) : Bool :=
  ((List.range 4).all fun p =>
    let l := phaseLoad p s
    l.1 == 0 || Nat.ble (rd (SG_PHASE_START p) s + ceilDiv (l.2 * s.nS) 32 + 24 * l.1) (rd (SG_PHASE_END p) s)) &&
  Nat.ble (((List.range 4).map fun p => (phaseLoad p s).2).foldl (· + ·) 0 * s.nS) 1048576

/-- The pod cycles that enabled entries may take. -/
def budgetSum (n p : Nat) (es : List Nat) (s : State) : Nat := (es.map fun e => rd (TASK_TIME_BUDGET n p e) s).foldl (· + ·) 0

/-- Does the spare cover a pod, and are deadlines and budgets within their limits (R115, R130)? -/
def coverOk (n : Nat) (s : State) : Bool :=
  let own := (List.range 64).filter fun e => taskOn n 8 e s
  ((List.range 9).all fun p => (List.range 64).all fun e => !taskOn n p e s ||
    (rd (TASK_TIME_DEADLINE n p e) s != 0 && Nat.ble (rd (TASK_TIME_DEADLINE n p e) s) 41500 &&
     rd (TASK_TIME_BUDGET n p e) s != 0 && Nat.ble (rd (TASK_TIME_BUDGET n p e) s) 41500)) &&
  (List.range 8).all fun p =>
    let ws := entriesOf n p false s
    let hot := entriesOf n p true s
    (hot.all fun e => (duplicateOf n p e s).isSome) &&
    (ws.isEmpty || (Nat.ble (budgetSum n 8 own s + budgetSum n p ws s) 41500 && Nat.ble (own.length + ws.length) 64 &&
      ws.all fun e => Nat.ble (rd (POD_RSV_P_BASE n) s) (rd (TASK_CFG_START n p e) s) &&
        Nat.blt (rd (TASK_CFG_START n p e) s) (rd (POD_RSV_P_BASE n) s + rd (POD_RSV_P_LEN n) s)))

/-- Are there tags enough (R460)? -/
def tagsOk (s : State) : Bool := Nat.ble (((List.range 63).map fun m => rd (XB_MCFG_TAGS m) s).foldl (· + ·) 0) 8192

/-- Do rails, groups and channels pass (R250, R259)? -/
def railsOk (s : State) : Bool :=
  ((List.range 8).all fun r =>
    let vmin := rd (RAIL_VLIM_VMIN r) s
    let vmax := rd (RAIL_VLIM_VMAX r) s
    Nat.ble vmin vmax && Nat.ble (rd (RAIL_VQ_VQUIET r) s) vmin && Nat.ble vmax (rd (RAIL_CMDFS_CMDFS r) s) &&
      !(rdB (RAIL_CFG_EN r) s && vmax == 0)) &&
  ((List.range 18).all fun g =>
    Nat.ble (rd (MODG_WAKE_PRECHG g) s * carrierHz g s + 1000000) (rd (MODG_WAKE_WAKE g) s * carrierHz g s)) &&
  (modChans s).all fun c => rdB (RAIL_CFG_EN (rd (MOD_CFG_RAIL c) s)) s

/-- Do the sense sets and the pilot pass (R269, R294)? -/
def senseOk (s : State) : Bool :=
  rdB SNS_CTL_RUN s && (List.range 72).all fun c =>
    let xs := ([2 * c, 2 * c + 1]).filter fun x => streamOn x s
    let sets := xs.map fun x => rd (SNS_SCFG_SET x) s
    (sets.all fun a => sets.all fun b => a == b) &&
    (!rdB (ROOK_CH_CFG_PILOT c) s || (s.nS != 2 && !sets.contains 3))

/-- Are the formats of the enabled TDM ports legal (R439, R442, R443)? -/
def tdmOk (s : State) : Bool :=
  (List.range 32).all fun p => !rdB (TDM_CFG_EN p) s ||
    tdmLegal (rdReg (TDM_CFG_EN p).addr s) (rdReg (TDM_FS_FSW p).addr s) (rd (BRG_CFG_LRATE (2 * p)) s)

/-- The range of logSyncInterval and the transports of a profile (R342); UDP/IPv6 is for MGMT alone. -/
def profileOk (prof mac trans : Nat) (logSync : Int) : Bool :=
  match prof with
  | 0 => decide (-7 ≤ logSync ∧ logSync ≤ 1) && (trans != 2 || mac == 12) && trans != 3
  | 1 => decide (-7 ≤ logSync ∧ logSync ≤ 1) && (trans != 2 || mac == 12) && trans != 3
  | 2 => decide (-4 ≤ logSync ∧ logSync ≤ 1) && trans == 1
  | 3 => decide (-7 ≤ logSync ∧ logSync ≤ -1) && trans == 1
  | 4 => decide (-7 ≤ logSync ∧ logSync ≤ 1) && trans == 0
  | _ => false

/-- Do the PTP ports pass (R342, R343, R350, R422)? -/
def ptpOk (s : State) : Bool :=
  ((List.range 2).all fun d => !rdB (TB_DCFG_EN d) s || (Nat.ble (rd (TB_DCFG_PROFILE d) s) 4 && Nat.ble (rd (TB_DCFG_DOMAIN d) s) 127)) &&
  (List.range 8).all fun p => !rdB (PTP_PCFG_EN p) s ||
    (let m := rd (PTP_PCFG_MAC p) s
     let tr := rd (PTP_PCFG_TRANS p) s
     Nat.ble m 12 && ((List.range 8).all fun q => q == p || !rdB (PTP_PCFG_EN q) s || rd (PTP_PCFG_MAC q) s != m) &&
     ((List.range 2).all fun d => !(portServes p d s && rdB (TB_DCFG_EN d) s) ||
       profileOk (rd (TB_DCFG_PROFILE d) s) m tr (rdI (PTP_PCFG_LOGSYNC p) s)) &&
     (!rdB (PTP_PCFG_ONESTEP p) s || (tr != 2 && !(Nat.blt m 12 && rdB (MS_CFG_EN m) s))))

/-- Is any word of the pods' task tables other than at reset? At reset no entry is enabled, so that there is nothing to cover. -/
def anyTasks (s : State) : Bool := s.regs.any fun e => Nat.ble 0x40200000 e.1 && Nat.blt e.1 0x40300000

/-- The checks of R525 over the finished configuration. -/
def configOk (s : State) : Bool :=
  !writeRefused s && tablesOk s && phasesOk s && !taintBreach (fun a => rdReg a s) (listedDests s) s && (!anyTasks s || (List.range 16).all (fun n => coverOk n s)) &&
  admitReservations s && tagsOk s && railsOk s && senseOk s && tdmOk s && ptpOk s

/-! ### Admission and fall-back (R525, R526) -/

/-- A check fails before any write: the other slot is tried at once, or NOIMAGE follows. -/
def failBefore (detail slot : Nat) (s : State) : State :=
  noSlotLeft (onPawn (fun p => { p with failed := slot :: p.failed }) (raise islBoot (0x2000 + detail + slot) 0 s))

/-- A check fails after the first write: TRIED is set and a warm restart follows. -/
def failAfter (slot : Nat) (s : State) : State :=
  warmRestart (flushLog (wrB (bitOf PWR_BOOT_TRIED slot) true (raise islBoot (0x2050 + slot) 0 s)))

/-- Does the engine wait for a slot to be tried: the owner runtime runs, DRAM is up, and no image is loaded? -/
def admitting (slot : Nat) (s : State) : Bool :=
  s.pawn.booted && drcReady 0 s && rd FL_STAT_STATE s != 0 && !tlRun s && !s.image.owner && !rdB PWR_BOOT_NOIMAGE s && nextSlot s == some slot

/-- SLOT_ADMISSION (R525-R527): the image that the slot holds is checked and loaded, or the other slot's turn comes. -/
def execSlotAdmission (slot : Fin 2) (im : Image) (failed : List (Fin 144)) (s : State) : Out :=
  .next (if !admitting slot.val s then s
  else if !imageIntegrity im s then failBefore 0x20 slot.val s
  else if !imageForm im then failBefore 0x40 slot.val s
  else
    let x := loadImage im failed s
    if !configOk x.2 then failBefore 0x40 slot.val s
    else if x.1 then failAfter slot.val x.2
    else showPend (wr FL_SLOTST_BOOTED slot.val (wr PWR_BOOT_SLOT slot.val x.2)))

/-! ### Audio start (R528, R529) -/

/-- Has STARTTO passed since VALID rose (R528)? 0 waits without limit. -/
def startTimeout (s : State) : Bool :=
  rd PWR_START_STARTTO s != 0 && decide (s.time.validAt + rd PWR_START_STARTTO s * 1000000000 ≤ s.ns.toNat)

/-- Is the selected domain LOCKED, or the timebase GRANDMASTER (R344, R528)? -/
def domainReady (s : State) : Bool := domLocked (rd TB_STAT_SEL s) s || rd TB_STAT_STATE s == 5

/-- May audio start (R528)? -/
def startReady (s : State) : Bool :=
  s.image.owner && s.image.started.isNone && !tlRun s && rookArmed s && tlValid s && (domainReady s || startTimeout s)

/-- Sessions whose certificate the new image would refuse are ended (R219). -/
def recheckSessions (s : State) : State :=
  let bad := s.halv.sessions.any fun x => s.image.revoked.contains x.serial
  onlyIf bad (raise 261 0xD003 0) (onHalv (fun h => { h with sessions := h.sessions.filter fun x => !s.image.revoked.contains x.serial }) s)

/-- Every RUN bit becomes 1 (R528). -/
def setRunBits (s : State) : State :=
  forEach (List.range 16) (fun n t => wrB (POD_CTL_RUN n) true t)
    (wrB MOD_GCTL_RUN true (wrB TEMPO_CTL_EN true (wrB SG_CTL_RUN true (wrB GLB_TLSTAT_RUN true s))))

/-- AUDIO_START (R26, R219, R528, R529): at the start of the start block, the block in progress. -/
def execAudioStart (s : State) : Out :=
  .next (if startReady s then
    let s1 := wr GLB_GEN_GEN 0 (setRunBits { s with
      tl := { s.tl with gens := [] }, image := { s.image with started := some s.tl.k.toNat } })
    let s2 := forEach (usedStreams s1) (fun i t => sinWait i t) (newSession (wr PWR_BOOT_TRIED 0 (wr PWR_BOOT_FAILS 0 s1)))
    let s3 := forEach (List.range 64) (fun b t => bridgeStart b t) s2
    recheckSessions (startGroups s3)
  else s)

end Sys2Proof.Machine
end

