-- ==== Sys2Proof/Machine/Halvon.lean ====
section
/-! DEFINITION. Halvon (R214-R218, R532-R557): sessions, the checks of a message, parameters, meters and events, capture
windows, castling, log, life and rekeys. Keys and tags are symbolic: whether a tag or a signature verifies is an operand. -/

namespace Sys2Proof.Machine

/-- The island of the firmware that serves Halvon. -/
def islHalvon : Nat := 261

/-- Times of the last second. -/
def lastSecond (l : List Nat) (s : State) : List Nat := l.filter fun t => Nat.blt s.ns.toNat (t + 1000000000)

/-- Count in a saturating statistic (R543). -/
def statUp (n : Nat) : Nat := min (n + 1) 0xFFFFFFFF

/-! ### Discards (R535, R537, R557) -/

/-- A message is discarded (R535): 100 or more within 1 s are logged, at most once per minute (R557). -/
def discard (f : HalvonSt → HalvonSt) (s : State) : State :=
  let times := lastSecond s.halv.discTimes s ++ [s.ns.toNat]
  let s1 := onHalv (fun h => { f h with discTimes := times, out := [] }) s
  if 100 ≤ times.length && (s.halv.discLog == 0 || Nat.ble (s.halv.discLog - 1 + 60000000000) s.ns.toNat) then
    raise islHalvon 0xD020 0 (onHalv (fun h => { h with discLog := s.ns.toNat + 1 }) s1)
  else s1

/-- At most 20 HELLO and DEVCERT requests per second are answered (R537); an excess is discarded, counted and logged at
most once per second (R557). -/
def helloExcess (s : State) : Bool := Nat.ble 20 (lastSecond s.halv.helloTimes s).length

/-- See `helloExcess`. -/
def dropHello (s : State) : State :=
  let s1 := discard (fun h => { h with helloDrops := statUp h.helloDrops }) s
  if s.halv.helloLog == 0 || Nat.ble (s.halv.helloLog - 1 + 1000000000) s.ns.toNat then
    raise islHalvon 0xD010 0 (onHalv (fun h => { h with helloLog := s.ns.toNat + 1 }) s1)
  else s1

/-- A HELLO or DEVCERT request is answered. -/
def noteHello (s : State) : State :=
  onHalv (fun h => { h with helloTimes := lastSecond h.helloTimes s ++ [s.ns.toNat], out := [] }) s

/-! ### Roles and certificates (R10, R214-R218) -/

/-- The permission mask of a role (R217). -/
def roleMask (role : Nat) (s : State) : BitVec 16 := (s.image.masks[role]?).getD 0

/-- Does the image define a role (R10)? An operator role is defined by a mask that is not 0 or by a grant. -/
def roleDefined (role : Nat) (s : State) : Bool :=
  role == 0 || role == 14 || (Nat.blt role 14 && (roleMask role s != 0 || s.image.grants.any fun g => g.roles.getLsbD role))

/-- Has a role a permission (R217)? Role 0 has every one. -/
def rolePermits (role bit : Nat) (s : State) : Bool := role == 0 || (roleMask role s).getLsbD bit

/-- Does a grant cover an element for a role, for R or for W (R217, R218)? -/
def grantCovers (g : Grant) (role : Nat) (write : Bool) (a : ParamAddr) : Bool :=
  g.roles.getLsbD role && (if write then g.write && role != 14 else g.read) &&
  Nat.ble g.instFirst.toNat a.inst.toNat && Nat.ble a.inst.toNat g.instLast.toNat && Nat.ble g.pidFirst.toNat a.pid.toNat &&
  Nat.ble a.pid.toNat g.pidLast.toNat && Nat.ble g.idxFirst.toNat a.index.toNat && Nat.ble a.index.toNat g.idxLast.toNat

/-- Is a certificate within its validity (R216)? -/
def certTime (c : RoleCert) (s : State) : Bool :=
  if tlValid s then
    Nat.ble c.notBefore.toNat (s.ns.toNat / 1000000000) &&
      (c.notAfter == BitVec.allOnes 64 || Nat.blt (s.ns.toNat / 1000000000) c.notAfter.toNat)
  else c.notBefore == 0 && c.notAfter == BitVec.allOnes 64

/-- Why a certificate is refused at HELLO (R10, R215, R537): the status. -/
def certStatus (role : Nat) (c : RoleCert) (s : State) : Option Nat :=
  if !c.sigOk then some 0x10
  else if role != c.role.val || !roleDefined role s then some 0x03
  else if s.image.revoked.contains c.serial || (c.forDevice && c.device != deviceIdKs s) then some 0x10
  else if !certTime c s then some 0x11
  else none

/-! ### Sessions (R536-R539) -/

/-- A session number that is not 0 and not in use, a free choice (R536). -/
def freshNumber (s : State) : Nat :=
  let v := (freeVal 32 s).toNat
  (((List.range 65).map fun i => (v + i) % 0xFFFFFFFF + 1).find? fun n => (getSession n s).isNone).getD 1

/-- An answer to HELLO or DEVCERT in clear (R534, R537). -/
def clearOut (typ num seq status : Nat) (body : List (BitVec 32)) (s : State) : State :=
  onHalv (fun h => { h with out := [⟨typ, num, 0, false, seq, status, false, false, false, 0xFFFF, bsnNow s, 0, body⟩] }) s

/-- Free words: an ephemeral key, a nonce and 3 reserved bytes, 33 words (R536). -/
def freshKey (s : State) : List (BitVec 32) × State :=
  let draw := fun (l : List (BitVec 32)) (t : State) => (l ++ [freeVal 32 t], freeNext t)
  let r := (List.range 32).foldl (fun x _ => draw x.1 x.2) (([] : List (BitVec 32)), s)
  (r.1 ++ [freeVal 32 r.2 &&& 0xFF000000], freeNext r.2)

/-- HELLO (R215, R536, R537): a session is created and ACCEPT sent, or the failure is answered in clear. `seq` is the
request's SEQ; without the device key or entropy no session can be derived (R188, R190, R229). -/
def execHello (formOk : Bool) (role : Fin 16) (seq : BitVec 32) (cert : RoleCert) (s : State) : Out :=
  .next (if !formOk then discard id s
  else if helloExcess s then dropHello s
  else
    let s1 := noteHello s
    match certStatus role.val cert s with
    | some st => raise islHalvon 0xD001 0 (clearOut 1 0 seq.toNat st [] s1)
    | none =>
      if 64 ≤ s.halv.sessions.length then clearOut 1 0 seq.toNat 0x12 [] s1
      else if !deviceKeyOk s || !rdB KS_STAT_TRNG_OK s then clearOut 1 0 seq.toNat 0x16 [] s1
      else
        let n := freshNumber s1
        let k := freshKey (freeNext s1)
        let x : Session := ⟨n, role.val, cert.serial, cert.notBefore, cert.notAfter, false, 0, [], [], 0, none, [], 0, [], 0, 0, []⟩
        clearOut 1 n seq.toNat 0 k.1 (onHalv (fun h => { h with sessions := h.sessions ++ [x] }) k.2))

/-- The words of the device certificate (R189). -/
def deviceCert (s : State) : List (BitVec 32) := (List.range 128).map fun i => BitVec.ofNat 32 (rd (KS_DEVCERT_DATA i) s)

/-- DEVCERT (R536, R540): the device certificate, in clear, to anyone. -/
def execDevcert (formOk : Bool) (seq : BitVec 32) (s : State) : Out :=
  .next (if !formOk then discard id s
  else if helloExcess s then dropHello s
  else clearOut 2 0 seq.toNat 0 (deviceCert s) (noteHello s))

/-- SESSION_OPEN_TIMEOUT (R536): a session not opened within 2 s is dropped. -/
def execSessionOpenTimeout (num : BitVec 32) (s : State) : Out :=
  .next (match getSession num.toNat s with
  | some x => if x.opened then s else endSession num.toNat s
  | none => s)

/-- SESSION_IDLE_TIMEOUT (R538): 60 s without a valid client message. -/
def execSessionIdleTimeout (num : BitVec 32) (s : State) : Out := .next (endSession num.toNat s)

/-- SESSION_EXPIRY (R216, R538, R557): the certificate's NOT_AFTER comes in the block in progress or before. -/
def execSessionExpiry (num : BitVec 32) (s : State) : Out :=
  .next (match getSession num.toNat s with
  | some x =>
    if tlValid s && x.notAfter != BitVec.allOnes 64 && Nat.ble (x.notAfter.toNat * 1000000000) (blockStart (s.tl.k.toNat + 1)) then
      raise islHalvon 0xD002 0 (endSession num.toNat s)
    else s
  | none => s)

/-- The old key of a session is no longer accepted, and its responses are no longer kept (R539). -/
def dropOldKey (num : Nat) (s : State) : State :=
  setSession num (fun x => { x with old := none, replies := x.replies.filter fun r => !r.1 }) s

/-- OLD_KEY_EXPIRY (R539): 2 s after a KEYROLL. -/
def execOldKeyExpiry (num : BitVec 32) (s : State) : Out := .next (dropOldKey num.toNat s)

/-! ### The checks of a message (R535) -/

/-- What the checks of steps 1 to 4 come to: discarded, a copy of an accepted message, or accepted under the key in force or
the replaced one. -/
inductive Intake where
  | bad (f : HalvonSt → HalvonSt)
  | again (out : List HalvonOut)
  | ok (x : Session) (old : Bool)

/-- Does a SEQ lie within a replay window (R538)? -/
def seqInWindow (seq high : Nat) : Bool := seq != 0 && Nat.ble high (seq + 63)

/-- Steps 1 to 4 of R535, and R538's copies. -/
def intake (h : MsgHead) (s : State) : Intake :=
  let seq := h.seq.toNat
  if !h.formOk then .bad id
  else
    match getSession h.session.toNat s with
    | none => .bad id
    | some x =>
      let old := h.oldOk && !h.tagOk && x.old.isSome
      let w := if old then x.old.getD (0, []) else (x.high, x.seen)
      let past := tlValid s && x.notAfter != BitVec.allOnes 64 && Nat.blt x.notAfter.toNat (s.ns.toNat / 1000000000)
      if !x.opened && seq != 1 then .bad id
      else if !seqInWindow seq w.1 then .bad fun q => { q with replays := statUp q.replays }
      else if !h.tagOk && !old then .bad fun q => { q with tagFails := statUp q.tagFails }
      else if past then .bad id
      else if w.2.contains seq then
        match x.replies.find? fun r => r.1 == old && r.2.1 == seq with
        | some r => .again r.2.2
        | none => .bad fun q => { q with replays := statUp q.replays }
      else .ok x old

/-- A message is accepted: its SEQ is noted, the session is open, and a first message under a new key ends the old one (R536,
R538, R539). -/
def noteAccepted (seq : Nat) (old : Bool) (s : State) (num : Nat) : State :=
  if old then setSession num (fun x => { x with
    old := x.old.map fun w => (max w.1 seq, (seq :: w.2).filter fun q => Nat.ble (max w.1 seq) (q + 63)) }) s
  else
    setSession num (fun x => { x with
      opened := true, high := max x.high seq, seen := (seq :: x.seen).filter fun q => Nat.ble (max x.high seq) (q + 63) }) (dropOldKey num s)

/-- Is the apply time of a message well formed (R533, R541)? -/
def applyForm (timed : Bool) (h : MsgHead) : Bool :=
  if timed then !(h.now && h.ptp) && (!h.now || h.apply == 0) && (h.ptp || Nat.blt h.apply.toNat (2 ^ 32))
  else h.apply == 0 && !h.now && !h.ptp

/-- Steps 5 and 6 of R535, and the form of the message (R541, R542). -/
def headStatus (perm : Option Nat) (timed : Bool) (h : MsgHead) (x : Session) (s : State) : Option Nat :=
  if h.role.val != x.role || !roleDefined x.role s then some 0x03
  else if (match perm with | some b => !rolePermits x.role b s | none => false) then some 0x04
  else if !applyForm timed h || !h.bodyOk then some 0x01
  else none

/-- A request of a session (R535): `act` is what the type does once its head has passed, with its reply (none: it comes
later); `after` follows a reply of OK. -/
def request (typ : Nat) (perm : Option Nat) (timed : Bool) (h : MsgHead) (act : Session → State → Option Reply × State)
    (after : Nat → State → State) (s : State) : State :=
  match intake h s with
  | .bad f => discard f s
  | .again out => onHalv (fun q => { q with out := out }) s
  | .ok x old =>
    let n := x.num
    let s1 := noteAccepted h.seq.toNat old (onHalv (fun q => { q with out := [] }) s) n
    let r := match headStatus perm timed h x s with
      | some st => (some (errReply st 0xFFFF), s1)
      | none => act x s1
    let s2 := match r.1 with
      | some y =>
        let s3 := sendReply n typ h.seq.toNat old y r.2
        if y.status = 0 then after n s3 else s3
      | none => r.2
    if h.seq == BitVec.allOnes 32 then endSession n s2 else s2

/-- Nothing more to do. -/
def noMore (_ : Nat) (s : State) : State := s

/-- BYE (R538): the session ends after the response. -/
def execBye (h : MsgHead) (s : State) : Out := .next (request 0x03 none false h (fun _ t => (some (okReply []), t)) endSession s)

/-- A new key is in force (R539): the old one is accepted for 2 s more, and SEQ restarts both ways. -/
def rollKey (n : Nat) (s : State) : State :=
  setSession n (fun q => { q with
    old := some (q.high, q.seen), high := 0, seen := [], tx := 0, replies := q.replies.map fun r => (true, r.2) }) s

/-- KEYROLL (R539): the response goes under the old key. -/
def execKeyroll (h : MsgHead) (s : State) : Out :=
  .next (request 0x04 (some 9) false h (fun x t =>
    if ((getSession x.num t).bind (·.old)).isSome then (some (errReply 0x16 0xFFFF), t)
    else
      let k := freshKey t
      (some (okReply k.1), k.2)) rollKey s)

/-! ### Parameters (R543-R547) -/

/-- Sign-extend the field of a signed parameter. -/
def shownValue (f : FRef) (signed : Bool) (s : State) : BitVec 32 :=
  if signed then BitVec.ofInt 32 (rdI f s) else BitVec.ofNat 32 (rd f s)

/-- Is a parameter a gain (R543)? -/
def isGainPar (inst pid : Nat) : Bool := pid == 1 && Nat.ble 1 inst && Nat.ble inst 4

/-- The owner-defined parameter at an address (R543). -/
def ownerPar (a : ParamAddr) (s : State) : Option OwnerParam :=
  if Nat.ble 0x8000 a.inst.toNat && Nat.ble a.inst.toNat 0xFFFE then s.image.params.find? fun p => p.addr == a else none

/-- A statistic of instance 0x00F0 (R543). -/
def statValue (pid : Nat) (s : State) : Option Nat :=
  match pid with
  | 1 => some (s.halv.sessions.filter (·.opened)).length
  | 2 => some s.halv.tagFails
  | 3 => some s.halv.replays
  | 4 => some s.halv.helloDrops
  | 5 => some s.halv.eventDrops
  | _ => none

/-- A parameter of a Rook channel (R543). -/
def rookValue (pid c : Nat) (s : State) : Option (BitVec 32) :=
  if 72 ≤ c then none
  else match pid with
    | 1 => some (BitVec.ofNat 32 (rd (ROOK_CH_GAIN_G c) s))
    | 2 => some (BitVec.ofInt 32 (rdI (ROOK_CH_TEMP_TC c) s))
    | 3 => some (rdReg (ROOK_CH_STAT_DCI c).addr s)
    | _ => none

/-- The value of a parameter in the active copy (R545): none where the address names nothing. -/
def paramValue (a : ParamAddr) (s : State) : Option (BitVec 32) :=
  let i := a.inst.toNat
  let p := a.pid.toNat
  let x := a.index.toNat
  if i = 0xF0 then (if x = 0 then (statValue p s).map (BitVec.ofNat 32) else none)
  else if i = 0xFF then rookValue p x s
  else if 0x8000 ≤ i then (ownerPar a s).map (·.value)
  else (parField i p x s).map fun f => shownValue f (isGainPar i p) s

/-- The configured range of a parameter (R148, R544). -/
def paramRange (inst pid : Nat) (v : Int) : Bool :=
  let within := fun (lo hi : Int) => decide (lo ≤ v ∧ v ≤ hi)
  if isGainPar inst pid then v == -32768 || within (-14400) (if inst = 1 then 2400 else 1200)
  else if Nat.ble 1 inst && Nat.ble inst 4 && pid == 2 then within 0 20000
  else match inst, pid with
    | 1, 6 => within 0 7
    | 1, 7 => within 0 2
    | 1, 8 => within 40 120
    | 1, 9 => within 0 7
    | 1, 10 => within 10 3600000
    | 2, 5 => within 0 4095
    | 2, 7 => within 0 31
    | 4, 5 => within 0 2
    | 5, 2 => within 1 65535
    | 5, 4 => within 0 0xFFFFFF
    | _, _ => within 0 1

/-- May a parameter be set to a value: its range, and the checks of the table that holds it (R544)? -/
def valueFits (a : ParamAddr) (v : BitVec 32) (s : State) : Bool :=
  match ownerPar a s with
  | some p => decide (p.lo ≤ v.toInt ∧ v.toInt ≤ p.hi)
  | none =>
    match parField a.inst.toNat a.pid.toNat a.index.toNat s with
    | none => false
    | some f => paramRange a.inst.toNat a.pid.toNat v.toInt && (a.inst == 6 || tableLegal f.addr (putField (rdReg f.addr s) f.lo f.w v.toNat) s)

/-- Why an element of a GET fails (R544). -/
def getStatus (role : Nat) (a : ParamAddr) (s : State) : Option Nat :=
  if (paramValue a s).isNone then some 0x07
  else if role != 0 && !s.image.grants.any (fun g => grantCovers g role false a) then some 0x05
  else none

/-- Why an element of a SET fails (R544); the grants of a scene's elements are not consulted (R547). -/
def setStatus (role : Nat) (scene : Bool) (e : ParamElem) (s : State) : Option Nat :=
  let gs := s.image.grants.filter fun g => grantCovers g role true e.addr
  let free := scene || role == 0
  if (paramValue e.addr s).isNone then some 0x07
  else if !free && gs.isEmpty then some 0x05
  else if e.addr.inst == 0xFF then some 0x09
  else if e.addr.inst == 0xF0 || (match ownerPar e.addr s with | some p => !p.writable | none => false) then some 0x08
  else if !free && !(gs.any fun g => decide (g.lo.toInt ≤ e.value.toInt ∧ e.value.toInt ≤ g.hi.toInt)) then some 0x06
  else if !valueFits e.addr e.value s then some 0x06
  else none

/-- The first failure of a list of checks, as a reply. -/
def firstFailure (l : List (Option Nat)) : Option Reply :=
  match (l.zip (List.range l.length)).find? fun e => e.1.isSome with
  | some e => some (errReply (e.1.getD 0) e.2)
  | none => none

/-- Is this the standby of a matched pair, which accepts no changes (R321)? -/
def notHolder (s : State) : Bool := paired s && rdB DRN_STAT_MATCH s && !isHolder s

/-- The apply block that a message names (R24, R546): with NOW the first block that is not late. -/
def applyOf (h : MsgHead) (s : State) : Nat :=
  if h.now then (judgeBlock s + 1) % 2 ^ 32 else if h.ptp then blockFrom h.apply.toNat % 2 ^ 32 else h.apply.toNat

/-- Elements go in as one message of changes (R23-R28, R544, R546). -/
def setElements (h : MsgHead) (es : List ParamElem) (s : State) : Reply × State :=
  if notHolder s then (errReply 0x0E 0xFFFF, s)
  else
    let cs := es.map fun e => ({ elem := .par e.addr.inst e.addr.pid e.addr.index, value := e.value, apply := 0 } : Change)
    let r := acceptChanges cs (applyOf h s) (changeWords (s.tl.pend ++ cs) s) s
    match r.1 with
    | .accepted a late => ({ okReply [] with late := late, apply := a }, r.2)
    | .far => (errReply 0x0A 0xFFFF, r.2)
    | .full => (errReply 0x0B 0xFFFF, r.2)
    | .taint => (errReply 0x0F 0xFFFF, r.2)

/-- An element address as two words (R543). -/
def addrWords (a : ParamAddr) : List (BitVec 32) := [a.inst ++ a.pid ++ (0 : BitVec 8), a.index]

/-- GET (R545): up to 111 elements. -/
def execGet (h : MsgHead) (els : List ParamAddr) (s : State) : Out :=
  .next (request 0x10 (some 0) false h (fun x t =>
    if 111 < els.length then (some (errReply 0x01 0xFFFF), t)
    else match firstFailure (els.map fun a => getStatus x.role a t) with
      | some r => (some r, t)
      | none => (some (okReply (BitVec.ofNat 32 (rd GLB_GEN_GEN t * 65536 + els.length) ::
          els.flatMap fun a => addrWords a ++ [(paramValue a t).getD 0])), t)) noMore s)

/-- SET (R546): 1 to 113 elements. -/
def execSet (h : MsgHead) (els : List ParamElem) (s : State) : Out :=
  .next (request 0x11 (some 1) true h (fun x t =>
    if els.isEmpty || Nat.blt 113 els.length then (some (errReply 0x01 0xFFFF), t)
    else match firstFailure (els.map fun e => setStatus x.role false e t) with
      | some r => (some r, t)
      | none => let r := setElements h els t; (some r.1, r.2)) noMore s)

/-- SCENE (R547): the whole scene is one message. -/
def execScene (h : MsgHead) (num : BitVec 16) (s : State) : Out :=
  .next (request 0x12 (some 4) true h (fun x t =>
    match t.image.scenes.find? fun e => e.1 == num.toNat with
    | none => (some (errReply 0x07 0xFFFF), t)
    | some e => match firstFailure (e.2.map fun p => setStatus x.role true p t) with
      | some r => (some r, t)
      | none => let r := setElements h e.2 t; (some r.1, r.2)) noMore s)

/-! ### Meters and events (R549-R551) -/

/-- Has a role a grant with R on a meter, for any parameter of it (R549)? -/
def meterGranted (role m : Nat) (s : State) : Bool :=
  role == 0 || (List.range 256).any fun p => s.image.grants.any fun g => grantCovers g role false ⟨5, BitVec.ofNat 8 p, BitVec.ofNat 32 m⟩

/-- The meters subscribed after a request: an added one takes the new DIV. -/
def meterList (add : Bool) (div : Nat) (ms : List Nat) (old : List (Nat × Nat × Nat)) : List (Nat × Nat × Nat) :=
  if add then
    (old.map fun e => if ms.contains e.1 then (e.1, div, e.2.2) else e) ++
      ((ms.eraseDups.filter fun m => !old.any fun e => e.1 == m).map fun m => (m, div, 0))
  else old.filter fun e => !ms.contains e.1

/-- METER_SUB (R549). -/
def execMeterSub (h : MsgHead) (mode div : BitVec 8) (meters : List (BitVec 16)) (s : State) : Out :=
  let ms := meters.map (·.toNat)
  .next (request 0x13 (some 2) false h (fun x t =>
    if ms.isEmpty || Nat.blt 64 ms.length || Nat.blt 1 mode.toNat || div == 0 then (some (errReply 0x01 0xFFFF), t)
    else
      let add := mode == 1
      match firstFailure (ms.map fun m => if 1024 ≤ m then some 0x07 else if add && !meterGranted x.role m t then some 0x05 else none) with
      | some r => (some r, t)
      | none =>
        let now := meterList add div.toNat ms x.meters
        let others := ((t.halv.sessions.filter fun q => q.num != x.num).map fun q => q.meters.length).foldl (· + ·) 0
        if add && (Nat.blt 256 now.length || Nat.blt 2048 (others + now.length)) then (some (errReply 0x12 0xFFFF), t)
        else (some (okReply []), setSession x.num (fun q => { q with meters := now }) t)) noMore s)

/-- EVENT_SUB (R550). -/
def execEventSub (h : MsgHead) (mask : BitVec 16) (s : State) : Out :=
  .next (request 0x14 (some 3) false h (fun x t => (some (okReply []), setSession x.num (fun q => { q with mask := mask }) t)) noMore s)

/-- The most items of a kind that an EVENT holds (R551). -/
def eventCap (k : EventKind) : Nat := match k with
  | .meter => 37
  | .fault => 42

/-- An item as words (R551). -/
def eventItem (k : EventKind) (ws : List Word) : List (BitVec 32) := match k with
  | .meter => (ws.headD 0 <<< 16) :: ws.drop 1
  | .fault => ws

/-- EVENT (R551): the records of a kind that wait go to the client; at most 100 EVENTs per second. -/
def execEvent (num : BitVec 32) (kind : EventKind) (s : State) : Out :=
  .next (match getSession num.toNat s with
  | none => s
  | some x =>
    let items := ((x.queue.filter fun e => e.1 == kind).map (·.2)).take (eventCap kind)
    if items.isEmpty || Nat.ble 100 (lastSecond x.sent s).length then s
    else
      let dropped := match kind with | .meter => x.dropMeter | .fault => x.dropFault
      let code := match kind with | .meter => 1 | .fault => 2
      let later := (x.queue.filter fun e => e.1 == kind).drop items.length
      let body := BitVec.ofNat 32 (code * 16777216 + items.length) :: BitVec.ofNat 32 dropped :: items.flatMap (eventItem kind)
      let m : HalvonOut := ⟨0x15, x.num, x.tx + 1, false, 0, 0, false, false, false, 0xFFFF, 0, 0, body⟩
      let s1 := setSession x.num (fun q => { q with
        tx := q.tx + 1, sent := lastSecond q.sent s ++ [s.ns.toNat], queue := (q.queue.filter fun e => e.1 != kind) ++ later
        dropMeter := if kind == .meter then 0 else q.dropMeter, dropFault := if kind == .fault then 0 else q.dropFault }) s
      let s2 := onHalv (fun h => { h with out := [m] }) s1
      if 0xFFFFFFFF ≤ x.tx + 1 then endSession x.num s2 else s2)

/-- Take the first record of a kind out of a queue. -/
def dropFirst (k : EventKind) : List (EventKind × List Word) → List (EventKind × List Word)
  | [] => []
  | e :: r => if e.1 == k then r else e :: dropFirst k r

/-- EVENT_DROP_TIMEOUT (R551): the oldest record of a kind has waited for 100 ms. -/
def execEventDropTimeout (num : BitVec 32) (kind : EventKind) (s : State) : Out :=
  .next (match getSession num.toNat s with
  | none => s
  | some x =>
    if x.queue.any fun e => e.1 == kind then
      onHalv (fun h => { h with eventDrops := statUp h.eventDrops }) (setSession x.num (fun q => { q with
        queue := dropFirst kind q.queue
        dropMeter := if kind == .meter then q.dropMeter + 1 else q.dropMeter
        dropFault := if kind == .fault then q.dropFault + 1 else q.dropFault }) s)
    else s)

/-! ### Capture windows (R552) -/

/-- A BSN as the absolute block nearest the block in progress (R614). -/
def absBlock (bsn : Nat) (s : State) : Nat := (widen 32 bsn s.tl.k.toNat).toNat

/-- The start block that a CAPTURE names. -/
def capStart (flags : BitVec 8) (start : BitVec 64) (s : State) : Nat :=
  if flags.getLsbD 2 then (s.tl.k.toNat + 1) % 2 ^ 32 else if flags.getLsbD 0 then blockFrom start.toNat % 2 ^ 32 else start.toNat % 2 ^ 32

/-- The start block as R36 moves it. -/
def movedStart (b start : Nat) : Nat :=
  match serialCmp 32 start b with
  | .later _ => start
  | .outOfWindow => start
  | _ => (b + 1) % 2 ^ 32

/-- The stop block that a CAPTURE names, counted from a start block with STOP_REL. -/
def capStop (flags : BitVec 8) (start : Nat) (stop : BitVec 64) : Nat :=
  if flags.getLsbD 3 then (start + stop.toNat) % 2 ^ 32 else if flags.getLsbD 1 then blockFrom stop.toNat % 2 ^ 32 else stop.toNat % 2 ^ 32

/-- The status of a window that does not resolve (R17, R35). -/
def windowStatus (w : WindowRes) : Nat := match w with
  | .empty => 0x0C
  | .long => 0x0D
  | _ => 0x0A

/-- The status of a capture request that is refused (R552). -/
def capStatus (r : CapRes) : Nat := match r with
  | .rate => 0x15
  | .space => 0x14
  | .wear => 0x13
  | _ => 0x16

/-- The reply to an accepted request: CAPID, start and stop block; APPLY_BSN is the start block. -/
def capReply (id start stop : Nat) (late stopLate : Bool) : Reply :=
  { okReply [BitVec.ofNat 32 id, BitVec.ofNat 32 start, BitVec.ofNat 32 stop] with late := late, stopLate := stopLate, apply := start % 2 ^ 32 }

/-- A resolved window is opened, or the reason why not is given (R552). -/
def openWindow (w : WindowRes) (flags : BitVec 8) (s : State) : Reply × State :=
  match w with
  | .ok x y late =>
    let r := openCapture (absBlock x s) (absBlock y s) (flags.getLsbD 4) s
    match r.1 with
    | .ok => (capReply (rd FL_CAP_CAPID r.2) x y late false, leaveQuiet r.2)
    | e => (errReply (capStatus e) 0xFFFF, r.2)
  | w => (errReply (windowStatus w) 0xFFFF, countWindow w s)

/-- Open a window (R34-R36, R512, R552). -/
def capOpen (flags : BitVec 8) (start stop : BitVec 64) (s : State) : Reply × State :=
  let b := s.tl.k.toNat % 2 ^ 32
  let st := capStart flags start s
  openWindow (resolveWindow b st (capStop flags (movedStart b st) stop)) flags s

/-- The reply to a change of a stop. -/
def stopReply (w : CapWindow) (now : Bool) (z : Nat) (late : Bool) (q : CapRes × State) : Reply × State :=
  match q with
  | (.ok, t) => (capReply w.id (w.start % 2 ^ 32) z false (late && !now), t)
  | (e, t) => (errReply (capStatus e) 0xFFFF, t)

/-- The stop of a window moves to a resolved block, or the reason why not is given (R552). -/
def moveStop (w : CapWindow) (now : Bool) (r : WindowRes) (s : State) : Reply × State :=
  match r with
  | .ok _ z late => stopReply w now z late (changeStop w (absBlock z s) s)
  | e => (errReply (windowStatus e) 0xFFFF, countWindow e s)

/-- Change the stop of a window, or stop it now (R37, R490, R552). -/
def capChange (now : Bool) (flags : BitVec 8) (id : Nat) (stop : BitVec 64) (s : State) : Reply × State :=
  let unknown := errReply (if s.flash.captures.any fun c => c.id == id then 0x16 else 0x07) 0xFFFF
  match s.flash.window with
  | none => (unknown, s)
  | some w =>
    if w.id != id then (unknown, s)
    else
      let b := s.tl.k.toNat % 2 ^ 32
      let st := w.start % 2 ^ 32
      moveStop w now (resolveStop b st (if now then (b + 1) % 2 ^ 32 else capStop flags st stop) (Nat.ble w.start s.tl.k.toNat)) s

/-- CAPTURE (R552). -/
def execCapture (h : MsgHead) (op flags : BitVec 8) (capid : BitVec 32) (start stop : BitVec 64) (s : State) : Out :=
  .next (request 0x16 (some 5) false h (fun _ t =>
    if 2 < op.toNat || 32 ≤ flags.toNat || (op == 0 && capid != 0) then (some (errReply 0x01 0xFFFF), t)
    else if notHolder t then (some (errReply 0x0E 0xFFFF), t)
    else
      let r := if op == 0 then capOpen flags start stop t else capChange (op == 2) flags capid.toNat stop t
      (some r.1, r.2)) noMore s)

/-! ### Pair, log, life and keys (R553-R556) -/

/-- CASTLE (R333, R553): a request that travels to the holder is answered when PROPOSE arrives. -/
def execCastle (h : MsgHead) (s : State) : Out :=
  .next (request 0x17 (some 6) false h (fun x t =>
    let r := castleRequest t
    match r.1 with
    | .proposed c => (some { okReply [] with apply := c % 2 ^ 32 }, pairDerive r.2)
    | .joined c => (some { okReply [] with apply := c % 2 ^ 32 }, pairDerive r.2)
    | .sentOn => (none, onHalv (fun q => { q with castle := q.castle ++ [(x.num, h.seq.toNat)] }) (pairDerive r.2))
    | .refused => (some (errReply 0x16 0xFFFF), pairDerive r.2)) noMore s)

/-- The bodies of the LOG_READ responses: COUNT, then up to 41 records each. -/
def logBodies : Nat → List (Nat × FaultRec) → List (List (BitVec 32))
  | 0, _ => []
  | n + 1, l =>
    let now := l.take 41
    let body := BitVec.ofNat 32 (now.length * 65536) :: now.flatMap fun e => recWords e.1 e.2
    if l.length ≤ 41 then [body] else body :: logBodies n (l.drop 41)

/-- LOG_READ (R554). -/
def execLogRead (h : MsgHead) (first : BitVec 32) (max : BitVec 16) (s : State) : Out :=
  .next (request 0x18 (some 7) false h (fun _ t =>
    if max == 0 then (some (errReply 0x01 0xFFFF), t)
    else
      let l := (durableFrom first.toNat t).take max.toNat
      let cut := match t.flash.pages.flatten.head? with
        | some e => serialLater 32 e.1 first.toNat
        | none => false
      (some { okReply [] with trunc := cut, bodies := logBodies (l.length / 41 + 1) l }, t)) noMore s)

/-- The 64-byte summary (R555). The mean erase counts and worn fractions by region are free: which blocks form a region is
the descriptor's layout, which the spec does not give. -/
def lifeWords (s : State) : List (BitVec 32) × State :=
  let two := fun a b => BitVec.ofNat 32 (a * 65536 + b)
  let w := [BitVec.ofNat 32 (rd (KS_DEVID_ID 1) s), BitVec.ofNat 32 (rd (KS_DEVID_ID 0) s),
    two (rd GLB_ID_PART s) (rd GLB_ID_STEP s * 256 + rd KS_STAT_EPOCH s),
    two (rd FL_LIFE_REMAIN s * 256 + rd FL_LIFE_SPARE s) (rd FL_LIFE_DAYS s), two (rd FL_WEAR_USED s) (rd FL_WEAR_BUDGET s),
    two (rd FL_CNT2_GROWN_COUNT s) (rd FL_CNT_UNCORR_COUNT s), two (rd FL_CNT2_REFRESH_COUNT s) (rd FL_GEOM_DIES s)]
  let r := (List.range 7).foldl (fun x _ => (x.1 ++ [freeVal 32 x.2], freeNext x.2)) (w, s)
  (r.1 ++ [0, 0], r.2)

/-- LIFE (R555): the summary, then the device certificate. -/
def execLife (h : MsgHead) (s : State) : Out :=
  .next (request 0x19 (some 8) false h (fun _ t =>
    let w := lifeWords t
    (some { okReply [] with bodies := [w.1, deviceCert t] }, w.2)) noMore s)

/-- A judged rekey is held for its apply BSN, or rejected (R23, R28, R556). -/
def enterRekey (r : SakRecord) (j : Judged) (s : State) : Option Reply × State :=
  let enter := fun (x : Nat) (late : Bool) =>
    let c : Change := ⟨.rekey ⟨r.mac.val, by omega⟩ r.an, 0, BitVec.ofNat 32 x⟩
    if storeHolds s.tl.pend [c] then
      (some { okReply [] with late := late, apply := x }, installSak r (BitVec.ofNat 32 x) (enterChanges [c] late s))
    else (some (errReply 0x0B 0xFFFF), countFull s)
  match j with
  | .far => (some (errReply 0x0A 0xFFFF), countFar s)
  | .held x => enter x false
  | .late x => enter x true

/-- MACSEC_REKEY (R226, R556): the key is installed, and the pending store holds the change until its apply block. -/
def execMacsecRekey (h : MsgHead) (r : SakRecord) (s : State) : Out :=
  .next (request 0x1A (some 10) true h (fun _ t =>
    let b := t.tl.k.toNat
    let a := if h.now then (b + 1) % 2 ^ 32 else if h.ptp then blockFrom h.apply.toNat % 2 ^ 32 else h.apply.toNat
    if !rekeyOk r.mac.val r.an.val t then (some (errReply 0x16 0xFFFF), t) else enterRekey r (judgeApply b a) t) noMore s)

end Sys2Proof.Machine
end

