-- ==== Sys2Proof/Machine/Block.lean ====
section
/-! DEFINITION. The block boundary (R13-R15, R18, R21-R30): the block number advances, the changes that are due land, and
every per-block action of the engine runs. -/

namespace Sys2Proof.Machine

/-- Does a change belong to the apply of data block `d`? One whose block has been passed over lands at once (log entry 77: DESIGN CHOICE). -/
def changeDue (d : Nat) (c : Change) : Bool := !serialLater 32 c.apply.toNat (d % 2 ^ 32)

/-- A change is taken into the active copy (R21, R22). A rekey acts by R226 on its own. -/
def landChange (c : Change) (s : State) : State :=
  match c.elem with
  | .word a => landWord a c.value s
  | .par inst pid x =>
    match parField inst.toNat pid.toNat x.toNat s with
    | some f => landWord f.addr (putField (rdReg f.addr s) f.lo f.w c.value.toNat) s
    | none =>
      { s with image := { s.image with
        params := s.image.params.map fun p => if p.addr == (⟨inst, pid, x⟩ : ParamAddr) then { p with value := c.value } else p } }
  | .rekey _ _ => s

/-- A change of the data block whose assembly begins comes into force in the front-end (R22, R137). -/
def aheadChange (c : Change) (s : State) : State :=
  match c.elem with
  | .word a => aheadWord a c.value s
  | .par inst pid x =>
    match parField inst.toNat pid.toNat x.toNat s with
    | some f => aheadWord f.addr (putField (mapGet (fun b => rdReg b s) s.graph.ahead f.addr) f.lo f.w c.value.toNat) s
    | none => s
  | .rekey _ _ => s

/-- Does a list of changes hold a parameter change, so that its landing is an apply (R25, R26)? -/
def isApply (cs : List Change) : Bool := cs.any fun c => match c.elem with
  | .rekey _ _ => false
  | _ => true

/-- The apply of data block `d` (R25, R26): its changes land together, and GEN advances by one. -/
def landApply (d : Nat) (s : State) : State :=
  let cs := s.tl.pend.filter (changeDue d)
  let s1 := forEach cs landChange (onlyIf (!cs.isEmpty) (setPend (s.tl.pend.filter (!changeDue d ·))) s)
  onlyIf (isApply cs) (seqNext GLB_GEN_GEN) s1

/-- A resync staged for data block `d` replaces the parameter set and GEN (R323). -/
def landResync (d : Nat) (s : State) : State :=
  match s.pair.staged with
  | none => s
  | some (a, gen, cs) =>
    if serialLater 32 a.toNat (d % 2 ^ 32) then s
    else wr GLB_GEN_GEN gen.toNat (forEach cs landChange (onPair (fun p => { p with staged := none }) s))

/-- GEN in force for data block `d` is noted; notes of old data blocks go (R26, R162). -/
def noteGen (d : Nat) (s : State) : State :=
  { s with tl := { s.tl with
      gens := mapInsert d (BitVec.ofNat 16 (rd GLB_GEN_GEN s)) (mapDrop (fun b => Nat.blt (b + 32) d) s.tl.gens) } }

/-- The parameters at the start of block `k`, in which data block `k` is assembled and data block `k` - 1 processed
(R18, R21). -/
def paramTick (s : State) : State :=
  let s1 := laterChanges s
  let s2 := noteGen (dataBlock 1 s1) (landResync (dataBlock 1 s1) (landApply (dataBlock 1 s1) s1))
  forEach (s2.tl.pend.filter (changeDue (dataBlock 0 s2))) aheadChange s2

/-- A network heartbeat is launched on its MACs at the start of the block (R327). -/
def heartbeatTick (s : State) : State :=
  if paired s && rdB DRN_CFG_NETHB s then
    let f : TxFrame := ⟨7, blockStart s.tl.k.toNat, 512, 64, s.tl.k.toNat, 0, 0, false, false, []⟩
    forEach ([rd DRN_PAIRID_HBMAC0 s, rd DRN_PAIRID_HBMAC1 s].filter (Nat.blt · 12)).eraseDups (fun m t => queueAudio m f t) s
  else s

/-- A data block whose output has ended is captured and recorded (R486, R491). -/
def writersTick (s : State) : State :=
  if s.tl.k.toNat < 3 then s else recorderBlock (dataBlock 3 s) (captureBlock (dataBlock 3 s) s)

/-- The block number advances by one, and the timebase stands at the block's start or after it (R13-R15). -/
def advanceBlock (s : State) : State :=
  let k := s.tl.k + 1
  if s.ns.toNat < blockStart k.toNat then
    { s with tl := { s.tl with k := k }, ns := BitVec.ofNat 64 (blockStart k.toNat), frac := 0 }
  else { s with tl := { s.tl with k := k } }

/-- The per-block actions in the new block. -/
def blockActions (s : State) : State :=
  let s1 := quietEnds (onlyIf s.pawn.stopAudio stopAudio s)
  let s2 := bridgeTick (modTick (graphTick (podsTick (paramTick s1))))
  let s3 := laneTick (rookTick (pairTick s2))
  let s4 := heartbeatTick (egressTick (forEach (List.range 12) secTick s3))
  showPend (quietWatch (writersTick (xbTick (fbTick s4))))

/-- BLOCK_BOUNDARY (R13-R15): the next block starts. Until the timebase is set no block is numbered, and nothing happens. -/
def execBlockBoundary (s : State) : Out :=
  .next (if tlValid s then blockActions (advanceBlock (graphEnd (podsEnd s))) else s)

end Sys2Proof.Machine
end

