-- ==== Sys2Proof/Machine/Crossbar.lean ====
section
/-! DEFINITION. The crossbar: transactions, their pieces and tags, arbitration, responses and timeouts (R453-R463). -/

namespace Sys2Proof.Machine

/-! ### Targets (R454) -/

/-- The target of a range of addresses: 0 register space, 1 + n the shared memory of pod n, 17 + n DRAM controller n; none: the
default target (R454). -/
def targetOf (a len : Nat) (s : State) : Option Nat :=
  if 0x40000000 ≤ a ∧ a + len ≤ 0x50000000 then some 0
  else if 0x08000000 ≤ a ∧ a + len ≤ 0x0C000000 ∧ (a - 0x08000000) / 0x400000 = (a + len - 1 - 0x08000000) / 0x400000 then
    some (1 + (a - 0x08000000) / 0x400000)
  else
    match dramOffset a len s with
    | some o => some (17 + drcOf o s)
    | none => none

/-- A byte of a pod's shared memory, by its byte offset, little-endian. -/
def sharedByte (n o : Nat) (s : State) : BitVec 8 := (rdShared n (o / 4) s).extractLsb' (8 * (o % 4)) 8

/-- Write a byte of a pod's shared memory. -/
def putShared (n o : Nat) (b : BitVec 8) (s : State) : State := wrShared n (o / 4) (putField (rdShared n (o / 4) s) (8 * (o % 4)) 8 b.toNat) s

/-- Is a byte of DRAM in a golden chunk, whose stored form the spec does not show (R199)? -/
def inGolden (a : Nat) (s : State) : Bool := s.ks.golden.any fun e => e.1 == a / 4096

/-- Bytes read from DRAM; those of golden chunks are ciphertext, a free value each (log entry 27: DESIGN CHOICE). -/
def readDramAt : Nat → Nat → State → List (BitVec 8) × State
  | 0, _, s => ([], s)
  | n + 1, a, s =>
    let b := if inGolden a s then freeVal 8 s else rdDram (a - 0x1000000000) s
    let r := readDramAt n (a + 1) (onlyIf (inGolden a s) freeNext s)
    (b :: r.1, r.2)

/-- Bytes written to DRAM; a golden chunk that is overwritten is one no more (its tag fails). -/
def writeDramAt (a : Nat) (bs : List (BitVec 8)) (s : State) : State :=
  let t := wrDramBytes bs (a - 0x1000000000) s
  { t with ks := { t.ks with golden := t.ks.golden.filter fun e =>
      !(Nat.ble (a / 4096) e.1 && Nat.ble e.1 ((a + bs.length - 1) / 4096)) } }

/-- A word of a list of bytes, little-endian. -/
def wordAt (bs : List (BitVec 8)) (i : Nat) : Word :=
  (bs[i + 3]?).getD 0 ++ (bs[i + 2]?).getD 0 ++ (bs[i + 1]?).getD 0 ++ (bs[i]?).getD 0

/-- Consecutive register accesses of a transaction, in rising address order (R560): whether one was in error, and the
bytes read. -/
def regAccess (m : Nat) (user write : Bool) (a : Nat) (bs : List (BitVec 8)) : Nat → Nat → State → Bool × List (BitVec 8) × State
  | 0, _, s => (false, [], s)
  | n + 1, i, s =>
    if write then
      let r := registerWrite m user false (a + 4 * i) (wordAt bs (4 * i)) s
      let q := regAccess m user write a bs n (i + 1) r.2
      (r.1 || q.1, q.2.1, q.2.2)
    else
      let r := registerRead m user (a + 4 * i) s
      let q := regAccess m user write a bs n (i + 1) r.2.2
      (r.1 || q.1, leBytes r.2.1 ++ q.2.1, q.2.2)

/-- A target performs a piece: whether its response is an error, the bytes read, and what it leaves (R202, R203, R454, R466,
R560). `ecc` is an error that a DRAM read finds. -/
def performPiece (m : Nat) (user write : Bool) (target a len : Nat) (bs : List (BitVec 8)) (ecc : Option DramErr) (s : State) :
    Bool × List (BitVec 8) × State :=
  if target = 0 then
    if a % 4 != 0 || len % 4 != 0 then (true, List.replicate len 0, decodeError m a s)
    else regAccess m user write a bs (len / 4) 0 s
  else if target < 17 then
    let n := target - 1
    let o := a - 0x08000000 - n * 0x400000
    if write then (false, [], forEach (List.range len) (fun i t => putShared n (o + i) ((bs[i]?).getD 0) t) s)
    else if podSealed n s then (true, List.replicate len 0, raiseAccess (101 + 10 * n) 5 m false user a s)
    else (false, (List.range len).map fun i => sharedByte n (o + i) s, s)
  else if write then (false, [], writeDramAt a bs s)
  else
    let s1 := match ecc with
      | some e => dramError (target - 17) e s
      | none => s
    let bad := match ecc with
      | some e => e.ue
      | none => false
    let r := readDramAt len a s1
    (bad, if bad then List.replicate len 0 else r.1, r.2)

/-! ### Tags (R460) -/

/-- The outstanding transactions of a master, oldest first. -/
def transOf (m : Nat) (s : State) : List XbTrans := s.xb.trans.filter fun t => t.req.master.toNat == m && !t.freed

/-- `XB_TAGS` and `XB_MSTAT.OUT` show the tags in use. -/
def showTags (m : Nat) (s : State) : State :=
  let n := (s.xb.trans.filter fun t => !t.freed).length
  wrSat XB_TAGS_HWM (max n (rd XB_TAGS_HWM s)) (wrSat XB_TAGS_INUSE n (wrSat (XB_MSTAT_OUT m) (transOf m s).length s))

/-- Change one transaction. -/
def setTrans (id : Nat) (f : XbTrans → XbTrans) (s : State) : State :=
  onXb (fun q => { q with trans := q.trans.map fun t => if t.id == id then f t else t }) s

/-! ### Pieces (R455-R458) -/

/-- The bytes from an address to the end of its 256 B piece, at most `len` (R457). -/
def pieceLen (a len : Nat) : Nat := min len (256 - a % 256)

/-- The QoS that a piece arrives with (R455, R456). -/
def arrivalQos (r : XbReq) (within : Bool) (s : State) : Nat :=
  let m := r.master.toNat
  if m = 0xA ∧ r.urgent then 15
  else
    let q := if within then rd (XB_MCFG_QOS m) s else rd (XB_MCFG_QOVER m) s
    if m = 4 then q else min q 14

/-- The next piece of a transaction arrives at its target; at a DRAM target its length is taken from the master's credit, if
that holds it (R457, R458). -/
def arrivePiece (t : XbTrans) (target : Nat) (s : State) : State :=
  let m := t.req.master.toNat
  let a := t.req.addr.toNat + t.at_
  let len := pieceLen a (t.req.len.toNat - t.at_)
  let units := (len + 63) / 64
  let left := mapGet (fun _ => 0) s.xb.credit m
  let within := Nat.blt target 17 || Nat.ble units left
  let p : XbPiece := ⟨t.id, target, a, len, m, s.xb.arrivals, arrivalQos t.req within s, within⟩
  let s1 := onXb (fun q => { q with pieces := q.pieces ++ [p], arrivals := q.arrivals + 1 }) s
  if target < 17 then s1
  else if within then onXb (fun q => { q with credit := mapSet (fun _ => 0) q.credit m (left - units) }) s1
  else if s.xb.overSeen.contains m then s1
  else count (XB_MCNT_OVER_COUNT m) (XB_MSTAT_OVER_SAT m) 93 (onXb (fun q => { q with overSeen := m :: q.overSeen }) s1)

/-- The pages that a range touches, as the firewall meets them (R464). -/
def pagesOf (a len : Nat) : List Nat := (List.range ((a + len - 1) / 4096 - a / 4096 + 1)).map fun i => max a ((a / 4096 + i) * 4096)

/-- A transaction takes a tag and is checked and decoded (R453, R454, R464). -/
def issueTrans (r : XbReq) (s : State) : State :=
  let m := r.master.toNat
  let a := r.addr.toNat
  let len := r.len.toNat
  let user := r.user && Nat.blt m 5
  let t : XbTrans := ⟨s.xb.nextId, { r with user := user }, s.ns.toNat, 0, [], false, false, false⟩
  let s1 := showTags m (onXb (fun q => { q with trans := q.trans ++ [t], nextId := q.nextId + 1 }) s)
  let zeros : List (BitVec 8) := if r.write then [] else List.replicate len 0
  let fail := fun (u : State) => setTrans t.id (fun x => { x with err := true, done := true, data := zeros }) u
  let inRegs := Nat.ble 0x40000000 a && Nat.blt a 0x50000000
  match (if inRegs then none else (pagesOf a len).findSome? fun p => fwRefusal m r.write user p s1) with
  | some d => fail (logRefusal d m r.write user a s1)
  | none =>
    match targetOf a len s1 with
    | none => fail (decodeError m a s1)
    | some target => arrivePiece t target s1

/-- May a master take a tag now (R460)? -/
def tagFree (m : Nat) (s : State) : Bool :=
  Nat.blt (transOf m s).length (rd (XB_MCFG_TAGS m) s) && Nat.blt (s.xb.trans.filter fun t => !t.freed).length 8192

/-- Is the ID one of a master (R453)? -/
def isMaster (m : Nat) : Bool := Nat.blt m 0xF || (Nat.ble 0x10 m && Nat.ble m 0x21)

/-- XB_TRANSACTION (R453): a master issues a transaction at `ns`, or waits for a tag (R460). -/
def execXbTransaction (r : XbReq) (ns : BitVec 64) (s : State) : Out :=
  let m := r.master.toNat
  if !isMaster m || r.len == 0 || (r.write && r.data.length != r.len.toNat) then .fault .illFormed
  else
    let s1 := runTo ns.toNat s
    .next (if tagFree m s1 then issueTrans r s1
      else count (XB_MCNT_TAGWAIT_COUNT m) (XB_MSTAT_TAGWAIT_SAT m) 93 (onXb (fun q => { q with waiting := q.waiting ++ [r] }) s1))

/-! ### Arbitration (R455, R461, R463) -/

/-- Is fixed priority in force (R463)? -/
def fixedPriority (s : State) : Bool := !rdB XB_CTL_QOSEN s || rdB XB_STAT_FALLBACK s

/-- The keys by which a target orders pieces, first key first, smaller first (R455, R463). -/
def pieceKeys (p : XbPiece) (s : State) : List Nat :=
  let top := if p.qos = 15 then 0 else 1
  if fixedPriority s then [top, rd (XB_MCFG_FPRI p.master) s, p.master, p.arr]
  else [top, if p.within then 0 else 1, 15 - p.qos, p.arr, p.master]

/-- Lexicographic order of keys. -/
def keysBefore : List Nat → List Nat → Bool
  | a :: as, b :: bs => Nat.blt a b || (a == b && keysBefore as bs)
  | _, _ => false

/-- Must a piece wait for an earlier access of its master to the same 256 B address (R461)? -/
def mustWait (p : XbPiece) (s : State) : Bool :=
  s.xb.trans.any fun t => t.req.master.toNat == p.master && Nat.blt t.id p.id && !t.done &&
    Nat.ble ((t.req.addr.toNat + t.at_) / 256) (p.addr / 256) &&
    Nat.ble (p.addr / 256) ((t.req.addr.toNat + t.req.len.toNat - 1) / 256)

/-- The first of a list of pieces by their keys. -/
def firstPiece (s : State) : List XbPiece → Option XbPiece
  | [] => none
  | p :: r =>
    match firstPiece s r with
    | none => some p
    | some q => if keysBefore (pieceKeys q s) (pieceKeys p s) then some q else some p

/-- The piece that a target serves next. -/
def nextPiece (target : Nat) (s : State) : Option XbPiece :=
  firstPiece s (s.xb.pieces.filter fun p => p.target == target && !mustWait p s)

/-- Requests that wait for a tag are issued as tags become free (R460). -/
def issueWaiting (m : Nat) (s : State) : State :=
  match s.xb.waiting.find? fun r => r.master.toNat == m with
  | none => s
  | some r => if tagFree m s then issueTrans r (onXb (fun q => { q with waiting := q.waiting.erase r }) s) else s

/-- A piece of a transaction has been performed: the next one arrives now, or the transaction is complete (R457); one whose
tag was freed gives no response (R462). -/
def pieceDone (t : XbTrans) (p : XbPiece) (r : Bool × List (BitVec 8) × State) : State :=
  let t1 : XbTrans := { t with at_ := t.at_ + p.len, data := t.data ++ r.2.1, err := t.err || r.1 }
  if t1.at_ < t.req.len.toNat then
    let s1 := setTrans t.id (fun _ => t1) r.2.2
    match targetOf (t.req.addr.toNat + t1.at_) 1 s1 with
    | some g => arrivePiece t1 g s1
    | none => setTrans t.id (fun x => { x with err := true, done := true }) s1
  else if t.freed then onXb (fun q => { q with trans := q.trans.filter (·.id != t.id) }) r.2.2
  else setTrans t.id (fun _ => { t1 with done := true }) r.2.2

/-- XB_PIECE_GRANT (R455): a target serves the first of its waiting pieces. -/
def execXbPieceGrant (target : Fin 19) (ecc : Option DramErr) (s : State) : Out :=
  .next (match nextPiece target.val s with
  | none => s
  | some p =>
    let s1 := onXb (fun q => { q with pieces := q.pieces.filter fun x => !(x.id == p.id && x.addr == p.addr) }) s
    match s1.xb.trans.find? fun t => t.id == p.id with
    | none => s1
    | some t => pieceDone t p (performPiece p.master t.req.user t.req.write p.target p.addr p.len
        ((t.req.data.drop t.at_).take p.len) (if t.req.write then none else ecc) s1))

/-- XB_QOS_AGE (R455): a piece has waited another AGE_STEP cycles. -/
def execXbQosAge (target : Fin 19) (index : BitVec 14) (s : State) : Out :=
  .next (match (s.xb.pieces.filter fun p => p.target == target.val)[index.toNat]? with
  | none => s
  | some p => if p.qos < 14 then
      onXb (fun q => { q with pieces := q.pieces.map fun x => if x.id == p.id && x.addr == p.addr then { x with qos := x.qos + 1 } else x }) s
    else s)

/-! ### Responses (R461, R462) -/

/-- The response that a master gets next: reads in the order in which they were issued (R461). -/
def nextResponse (m : Nat) (s : State) : Option XbTrans :=
  let ts := transOf m s
  ts.find? fun t => t.done && (t.req.write || !ts.any fun u => Nat.blt u.id t.id && !u.req.write && !u.done)

/-- A response leaves: the tag is free, and a waiting request takes it. -/
def respond (t : XbTrans) (err : Bool) (s : State) : State :=
  let m := t.req.master.toNat
  issueWaiting m (showTags m (onXb (fun q => { q with
    out := some { master := m, addr := t.req.addr.toNat, data := if t.req.write then [] else t.data, err := err } }) s))

/-- XB_RESPONSE (R461). -/
def execXbResponse (master : BitVec 6) (s : State) : Out :=
  .next (match nextResponse master.toNat s with
  | none => s
  | some t => respond t t.err (onXb (fun q => { q with trans := q.trans.filter (·.id != t.id) }) s))

/-- XB_TIMEOUT (R462, R463): the oldest transaction of a master that has had no response for TO µs gets an error response; what
its target still does of it gives none. -/
def execXbTimeout (master : BitVec 6) (ns : BitVec 64) (s : State) : Out :=
  let s1 := runTo ns.toNat s
  .next (match (transOf master.toNat s1).find? fun t => Nat.ble (t.issued + rd XB_TIMEOUT_TO s1 * 1000) s1.ns.toNat with
  | none => s1
  | some t =>
    let s2 := if t.done then onXb (fun q => { q with trans := q.trans.filter (·.id != t.id) }) s1
      else setTrans t.id (fun x => { x with freed := true }) s1
    fallBack (raise 93 0xB002 0 (count XB_CNT_TIMEOUT_COUNT XB_STAT_TIMEOUT_SAT 93 (respond { t with data := [] } true s2))))

end Sys2Proof.Machine
end

