-- ==== Sys2Proof/Machine/PeaRows.lean ====
section
/-! DEFINITION. The data bundles of the pea core: the MAC format (R57, R58, R68), the ALU format (R70, R72), the moves
(R71) and the long-immediate format (R74). Each command is one bundle issued by the core it names. -/

namespace Sys2Proof.Machine

/-! ### The MAC format -/

/-- The MAC slot, when its stage predicate is 1 (R68): accumulators from their newest MAC results, products from the D
registers the bundle names. -/
def macSlot (c : Nat) (md : MacMode) (ps : List (Nat × Int)) (mstg : Nat) (r s : State) : State :=
  if !rdQ c mstg r then s
  else forEach ps (fun p t =>
    let v := accApply md (rdAMac c p.1 r) p.2
    onlyIf v.2 (flySticky c stAOV) (flyMac c p.1 v.1 t)) s

/-- The single-word products of a bundle. -/
def macProducts (c : Nat) (q1 : Bool) (m : MacSlots) (r : State) : List (Nat × Int) :=
  products q1 m.route.val m.acc.val (rdD c m.xa.val r) (rdD c m.xb.val r) (rdD c m.ya.val r) (rdD c m.yb.val r)

/-- The double-word products of a bundle. -/
def macDproducts (c : Nat) (m : MacSlots) (r : State) : List (Nat × Int) :=
  dproducts m.route.val m.acc.val (rdD c m.xa.val r) (rdD c m.xb.val r) (rdD c m.ya.val r) (rdD c m.yb.val r)

/-- A MAC-format bundle (R68): the MAC slot, the XMOVE, then the YMOVE. -/
def macBundle (c : Nat) (legal : Bool) (m : MacSlots) (slot : State → State → State) (s : State) : Out :=
  .next (issue c
    (fun r => ⟨legal, false, false,
      moveAccesses c (shortKind m.xmove.kind) (shortArgs .x m.xmove) r ++
      moveAccesses c (shortKind m.ymove.kind) (shortArgs .y m.ymove) r, [], none⟩)
    (fun r => doMove c (shortKind m.ymove.kind) (shortArgs .y m.ymove) r
      (doMove c (shortKind m.xmove.kind) (shortArgs .x m.xmove) r (slot r r)))
    noJump s)

/-- NOP of the MAC slot (R58): the moves alone. -/
def execMacNop (c : CoreId) (m : MacSlots) (s : State) : Out := macBundle c.val true m (fun _ t => t) s

/-- MPY: the routed accumulators take the products (R57, R58). -/
def execMpy (c : CoreId) (m : MacSlots) (s : State) : Out :=
  macBundle c.val true m (fun r t => macSlot c.val .set (macProducts c.val false m r) m.mstg.val r t) s

/-- MAC: the products are added (R57, R58). -/
def execMac (c : CoreId) (m : MacSlots) (s : State) : Out :=
  macBundle c.val true m (fun r t => macSlot c.val .add (macProducts c.val false m r) m.mstg.val r t) s

/-- MSU: the products are subtracted (R57, R58). -/
def execMsu (c : CoreId) (m : MacSlots) (s : State) : Out :=
  macBundle c.val true m (fun r t => macSlot c.val .sub (macProducts c.val false m r) m.mstg.val r t) s

/-- MPY.Q1: as MPY with Q1.22 coefficients (R57, R58). -/
def execMpyQ1 (c : CoreId) (m : MacSlots) (s : State) : Out :=
  macBundle c.val true m (fun r t => macSlot c.val .set (macProducts c.val true m r) m.mstg.val r t) s

/-- MAC.Q1 (R57, R58). -/
def execMacQ1 (c : CoreId) (m : MacSlots) (s : State) : Out :=
  macBundle c.val true m (fun r t => macSlot c.val .add (macProducts c.val true m r) m.mstg.val r t) s

/-- MSU.Q1 (R57, R58). -/
def execMsuQ1 (c : CoreId) (m : MacSlots) (s : State) : Out :=
  macBundle c.val true m (fun r t => macSlot c.val .sub (macProducts c.val true m r) m.mstg.val r t) s

/-- DMPY: the accumulators take the double-word products; routes 2 and 3 are illegal (R56, R58). -/
def execDmpy (c : CoreId) (m : MacSlots) (s : State) : Out :=
  macBundle c.val (Nat.blt m.route.val 2) m (fun r t => macSlot c.val .set (macDproducts c.val m r) m.mstg.val r t) s

/-- DMAC: they are added; routes 2 and 3 are illegal (R56, R58). -/
def execDmac (c : CoreId) (m : MacSlots) (s : State) : Out :=
  macBundle c.val (Nat.blt m.route.val 2) m (fun r t => macSlot c.val .add (macDproducts c.val m r) m.mstg.val r t) s

/-- DMSU: they are subtracted; routes 2 and 3 are illegal (R56, R58). -/
def execDmsu (c : CoreId) (m : MacSlots) (s : State) : Out :=
  macBundle c.val (Nat.blt m.route.val 2) m (fun r t => macSlot c.val .sub (macDproducts c.val m r) m.mstg.val r t) s

/-! ### The ALU format -/

/-- An ALU-format bundle (R70): the ALU operation when its stage predicate is 1, then the long move. -/
def aluBundle (c : Nat) (legal priv : Bool) (a : AluSlots) (op : State → State → State) (s : State) : Out :=
  .next (issue c (fun r => moveChecks c legal priv a.move.kind a.move.args r)
    (fun r => doMove c a.move.kind a.move.args r (if rdQ c a.astg.val r then op r r else r)) noJump s)

/-- Write the result of a D operation: the register (when it has one), the flags and the sticky flags, all visible to
the next bundle (R59). -/
def flyRes (c : Nat) (t : Option Tgt) (w : Nat) (x : AluRes w) (s : State) : State :=
  let s1 := match t with
    | some d => fly c 1 d (x.val.setWidth 56) s
    | none => s
  let s2 := onlyIf (x.mask != 0) (fly c 1 (.flags x.mask) (x.flags.setWidth 56)) s1
  onlyIf (x.sticky != 0) (flySticky c x.sticky) s2

/-- The D register an ALU operation writes. -/
def dstD (c : Nat) (a : AluSlots) (r : State) : Tgt := .d (physD (getPea c r) a.dst.val)

/-- An operation on D registers that writes D[DST]. -/
def dOp (c : CoreId) (a : AluSlots) (f : State → AluRes 24) (s : State) : Out :=
  aluBundle c.val true false a (fun r t => flyRes c.val (some (dstD c.val a r)) 24 (f r) t) s

/-- A value with no flags. -/
def noFlags {w : Nat} (v : BitVec w) : AluRes w := ⟨v, 0, 0, 0⟩

/-- Does a field name an accumulator or a pointer (R67)? -/
def isA (f : Fin 32) : Bool := Nat.blt f.val 8

/-- NOP of the ALU slot (R72): the long move alone. -/
def execAluNop (c : CoreId) (a : AluSlots) (s : State) : Out := aluBundle c.val true false a (fun _ t => t) s

/-- MOV: D[DST] takes D[SRCA] (R72). -/
def execMov (c : CoreId) (a : AluSlots) (s : State) : Out := dOp c a (fun r => noFlags (rdD c.val a.srca.val r)) s

/-- ADD, wrapping (R72). -/
def execAdd (c : CoreId) (a : AluSlots) (s : State) : Out := dOp c a (fun r => aluAdd false (rdD c.val a.srca.val r) (aluB c.val a r)) s

/-- SUB, wrapping (R72). -/
def execSub (c : CoreId) (a : AluSlots) (s : State) : Out := dOp c a (fun r => aluSub false (rdD c.val a.srca.val r) (aluB c.val a r)) s

/-- ADDS, saturating (R72). -/
def execAdds (c : CoreId) (a : AluSlots) (s : State) : Out := dOp c a (fun r => aluAdd true (rdD c.val a.srca.val r) (aluB c.val a r)) s

/-- SUBS, saturating (R72). -/
def execSubs (c : CoreId) (a : AluSlots) (s : State) : Out := dOp c a (fun r => aluSub true (rdD c.val a.srca.val r) (aluB c.val a r)) s

/-- AND (R72). -/
def execAnd (c : CoreId) (a : AluSlots) (s : State) : Out := dOp c a (fun r => aluBits (rdD c.val a.srca.val r &&& aluB c.val a r)) s

/-- OR (R72). -/
def execOr (c : CoreId) (a : AluSlots) (s : State) : Out := dOp c a (fun r => aluBits (rdD c.val a.srca.val r ||| aluB c.val a r)) s

/-- XOR (R72). -/
def execXor (c : CoreId) (a : AluSlots) (s : State) : Out := dOp c a (fun r => aluBits (rdD c.val a.srca.val r ^^^ aluB c.val a r)) s

/-- NOT of D[SRCA] (R72). -/
def execNot (c : CoreId) (a : AluSlots) (s : State) : Out := dOp c a (fun r => aluBits (~~~(rdD c.val a.srca.val r))) s

/-- ASL (R72). -/
def execAsl (c : CoreId) (a : AluSlots) (s : State) : Out := dOp c a (fun r => aluAsl (rdD c.val a.srca.val r) (aluCount c.val a r)) s

/-- ASLS, saturating (R72). -/
def execAsls (c : CoreId) (a : AluSlots) (s : State) : Out := dOp c a (fun r => aluAsls (rdD c.val a.srca.val r) (aluCount c.val a r)) s

/-- ASR (R72). -/
def execAsr (c : CoreId) (a : AluSlots) (s : State) : Out := dOp c a (fun r => aluAsr (rdD c.val a.srca.val r) (aluCount c.val a r)) s

/-- LSR (R72). -/
def execLsr (c : CoreId) (a : AluSlots) (s : State) : Out := dOp c a (fun r => aluLsr (rdD c.val a.srca.val r) (aluCount c.val a r)) s

/-- ABS, saturating (R72). -/
def execAbs (c : CoreId) (a : AluSlots) (s : State) : Out := dOp c a (fun r => aluSatNeg (((rdD c.val a.srca.val r).toInt.natAbs : Nat) : Int)) s

/-- NEG, saturating (R72). -/
def execNeg (c : CoreId) (a : AluSlots) (s : State) : Out := dOp c a (fun r => aluSatNeg (-(rdD c.val a.srca.val r).toInt)) s

/-- MIN, signed (R72). -/
def execMin (c : CoreId) (a : AluSlots) (s : State) : Out := dOp c a (fun r => aluZN (if (rdD c.val a.srca.val r).toInt ≤ (aluB c.val a r).toInt then rdD c.val a.srca.val r else aluB c.val a r)) s

/-- MAX, signed (R72). -/
def execMax (c : CoreId) (a : AluSlots) (s : State) : Out := dOp c a (fun r => aluZN (if (rdD c.val a.srca.val r).toInt ≤ (aluB c.val a r).toInt then aluB c.val a r else rdD c.val a.srca.val r)) s

/-- CLS: the redundant sign bits of D[SRCA] (R72). -/
def execCls (c : CoreId) (a : AluSlots) (s : State) : Out := dOp c a (fun r => aluCls (rdD c.val a.srca.val r)) s

/-- CMP: the flags of SRCA − SRCB (R72). -/
def execCmp (c : CoreId) (a : AluSlots) (s : State) : Out :=
  aluBundle c.val true false a (fun r t => flyRes c.val none 24 (aluSub false (rdD c.val a.srca.val r) (aluB c.val a r)) t) s

/-- A rounded accumulator as an ALU result (R55). -/
def roundRes (c i sh : Nat) (r : State) : AluRes 24 :=
  let x := roundAcc (rdA c i r) sh (rmode c r)
  ⟨x.1, 0, 0, flag x.2 stSAT⟩

/-- RND: D[DST] takes A[SRCA] by R55 with an immediate shift of 0-7, and nothing else is legal (R72). -/
def execRnd (c : CoreId) (a : AluSlots) (s : State) : Out :=
  aluBundle c.val (a.imm && isA a.srcb && isA a.srca) false a
    (fun r t => flyRes c.val (some (dstD c.val a r)) 24 (roundRes c.val a.srca.val a.srcb.val r) t) s

/-- RND2: the pair of DST takes A[SRCA] and A[SRCA XOR 4] (R72). -/
def execRnd2 (c : CoreId) (a : AluSlots) (s : State) : Out :=
  aluBundle c.val (a.imm && isA a.srcb && isA a.srca) false a
    (fun r t =>
      let e := evenReg a.dst.val
      let p := getPea c.val r
      flyRes c.val (some (.d (physD p (e + 1)))) 24 (roundRes c.val (a.srca.val ^^^ 4) a.srcb.val r)
        (flyRes c.val (some (.d (physD p e))) 24 (roundRes c.val a.srca.val a.srcb.val r) t)) s

/-- MVA2: the pair of DST takes A[SRCA] saturated to 48 bits (R72). -/
def execMva2 (c : CoreId) (a : AluSlots) (s : State) : Out :=
  aluBundle c.val (isA a.srca) false a
    (fun r t =>
      let e := evenReg a.dst.val
      let p := getPea c.val r
      let x := sat48 (rdA c.val a.srca.val r)
      flyRes c.val (some (.d (physD p (e + 1)))) 24 ⟨x.2.1, 0, 0, flag x.2.2 stSAT⟩
        (flyRes c.val (some (.d (physD p e))) 24 (noFlags x.1) t)) s

/-- An operation that writes A[DST]. -/
def aOp (c : CoreId) (a : AluSlots) (legal : Bool) (f : State → AluRes 56) (s : State) : Out :=
  aluBundle c.val (legal && isA a.dst) false a (fun r t => flyRes c.val (some (.a a.dst.val)) 56 (f r) t) s

/-- CLRA: A[DST] takes 0 (R72). -/
def execClra (c : CoreId) (a : AluSlots) (s : State) : Out := aOp c a true (fun _ => noFlags 0) s

/-- CLRA2: A[DST] and A[DST XOR 4] take 0 (R72). -/
def execClra2 (c : CoreId) (a : AluSlots) (s : State) : Out :=
  aluBundle c.val (isA a.dst) false a
    (fun _ t => flyRes c.val (some (.a (a.dst.val ^^^ 4))) 56 (noFlags 0)
      (flyRes c.val (some (.a a.dst.val)) 56 (noFlags 0) t)) s

/-- MVDA: A[DST] takes D[SRCA] at [47:24], sign-filled (R72). -/
def execMvda (c : CoreId) (a : AluSlots) (s : State) : Out :=
  aOp c a true (fun r => noFlags ((rdD c.val a.srca.val r).signExtend 56 <<< 24)) s

/-- MVPA: A[DST] takes the D pair of SRCA at [47:0], sign-filled (R72). -/
def execMvpa (c : CoreId) (a : AluSlots) (s : State) : Out := aOp c a true (fun r => noFlags (aluPair c.val a.srca.val r)) s

/-- ADDA (R54, R72). -/
def execAdda (c : CoreId) (a : AluSlots) (s : State) : Out :=
  aOp c a (isA a.srca && isA a.srcb) (fun r => accRes ((rdA c.val a.srca.val r).toInt + (rdA c.val a.srcb.val r).toInt)) s

/-- SUBA (R54, R72). -/
def execSuba (c : CoreId) (a : AluSlots) (s : State) : Out :=
  aOp c a (isA a.srca && isA a.srcb) (fun r => accRes ((rdA c.val a.srca.val r).toInt - (rdA c.val a.srcb.val r).toInt)) s

/-- ASHA: A[SRCA] shifted by the signed immediate (R72). -/
def execAsha (c : CoreId) (a : AluSlots) (s : State) : Out :=
  aOp c a (isA a.srca) (fun r => accShift (rdA c.val a.srca.val r) (toSigned 5 a.srcb.val)) s

/-- NEGA (R72). -/
def execNega (c : CoreId) (a : AluSlots) (s : State) : Out :=
  aOp c a (isA a.srca) (fun r => accRes (-(rdA c.val a.srca.val r).toInt)) s

/-- ABSA (R72). -/
def execAbsa (c : CoreId) (a : AluSlots) (s : State) : Out :=
  aOp c a (isA a.srca) (fun r => accRes ((rdA c.val a.srca.val r).toInt.natAbs : Int)) s

/-- CMPA: the flags of A[SRCA] − A[SRCB] (R72); no accumulator wraps, so AOV is not set. -/
def execCmpa (c : CoreId) (a : AluSlots) (s : State) : Out :=
  aluBundle c.val (isA a.srca && isA a.srcb) false a
    (fun r t => flyRes c.val none 56
      { accRes ((rdA c.val a.srca.val r).toInt - (rdA c.val a.srcb.val r).toInt) with sticky := 0 } t) s

/-- MOVC: control register DST takes D[SRCA] or the immediate (R72, R73); index 31 is illegal, and a write of PSW is
privileged on a core with the control extension (R80). -/
def execMovc (c : CoreId) (a : AluSlots) (s : State) : Out :=
  aluBundle c.val (a.dst.val != 31) (a.dst.val == 28) a
    (fun r t => flyCtl c.val a.dst.val (if a.imm then aluB c.val a r else rdD c.val a.srca.val r) t) s

/-- MOVR: D[DST] takes control register SRCA, zero-extended; index 31 is illegal (R72, R73). -/
def execMovr (c : CoreId) (a : AluSlots) (s : State) : Out :=
  aluBundle c.val (a.srca.val != 31) false a
    (fun r t => flyRes c.val (some (dstD c.val a r)) 24 (noFlags (rdCtl c.val a.srca.val r)) t) s

/-- ADDP: P[DST] takes P[SRCA] + Δ by the modulo rule of pointer DST (R49, R72). -/
def execAddp (c : CoreId) (a : AluSlots) (s : State) : Out :=
  aluBundle c.val (isA a.dst && isA a.srca) false a
    (fun r t =>
      let x := modPtr c.val a.dst.val (rdP c.val a.srca.val r) (aluB c.val a r).toInt r
      onlyIf x.2 (flySticky c.val stMODV) (fly c.val 1 (.p a.dst.val) (x.1.setWidth 56) t)) s

/-! ### The moves -/

/-- A bundle of an ALU NOP and a long move (R71). -/
def moveBundle (c : Nat) (k : LKind) (m : MoveArgs) (s : State) : Out :=
  .next (issue c (fun r => moveChecks c true false k m r) (fun r => doMove c k m r r) noJump s)

/-- LD: a word to D[REG], or a crossbar word to a D pair (R71). -/
def execLd (c : CoreId) (m : MoveArgs) (s : State) : Out := moveBundle c.val .ld m s

/-- LDP: two words to a D pair (R71). -/
def execLdp (c : CoreId) (m : MoveArgs) (s : State) : Out := moveBundle c.val .ldp m s

/-- ST: D[REG] to a word, or a D pair to the crossbar (R71). -/
def execSt (c : CoreId) (m : MoveArgs) (s : State) : Out := moveBundle c.val .st m s

/-- STP: a D pair to two words (R71). -/
def execStp (c : CoreId) (m : MoveArgs) (s : State) : Out := moveBundle c.val .stp m s

/-- STR: an accumulator rounded and saturated (R55) (R71). -/
def execStr (c : CoreId) (m : MoveArgs) (s : State) : Out := moveBundle c.val .str m s

/-- ST2: an accumulator saturated to 48 bits, to two words (R71). -/
def execSt2 (c : CoreId) (m : MoveArgs) (s : State) : Out := moveBundle c.val .st2 m s

/-- LDA: two words to an accumulator (R71). -/
def execLda (c : CoreId) (m : MoveArgs) (s : State) : Out := moveBundle c.val .lda m s

/-! ### The long-immediate format -/

/-- One slot of a long-immediate bundle (R73, R74): a D register or a control register; control index 31 does nothing. -/
def limmSlot (c : Nat) (x : LimmSlot) (r s : State) : State :=
  if x.cls then flyCtl c x.idx.val x.imm s
  else fly c 1 (.d (physD (getPea c r) x.idx.val)) (x.imm.setWidth 56) s

/-- A long-immediate bundle (R74): slot 0, then slot 1, which lands when both name one register (R60). A slot that
writes PSW is a write of PSW by immediate, which R80 does not name privileged. -/
def execLongImmediate (c : CoreId) (s0 s1 : LimmSlot) (s : State) : Out :=
  .next (issue c.val (fun _ => plainChecks true) (fun r => limmSlot c.val s1 r (limmSlot c.val s0 r r)) noJump s)

end Sys2Proof.Machine
end

