-- ==== Sys2Proof/Machine/PodDma.lean ====
section
/-! DEFINITION. What a descriptor of the pod DMA moves, and its completion (R98-R100, R109, R110, R199, R200). -/

namespace Sys2Proof.Machine

/-- Read a list of bytes from crossbar space as the pod port (R99): whether a response is an error, and the bytes; pieces of
256 B. -/
def dmaFetch (m : Nat) : Nat → Nat → Nat → State → Bool × List (BitVec 8) × State
  | 0, _, _, s => (false, [], s)
  | fuel + 1, a, len, s =>
    if len = 0 then (false, [], s)
    else
      let n := pieceLen a len
      match fwRefusal m false false a s, targetOf a n s with
      | some d, _ => (true, [], logRefusal d m false false a s)
      | none, none => (true, [], decodeError m a s)
      | none, some t =>
        let r := performPiece m false false t a n [] none s
        if r.1 then (true, [], r.2.2)
        else
          let q := dmaFetch m fuel (a + n) (len - n) r.2.2
          (q.1, r.2.1 ++ q.2.1, q.2.2)

/-- Write bytes to crossbar space as the pod port (R99). -/
def dmaStore (m : Nat) : Nat → Nat → List (BitVec 8) → State → Bool × State
  | 0, _, _, s => (false, s)
  | fuel + 1, a, bs, s =>
    if bs.isEmpty then (false, s)
    else
      let n := pieceLen a bs.length
      match fwRefusal m true false a s, targetOf a n s with
      | some d, _ => (true, logRefusal d m true false a s)
      | none, none => (true, decodeError m a s)
      | none, some t =>
        let r := performPiece m false true t a n (bs.take n) none s
        if r.1 then (true, r.2.2) else dmaStore m fuel (a + n) (bs.drop n) r.2.2

/-- The bytes of a pea memory or of the pod's shared memory from an address on: a word gives four bytes, 24-bit words with the
top byte 0, a bundle eight (log entry 63: DEDUCED). -/
def localBytes (n sp a len : Nat) (s : State) : List (BitVec 8) :=
  if sp = 1 then (List.range (len / 4)).flatMap fun i => leBytes (rdShared n (a % 1048576 + i) s)
  else
    let q := peaNo n (peaPart a).1
    let w := (peaPart a).2
    if sp = 2 then (List.range (len / 4)).flatMap fun i => leBytes ((rdX q (w + i) s).setWidth 32)
    else if sp = 3 then (List.range (len / 4)).flatMap fun i => leBytes ((rdY q (w + i) s).setWidth 32)
    else (List.range (len / 8)).flatMap fun i => leNat 8 (rdProg q (w + i) s).toNat

/-- Put bytes into a pea memory or the pod's shared memory. -/
def putLocal (n sp a : Nat) (bs : List (BitVec 8)) (s : State) : State :=
  if sp = 1 then forEach (List.range (bs.length / 4)) (fun i t => wrShared n (a % 1048576 + i) (wordAt bs (4 * i)) t) s
  else
    let q := peaNo n (peaPart a).1
    let w := (peaPart a).2
    if sp = 2 then forEach (List.range (bs.length / 4)) (fun i t => wrX q (w + i) ((wordAt bs (4 * i)).setWidth 24) t) s
    else if sp = 3 then forEach (List.range (bs.length / 4)) (fun i t => wrY q (w + i) ((wordAt bs (4 * i)).setWidth 24) t) s
    else forEach (List.range (bs.length / 8)) (fun i t => wrProg q (w + i) (wordAt bs (8 * i + 4) ++ wordAt bs (8 * i)) t) s

/-- The plain bytes of the golden chunks that a SEAL descriptor names (R199, R200). -/
def goldenBytes (d : DmaDesc) (s : State) : List (BitVec 8) :=
  (List.range (d.len / 4096)).flatMap fun i => (mapGet (fun _ => []) s.ks.golden (d.src / 4096 + i)).flatMap leBytes

/-- Move the data of a descriptor; whether it met an error response. -/
def dmaMove (n : Nat) (d : DmaDesc) (s : State) : Bool × State :=
  let m := 0x10 + n
  if d.sealed then (false, putLocal n d.dstSp d.dst (goldenBytes d s) s)
  else
    let r := if d.srcSp = 0 then dmaFetch m (d.len + 1) d.src d.len s else (false, localBytes n d.srcSp d.src d.len s, s)
    if d.dstSp = 0 then
      let w := dmaStore m (d.len + 1) d.dst r.2.1 r.2.2
      (r.1 || w.1, w.2)
    else (r.1, putLocal n d.dstSp d.dst r.2.1 r.2.2)

/-- POD_DMA_DESCRIPTOR_DONE (R98): the descriptor in hand ends. `busError`: the crossbar answered an access of it with an
error; `tagFail`: a golden chunk failed its tag. Completion advances HEAD and posts the event of a descriptor with EVT
(R109); an error stops the DMA (R99, R200). -/
def execPodDmaDescriptorDone (n : Fin 16) (busError tagFail : Bool) (s : State) : Out :=
  let n := n.val
  .next (if !rdB (POD_DMA_STAT_BUSY n) s then s
    else
      let i := rd (POD_DMA_QHEAD_HEAD n) s % ringSize n s
      let d := descAt n i s
      if d.sealed && tagFail then dmaStop n (sealFailure n d s)
      else if busError && (d.srcSp == 0 || d.dstSp == 0) then dmaStop n s
      else
        let r := dmaMove n d s
        if r.1 then dmaStop n r.2
        else
          let s1 := wr (POD_DMA_STAT_BUSY n) 0 (wr (POD_DMA_QHEAD_HEAD n) ((i + 1) % ringSize n s) r.2)
          dmaKick n (onlyIf d.evt (postEvent n d.pea d.task d.input) s1))

end Sys2Proof.Machine
end

