-- ==== Sys2Proof/Machine/Dispatch.lean ====
section
/-! DEFINITION. What each command does: one arm per constructor, each a direct call of its meaning. -/

namespace Sys2Proof.Machine

/-- The effect of a command on everything but the queue. -/
def exec (i : Instr) (s : State) : Host.Outcome State Fault Refusal :=
  match i with
  | .blockBoundary => Sys2Proof.Machine.execBlockBoundary s
  | .glbBsnRead => Sys2Proof.Machine.execGlbBsnRead s
  | .macNop c m => Sys2Proof.Machine.execMacNop c m s
  | .mpy c m => Sys2Proof.Machine.execMpy c m s
  | .mac c m => Sys2Proof.Machine.execMac c m s
  | .msu c m => Sys2Proof.Machine.execMsu c m s
  | .mpyQ1 c m => Sys2Proof.Machine.execMpyQ1 c m s
  | .macQ1 c m => Sys2Proof.Machine.execMacQ1 c m s
  | .msuQ1 c m => Sys2Proof.Machine.execMsuQ1 c m s
  | .dmpy c m => Sys2Proof.Machine.execDmpy c m s
  | .dmac c m => Sys2Proof.Machine.execDmac c m s
  | .dmsu c m => Sys2Proof.Machine.execDmsu c m s
  | .aluNop c a => Sys2Proof.Machine.execAluNop c a s
  | .mov c a => Sys2Proof.Machine.execMov c a s
  | .add c a => Sys2Proof.Machine.execAdd c a s
  | .sub c a => Sys2Proof.Machine.execSub c a s
  | .adds c a => Sys2Proof.Machine.execAdds c a s
  | .subs c a => Sys2Proof.Machine.execSubs c a s
  | .and c a => Sys2Proof.Machine.execAnd c a s
  | .or c a => Sys2Proof.Machine.execOr c a s
  | .xor c a => Sys2Proof.Machine.execXor c a s
  | .not c a => Sys2Proof.Machine.execNot c a s
  | .asl c a => Sys2Proof.Machine.execAsl c a s
  | .asls c a => Sys2Proof.Machine.execAsls c a s
  | .asr c a => Sys2Proof.Machine.execAsr c a s
  | .lsr c a => Sys2Proof.Machine.execLsr c a s
  | .abs c a => Sys2Proof.Machine.execAbs c a s
  | .neg c a => Sys2Proof.Machine.execNeg c a s
  | .min c a => Sys2Proof.Machine.execMin c a s
  | .max c a => Sys2Proof.Machine.execMax c a s
  | .cmp c a => Sys2Proof.Machine.execCmp c a s
  | .cls c a => Sys2Proof.Machine.execCls c a s
  | .rnd c a => Sys2Proof.Machine.execRnd c a s
  | .rnd2 c a => Sys2Proof.Machine.execRnd2 c a s
  | .mva2 c a => Sys2Proof.Machine.execMva2 c a s
  | .clra c a => Sys2Proof.Machine.execClra c a s
  | .clra2 c a => Sys2Proof.Machine.execClra2 c a s
  | .mvda c a => Sys2Proof.Machine.execMvda c a s
  | .mvpa c a => Sys2Proof.Machine.execMvpa c a s
  | .adda c a => Sys2Proof.Machine.execAdda c a s
  | .suba c a => Sys2Proof.Machine.execSuba c a s
  | .asha c a => Sys2Proof.Machine.execAsha c a s
  | .nega c a => Sys2Proof.Machine.execNega c a s
  | .absa c a => Sys2Proof.Machine.execAbsa c a s
  | .cmpa c a => Sys2Proof.Machine.execCmpa c a s
  | .movc c a => Sys2Proof.Machine.execMovc c a s
  | .movr c a => Sys2Proof.Machine.execMovr c a s
  | .addp c a => Sys2Proof.Machine.execAddp c a s
  | .ld c m => Sys2Proof.Machine.execLd c m s
  | .ldp c m => Sys2Proof.Machine.execLdp c m s
  | .st c m => Sys2Proof.Machine.execSt c m s
  | .stp c m => Sys2Proof.Machine.execStp c m s
  | .str c m => Sys2Proof.Machine.execStr c m s
  | .st2 c m => Sys2Proof.Machine.execSt2 c m s
  | .lda c m => Sys2Proof.Machine.execLda c m s
  | .longImmediate c s0 s1 => Sys2Proof.Machine.execLongImmediate c s0 s1 s
  | .ctlNop c => Sys2Proof.Machine.execCtlNop c s
  | .br c cond tgt => Sys2Proof.Machine.execBr c cond tgt s
  | .call c cond tgt => Sys2Proof.Machine.execCall c cond tgt s
  | .ret c cond => Sys2Proof.Machine.execRet c cond s
  | .loop c tgt cnt => Sys2Proof.Machine.execLoop c tgt cnt s
  | .loopd c tgt rsel => Sys2Proof.Machine.execLoopd c tgt rsel s
  | .loopRot c tgt cnt stgs => Sys2Proof.Machine.execLoopRot c tgt cnt stgs s
  | .loopRotd c tgt rsel stgs => Sys2Proof.Machine.execLoopRotd c tgt rsel stgs s
  | .tend c => Sys2Proof.Machine.execTend c s
  | .evt c v => Sys2Proof.Machine.execEvt c v s
  | .trap c cond code => Sys2Proof.Machine.execTrap c cond code s
  | .eret c => Sys2Proof.Machine.execEret c s
  | .wfi c => Sys2Proof.Machine.execWfi c s
  | .csrr c reg idx => Sys2Proof.Machine.execCsrr c reg idx s
  | .csrw c reg idx => Sys2Proof.Machine.execCsrw c reg idx s
  | .fence c => Sys2Proof.Machine.execFence c s
  | .illegalBundle c w => Sys2Proof.Machine.execIllegalBundle c w s
  | .crossbarLoadResponse c data error => Sys2Proof.Machine.execCrossbarLoadResponse c data error s
  | .crossbarStoreResponse c error => Sys2Proof.Machine.execCrossbarStoreResponse c error s
  | .interruptEntry c line => Sys2Proof.Machine.execInterruptEntry c line s
  | .nmi c => Sys2Proof.Machine.execNmi c s
  | .timerZero c t => Sys2Proof.Machine.execTimerZero c t s
  | .dispatch n p bcyc => Sys2Proof.Machine.execDispatch n p bcyc s
  | .completionPost n p => Sys2Proof.Machine.execCompletionPost n p s
  | .budgetAbandon n p => Sys2Proof.Machine.execBudgetAbandon n p s
  | .tempoIntake n wait => Sys2Proof.Machine.execTempoIntake n wait s
  | .horizon n p e => Sys2Proof.Machine.execHorizon n p e s
  | .peaMemoryError n p => Sys2Proof.Machine.execPeaMemoryError n p s
  | .podRepairFail n p => Sys2Proof.Machine.execPodRepairFail n p s
  | .repairLoadComplete n => Sys2Proof.Machine.execRepairLoadComplete n s
  | .eventArrival n p e x => Sys2Proof.Machine.execEventArrival n p e x s
  | .taskCancel n p e => Sys2Proof.Machine.execTaskCancel n p e s
  | .podDmaQtail n tail => Sys2Proof.Machine.execPodDmaQtail n tail s
  | .podDmaDescriptorDone n busError tagFail => Sys2Proof.Machine.execPodDmaDescriptorDone n busError tagFail s
  | .podDmaErrClear n => Sys2Proof.Machine.execPodDmaErrClear n s
  | .tempoPop => Sys2Proof.Machine.execTempoPop s
  | .frameReceive m f => Sys2Proof.Machine.execFrameReceive m f s
  | .routerAssembly d => Sys2Proof.Machine.execRouterAssembly d s
  | .routerForwarding d crossed => Sys2Proof.Machine.execRouterForwarding d crossed s
  | .busDelivery d crossed => Sys2Proof.Machine.execBusDelivery d crossed s
  | .routerOutput d => Sys2Proof.Machine.execRouterOutput d s
  | .sgWapplyCommit => Sys2Proof.Machine.execSgWapplyCommit s
  | .gateHoldExpiry c => Sys2Proof.Machine.execGateHoldExpiry c s
  | .busPhaseStart p => Sys2Proof.Machine.execBusPhaseStart p s
  | .busPhaseOverrun p => Sys2Proof.Machine.execBusPhaseOverrun p s
  | .meterWindowEnd m => Sys2Proof.Machine.execMeterWindowEnd m s
  | .meterPublish m => Sys2Proof.Machine.execMeterPublish m s
  | .bridgeRateUpdate b err phi departure => Sys2Proof.Machine.execBridgeRateUpdate b err phi departure s
  | .bridgeLockExit b phi clockLost => Sys2Proof.Machine.execBridgeLockExit b phi clockLost s
  | .bridgeCrossfadeEnd b => Sys2Proof.Machine.execBridgeCrossfadeEnd b s
  | .bridgeSlip b => Sys2Proof.Machine.execBridgeSlip b s
  | .bridgeRangeEntry b err => Sys2Proof.Machine.execBridgeRangeEntry b err s
  | .bridgeRangeExit b => Sys2Proof.Machine.execBridgeRangeExit b s
  | .bridgeSettleEnd b => Sys2Proof.Machine.execBridgeSettleEnd b s
  | .mRange err => Sys2Proof.Machine.execMRange err s
  | .mRangeClear => Sys2Proof.Machine.execMRangeClear s
  | .ksUnwrap slot record tagOk key => Sys2Proof.Machine.execKsUnwrap slot record tagOk key s
  | .ksDecrypt slot tagOk dst plain => Sys2Proof.Machine.execKsDecrypt slot tagOk dst plain s
  | .ksBuildGolden slot tagOk dst words => Sys2Proof.Machine.execKsBuildGolden slot tagOk dst words s
  | .ksSession num key => Sys2Proof.Machine.execKsSession num key s
  | .ksSakInstall slot r apply => Sys2Proof.Machine.execKsSakInstall slot r apply s
  | .ksSlotClear slot => Sys2Proof.Machine.execKsSlotClear slot s
  | .ksZeroise => Sys2Proof.Machine.execKsZeroise s
  | .ksEpochAdvance verify => Sys2Proof.Machine.execKsEpochAdvance verify s
  | .ksProvision production owner safety => Sys2Proof.Machine.execKsProvision production owner safety s
  | .ksRandom => Sys2Proof.Machine.execKsRandom s
  | .ksKillJtag owner => Sys2Proof.Machine.execKsKillJtag owner s
  | .ksBadOp op => Sys2Proof.Machine.execKsBadOp op s
  | .ksCommandDone => Sys2Proof.Machine.execKsCommandDone s
  | .zeroisationDone => Sys2Proof.Machine.execZeroisationDone s
  | .trngHealthFail => Sys2Proof.Machine.execTrngHealthFail s
  | .sealLock q => Sys2Proof.Machine.execSealLock q s
  | .jtagIdcode => Sys2Proof.Machine.execJtagIdcode s
  | .jtagBypass => Sys2Proof.Machine.execJtagBypass s
  | .unlockChal => Sys2Proof.Machine.execUnlockChal s
  | .unlockResp r => Sys2Proof.Machine.execUnlockResp r s
  | .sakRetire m => Sys2Proof.Machine.execSakRetire m s
  | .carrierPeriod c => Sys2Proof.Machine.execCarrierPeriod c s
  | .carrierGridStart => Sys2Proof.Machine.execCarrierGridStart s
  | .sourceSelect => Sys2Proof.Machine.execSourceSelect s
  | .powerStageFault g => Sys2Proof.Machine.execPowerStageFault g s
  | .groupLineReleased g => Sys2Proof.Machine.execGroupLineReleased g s
  | .prechgEnd c => Sys2Proof.Machine.execPrechgEnd c s
  | .zeroEnd c => Sys2Proof.Machine.execZeroEnd c s
  | .rampEnd c => Sys2Proof.Machine.execRampEnd c s
  | .modMuteWrite c mute => Sys2Proof.Machine.execModMuteWrite c mute s
  | .idleEntry g => Sys2Proof.Machine.execIdleEntry g s
  | .groupActive g ns => Sys2Proof.Machine.execGroupActive g ns s
  | .railPlan r => Sys2Proof.Machine.execRailPlan r s
  | .railFrame r => Sys2Proof.Machine.execRailFrame r s
  | .senseRun => Sys2Proof.Machine.execSenseRun s
  | .senseFastValue x bits => Sys2Proof.Machine.execSenseFastValue x bits s
  | .senseSlowValue x ns => Sys2Proof.Machine.execSenseSlowValue x ns s
  | .senseDipValue r bits => Sys2Proof.Machine.execSenseDipValue r bits s
  | .senseStuck x => Sys2Proof.Machine.execSenseStuck x s
  | .snsOutidxRead => Sys2Proof.Machine.execSnsOutidxRead s
  | .lockstepMismatch => Sys2Proof.Machine.execLockstepMismatch s
  | .rookSramError => Sys2Proof.Machine.execRookSramError s
  | .selfWatchdogExpiry => Sys2Proof.Machine.execSelfWatchdogExpiry s
  | .rookLoad sec => Sys2Proof.Machine.execRookLoad sec s
  | .relayClose => Sys2Proof.Machine.execRelayClose s
  | .rlyonEnd => Sys2Proof.Machine.execRlyonEnd s
  | .lineRelease g => Sys2Proof.Machine.execLineRelease g s
  | .thermalUpdate c => Sys2Proof.Machine.execThermalUpdate c s
  | .impedanceMeasure c => Sys2Proof.Machine.execImpedanceMeasure c s
  | .pilotWindow c => Sys2Proof.Machine.execPilotWindow c s
  | .excursionGain c written => Sys2Proof.Machine.execExcursionGain c written s
  | .dcTrip c output => Sys2Proof.Machine.execDcTrip c output s
  | .ocholdEnd c => Sys2Proof.Machine.execOcholdEnd c s
  | .fltholdEnd g => Sys2Proof.Machine.execFltholdEnd g s
  | .rdclrEnd r => Sys2Proof.Machine.execRdclrEnd r s
  | .sfinSample levels => Sys2Proof.Machine.execSfinSample levels s
  | .sfinHoldEnd n => Sys2Proof.Machine.execSfinHoldEnd n s
  | .sfinStuck n => Sys2Proof.Machine.execSfinStuck n s
  | .ccWatchdogRead n word => Sys2Proof.Machine.execCcWatchdogRead n word s
  | .clockMonitorWindow rook pods sense => Sys2Proof.Machine.execClockMonitorWindow rook pods sense s
  | .clockRecovered => Sys2Proof.Machine.execClockRecovered s
  | .drananMarker lane payload inPlace ns => Sys2Proof.Machine.execDrananMarker lane payload inPlace ns s
  | .recordHeartbeat crcOk dblk h => Sys2Proof.Machine.execRecordHeartbeat crcOk dblk h s
  | .recordKing crcOk code dblk => Sys2Proof.Machine.execRecordKing crcOk code dblk s
  | .recordModfeed crcOk tagOk dblk feeds => Sys2Proof.Machine.execRecordModfeed crcOk tagOk dblk feeds s
  | .recordMirror crcOk first entries => Sys2Proof.Machine.execRecordMirror crcOk first entries s
  | .recordTime crcOk sent got arrived => Sys2Proof.Machine.execRecordTime crcOk sent got arrived s
  | .recordSlot crcOk tagOk dblk pod first samples => Sys2Proof.Machine.execRecordSlot crcOk tagOk dblk pod first samples s
  | .leaseLineFrame w => Sys2Proof.Machine.execLeaseLineFrame w s
  | .networkHeartbeat w k tagOk => Sys2Proof.Machine.execNetworkHeartbeat w k tagOk s
  | .kingTake => Sys2Proof.Machine.execKingTake s
  | .drnCastle => Sys2Proof.Machine.execDrnCastle s
  | .castlingAcceptDeadline => Sys2Proof.Machine.execCastlingAcceptDeadline s
  | .castlingBlock => Sys2Proof.Machine.execCastlingBlock s
  | .revertExpiry => Sys2Proof.Machine.execRevertExpiry s
  | .drnResync => Sys2Proof.Machine.execDrnResync s
  | .mirrorExpiry => Sys2Proof.Machine.execMirrorExpiry s
  | .tbSetGo => Sys2Proof.Machine.execTbSetGo s
  | .freestartTimeout => Sys2Proof.Machine.execFreestartTimeout s
  | .ptpEventMessage p d egress latch waiting bad verdict => Sys2Proof.Machine.execPtpEventMessage p d egress latch waiting bad verdict s
  | .ptpSync p d offset residual freq mpd gm => Sys2Proof.Machine.execPtpSync p d offset residual freq mpd gm s
  | .announceTimeout d => Sys2Proof.Machine.execAnnounceTimeout d s
  | .domainWtrExpiry => Sys2Proof.Machine.execDomainWtrExpiry s
  | .captureEdge u rising ns sub => Sys2Proof.Machine.execCaptureEdge u rising ns sub s
  | .capPop u => Sys2Proof.Machine.execCapPop u s
  | .triggerArm t => Sys2Proof.Machine.execTriggerArm t s
  | .triggerFire t ns => Sys2Proof.Machine.execTriggerFire t ns s
  | .refQualify c ferr near step => Sys2Proof.Machine.execRefQualify c ferr near step s
  | .refDisqualify c miss ferr near step => Sys2Proof.Machine.execRefDisqualify c miss ferr near step s
  | .dpllLock => Sys2Proof.Machine.execDpllLock s
  | .dpllUnlock => Sys2Proof.Machine.execDpllUnlock s
  | .historyValid => Sys2Proof.Machine.execHistoryValid s
  | .dpllRevert near step => Sys2Proof.Machine.execDpllRevert near step s
  | .dpllOpen opn step => Sys2Proof.Machine.execDpllOpen opn step s
  | .dpllFreqWrite v => Sys2Proof.Machine.execDpllFreqWrite v s
  | .ckoutModeWrite o mode => Sys2Proof.Machine.execCkoutModeWrite o mode s
  | .ckoAlignGo o => Sys2Proof.Machine.execCkoAlignGo o s
  | .ckoAlignEdge o err => Sys2Proof.Machine.execCkoAlignEdge o err s
  | .laneSignalSet n => Sys2Proof.Machine.execLaneSignalSet n s
  | .laneSignalLoss n => Sys2Proof.Machine.execLaneSignalLoss n s
  | .krAutoneg n ok => Sys2Proof.Machine.execKrAutoneg n ok s
  | .detectProbe n found => Sys2Proof.Machine.execDetectProbe n found s
  | .detectTimeout n => Sys2Proof.Machine.execDetectTimeout n s
  | .trainingFrame n word settled => Sys2Proof.Machine.execTrainingFrame n word settled s
  | .trainTimeout n => Sys2Proof.Machine.execTrainTimeout n s
  | .blockLockAcquired n => Sys2Proof.Machine.execBlockLockAcquired n s
  | .lockTimeout n => Sys2Proof.Machine.execLockTimeout n s
  | .capabilitySend n => Sys2Proof.Machine.execCapabilitySend n s
  | .capabilityWord n words => Sys2Proof.Machine.execCapabilityWord n words s
  | .exchangeTimeout n => Sys2Proof.Machine.execExchangeTimeout n s
  | .blockLockLoss n ns => Sys2Proof.Machine.execBlockLockLoss n ns s
  | .relockTimeout n => Sys2Proof.Machine.execRelockTimeout n s
  | .hiberWindow n invalid => Sys2Proof.Machine.execHiberWindow n invalid s
  | .lnCtlFail n => Sys2Proof.Machine.execLnCtlFail n s
  | .lnCtlClear n => Sys2Proof.Machine.execLnCtlClear n s
  | .lnCtlRestart n => Sys2Proof.Machine.execLnCtlRestart n s
  | .lnCtlPreset n => Sys2Proof.Machine.execLnCtlPreset n s
  | .swapBlock n payload => Sys2Proof.Machine.execSwapBlock n payload s
  | .swapBlockDue n => Sys2Proof.Machine.execSwapBlockDue n s
  | .laneRetryBringup n => Sys2Proof.Machine.execLaneRetryBringup n s
  | .dfeAdapt n up errors => Sys2Proof.Machine.execDfeAdapt n up errors s
  | .eyeScanGo n phase voff dwell => Sys2Proof.Machine.execEyeScanGo n phase voff dwell s
  | .eyeScanDone n errs => Sys2Proof.Machine.execEyeScanDone n errs s
  | .pauseExpiry m priority => Sys2Proof.Machine.execPauseExpiry m priority s
  | .frameLaunch m ns => Sys2Proof.Machine.execFrameLaunch m ns s
  | .launchDeadlineDrop m ns => Sys2Proof.Machine.execLaunchDeadlineDrop m ns s
  | .controlFrameSend m frame credit ns => Sys2Proof.Machine.execControlFrameSend m frame credit ns s
  | .linkDown m => Sys2Proof.Machine.execLinkDown m s
  | .linkUp m speed half => Sys2Proof.Machine.execLinkUp m speed half s
  | .controlFrameTimeout m ns => Sys2Proof.Machine.execControlFrameTimeout m ns s
  | .lpiEnter m => Sys2Proof.Machine.execLpiEnter m s
  | .egressPacketBuild e => Sys2Proof.Machine.execEgressPacketBuild e s
  | .ingressWindowClose => Sys2Proof.Machine.execIngressWindowClose s
  | .streamAgeExpiry e => Sys2Proof.Machine.execStreamAgeExpiry e s
  | .legAgeExpiry e b => Sys2Proof.Machine.execLegAgeExpiry e b s
  | .sinCommit e => Sys2Proof.Machine.execSinCommit e s
  | .soutCommit e => Sys2Proof.Machine.execSoutCommit e s
  | .cabinetReport p dst bytes ns => Sys2Proof.Machine.execCabinetReport p dst bytes ns s
  | .fbFrameReceive p dst bytes waiting => Sys2Proof.Machine.execFbFrameReceive p dst bytes waiting s
  | .fbTxGo p len sent => Sys2Proof.Machine.execFbTxGo p len sent s
  | .fbCollision p => Sys2Proof.Machine.execFbCollision p s
  | .fbBackoffEnd p sent => Sys2Proof.Machine.execFbBackoffEnd p sent s
  | .plcaBeaconTimeout p => Sys2Proof.Machine.execPlcaBeaconTimeout p s
  | .cabAgeLapse c => Sys2Proof.Machine.execCabAgeLapse c s
  | .tdmClockGap p => Sys2Proof.Machine.execTdmClockGap p s
  | .tdmFrame p counted edge fsw slots ns => Sys2Proof.Machine.execTdmFrame p counted edge fsw slots ns s
  | .tdmHuntTimeout p => Sys2Proof.Machine.execTdmHuntTimeout p s
  | .tdmOverrun p => Sys2Proof.Machine.execTdmOverrun p s
  | .tdmUnderrun p => Sys2Proof.Machine.execTdmUnderrun p s
  | .tdmCoastFrame p ns => Sys2Proof.Machine.execTdmCoastFrame p ns s
  | .tdmFadeEnd p => Sys2Proof.Machine.execTdmFadeEnd p s
  | .tdmRampEnd p => Sys2Proof.Machine.execTdmRampEnd p s
  | .tdmResync p => Sys2Proof.Machine.execTdmResync p s
  | .xbTransaction r ns => Sys2Proof.Machine.execXbTransaction r ns s
  | .xbPieceGrant target ecc => Sys2Proof.Machine.execXbPieceGrant target ecc s
  | .xbResponse master => Sys2Proof.Machine.execXbResponse master s
  | .xbTimeout master ns => Sys2Proof.Machine.execXbTimeout master ns s
  | .xbQosAge target index => Sys2Proof.Machine.execXbQosAge target index s
  | .xbFbclr => Sys2Proof.Machine.execXbFbclr s
  | .fwLock => Sys2Proof.Machine.execFwLock s
  | .mr4Read n rmult => Sys2Proof.Machine.execMr4Read n rmult s
  | .patrolScrub n errors => Sys2Proof.Machine.execPatrolScrub n errors s
  | .imgWrite slot => Sys2Proof.Machine.execImgWrite slot s
  | .imgRead slot => Sys2Proof.Machine.execImgRead slot s
  | .flLogRead => Sys2Proof.Machine.execFlLogRead s
  | .capDelete => Sys2Proof.Machine.execCapDelete s
  | .capProtect on => Sys2Proof.Machine.execCapProtect on s
  | .format d bad => Sys2Proof.Machine.execFormat d bad s
  | .scanNow => Sys2Proof.Machine.execScanNow s
  | .flLife => Sys2Proof.Machine.execFlLife s
  | .flBadOp op => Sys2Proof.Machine.execFlBadOp op s
  | .flashJobDone ok => Sys2Proof.Machine.execFlashJobDone ok s
  | .nandOperationDone op r => Sys2Proof.Machine.execNandOperationDone op r s
  | .retentionScan findings => Sys2Proof.Machine.execRetentionScan findings s
  | .jobUrgent index => Sys2Proof.Machine.execJobUrgent index s
  | .captureChunkProgram recorder => Sys2Proof.Machine.execCaptureChunkProgram recorder s
  | .captureDeliveryTimeout recorder blk => Sys2Proof.Machine.execCaptureDeliveryTimeout recorder blk s
  | .checkpoint => Sys2Proof.Machine.execCheckpoint s
  | .logPageFlush => Sys2Proof.Machine.execLogPageFlush s
  | .powerOnReset lost pufOk trngOk => Sys2Proof.Machine.execPowerOnReset lost pufOk trngOk s
  | .wakePin => Sys2Proof.Machine.execWakePin s
  | .pawnState => Sys2Proof.Machine.execPawnState s
  | .pawnFault => Sys2Proof.Machine.execPawnFault s
  | .pawnFlog => Sys2Proof.Machine.execPawnFlog s
  | .pawnCmdWake => Sys2Proof.Machine.execPawnCmdWake s
  | .pawnCmdRetry => Sys2Proof.Machine.execPawnCmdRetry s
  | .stepPass => Sys2Proof.Machine.execStepPass s
  | .stepDlyEnd copies => Sys2Proof.Machine.execStepDlyEnd copies s
  | .stepTimeout => Sys2Proof.Machine.execStepTimeout s
  | .stepRetry => Sys2Proof.Machine.execStepRetry s
  | .oscCheckWindow cycles swing => Sys2Proof.Machine.execOscCheckWindow cycles swing s
  | .ppgLoss e => Sys2Proof.Machine.execPpgLoss e s
  | .ppgLossPersist e => Sys2Proof.Machine.execPpgLossPersist e s
  | .pwrStandby => Sys2Proof.Machine.execPwrStandby s
  | .stoppingFlushDone => Sys2Proof.Machine.execStoppingFlushDone s
  | .pwrRun => Sys2Proof.Machine.execPwrRun s
  | .pwrRestart copies => Sys2Proof.Machine.execPwrRestart copies s
  | .pmbusPoll reads levels => Sys2Proof.Machine.execPmbusPoll reads levels s
  | .avsStep target => Sys2Proof.Machine.execAvsStep target s
  | .quietEntry => Sys2Proof.Machine.execQuietEntry s
  | .quietExit => Sys2Proof.Machine.execQuietExit s
  | .vendorRuntimeStart fit1 ranks dens ok0 ok1 repaired flash => Sys2Proof.Machine.execVendorRuntimeStart fit1 ranks dens ok0 ok1 repaired flash s
  | .slotAdmission slot im failed => Sys2Proof.Machine.execSlotAdmission slot im failed s
  | .audioStart => Sys2Proof.Machine.execAudioStart s
  | .hello formOk role seq cert => Sys2Proof.Machine.execHello formOk role seq cert s
  | .devcert formOk seq => Sys2Proof.Machine.execDevcert formOk seq s
  | .bye h => Sys2Proof.Machine.execBye h s
  | .keyroll h => Sys2Proof.Machine.execKeyroll h s
  | .get h els => Sys2Proof.Machine.execGet h els s
  | .set h els => Sys2Proof.Machine.execSet h els s
  | .scene h num => Sys2Proof.Machine.execScene h num s
  | .meterSub h mode div meters => Sys2Proof.Machine.execMeterSub h mode div meters s
  | .eventSub h mask => Sys2Proof.Machine.execEventSub h mask s
  | .event num kind => Sys2Proof.Machine.execEvent num kind s
  | .eventDropTimeout num kind => Sys2Proof.Machine.execEventDropTimeout num kind s
  | .capture h op flags capid start stop => Sys2Proof.Machine.execCapture h op flags capid start stop s
  | .castle h => Sys2Proof.Machine.execCastle h s
  | .logRead h first max => Sys2Proof.Machine.execLogRead h first max s
  | .life h => Sys2Proof.Machine.execLife h s
  | .macsecRekey h r => Sys2Proof.Machine.execMacsecRekey h r s
  | .sessionOpenTimeout num => Sys2Proof.Machine.execSessionOpenTimeout num s
  | .sessionIdleTimeout num => Sys2Proof.Machine.execSessionIdleTimeout num s
  | .sessionExpiry num => Sys2Proof.Machine.execSessionExpiry num s
  | .oldKeyExpiry num => Sys2Proof.Machine.execOldKeyExpiry num s
  | .registerWrite master user met addr v => Sys2Proof.Machine.execRegisterWrite master user met addr v s
  | .feuIntake => Sys2Proof.Machine.execFeuIntake s
  | .feuRaise code master user => Sys2Proof.Machine.execFeuRaise code master user s
  | .islReset n => Sys2Proof.Machine.execIslReset n s
  | .domainResetEnd n => Sys2Proof.Machine.execDomainResetEnd n s
  | .supplyDip n => Sys2Proof.Machine.execSupplyDip n s
  | .supplyReturn n => Sys2Proof.Machine.execSupplyReturn n s
  | .tbNsLoRead ns frac => Sys2Proof.Machine.execTbNsLoRead ns frac s
  | .ppsEdge r stamp => Sys2Proof.Machine.execPpsEdge r stamp s
  | .firstBckEdge p => Sys2Proof.Machine.execFirstBckEdge p s
  | .plcaBeacon p => Sys2Proof.Machine.execPlcaBeacon p s
  | .arbiterParityError => Sys2Proof.Machine.execArbiterParityError s
  | .pmbusTransactionDone ack fault => Sys2Proof.Machine.execPmbusTransactionDone ack fault s
  | .sclLowTimeout asTarget e => Sys2Proof.Machine.execSclLowTimeout asTarget e s
  | .passedEntryPpgFall e => Sys2Proof.Machine.execPassedEntryPpgFall e s

end Sys2Proof.Machine
end

