-- ==== Sys2Proof/Safety.lean ====
section
/-! DEFINITION. What a sound state of the block is: registers and memories in canonical form; the conditions under which a
core's bundle has its own effect; and the words in which statements say what a command does. -/

namespace Sys2Proof.Machine

/-- Are the memories in canonical form, so that equal memories are equal data? -/
def MemSt.wf (m : MemSt) : Bool :=
  mapWf (fun _ => 0) m.x && mapWf (fun _ => 0) m.y && mapWf (fun _ => 0) m.prog && mapWf (fun _ => 0) m.shared &&
  mapWf (fun _ => 0) m.goldX && mapWf (fun _ => 0) m.goldY && mapWf (fun _ => 0) m.goldProg && mapWf (fun _ => 0) m.dram

/-- Are the registers and the memories in canonical form? -/
def State.wf (s : State) : Bool := mapWf regReset s.regs && s.mem.wf

/-- Does a core issue a bundle with these checks, and does the bundle have its own effect? A pod pea runs a task and the bundle
is legal and keeps the bank rule (R79, R93, R104); a core with the control extension does not stand still, takes no
interrupt, and no exception of R85 stops the bundle. -/
def issues (c : Nat) (ck : State → Checks) (s : State) : Bool :=
  canIssue c s &&
    (if isCtl c then
      (takePending c (atIssue c s)).isNone &&
      mpuAllows c false (0x80000 + 8 * (getPea c (atIssue c s)).pc.toNat) .fetch (atIssue c s) &&
      (ck (atIssue c s)).legal &&
      (!(ck (atIssue c s)).priv || isSuper c (atIssue c s)) &&
      !(ck (atIssue c s)).stk &&
      (ck (atIssue c s)).accesses.all (fun a => mpuAllows c a.1 a.2.1 (if a.2.2 then .write else .read) (atIssue c s)) &&
      (ck (atIssue c s)).trap.isNone
    else (ck (atIssue c s)).legal && !bankRule c (ck (atIssue c s)).banks (atIssue c s))

/-- The state after a bundle whose slots have left `b`: the program counter moves on from where the core stood in `r`. -/
def bundleEnd (c : Nat) (jump : Option (BitVec 14)) (banks : List Nat) (r b : State) : State :=
  if isCtl c then freeBundle c (stepPc c (getPea c r).branch jump b)
  else tickBcyc c (stepPc c (getPea c r).branch jump (noteBanks c banks b))

/-- A write that a core has in flight: seen by the bundle that issues `k` bundles later (R59). -/
def Puts (c : Nat) (t : State) (k : Nat) (g : Tgt) (v : BitVec 56) : Prop :=
  ∃ f ∈ (getPea c t).flight, f.left = k ∧ f.tgt = g ∧ f.val = v

/-- The command ends in a next state of which `Q` holds. -/
def Goes (i : Instr) (s : State) (Q : State → Prop) : Prop := ∃ t, exec i s = .next t ∧ Q t

/-- An island's queue ends with a record of this code and argument (R575). -/
def Logs (isl code arg : Nat) (t : State) : Prop :=
  ∃ r ∈ feuQueue isl t, r.code = BitVec.ofNat 16 code ∧ r.arg = BitVec.ofNat 32 arg ∧ r.island = isl

/-- An island's queue has room for another record (R575). -/
def roomAt (isl : Nat) (s : State) : Prop := (feuQueue isl s).length < 4

/-- A number held to the range of `w`-bit two's complement. -/
def clampTo (w : Nat) (t : Int) : Int := max (-(2 ^ (w - 1) : Nat)) (min ((2 ^ (w - 1) : Nat) - 1) t)

/-- Does a number lie outside the range of `w`-bit two's complement? -/
def outOf (w : Nat) (t : Int) : Bool := clampTo w t != t

/-- A flag that a bundle writes, or none if it leaves the flag alone. -/
def flagBit (f : Option Bool) (m : BitVec 24) : BitVec 24 × BitVec 24 :=
  match f with
  | none => (0, 0)
  | some b => (m, if b then m else 0)

/-- A core has these values of Z, N, C and V in flight, to be seen by its next bundle; a flag that is none is not written
(R72, R78). -/
def PutsFlags (c : Nat) (t : State) (z n cy v : Option Bool) : Prop :=
  Puts c t 1
    (.flags ((flagBit z 0x100).1 ||| (flagBit n 0x200).1 ||| (flagBit cy 0x400).1 ||| (flagBit v 0x800).1))
    (((flagBit z 0x100).2 ||| (flagBit n 0x200).2 ||| (flagBit cy 0x400).2 ||| (flagBit v 0x800).2).setWidth 56)

/-- A core has a sticky flag in flight, to be seen by its next bundle, if the condition holds (R78). -/
def PutsSticky (c : Nat) (t : State) (b : Bool) (m : BitVec 24) : Prop := b = true → Puts c t 1 .sticky (m.setWidth 56)

/-- The physical D register that a logical number names where a core issues (R44). -/
def physAt (c r : Nat) (s : State) : Nat := physD (getPea c (atIssue c s)) r

/-- `r` is `t` divided by 2^24, rounded to nearest with ties to even, or truncated (R55). -/
def RoundsTo (truncate : Bool) (t r : Int) : Prop :=
  if truncate then r * 2 ^ 24 ≤ t ∧ t < (r + 1) * 2 ^ 24
  else -2 ^ 24 ≤ 2 * (t - r * 2 ^ 24) ∧ 2 * (t - r * 2 ^ 24) ≤ 2 ^ 24 ∧
    (2 * (t - r * 2 ^ 24) = 2 ^ 24 ∨ 2 * (t - r * 2 ^ 24) = -2 ^ 24 → r % 2 = 0)

/-- The core after an exception entry (R86): PL and IE are saved, PL is supervisor and IE 0; cause, value and return address are
written; a pending branch is kept in BTGT and DS; and the core stands at the vector. -/
def EnteredAs (c code : Nat) (tval : Word) (imprecise nmi : Bool) (s t : State) : Prop :=
  csrField c 0 0 1 t = 1 ∧ csrField c 0 2 1 t = 0 ∧ csrField c 0 1 1 t = csrField c 0 0 1 s ∧ csrField c 0 3 1 t = csrField c 0 2 1 s ∧
  csrField c 2 0 8 t = code ∧ csrField c 2 8 1 t = (if imprecise then 1 else 0) ∧ rdCsr c 3 t = tval ∧
  rdCsr c 1 t = (getPea c s).pc.setWidth 32 ∧
  (match (getPea c s).branch with
    | some (x, k) => csrField c 0 4 2 t = k % 4 ∧ rdCsr c 5 t = x.setWidth 32
    | none => csrField c 0 4 2 t = 0) ∧
  (getPea c t).pc = BitVec.ofNat 14 ((rdCsr c 4 s).toNat + if nmi then 32 else 0) ∧
  (getPea c t).branch = none ∧ (getPea c t).slots = 0 ∧ (getPea c t).stall = .none ∧ (getPea c t).unreturned = true

/-- The commands that leave the timebase and the block number alone: all but the block boundary, those that set, run or read
the timebase, those that start or reset the islands, and accesses that may do so through a register. -/
def keepsTime : Instr → Bool
  | .blockBoundary | .tbSetGo | .freestartTimeout | .ppsEdge .. | .ptpSync .. | .tbNsLoRead .. | .triggerFire .. => false
  | .powerOnReset .. | .ppgLoss .. | .pwrRestart .. | .stepDlyEnd .. | .stoppingFlushDone | .slotAdmission .. => false
  | .islReset .. | .supplyDip .. => false
  | .registerWrite .. | .podDmaDescriptorDone .. | .xbTransaction .. | .xbPieceGrant .. | .xbTimeout .. => false
  | _ => true

/-- A gain element stands at its target: no ramp of it runs (R150). -/
def settled (f : FRef) (s : State) : Prop := s.graph.gains.find? (fun e => e.1 == f.addr) = none

/-- A guard presents a valid block as it is: no fade-in or crossfade runs, and fewer than two blocks in a row were missed
(R122, R128). -/
def guardPlain (key : Nat) (s : State) : Prop :=
  (getGuard key s).run < 2 ∧ (getGuard key s).fading = none ∧ (getGuard key s).cross = none

end Sys2Proof.Machine
end

