-- ==== Sys2Proof/WellFormed.lean ====
section
/-! DEFINITION. Which commands are well formed. The operand types already bound every number, name and field; the checks
here are what they cannot say. -/

namespace Sys2Proof

/-- The IDs of the crossbar's masters (R453): those below 0xF and 0x10 to 0x21. -/
def masterId (m : Nat) : Bool := Nat.blt m 0xF || (Nat.ble 0x10 m && Nat.ble m 0x21)

/-- Is a crossbar request one that a master can issue (R453): by a master, of at least one byte, with as many bytes of data as a
write's length says? -/
def XbReq.wellFormed (r : XbReq) : Bool :=
  masterId r.master.toNat && r.len != 0 && (!r.write || r.data.length == r.len.toNat)

/-- The bounds of register space (R558): 0x4000_0000 to 0x4FFF_FFFF. -/
def registerSpace (a : Nat) : Bool := Nat.ble 0x40000000 a && Nat.blt a 0x50000000

/-- Is a command well formed? -/
def Instr.wellFormed : Instr → Bool
  | .xbTransaction r _ => r.wellFormed
  | .registerWrite _ _ _ addr _ => registerSpace addr.toNat
  | _ => true

end Sys2Proof
end

