-- ==== Sys2Proof/Certificates/Slice0/Obligations.lean ====
section
/-! DEFINITION. The statements about the model that the provers are asked to prove. Each docstring says in words what its
statement says and names the rules of spec/ it formalises. -/

open Sys2Proof Sys2Proof.Machine

/-- The D operations of the ALU (R72). A bundle of one of MOV, ADD, SUB, ADDS, SUBS, AND, OR, XOR, NOT, ASL, ASLS, ASR, LSR, ABS,
NEG, MIN, MAX and CLS that nothing stops, with its stage predicate 1, puts the operation's value on its way to the physical
register that DST names, with the flags of the table's Flags column and the sticky flag SAT where it saturates. -/
def Obligations.AluDataOperationsGiveTheirResults : Prop :=
  ∀ (c : CoreId) (a : AluSlots) (s : State) (x y : DWord) (n : Nat),
    issues c.val (fun r => moveChecks c.val true false a.move.kind a.move.args r) s = true →
    rdQ c.val a.astg.val (atIssue c.val s) = true →
    x = rdD c.val a.srca.val (atIssue c.val s) → y = aluB c.val a (atIssue c.val s) → n = aluCount c.val a (atIssue c.val s) →
    let D (t : State) (v : DWord) : Prop := Puts c.val t 1 (.d (physAt c.val a.dst.val s)) (v.setWidth 56)
    let F (t : State) (v : DWord) (cy ov : Option Bool) : Prop := PutsFlags c.val t (some (v == 0)) (some v.msb) cy ov
    let S (t : State) (b : Bool) : Prop := PutsSticky c.val t b 1
    Goes (.mov c a) s (fun t => D t x) ∧
    Goes (.add c a) s (fun t => D t (x + y) ∧
      F t (x + y) (some (decide (2 ^ 24 ≤ x.toNat + y.toNat))) (some (outOf 24 (x.toInt + y.toInt)))) ∧
    Goes (.sub c a) s (fun t => D t (x - y) ∧
      F t (x - y) (some (decide (y.toNat ≤ x.toNat))) (some (outOf 24 (x.toInt - y.toInt)))) ∧
    Goes (.adds c a) s (fun t => D t (BitVec.ofInt 24 (clampTo 24 (x.toInt + y.toInt))) ∧
      F t (BitVec.ofInt 24 (clampTo 24 (x.toInt + y.toInt))) (some (decide (2 ^ 24 ≤ x.toNat + y.toNat)))
        (some (outOf 24 (x.toInt + y.toInt))) ∧ S t (outOf 24 (x.toInt + y.toInt))) ∧
    Goes (.subs c a) s (fun t => D t (BitVec.ofInt 24 (clampTo 24 (x.toInt - y.toInt))) ∧
      F t (BitVec.ofInt 24 (clampTo 24 (x.toInt - y.toInt))) (some (decide (y.toNat ≤ x.toNat)))
        (some (outOf 24 (x.toInt - y.toInt))) ∧ S t (outOf 24 (x.toInt - y.toInt))) ∧
    Goes (.and c a) s (fun t => D t (x &&& y) ∧ F t (x &&& y) (some false) (some false)) ∧
    Goes (.or c a) s (fun t => D t (x ||| y) ∧ F t (x ||| y) (some false) (some false)) ∧
    Goes (.xor c a) s (fun t => D t (x ^^^ y) ∧ F t (x ^^^ y) (some false) (some false)) ∧
    Goes (.not c a) s (fun t => D t (~~~x) ∧ F t (~~~x) (some false) (some false)) ∧
    Goes (.asl c a) s (fun t => D t (x <<< n) ∧ F t (x <<< n) none none) ∧
    Goes (.asls c a) s (fun t => D t (BitVec.ofInt 24 (clampTo 24 (x.toInt * 2 ^ n))) ∧
      F t (BitVec.ofInt 24 (clampTo 24 (x.toInt * 2 ^ n))) none none ∧ S t (outOf 24 (x.toInt * 2 ^ n))) ∧
    Goes (.asr c a) s (fun t => D t (x.sshiftRight n) ∧ F t (x.sshiftRight n) none none) ∧
    Goes (.lsr c a) s (fun t => D t (x >>> n) ∧ F t (x >>> n) none none) ∧
    Goes (.abs c a) s (fun t => D t (BitVec.ofInt 24 (clampTo 24 x.toInt.natAbs)) ∧
      F t (BitVec.ofInt 24 (clampTo 24 x.toInt.natAbs)) none (some (x == 0x800000)) ∧ S t (x == 0x800000)) ∧
    Goes (.neg c a) s (fun t => D t (BitVec.ofInt 24 (clampTo 24 (-x.toInt))) ∧
      F t (BitVec.ofInt 24 (clampTo 24 (-x.toInt))) none (some (x == 0x800000)) ∧ S t (x == 0x800000)) ∧
    Goes (.min c a) s (fun t => D t (BitVec.ofInt 24 (min x.toInt y.toInt)) ∧ F t (BitVec.ofInt 24 (min x.toInt y.toInt)) none none) ∧
    Goes (.max c a) s (fun t => D t (BitVec.ofInt 24 (max x.toInt y.toInt)) ∧ F t (BitVec.ofInt 24 (max x.toInt y.toInt)) none none) ∧
    Goes (.cls c a) s (fun t => ∃ k, k ≤ 23 ∧ (∀ i, i < k → x.getLsbD (22 - i) = x.msb) ∧ (k < 23 → x.getLsbD (22 - k) ≠ x.msb) ∧
      D t (BitVec.ofNat 24 k) ∧ PutsFlags c.val t (some (k == 0)) none none none)

/-- The operations that only set flags, CMP and CMPA, and NOP of the ALU slot, which does nothing (R72). -/
def Obligations.AluComparisonsSetFlagsAlone : Prop :=
  ∀ (c : CoreId) (a : AluSlots) (s : State) (x y : DWord),
    x = rdD c.val a.srca.val (atIssue c.val s) → y = aluB c.val a (atIssue c.val s) →
    (issues c.val (fun r => moveChecks c.val true false a.move.kind a.move.args r) s = true →
      rdQ c.val a.astg.val (atIssue c.val s) = true →
      Goes (.cmp c a) s (fun t => PutsFlags c.val t (some (x == y)) (some (x - y).msb) (some (decide (y.toNat ≤ x.toNat)))
        (some (outOf 24 (x.toInt - y.toInt))) ∧
        (a.move.kind = .none → ∀ f ∈ (getPea c.val t).flight, f ∉ (getPea c.val (atIssue c.val s)).flight → ∃ m, f.tgt = .flags m))) ∧
    (issues c.val (fun r => moveChecks c.val true false a.move.kind a.move.args r) s = true →
      Goes (.aluNop c a) s (fun t => a.move.kind = .none →
        (getPea c.val t).flight = (getPea c.val (atIssue c.val s)).flight ∧ t.mem = (atIssue c.val s).mem)) ∧
    (issues c.val (fun r => moveChecks c.val (isA a.srca && isA a.srcb) false a.move.kind a.move.args r) s = true →
      rdQ c.val a.astg.val (atIssue c.val s) = true →
      Goes (.cmpa c a) s (fun t =>
        let d := (rdA c.val a.srca.val (atIssue c.val s)).toInt - (rdA c.val a.srcb.val (atIssue c.val s)).toInt
        PutsFlags c.val t (some (BitVec.ofInt 56 d == 0)) (some (BitVec.ofInt 56 d).msb) none (some (outOf 56 d)) ∧
        (a.move.kind = .none → ∀ f ∈ (getPea c.val t).flight, f ∉ (getPea c.val (atIssue c.val s)).flight → ∃ m, f.tgt = .flags m)))

/-- The operations that round or move an accumulator into D registers (R55, R72): RND and RND2 round to bit 24 after a shift of
0 to 7, by `PSW.RMODE`, and saturate; MVA2 saturates to 48 bits. SAT sets on saturation.
Readings and choices of the model in it: log entries 79 (DEDUCED). -/
def Obligations.AccumulatorsMoveToDRegisters : Prop :=
  ∀ (c : CoreId) (a : AluSlots) (s : State) (A B : Int) (tr : Bool),
    rdQ c.val a.astg.val (atIssue c.val s) = true →
    A = (rdA c.val a.srca.val (atIssue c.val s)).toInt → B = (rdA c.val (a.srca.val ^^^ 4) (atIssue c.val s)).toInt →
    tr = rmode c.val (atIssue c.val s) →
    let D (t : State) (r : Nat) (v : Int) : Prop := Puts c.val t 1 (.d (physAt c.val r s)) ((BitVec.ofInt 24 v).setWidth 56)
    (issues c.val (fun r => moveChecks c.val (a.imm && isA a.srcb && isA a.srca) false a.move.kind a.move.args r) s = true →
      Goes (.rnd c a) s (fun t => ∃ q, RoundsTo tr (A * 2 ^ a.srcb.val) q ∧ D t a.dst.val (clampTo 24 q) ∧
        PutsSticky c.val t (outOf 24 q) 1) ∧
      Goes (.rnd2 c a) s (fun t => ∃ q1 q2, RoundsTo tr (A * 2 ^ a.srcb.val) q1 ∧ RoundsTo tr (B * 2 ^ a.srcb.val) q2 ∧
        D t (a.dst.val / 2 * 2) (clampTo 24 q1) ∧ D t (a.dst.val / 2 * 2 + 1) (clampTo 24 q2) ∧
        PutsSticky c.val t (outOf 24 q1 || outOf 24 q2) 1)) ∧
    (issues c.val (fun r => moveChecks c.val (isA a.srca) false a.move.kind a.move.args r) s = true →
      Goes (.mva2 c a) s (fun t => D t (a.dst.val / 2 * 2) (clampTo 48 A / 2 ^ 24) ∧ D t (a.dst.val / 2 * 2 + 1) (clampTo 48 A % 2 ^ 24) ∧
        PutsSticky c.val t (outOf 48 A) 1))

/-- The operations that write accumulators (R54, R72): CLRA, CLRA2, MVDA, MVPA, ADDA, SUBA, ASHA, NEGA and ABSA put the value on its
way to A[DST] (CLRA2 also to A[DST XOR 4]); sums wrap modulo 2^56, and a true result outside sets V and AOV.
Readings and choices of the model in it: log entries 79 (DEDUCED). -/
def Obligations.AccumulatorOperationsWrapAndSetAov : Prop :=
  ∀ (c : CoreId) (a : AluSlots) (s : State) (x hi lo : DWord) (A B : Int),
    rdQ c.val a.astg.val (atIssue c.val s) = true →
    x = rdD c.val a.srca.val (atIssue c.val s) →
    hi = rdD c.val (a.srca.val / 2 * 2) (atIssue c.val s) → lo = rdD c.val (a.srca.val / 2 * 2 + 1) (atIssue c.val s) →
    A = (rdA c.val a.srca.val (atIssue c.val s)).toInt → B = (rdA c.val a.srcb.val (atIssue c.val s)).toInt →
    let ok (l : Bool) : Prop := issues c.val (fun r => moveChecks c.val (l && isA a.dst) false a.move.kind a.move.args r) s = true
    let W (t : State) (v : Int) : Prop := Puts c.val t 1 (.a a.dst.val) (BitVec.ofInt 56 v)
    let F (t : State) (v : Int) : Prop :=
      PutsFlags c.val t (some (BitVec.ofInt 56 v == 0)) (some (BitVec.ofInt 56 v).msb) none (some (outOf 56 v)) ∧
      PutsSticky c.val t (outOf 56 v) 2
    (ok true →
      Goes (.clra c a) s (fun t => W t 0) ∧
      Goes (.clra2 c a) s (fun t => W t 0 ∧ Puts c.val t 1 (.a (a.dst.val ^^^ 4)) 0) ∧
      Goes (.mvda c a) s (fun t => W t (x.toInt * 2 ^ 24)) ∧
      Goes (.mvpa c a) s (fun t => W t (hi.toInt * 2 ^ 24 + lo.toNat))) ∧
    (ok (isA a.srca && isA a.srcb) →
      Goes (.adda c a) s (fun t => W t (A + B) ∧ F t (A + B)) ∧
      Goes (.suba c a) s (fun t => W t (A - B) ∧ F t (A - B))) ∧
    (ok (isA a.srca) →
      Goes (.asha c a) s (fun t =>
        let n := (BitVec.ofNat 5 a.srcb.val).toInt
        let v : Int := if 0 ≤ n then A * 2 ^ n.toNat else A / 2 ^ (-n).toNat
        W t v ∧ PutsFlags c.val t (some (BitVec.ofInt 56 v == 0)) (some (BitVec.ofInt 56 v).msb) none none ∧
        PutsSticky c.val t (outOf 56 v) 2) ∧
      Goes (.nega c a) s (fun t => W t (-A) ∧ F t (-A)) ∧
      Goes (.absa c a) s (fun t => W t A.natAbs ∧ F t A.natAbs))

/-- The MAC opcodes (R53, R54, R56, R57, R58, R59). A MAC-format bundle that nothing stops, with its stage predicate 1, puts into
each accumulator that the route names the routed product, added to it or subtracted from it, modulo 2^56, seen by others two
bundles later, and sets AOV where a true result lies outside. Products are those of R53 (times 2, times 4 for .Q1) routed
by R57; the double-word opcodes take those of R56 and only routes 0 and 1. NOP performs no multiply (R58), and a MAC opcode whose
stage predicate is 0 has no effect (R68): with no short moves nothing is put in flight and memory stays. -/
def Obligations.MacOpcodesAccumulateRoutedProducts : Prop :=
  (∀ (c : CoreId) (m : MacSlots) (s : State) (x0 x1 y0 y1 : Int) (lo : Nat),
    rdQ c.val m.mstg.val (atIssue c.val s) = true →
    x0 = (rdD c.val m.xa.val (atIssue c.val s)).toInt → x1 = (rdD c.val m.xb.val (atIssue c.val s)).toInt →
    lo = (rdD c.val m.xb.val (atIssue c.val s)).toNat →
    y0 = (rdD c.val m.ya.val (atIssue c.val s)).toInt → y1 = (rdD c.val m.yb.val (atIssue c.val s)).toInt →
    let ok (l : Bool) : Prop := issues c.val (fun r => ⟨l, false, false,
      moveAccesses c.val (shortKind m.xmove.kind) (shortArgs .x m.xmove) r ++
      moveAccesses c.val (shortKind m.ymove.kind) (shortArgs .y m.ymove) r, [], none⟩) s = true
    let old (i : Nat) : Int := (rdAMac c.val i (atIssue c.val s)).toInt
    let acc (i h : Nat) : Nat := 4 * ((m.acc.val / 4 + h) % 2) + (m.acc.val + i) % 4
    let routed (k : Int) : List (Nat × Int) :=
      if m.route.val = 0 then [(acc 0 0, k * (x0 * y0)), (acc 1 0, k * (x0 * y1)), (acc 0 1, k * (x1 * y0)), (acc 1 1, k * (x1 * y1))]
      else if m.route.val = 1 then [(acc 0 0, k * (x0 * y0)), (acc 0 1, k * (x1 * y1))]
      else if m.route.val = 2 then [(acc 0 0, k * (x0 * y0 + x1 * y1)), (acc 0 1, k * (x0 * y1 + x1 * y0))]
      else [(acc 0 0, k * (x0 * y0 - x1 * y1)), (acc 0 1, k * (x0 * y1 + x1 * y0))]
    let double : List (Nat × Int) :=
      if m.route.val = 0 then [(acc 0 0, x0 * y0 * 2 + lo * y0 / 2 ^ 23)]
      else [(acc 0 0, x0 * y0 * 2 + lo * y0 / 2 ^ 23), (acc 1 0, x0 * y1 * 2 + lo * y1 / 2 ^ 23)]
    let R (ps : List (Nat × Int)) (f : Int → Int → Int) (t : State) : Prop := ∀ p ∈ ps,
      Puts c.val t 2 (.a p.1) (BitVec.ofInt 56 (f (old p.1) p.2)) ∧ PutsSticky c.val t (outOf 56 (f (old p.1) p.2)) 2
    (ok true →
      Goes (.mpy c m) s (R (routed 2) fun _ p => p) ∧
      Goes (.mac c m) s (R (routed 2) fun o p => o + p) ∧
      Goes (.msu c m) s (R (routed 2) fun o p => o - p) ∧
      Goes (.mpyQ1 c m) s (R (routed 4) fun _ p => p) ∧
      Goes (.macQ1 c m) s (R (routed 4) fun o p => o + p) ∧
      Goes (.msuQ1 c m) s (R (routed 4) fun o p => o - p)) ∧
    (ok (decide (m.route.val < 2)) →
      Goes (.dmpy c m) s (R double fun _ p => p) ∧
      Goes (.dmac c m) s (R double fun o p => o + p) ∧
      Goes (.dmsu c m) s (R double fun o p => o - p))) ∧
  ∀ (c : CoreId) (m : MacSlots) (s : State), m.xmove.kind = .none → m.ymove.kind = .none →
    issues c.val (fun _ => plainChecks true) s = true →
    Goes (.macNop c m) s (fun t => (getPea c.val t).flight = (getPea c.val (atIssue c.val s)).flight ∧ t.mem = (atIssue c.val s).mem) ∧
    (rdQ c.val m.mstg.val (atIssue c.val s) = false → ∀ i ∈ [Instr.mpy c m, .mac c m, .msu c m, .mpyQ1 c m, .macQ1 c m, .msuQ1 c m],
      Goes i s (fun t => (getPea c.val t).flight = (getPea c.val (atIssue c.val s)).flight ∧ t.mem = (atIssue c.val s).mem))

/-- The modulo rule (R49) and the addressing modes (R48, R50): with M 0 a step is taken modulo 2^20; otherwise the result is
brought back by the window's length once, and lies outside the window exactly when the second part says so. A move's
addresses and pointer update follow its mode; a two-word access steps by 2 and takes the word that follows by the rule, in
absolute mode modulo 2^16. -/
def Obligations.AddressingFollowsTheModuloRule : Prop :=
  (∀ (p w m : Nat) (d : Int), p < 2 ^ 20 → w < 2 ^ 20 → m < 2 ^ 16 →
    let q : Int := p + d
    (m = 0 → modStep p w m d = (BitVec.ofInt 20 q, false)) ∧
    (0 < m → (w : Int) ≤ q → q < w + m → modStep p w m d = (BitVec.ofInt 20 q, false)) ∧
    (0 < m → (w : Int) + m ≤ q → modStep p w m d = (BitVec.ofInt 20 (q - m), decide (w + m ≤ q - m))) ∧
    (0 < m → q < w → modStep p w m d = (BitVec.ofInt 20 (q + m), decide (q + m < w)))) ∧
  ∀ (c ptr : Nat) (ab : BitVec 16) (two : Bool) (s : State),
    let P : BitVec 20 := rdP c ptr s
    let N : Int := (rdN c ptr s).toInt
    let st (p : BitVec 20) (d : Int) : BitVec 20 := (modStep p.toNat (rdW c ptr s).toNat (rdM c ptr s).toNat d).1
    let k : Int := if two then 2 else 1
    let A (x : AMode) : Addrs := moveAddrs c ptr x ab two s
    ((A .postN).a = P.toNat ∧ (A .postN).a2 = (st P 1).toNat ∧ (A .postN).upd = some (st P N)) ∧
    ((A .postInc).a = P.toNat ∧ (A .postInc).a2 = (st P 1).toNat ∧ (A .postInc).upd = some (st P k)) ∧
    ((A .postDec).a = P.toNat ∧ (A .postDec).a2 = (st P 1).toNat ∧ (A .postDec).upd = some (st P (-k))) ∧
    ((A .indexN).a = (st P N).toNat ∧ (A .indexN).a2 = (st (st P N) 1).toNat ∧ (A .indexN).upd = none) ∧
    ((A .plain).a = P.toNat ∧ (A .plain).a2 = (st P 1).toNat ∧ (A .plain).upd = none) ∧
    ((A .absolute).a = ab.toNat ∧ (A .absolute).a2 = (ab + 1).toNat ∧ (A .absolute).upd = none ∧ (A .absolute).modv = false)

/-- Loads (R44, R47, R50, R51, R52, R59, R71): LD, LDP and LDA whose stage predicate is 1 put the words read on their way to a D
register, a D pair or an accumulator, seen 2 bundles later from X and Y and 12 bundles later from shared memory; the pointer
moves, MODV sets where a modulo result leaves its buffer, and memory stays. A crossbar load stalls the core with its pair and
its byte address noted (R81).
Readings and choices of the model in it: log entries 10 (DESIGN CHOICE), 83 (DEDUCED). -/
def Obligations.LoadsDeliverAfterTheirLatency : Prop :=
  ∀ (c : CoreId) (m : MoveArgs) (s : State), rdQ c.val m.stg.val (atIssue c.val s) = true →
    let r := atIssue c.val s
    let ok (k : LKind) : Prop := issues c.val (fun r => moveChecks c.val true false k m r) s = true
    let ad (two : Bool) : Addrs := moveAddrs c.val m.ptr.val m.mode m.addr two r
    let word (a : Nat) : DWord := match m.space with
      | .x => rdX c.val a r
      | .y => rdY c.val a r
      | _ => (rdShared (c.val / 9) (bbufMap c.val (a % 1048576) r) r).setWidth 24
    let lat : Nat := if m.space = .shared then 12 else 2
    let even := m.reg.val / 2 * 2
    let moves (two : Bool) (t : State) : Prop := (∀ p, (ad two).upd = some p → Puts c.val t 1 (.p m.ptr.val) (p.setWidth 56)) ∧
      PutsSticky c.val t (ad two).modv 4 ∧ t.mem = r.mem
    (ok .ld → m.space ≠ .crossbar → Goes (.ld c m) s (fun t => moves false t ∧
      Puts c.val t lat (.d (physAt c.val m.reg.val s)) ((word (ad false).a).setWidth 56))) ∧
    (ok .ld → m.space = .crossbar → Goes (.ld c m) s (fun t => moves false t ∧
      ∃ w, (getPea c.val t).stall = .load w ∧ w.hi = physAt c.val even s ∧ w.lo = physAt c.val (even + 1) s ∧
        w.addr = BitVec.ofNat 40 (csrField c.val 0x0A 0 18 r * 2 ^ 22 + (ad false).a % 2 ^ 20 * 4))) ∧
    (ok .ldp → Goes (.ldp c m) s (fun t => moves true t ∧
      Puts c.val t lat (.d (physAt c.val even s)) ((word (ad true).a).setWidth 56) ∧
      Puts c.val t lat (.d (physAt c.val (even + 1) s)) ((word (ad true).a2).setWidth 56))) ∧
    (ok .lda → Goes (.lda c m) s (fun t => moves true t ∧
      Puts c.val t lat (.a m.reg.val) (BitVec.ofInt 56 ((word (ad true).a).toInt * 2 ^ 24 + (word (ad true).a2).toNat))))

/-- Stores (R50, R52, R55, R59, R71): ST, STP, STR and ST2 whose stage predicate is 1 put the words on their way to X or Y, seen by
loads 4 bundles later, or write them sign-extended to shared memory; the pointer moves. At the end of the bundle every word of
X and Y is as the landed writes left it, and so is every word of shared memory but those stored to. A crossbar store is
posted with its byte address and its word (R81).
Readings and choices of the model in it: log entries 6 (DEDUCED), 10 (DESIGN CHOICE). -/
def Obligations.StoresReachTheirWordsAlone : Prop :=
  ∀ (c : CoreId) (m : MoveArgs) (s : State), rdQ c.val m.stg.val (atIssue c.val s) = true →
    let r := atIssue c.val s
    let ok (k : LKind) : Prop := issues c.val (fun r => moveChecks c.val true false k m r) s = true
    let ad (two : Bool) : Addrs := moveAddrs c.val m.ptr.val m.mode m.addr two r
    let even := m.reg.val / 2 * 2
    let A : Int := (rdA c.val m.reg.val r).toInt
    let key (a : Nat) : Nat := bbufMap c.val (a % 1048576) r % 1048576
    let same (t : State) : Prop := ∀ k a, rdX k a t = rdX k a r ∧ rdY k a t = rdY k a r ∧ rdProg k a t = rdProg k a r ∧
      rdDram a t = rdDram a r
    let store (t : State) (a : Nat) (v : DWord) : Prop :=
      (m.space = .x → Puts c.val t 4 (.memX (a % 65536)) (v.setWidth 56)) ∧
      (m.space = .y → Puts c.val t 4 (.memY (a % 65536)) (v.setWidth 56)) ∧
      (m.space = .shared → rdShared (c.val / 9) (key a) t = v.signExtend 32)
    let moves (two : Bool) (t : State) : Prop := (∀ p, (ad two).upd = some p → Puts c.val t 1 (.p m.ptr.val) (p.setWidth 56)) ∧
      PutsSticky c.val t (ad two).modv 4 ∧ same t ∧
      ∀ n a, n < 16 → a < 1048576 →
        (m.space ≠ .shared ∨ n ≠ c.val / 9 ∨ (a ≠ key (ad two).a ∧ (two = true → a ≠ key (ad two).a2))) →
        rdShared n a t = rdShared n a r
    (ok .st → m.space ≠ .crossbar → Goes (.st c m) s (fun t => moves false t ∧ store t (ad false).a (rdD c.val m.reg.val r))) ∧
    (ok .st → m.space = .crossbar → Goes (.st c m) s (fun t => moves false t ∧
      (getPea c.val t).posted = (getPea c.val r).posted ++
        [(BitVec.ofNat 40 (csrField c.val 0x0A 0 18 r * 2 ^ 22 + (ad false).a % 2 ^ 20 * 4),
          (rdD c.val even r).extractLsb' 0 16 ++ (rdD c.val (even + 1) r).extractLsb' 0 16)])) ∧
    (ok .stp → Goes (.stp c m) s (fun t => moves true t ∧
      ((m.space = .shared → key (ad true).a ≠ key (ad true).a2) → store t (ad true).a (rdD c.val even r)) ∧ store t (ad true).a2 (rdD c.val (even + 1) r))) ∧
    (ok .str → Goes (.str c m) s (fun t => ∃ q, RoundsTo (rmode c.val r) A q ∧ moves false t ∧
      store t (ad false).a (BitVec.ofInt 24 (clampTo 24 q)) ∧ PutsSticky c.val t (outOf 24 q) 1)) ∧
    (ok .st2 → Goes (.st2 c m) s (fun t => moves true t ∧
      ((m.space = .shared → key (ad true).a ≠ key (ad true).a2) → store t (ad true).a (BitVec.ofInt 24 (clampTo 48 A / 2 ^ 24))) ∧
      store t (ad true).a2 (BitVec.ofInt 24 (clampTo 48 A % 2 ^ 24)) ∧ PutsSticky c.val t (outOf 48 A) 1))

/-- Moves to and from control registers (R49, R59, R72, R73): MOVC puts the bits that fit on their way to the register that DST names
(pointers, offsets, lengths and window starts seen by the next bundle, LC, LS, LE, ROT_BASE, PSW and QREG two bundles later),
MOVR reads one zero-extended (WSET reads 0), and ADDP steps P[SRCA] into P[DST] by the modulo rule of pointer DST. A
long-immediate bundle writes D and control registers the same way, slot 1 after slot 0, and slots of control index 31
do nothing (R74).
Readings and choices of the model in it: log entries 11 (DESIGN CHOICE). -/
def Obligations.ControlRegistersAreWrittenAndRead : Prop :=
  ∀ (c : CoreId) (a : AluSlots) (s0 s1 : LimmSlot) (s : State),
    let r := atIssue c.val s
    let p := getPea c.val r
    let W (t : State) (i : Nat) (v : BitVec 56) : Prop :=
      (i < 8 → Puts c.val t 1 (.p i) v) ∧ (8 ≤ i → i < 16 → Puts c.val t 1 (.n (i - 8)) v) ∧
      (16 ≤ i → i < 24 → Puts c.val t 1 (.m (i - 16)) v) ∧ (i = 24 → Puts c.val t 2 .lc v) ∧ (i = 25 → Puts c.val t 2 .ls v) ∧
      (i = 26 → Puts c.val t 2 .le v) ∧ (i = 27 → Puts c.val t 2 .rot v) ∧ (i = 28 → Puts c.val t 2 .psw v) ∧
      (i = 29 → Puts c.val t 2 .qreg v) ∧ (i = 30 → Puts c.val t 1 (.w (v.toNat / 2 ^ 20 % 8)) v)
    let slot (t : State) (x : LimmSlot) : Prop :=
      (x.cls = true → W t x.idx.val (x.imm.setWidth 56)) ∧
      (x.cls = false → Puts c.val t 1 (.d (physAt c.val x.idx.val s)) (x.imm.setWidth 56))
    (rdQ c.val a.astg.val r = true →
      (issues c.val (fun r => moveChecks c.val (a.dst.val != 31) (a.dst.val == 28) a.move.kind a.move.args r) s = true →
        Goes (.movc c a) s (fun t => W t a.dst.val ((if a.imm then (BitVec.ofNat 5 a.srcb.val).signExtend 24
          else rdD c.val a.srca.val r).setWidth 56))) ∧
      (issues c.val (fun r => moveChecks c.val (a.srca.val != 31) false a.move.kind a.move.args r) s = true →
        let i := a.srca.val
        let D (t : State) (v : Nat) : Prop := Puts c.val t 1 (.d (physAt c.val a.dst.val s)) (BitVec.ofNat 56 v)
        Goes (.movr c a) s (fun t => (i < 8 → D t (rdP c.val i r).toNat) ∧ (8 ≤ i → i < 16 → D t (rdN c.val (i - 8) r).toNat) ∧
          (16 ≤ i → i < 24 → D t (rdM c.val (i - 16) r).toNat) ∧ (i = 30 → D t 0) ∧
          (isCtl c.val = false → (i = 24 → D t p.lc.toNat) ∧ (i = 25 → D t p.ls.toNat) ∧ (i = 26 → D t p.le.toNat) ∧
            (i = 27 → D t p.rot.toNat) ∧ (i = 28 → D t (pswRead p).toNat) ∧ (i = 29 → D t p.qreg.toNat)))) ∧
      (issues c.val (fun r => moveChecks c.val (isA a.dst && isA a.srca) false a.move.kind a.move.args r) s = true →
        let x := modStep (rdP c.val a.srca.val r).toNat (rdW c.val a.dst.val r).toNat (rdM c.val a.dst.val r).toNat
          (aluB c.val a r).toInt
        Goes (.addp c a) s (fun t => Puts c.val t 1 (.p a.dst.val) (x.1.setWidth 56) ∧ PutsSticky c.val t x.2 4))) ∧
    (issues c.val (fun _ => plainChecks true) s = true → Goes (.longImmediate c s0 s1) s (fun t => slot t s0 ∧ slot t s1 ∧
      (s0.cls = true → s0.idx.val = 31 → s1.cls = true → s1.idx.val = 31 →
        (getPea c.val t).flight = (getPea c.val r).flight)))

/-- Branches (R61, R66, R77): BR, CALL and RET outside a delay slot whose condition holds take effect after two delay slots; CALL
pushes the address after its second delay slot, on a pod pea with the stack full over the oldest entry with SOV set, and RET
pops it. With the condition false the core goes on, and the two bundles after the branch are delay slots all the same. NOP of
the control format only goes on (R76). With a branch taken two bundles still issue, and after the second the core stands at the
target. Readings and choices of the model in it: log entry 91: DEDUCED (DEDUCED). -/
def Obligations.BranchesTakeEffectAfterTwoDelaySlots : Prop :=
  ∀ (c : CoreId) (cond : BitVec 4) (tgt : BitVec 14) (s : State),
    let r := atIssue c.val s
    let p := getPea c.val r
    let empty := condHolds c.val cond r && p.stack.isEmpty
    let full := condHolds c.val cond r && decide (8 ≤ p.stack.length)
    let on (t : State) : Prop := (getPea c.val t).branch = none ∧ (getPea c.val t).stack = p.stack ∧
      (getPea c.val t).flight = p.flight ∧ (p.loop = none → (getPea c.val t).pc = p.pc + 1)
    let taken (t : State) (x : BitVec 14) : Prop := (getPea c.val t).branch = some (x, 2) ∧ (getPea c.val t).pc = p.pc + 1
    let past (t : State) : Prop := on t ∧ (getPea c.val t).slots = 2 ∧ branchLegal c.val t = false
    (issues c.val (fun _ => plainChecks true) s = true → p.branch = none →
      Goes (.ctlNop c) s (fun t => on t ∧ (getPea c.val t).slots = p.slots - 1)) ∧
    (issues c.val (fun r => plainChecks (branchLegal c.val r)) s = true →
      Goes (.br c cond tgt) s (fun t => if condHolds c.val cond r then taken t tgt ∧ (getPea c.val t).stack = p.stack else past t)) ∧
    (issues c.val (fun _ => { plainChecks (branchLegal c.val r) with stk := isCtl c.val && full }) s = true →
      Goes (.call c cond tgt) s (fun t => if condHolds c.val cond r then
        taken t tgt ∧ (getPea c.val t).stack = (p.pc + 3) :: p.stack.take 7 ∧ PutsSticky c.val t full 32 else past t)) ∧
    (issues c.val (fun _ => { plainChecks (branchLegal c.val r && (isCtl c.val || !empty)) with stk := isCtl c.val && empty }) s = true →
      Goes (.ret c cond) s (fun t => if condHolds c.val cond r then
        ∃ x rest, p.stack = x :: rest ∧ taken t x ∧ (getPea c.val t).stack = rest else past t)) ∧
    (∀ (x : BitVec 14) (jump : Option (BitVec 14)) (t : State),
      (getPea c.val (stepPc c.val (some (x, 2)) none t)).branch = some (x, 1) ∧
      (getPea c.val (stepPc c.val (some (x, 2)) none t)).pc = (getPea c.val t).pc + 1 ∧
      (getPea c.val (stepPc c.val (some (x, 1)) jump t)).branch = none ∧ (getPea c.val (stepPc c.val (some (x, 1)) jump t)).pc = x)

/-- Hardware loops start (R62, R63, R64, R65): LOOP, LOOPD, LOOP.ROT and LOOP.ROTD set LS, LE and LC, a rotating loop sets Q0
alone; the count of the D form is bits 15 to 0. A count of 0 goes on at LE + 1 with no loop active. A loop that replaces an
active one sets LNEST. -/
def Obligations.LoopsStartWithTheirCounts : Prop :=
  ∀ (c : CoreId) (tgt : BitVec 14) (cnt : BitVec 16) (rsel : Fin 32) (stgs : Fin 8) (s : State),
    issues c.val (fun r => plainChecks (loopLegal c.val tgt r)) s = true → (getPea c.val (atIssue c.val s)).branch = none →
    let r := atIssue c.val s
    let p := getPea c.val r
    let dn : Nat := (rdD c.val rsel.val r).toNat % 65536
    let L (n : Nat) (k : Option Nat) (t : State) : Prop :=
      PutsSticky c.val t p.loop.isSome 16 ∧
      (n = 0 → (getPea c.val t).loop = none ∧ (getPea c.val t).pc = tgt + 1) ∧
      (n ≠ 0 → (getPea c.val t).ls = p.pc + 1 ∧ (getPea c.val t).le = tgt ∧ (getPea c.val t).pc = p.pc + 1 ∧
        (match k with
          | none => (getPea c.val t).lc.toNat = n ∧ (getPea c.val t).loop = some ⟨false, n, 1⟩
          | some st => (getPea c.val t).lc.toNat = n + st - 1 ∧ (getPea c.val t).qreg = 1 ∧
              (getPea c.val t).loop = some ⟨true, n, 1⟩))
    Goes (.loop c tgt cnt) s (L cnt.toNat none) ∧ Goes (.loopd c tgt rsel) s (L dn none) ∧
    Goes (.loopRot c tgt cnt stgs) s (L cnt.toNat (some (stgs.val + 1))) ∧
    Goes (.loopRotd c tgt rsel stgs) s (L dn (some (stgs.val + 1)))

/-- The loop test (R62, R63, R65): after the bundle at LE, with LC above 1, LC goes down and the next bundle is LS; otherwise LC
becomes 0 and the loop ends. A rotating loop decrements ROT_BASE and shifts its predicates up, Q0 becoming 1 while fewer
than its count of iterations have begun; at its end QREG becomes 0xFF. The test is not made while a taken branch waits. -/
def Obligations.LoopTestRunsTheCountAndRotates : Prop :=
  ∀ (c : Nat) (l : LoopSt) (s : State), (getPea c s).loop = some l → (getPea c s).pc = (getPea c s).le →
    let p := getPea c s
    let q := getPea c (stepPc c none none s)
    (p.branch = none →
      (1 < p.lc.toNat → q.pc = p.ls ∧ q.lc.toNat = p.lc.toNat - 1 ∧ q.loop.isSome ∧
        (l.rotating = true → q.rot = p.rot - 1 ∧ (∀ j, j < 7 → q.qreg.getLsbD (j + 1) = p.qreg.getLsbD j) ∧
          q.qreg.getLsbD 0 = decide (l.begun < l.count)) ∧
        (l.rotating = false → q.rot = p.rot ∧ q.qreg = p.qreg)) ∧
      (p.lc.toNat ≤ 1 → q.pc = p.pc + 1 ∧ q.lc = 0 ∧ q.loop = none ∧
        (l.rotating = true → q.rot = p.rot - 1 ∧ q.qreg = 0xFF) ∧ (l.rotating = false → q.rot = p.rot ∧ q.qreg = p.qreg))) ∧
    (p.branch ≠ none → q.pc = p.pc + 1 ∧ q.lc = p.lc ∧ q.loop = p.loop)

/-- Tasks and illegal bundles on a pod pea (R79, R93, R104, R105, R109): TEND ends the running task with status NORMAL and the BCYC as
its stamp; EVT posts through the event map, or drops and counts the event at the target pea when the entry's EN is 0; an
illegal bundle is counted, has none of its effects and ends the task with status ILLEGAL.
Readings and choices of the model in it: log entries 8 (DEDUCED). -/
def Obligations.PodPeasEndTasksAndPostEvents : Prop :=
  ∀ (c : CoreId) (v : Fin 64) (w : BitVec 64) (s : State), c.val < 144 → canIssue c.val s = true →
    let n := c.val / 9
    let p := c.val % 9
    let run := getRun c.val s
    let stamp : BitVec 16 := BitVec.ofNat 16 (rd (PEA_STAT_BCYC n p) s)
    (run.task.isSome → Goes (.tend c) s (fun t => ∃ x, (getRun c.val t).ended = some x ∧ x.status = .normal ∧ x.stamp = stamp ∧
      some x.task = run.task ∧ (getRun c.val t).task = run.task)) ∧
    (rdB (PEA_EVMAP_EN n p v.val) s = true → Goes (.evt c v) s (fun t => t.pods.events = s.pods.events ++
      [(rd (PEA_EVMAP_POD n p v.val) s, rd (PEA_EVMAP_PEA n p v.val) s, rd (PEA_EVMAP_TASK n p v.val) s,
        rd (PEA_EVMAP_INPUT n p v.val) s)])) ∧
    (rdB (PEA_EVMAP_EN n p v.val) s = false → rd (PEA_EVMAP_PEA n p v.val) s < 9 →
      rd (PEA_CNT2_EVDROP_COUNT (rd (PEA_EVMAP_POD n p v.val) s) (rd (PEA_EVMAP_PEA n p v.val) s)) s + 1 < 2 ^ 16 →
      Goes (.evt c v) s (fun t => t.pods.events = s.pods.events ∧
        rd (PEA_CNT2_EVDROP_COUNT (rd (PEA_EVMAP_POD n p v.val) s) (rd (PEA_EVMAP_PEA n p v.val) s)) t =
        rd (PEA_CNT2_EVDROP_COUNT (rd (PEA_EVMAP_POD n p v.val) s) (rd (PEA_EVMAP_PEA n p v.val) s)) s + 1)) ∧
    (wordLegal c.val w (atIssue c.val s) = false → run.task.isSome → rd (PEA_CNT_ILL_COUNT n p) s + 1 < 2 ^ 16 →
      Goes (.illegalBundle c w) s (fun t => ∃ x, (getRun c.val t).ended = some x ∧ x.status = .illegal ∧ some x.task = run.task ∧
        rd (PEA_CNT_ILL_COUNT n p) t = rd (PEA_CNT_ILL_COUNT n p) s + 1 ∧ t.mem = (atIssue c.val s).mem ∧
        (getPea c.val t) = (getPea c.val (atIssue c.val s))))

/-- Exception entry (R82, R85, R86, R87) does what `EnteredAs` says; an exception taken before ERET sets NEST, and a second NMI
before ERET sets NEST and is not entered. -/
def Obligations.ExceptionEntrySavesAndJumps : Prop :=
  ∀ (c code : Nat) (tval : Word) (imprecise nmi : Bool) (s : State), code < 256 →
    ((nmi && (getPea c s).nmiIn) = false →
      EnteredAs c code tval imprecise nmi s (enterException c code tval imprecise nmi s) ∧
      ((getPea c s).unreturned = true → csrField c 0 6 1 (enterException c code tval imprecise nmi s) = 1)) ∧
    ((nmi && (getPea c s).nmiIn) = true → (getPea c (enterException c code tval imprecise nmi s)).pc = (getPea c s).pc ∧
      csrField c 0 6 1 (enterException c code tval imprecise nmi s) = 1)

/-- The control extension's bundles (R76, R80, R81, R83, R86) on a core that has it: TRAP takes the TRAP exception with its code where
its condition holds; ERET brings back PL and IE and goes to EPC, with DS delay slots still to run to BTGT; WFI stands still
until an interrupt pends; CSRR brings a CSR to a D pair and CSRW takes one from it; FENCE stands still while posted stores
are unanswered.
Readings and choices of the model in it: log entries 8 (DEDUCED). -/
def Obligations.ControlExtensionBundlesAct : Prop :=
  ∀ (c : CoreId) (cond : BitVec 4) (code : BitVec 8) (reg : Fin 32) (idx : BitVec 8) (s : State), 144 ≤ c.val →
    let r := atIssue c.val s
    let p := getPea c.val r
    let even := reg.val / 2 * 2
    let priv : State → Checks := fun _ => { plainChecks true with priv := true }
    (issues c.val (fun _ => plainChecks true) s = true →
      (condHolds c.val cond r = true → Goes (.trap c cond code) s (EnteredAs c.val 6 (code.setWidth 32) false false r)) ∧
      (condHolds c.val cond r = false → Goes (.trap c cond code) s (fun t => (getPea c.val t).flight = p.flight ∧ t.mem = r.mem)) ∧
      Goes (.fence c) s (fun t => (getPea c.val t).stall = if p.posted.isEmpty then .none else .fence)) ∧
    (issues c.val priv s = true →
      Goes (.eret c) s (fun t => csrField c.val 0 0 1 t = csrField c.val 0 1 1 r ∧ csrField c.val 0 2 1 t = csrField c.val 0 3 1 r ∧
        (getPea c.val t).unreturned = false ∧
        (p.branch = none → (getPea c.val t).pc = (rdCsr c.val 1 r).setWidth 14 ∧
          (getPea c.val t).branch = if csrField c.val 0 4 2 r = 0 then none
            else some ((rdCsr c.val 5 r).setWidth 14, csrField c.val 0 4 2 r))) ∧
      Goes (.wfi c) s (fun t => (getPea c.val t).stall = if (pendingIrq c.val r).isSome then .none else .wfi)) ∧
    (issues c.val priv s = true → csrListed idx.toNat = true →
      Goes (.csrr c reg idx) s (fun t =>
        Puts c.val t 1 (.d (physAt c.val even s)) (((readCsr c.val idx.toNat r).extractLsb' 16 16).setWidth 56) ∧
        Puts c.val t 1 (.d (physAt c.val (even + 1) s)) (((readCsr c.val idx.toNat r).extractLsb' 0 16).setWidth 56)) ∧
      Goes (.csrw c reg idx) s (fun t =>
        let v : Word := (rdD c.val even r).extractLsb' 0 16 ++ (rdD c.val (even + 1) r).extractLsb' 0 16
        let i := idx.toNat
        ((i = 3 ∨ i = 6 ∨ i = 7 ∨ (11 ≤ i ∧ i ≤ 14) ∨ (16 ≤ i ∧ i ≤ 47)) → rdCsr c.val i t = v) ∧
        ((i = 2 ∨ i = 8 ∨ i = 9) → rdCsr c.val i t = rdCsr c.val i r) ∧
        (i = 0 → (rdCsr c.val 0 t).extractLsb' 0 6 = v.extractLsb' 0 6 ∧
          (rdCsr c.val 0 t).getLsbD 6 = ((rdCsr c.val 0 r).getLsbD 6 && !v.getLsbD 6)) ∧
        ((i = 1 ∨ i = 5) → rdCsr c.val i t = v &&& 0x3FFF) ∧ (i = 4 → rdCsr c.val i t = v &&& 0x3FC0) ∧
        (72 ≤ i → Puts c.val t 1 (.w (i - 72)) (v.setWidth 56))))

/-- On a core with the control extension the checks of R85 take their exceptions in their order: an NMI, a fetch that the memory
protection unit refuses, an illegal bundle, a privileged bundle in user mode, a return-stack case, a refused data access;
no slot of the bundle takes effect.
Readings and choices of the model in it: log entries 7 (DESIGN CHOICE), 80 (DEDUCED). -/
def Obligations.ChecksTakeTheirExceptionsInOrder : Prop :=
  ∀ (c : Nat) (ck : State → Checks) (body : State → State) (jump : State → Option (BitVec 14)) (s : State),
    144 ≤ c → canIssue c s = true →
    let r := atIssue c s
    let fetch := 0x80000 + 8 * (getPea c r).pc.toNat
    let k := ck r
    let refused := k.accesses.filter (fun a => !mpuAllows c a.1 a.2.1 (if a.2.2 then .write else .read) r)
    (rdCsr c 0x104 r ≠ 0 → (getPea c r).nmiIn = false → EnteredAs c 0x0F 0 false true r (issue c ck body jump s)) ∧
    (rdCsr c 0x104 r = 0 →
      (mpuAllows c false fetch .fetch r = false → EnteredAs c 3 (BitVec.ofNat 32 fetch) false false r (issue c ck body jump s)) ∧
      (mpuAllows c false fetch .fetch r = true →
        (k.legal = false → EnteredAs c 1 0 false false r (issue c ck body jump s)) ∧
        (k.legal = true →
          (k.priv = true → isSuper c r = false → EnteredAs c 2 0 false false r (issue c ck body jump s)) ∧
          ((k.priv && !isSuper c r) = false →
            (k.stk = true → EnteredAs c 7 0 false false r (issue c ck body jump s)) ∧
            (k.stk = false → ∀ a rest, refused = a :: rest →
              EnteredAs c 4 (BitVec.ofNat 32 a.2.1) false false r (issue c ck body jump s))))))

/-- What reaches a core from outside (R81, R85, R87, R88): a load response ends the stall and brings the word's halves to the pair
with no exception, an error response takes a precise XERR with the state of before the load; a store response frees the oldest
posted store, ends FENCE at the last one, and an error pends an imprecise XERR that a core between bundles takes at once;
interrupt lines pend and are taken while IE is 1 and the line is enabled; an NMI is taken whatever IE is; a running timer
at zero reloads and raises its interrupt.
Readings and choices of the model in it: log entries 80 (DEDUCED), 83 (DEDUCED). -/
def Obligations.CoreEventsReachTheCore : Prop :=
  ∀ (c : CoreId) (data : BitVec 32) (line : Fin 64) (k : Fin 2) (s : State), 144 ≤ c.val →
    let p := getPea c.val s
    let quiet : Prop := rdCsr c.val 0x104 s = 0 ∧ rdCsr c.val 0x102 s = 0
    let masked : Prop := csrField c.val 0 2 1 s = 0
    (∀ w, p.stall = .load w →
      (quiet → masked → Goes (.crossbarLoadResponse c data false) s (fun t => (getPea c.val t).stall = .none ∧
        Puts c.val t 1 (.d w.hi) ((data.extractLsb' 16 16).setWidth 56) ∧ Puts c.val t 1 (.d w.lo) ((data.extractLsb' 0 16).setWidth 56))) ∧
      Goes (.crossbarLoadResponse c data true) s (fun t => rdCsr c.val 3 t = w.addr.setWidth 32 ∧ csrField c.val 2 0 8 t = 5 ∧
        csrField c.val 2 8 1 t = 0 ∧ rdCsr c.val 1 t = w.pc.setWidth 32 ∧ (getPea c.val t).stall = .none)) ∧
    (∀ a v rest, p.posted = (a, v) :: rest →
      Goes (.crossbarStoreResponse c false) s (fun t => (getPea c.val t).posted = rest ∧
        (getPea c.val t).stall = if p.stall = .fence ∧ rest = [] then .none else p.stall) ∧
      (p.stall = .none → rdCsr c.val 0x104 s = 0 → Goes (.crossbarStoreResponse c true) s (fun t => (getPea c.val t).posted = rest ∧
        rdCsr c.val 3 t = a.setWidth 32 ∧ csrField c.val 2 0 8 t = 5 ∧ csrField c.val 2 8 1 t = 1 ∧ rdCsr c.val 0x102 t = 0))) ∧
    (p.stall = .none → quiet → masked → Goes (.interruptEntry c line) s (fun t =>
      (rdCsr c.val (8 + line.val / 32) t).getLsbD (line.val % 32) = true ∧ (getPea c.val t).pc = p.pc)) ∧
    (p.stall = .none → quiet → csrField c.val 0 2 1 s = 1 → outsideSlots p = true → rdCsr c.val 0x100 s = 0 → rdCsr c.val 0x101 s = 0 →
      pendingLines c.val s &&& enabledLines c.val s = 0 → enabledLines c.val s / 2 ^ line.val % 2 = 1 →
      Goes (.interruptEntry c line) s (fun t => csrField c.val 2 0 8 t = 0x40 + line.val ∧
        (getPea c.val t).pc = BitVec.ofNat 14 (rdCsr c.val 4 s).toNat ∧ csrField c.val 0 2 1 t = 0)) ∧
    (p.stall = .none → p.nmiIn = false → Goes (.nmi c) s (fun t => csrField c.val 2 0 8 t = 0x0F ∧
      (getPea c.val t).pc = BitVec.ofNat 14 ((rdCsr c.val 4 s).toNat + 32) ∧ rdCsr c.val 0x104 t = 0)) ∧
    (csrField c.val 0x0F k.val 1 s = 1 → quiet → masked → Goes (.timerZero c k) s (fun t =>
      rdCsr c.val (0x0B + 2 * k.val) t = rdCsr c.val (0x0C + 2 * k.val) s ∧ rdCsr c.val (0x100 + k.val) t = 1))

/-- Writes land (R59, R60): when one bundle time passes, a write with one bundle to go lands and the others come one nearer; of two
writes to one register that land together the later issued stands, and WCOL sets. -/
def Obligations.WritesLandAfterTheirLatency : Prop :=
  ∀ (c : Nat) (s : State),
    let p := getPea c s
    let q := getPea c (land c s)
    (∀ f ∈ p.flight, 1 < f.left → { f with left := f.left - 1 } ∈ q.flight) ∧
    (∀ f ∈ q.flight, ∃ g ∈ p.flight, g.left = f.left + 1 ∧ g.tgt = f.tgt ∧ g.val = f.val) ∧
    (∀ i, (∀ f ∈ p.flight, f.left ≤ 1 → f.tgt ≠ .d i) → mapGet (fun _ => 0) q.d i = mapGet (fun _ => 0) p.d i) ∧
    (∀ i, (∀ f ∈ p.flight, f.left ≤ 1 → f.tgt ≠ .a i) → mapGet (fun _ => 0) q.a i = mapGet (fun _ => 0) p.a i) ∧
    (∀ l1 f l2, p.flight = l1 ++ f :: l2 → f.left ≤ 1 →
      (∀ i, f.tgt = .d i → (∀ g ∈ l2, g.left ≤ 1 → g.tgt ≠ .d i) → mapGet (fun _ => 0) q.d i = f.val.setWidth 24) ∧
      (∀ i, f.tgt = .a i → (∀ g ∈ l2, g.left ≤ 1 → g.tgt ≠ .a i) → mapGet (fun _ => 0) q.a i = f.val) ∧
      (∀ i, f.tgt = .p i → (∀ g ∈ l2, g.left ≤ 1 → g.tgt ≠ .p i) → mapGet (fun _ => 0) q.p i = f.val.setWidth 20) ∧
      (isReg f.tgt = true → (∃ g ∈ l2, g.left ≤ 1 ∧ g.tgt = f.tgt) → q.psw.getLsbD 3 = true))

/-- The frame of the data bundles: an ALU-format, MAC-format or long-immediate bundle of the commands listed that nothing stops
changes no register of another core, no register of its own core but by the writes in flight and the program counter's move, no
memory unless its move stores to shared memory, and none of the block's registers but the core's cycle count. -/
def Obligations.DataBundlesLeaveTheRestAlone : Prop :=
  ∀ (c : CoreId) (a : AluSlots) (s : State),
    issues c.val (fun r => moveChecks c.val true false a.move.kind a.move.args r) s = true → a.move.args.space ≠ .crossbar →
    ∀ i ∈ [Instr.aluNop c a, .mov c a, .add c a, .sub c a, .adds c a, .subs c a, .and c a, .or c a, .xor c a, .not c a, .asl c a,
        .asls c a, .asr c a, .lsr c a, .abs c a, .neg c a, .min c a, .max c a, .cmp c a, .cls c a],
      Goes i s (fun t =>
        let p := getPea c.val (atIssue c.val s)
        let q := getPea c.val t
        (∀ k, k ≠ c.val → getPea k t = getPea k (atIssue c.val s)) ∧
        (q.d = p.d ∧ q.a = p.a ∧ q.p = p.p ∧ q.n = p.n ∧ q.m = p.m ∧ q.w = p.w ∧ q.ls = p.ls ∧ q.le = p.le ∧ q.psw = p.psw ∧
          q.stack = p.stack ∧ q.csr = p.csr ∧ q.posted = p.posted ∧ q.stall = p.stall) ∧
        (p.loop = none → p.branch = none → q.pc = p.pc + 1 ∧ q.lc = p.lc ∧ q.rot = p.rot ∧ q.qreg = p.qreg ∧ q.loop = none) ∧
        (∃ l, q.flight = p.flight ++ l) ∧
        (∀ k x, rdX k x t = rdX k x (atIssue c.val s) ∧ rdY k x t = rdY k x (atIssue c.val s) ∧
          rdProg k x t = rdProg k x (atIssue c.val s) ∧ rdDram x t = rdDram x (atIssue c.val s)) ∧
        ((isStore a.move.kind = false ∨ a.move.args.space ≠ .shared) → t.mem = (atIssue c.val s).mem) ∧
        (∀ x, x ≠ (PEA_STAT_BCYC (c.val / 9) (c.val % 9)).addr → rdReg x t = rdReg x s) ∧
        t.pods = s.pods ∧ t.feu = s.feu)

/-- Dispatch, budget and posting (R103, R104, R105, R107, R112): at a dispatch point the candidate with the earliest DEADLINE starts, with
PC, P0, PSW, QREG, ROT_BASE, LC, LS, LE, the return stack and the loop set by R103 and every other register kept; a triggered task's counters go down by
their thresholds. BUDGET ends a task with the stamp of its last cycle; a posted completion enters the pod's FIFO with the
sticky flags, which are ORed into the entry, and the pea is free.
Readings and choices of the model in it: log entries 31 (DEDUCED), 32 (DEDUCED). -/
def Obligations.TasksStartAndPostTheirCompletions : Prop :=
  ∀ (n : Fin 16) (p : Fin 9) (bcyc : BitVec 16) (s : State),
    let q := n.val * 9 + p.val
    let old := getPea q s
    (∀ e, e < 64 → candidate n.val p.val bcyc.toNat s = some e → dispatchPoint n.val p.val bcyc.toNat s = true →
      (∀ f ∈ (nextStatic n.val p.val bcyc.toNat s).toList ++ readyTasks n.val p.val bcyc.toNat s,
        rd (TASK_TIME_DEADLINE n.val p.val e) s ≤ rd (TASK_TIME_DEADLINE n.val p.val f) s) ∧
      Goes (.dispatch n p bcyc) s (fun t => let new := getPea q t
        new.pc.toNat = rd (TASK_CFG_START n.val p.val e) s ∧ (rdP q 0 t).toNat = rd (TASK_CTX_CTX n.val p.val e) s ∧
        new.psw.toNat = 0x1000 * rd (TASK_CFG_RMODE n.val p.val e) s ∧ new.qreg = 0xFF ∧ new.rot = 0 ∧ new.lc = 0 ∧ new.ls = 0 ∧
        new.le = 0 ∧ new.stack = [] ∧ new.loop = none ∧ (new.d = old.d ∧ new.a = old.a ∧ new.n = old.n ∧ new.m = old.m ∧ new.w = old.w) ∧
        (getRun q t).task = some e ∧ (getRun q t).block = s.tl.k ∧ (getRun q t).ended = none ∧
        rd (PEA_STAT_STATE n.val p.val) t = 1 ∧ rd (PEA_STAT_TASK n.val p.val) t = e ∧ rd (TASK_CTL_RUN n.val p.val e) t = 1 ∧
        (triggered n.val p.val e s = true → ∀ x, x < 4 → rd (TASK_EVC_C n.val p.val e x) t =
          rd (TASK_EVC_C n.val p.val e x) s - rd (TASK_TRIG_TH n.val p.val e x) s))) ∧
    (∀ e, e < 64 → (getRun q s).task = some e → (getRun q s).ended = none → rd (PEA_STAT_STATE n.val p.val) s = 1 →
      Goes (.budgetAbandon n p) s (fun t => ∃ x, (getRun q t).ended = some x ∧ x.status = .budget ∧ x.task = e ∧
        x.stamp = BitVec.ofNat 16 ((getRun q s).start + rd (TASK_TIME_BUDGET n.val p.val e) s - 1))) ∧
    (∀ x, x.task < 64 → (getRun q s).ended = some x → (getFifo n.val s).length < 16 → rd (PEA_STAT_STATE n.val p.val) s = 1 →
      let fl := (getPea q (drain q s)).psw.extractLsb' 0 6
      Goes (.completionPost n p) s (fun t => getFifo n.val t = getFifo n.val s ++ [{ x with flags := fl }] ∧
        rd (TASK_CTL_FLAGS n.val p.val x.task) t = rd (TASK_CTL_FLAGS n.val p.val x.task) s ||| fl.toNat ∧
        rd (TASK_CTL_RUN n.val p.val x.task) t = 0 ∧ rd (PEA_STAT_STATE n.val p.val) t = 0 ∧ (getRun q t).ended = none))

/-- Tempo's judgement (R116, R117, R118, R119, R121, R132): a completion of status NORMAL with its stamp at or before the DEADLINE makes
its output slots valid for its data block; a later one makes them invalid and gives a record LATE with its overrun and stamp; one
posted after its horizon counts as stray. At the horizon a static instance that was never dispatched gives a record SKIPPED, a
running one ABORT. TEMPO_POP shows the next record.
Readings and choices of the model in it: log entries 29 (DEDUCED), 31 (DEDUCED). -/
def Obligations.TempoJudgesOnTheStamp : Prop :=
  ∀ (n : Fin 16) (p : Fin 9) (e : Fin 64) (wait : BitVec 8) (s : State),
    let shows (t : State) (data pea task reason overrun stamp : Nat) : Prop := ∃ act, act < 6 ∧ t.pods.missRecs.getLast? = some
      [BitVec.ofNat 32 data, BitVec.ofNat 32 (n.val + pea * 16 + task * 256 + reason * 65536 + act * 1048576),
        BitVec.ofNat 32 (overrun + stamp * 65536), s.ns.setWidth 32]
    let marked (x : Completion) (t : State) (b : Bool) : Prop := ∀ i, i < rd (TASK_OUT_OUT_NUM n.val x.pea x.task) s →
      rd (TASK_OUT_OUT_FIRST n.val x.pea x.task) s + i < 512 →
      markValid n.val (rd (TASK_OUT_OUT_FIRST n.val x.pea x.task) s + i) (x.block.toNat - 1) t = b
    (∀ x rest, getFifo n.val s = x :: rest → x.pea < 9 → x.task < 64 →
      (x.stray = true → rd TEMPO_CNT_STRAY_COUNT s + 1 < 2 ^ 16 →
        Goes (.tempoIntake n wait) s (fun t => getFifo n.val t = rest ∧ rd TEMPO_CNT_STRAY_COUNT t = rd TEMPO_CNT_STRAY_COUNT s + 1)) ∧
      (x.stray = false → rdB TEMPO_CTL_EN s = true → x.status = .normal →
        (x.stamp.toNat ≤ rd (TASK_TIME_DEADLINE n.val x.pea x.task) s →
          Goes (.tempoIntake n wait) s (fun t => getFifo n.val t = rest ∧ marked x t true ∧ t.pods.missRecs = s.pods.missRecs ∧
            rd TEMPO_INTAKE_HWM t = max (rd TEMPO_INTAKE_HWM s) wait.toNat)) ∧
        (rd (TASK_TIME_DEADLINE n.val x.pea x.task) s < x.stamp.toNat →
          Goes (.tempoIntake n wait) s (fun t => getFifo n.val t = rest ∧ marked x t false ∧
            shows t (x.block.toNat - 1) x.pea x.task 1 (x.stamp.toNat - rd (TASK_TIME_DEADLINE n.val x.pea x.task) s) x.stamp.toNat)))) ∧
    (rdB TEMPO_CTL_EN s = true → inQuiet s = false → rdB (POD_CTL_RUN n.val) s = true → taskOn n.val p.val e.val s = true →
      peaFailed n.val p.val s = false → tlValid s = true →
      let r := getRun (n.val * 9 + p.val) s
      (rd (PEA_STAT_STATE n.val p.val) s ≠ 1 → triggered n.val p.val e.val s = false →
        (getTask n.val p.val e.val s).dispatched ≠ s.tl.k.toNat + 1 → (getTask n.val p.val e.val s).settled ≠ s.tl.k.toNat + 1 →
        Goes (.horizon n p e) s (fun t => shows t (s.tl.k.toNat - 1) p.val e.val 4 0xFFFF 0xFFFF)) ∧
      (rd (PEA_STAT_STATE n.val p.val) s = 1 → r.task = some e.val → r.block = s.tl.k → r.ended = none →
        Goes (.horizon n p e) s (fun t => shows t (s.tl.k.toNat - 1) p.val e.val 3 0xFFFF 0xFFFF ∧
          rd (PEA_STAT_STATE n.val p.val) t = 0))) ∧
    (∀ a b rest, s.pods.missRecs = a :: b :: rest → rest.length < 63 → Goes .tempoPop s (fun t => t.pods.missRecs = b :: rest ∧
      rd TEMPO_STAT_LEVEL t = rest.length + 1 ∧ some (rdReg TEMPO_MREC0_BSN.addr t) = (b ++ [0]).head?))

/-- Events and cancelling (R109, R111, R112, R114): an event counts at its input, sets SAT where the counter stands at 63, makes the task
ready where every input with a threshold meets it, and is dropped and counted where no entry takes it; CANCEL clears the
counters and discards the ready instance. -/
def Obligations.EventsCountAndCancelClears : Prop :=
  ∀ (n : Fin 16) (p : Fin 9) (e : Fin 64) (x : Fin 4) (s : State),
    let C (i : Nat) (t : State) : Nat := rd (TASK_EVC_C n.val p.val e.val i) t
    let D (t : State) : Nat := rd (PEA_CNT2_EVDROP_COUNT n.val p.val) t
    (rdB (TASK_CTL_MOVED n.val p.val e.val) s = false → taskOn n.val p.val e.val s = true → rdB (TASK_CFG_HOT n.val p.val e.val) s = false →
      Goes (.eventArrival n p e x) s (fun t => t.pods.events = s.pods.events.erase (n.val, p.val, e.val, x.val) ∧
        (C x.val s < 63 → C x.val t = C x.val s + 1) ∧
        (C x.val s = 63 → C x.val t = 63 ∧ rd (TASK_EVC_SAT n.val p.val e.val x.val) t = 1) ∧
        (∀ i, i < 4 → i ≠ x.val → C i t = C i s) ∧
        (triggered n.val p.val e.val s = true → thresholdsMet n.val p.val e.val t = true →
          rd (TASK_CTL_READY n.val p.val e.val) t = 1))) ∧
    (rdB (TASK_CTL_MOVED n.val p.val e.val) s = false → taskOn n.val p.val e.val s = false → D s + 1 < 2 ^ 16 →
      Goes (.eventArrival n p e x) s (fun t => D t = D s + 1)) ∧
    Goes (.taskCancel n p e) s (fun t => (∀ i, i < 4 → C i t = 0) ∧ rd (TASK_CTL_READY n.val p.val e.val) t = 0 ∧
      (rd (TASK_CNT_DISC_COUNT n.val p.val e.val) s + 1 < 2 ^ 16 → rd (TASK_CNT_DISC_COUNT n.val p.val e.val) t =
        rd (TASK_CNT_DISC_COUNT n.val p.val e.val) s + rd (TASK_CTL_READY n.val p.val e.val) s))

/-- A failed pea (R119, R120, R126, R127, R131): the pea is marked failed and stopped, its seal windows read 0, and one PEAFAIL record with
task 0x3F stands for it; POD_REPAIR.FAIL does so for peas 0 to 8 and sets CFGERR for 9 to 15. A completed load puts the
golden copy of the source's reserve windows into the spare.
Readings and choices of the model in it: log entries 29 (DEDUCED), 32 (DEDUCED). -/
def Obligations.FailedPeasAreStoppedAndLoaded : Prop :=
  ∀ (n : Fin 16) (p : Fin 9) (k : BitVec 4) (s : State),
    let failed (p : Nat) (t : State) : Prop := peaFailed n.val p t = true ∧ rd (PEA_STAT_STATE n.val p) t = 2 ∧
      (∃ w1, (∃ act, act < 6 ∧ w1 = BitVec.ofNat 32 (n.val + p * 16 + 0x3F * 256 + 7 * 65536 + act * 1048576)) ∧
        t.pods.missRecs.getLast? = some [BitVec.ofNat 32 (s.tl.k.toNat - 1), w1, 0xFFFFFFFF, s.ns.setWidth 32]) ∧
      ∀ i, i < rd (KS_SEAL_X_LEN (n.val * 9 + p)) s → rd (KS_SEAL_X_BASE (n.val * 9 + p)) s + i < 65536 →
        rdX (n.val * 9 + p) (rd (KS_SEAL_X_BASE (n.val * 9 + p)) s + i) t = 0
    (peaFailed n.val p.val s = false → Goes (.peaMemoryError n p) s (failed p.val)) ∧
    (k.toNat < 9 → peaFailed n.val k.toNat s = false → Goes (.podRepairFail n k) s (failed k.toNat)) ∧
    (9 ≤ k.toNat → Goes (.podRepairFail n k) s (fun t => rd (POD_STAT_CFGERR n.val) t = 1 ∧
      rd (POD_STAT_FAILED n.val) t = rd (POD_STAT_FAILED n.val) s ∧ t.pods = s.pods)) ∧
    (s.wf = true → ∀ r rest, getRepairs n.val s = r :: rest → r.loaded = false →
      Goes (.repairLoadComplete n) s (fun t => getRepairs n.val t = { r with loaded := true } :: rest ∧
        ∀ i, i < rd (POD_RSV_X_LEN n.val) s → rd (POD_RSV_X_BASE n.val) s + i < 65536 →
          rdX (n.val * 9 + 8) (rd (POD_RSV_X_BASE n.val) s + i) t =
            mapGet (fun _ => 0) s.mem.goldX ((n.val * 9 + r.src) * 65536 + rd (POD_RSV_X_BASE n.val) s + i)))

/-- The pod DMA (R98, R99, R100, R109, R131): a new TAIL starts the descriptor at HEAD where it may execute; completion moves the
data, advances HEAD and posts the descriptor's event; an error response stops the DMA with ERR and ERRIDX; clearing ERR lets
it go on at HEAD.
Readings and choices of the model in it: log entries 63 (DEDUCED). -/
def Obligations.PodDmaRunsItsRing : Prop :=
  ∀ (n : Fin 16) (tail : BitVec 10) (s : State),
    let h (t : State) : Nat := rd (POD_DMA_QHEAD_HEAD n.val) t
    let size := 2 ^ rd (POD_DMA_QBASE_QSIZE n.val) s
    let d := descAt n.val (h s % size) s
    let idle : Prop := rd (POD_DMA_QBASE_EN n.val) s = 1 ∧ rd (POD_DMA_STAT_BUSY n.val) s = 0
    (idle → rd (POD_DMA_STAT_ERR n.val) s = 0 → h s % size ≠ tail.toNat % size → descOk n.val d s = true →
      Goes (.podDmaQtail n tail) s (fun t => rd (POD_DMA_QTAIL_TAIL n.val) t = tail.toNat ∧ rd (POD_DMA_STAT_BUSY n.val) t = 1)) ∧
    (h s % size = tail.toNat % size → Goes (.podDmaQtail n tail) s (fun t => rd (POD_DMA_QTAIL_TAIL n.val) t = tail.toNat ∧
      rd (POD_DMA_STAT_BUSY n.val) t = rd (POD_DMA_STAT_BUSY n.val) s)) ∧
    (rd (POD_DMA_STAT_BUSY n.val) s = 1 → rd (POD_DMA_QBASE_QSIZE n.val) s ≤ 10 → d.sealed = false → d.srcSp = 1 → d.dstSp = 1 →
      Goes (.podDmaDescriptorDone n false false) s (fun t => h t = (h s % size + 1) % size ∧
        t.pods.events = s.pods.events ++ (if d.evt then [(n.val, d.pea, d.task, d.input)] else []) ∧
        (d.dst % 1048576 + d.len / 4 ≤ 1048576 → ∀ i, i < d.len / 4 →
          rdShared n.val (d.dst % 1048576 + i) t = rdShared n.val (d.src % 1048576 + i) s))) ∧
    (rd (POD_DMA_STAT_BUSY n.val) s = 1 → d.sealed = false → d.srcSp = 0 ∨ d.dstSp = 0 →
      Goes (.podDmaDescriptorDone n true false) s (fun t => rd (POD_DMA_STAT_ERR n.val) t = 1 ∧ rd (POD_DMA_STAT_BUSY n.val) t = 0 ∧
        rd (POD_DMA_STAT_ERRIDX n.val) t = h s ∧ h t = h s ∧ (roomAt (101 + 10 * n.val) s → Logs (101 + 10 * n.val) (0x4010 + n.val) 0 t))) ∧
    (rd (POD_DMA_STAT_ERR n.val) s = 1 → idle → h s % size ≠ rd (POD_DMA_QTAIL_TAIL n.val) s % size → descOk n.val d s = true →
      Goes (.podDmaErrClear n) s (fun t => rd (POD_DMA_STAT_ERR n.val) t = 0 ∧ rd (POD_DMA_STAT_BUSY n.val) t = 1))
/-- A step carries out the command at the front of the queue, with the queue's rest; with none waiting the block idles, which is
the model's choice (log entry 78: DESIGN CHOICE). -/
def Obligations.StepRunsTheFrontCommand : Prop :=
  (∀ (c : Instr) (rest : List Instr) (s : State), s.pending = c :: rest → step s = exec c { s with pending := rest }) ∧
  (∀ (c : Instr) (s : State), step (s.withFront c) = exec c s) ∧
  ∀ s : State, s.pending = [] → step s = .next s

/-- Every well-formed command ends in a next state, in every state of the block; a command that is not well formed, which no
sender of R453 and R558 can send, is a fault and nothing else. -/
def Obligations.EveryWellFormedCommandCompletes : Prop :=
  ∀ (c : Instr) (s : State),
    (c.wellFormed = true → Goes c s (fun t => t.pending = s.pending)) ∧
    (c.wellFormed = false → exec c s = .fault .illFormed)

/-- The registers and the memories stay in canonical form over every step, so that equal contents are equal data. -/
def Obligations.RegistersAndMemoriesStayCanonical : Prop :=
  ∀ s t : State, s.wf = true → step s = .next t → t.wf = true

/-- After reset: every register reads as its table gives it, the cores as R45, every memory reads 0 (log entry 5: DESIGN CHOICE) and is in
canonical form, no command waits, and no block is numbered (R40). -/
def Obligations.ResetIsAsTheTablesGiveIt : Prop :=
  State.reset.wf = true ∧ State.reset.pending = [] ∧ (∀ a, rdReg a State.reset = regReset a) ∧
  (∀ c, getPea c State.reset = Pea.reset ∧ (getPea c State.reset).qreg = 0xFF ∧ (getPea c State.reset).stack = []) ∧
  (∀ c a, rdX c a State.reset = 0 ∧ rdY c a State.reset = 0 ∧ rdProg c a State.reset = 0 ∧ rdShared c a State.reset = 0 ∧
    rdDram a State.reset = 0) ∧
  tlValid State.reset = false ∧ bsnNow State.reset = 0 ∧ rdReg 0x40000000 State.reset = 0x08004FB1 ∧ rdReg 0x40000004 State.reset = 0x00100113

/-- The timebase and the block number move only with the block boundary, a command of the timebase, a start or reset of
islands, or an access to a register; every other command leaves both as they are (R13, R15, R338). -/
def Obligations.OtherCommandsLeaveTimeAlone : Prop :=
  ∀ (c : Instr) (s t : State), keepsTime c = true → exec c s = .next t → t.tl.k = s.tl.k ∧ t.ns = s.ns

/-- Comparing sequence numbers of w bits (R16): the four outcomes by d = (a - b) mod 2^w. -/
def Obligations.SequenceNumbersCompareInAWindow : Prop :=
  ∀ (w a b : Nat), 2 ≤ w → a < 2 ^ w → b < 2 ^ w →
    (serialCmp w a b = .equal ↔ a = b) ∧
    (∀ d, serialCmp w a b = .later d ↔ 1 ≤ d ∧ d ≤ 2 ^ (w - 2) ∧ a = (b + d) % 2 ^ w) ∧
    (∀ d, serialCmp w a b = .earlier d ↔ 1 ≤ d ∧ d ≤ 2 ^ (w - 2) ∧ b = (a + d) % 2 ^ w) ∧
    (serialCmp w a b = .outOfWindow ↔ 2 ^ (w - 2) < (a + 2 ^ w - b) % 2 ^ w ∧ (a + 2 ^ w - b) % 2 ^ w < 2 ^ w - 2 ^ (w - 2))

/-- Widening a truncated value (R614): the result is r + s with s from -2^(w-1) to 2^(w-1) - 1, and is congruent to the value; so of
two candidates at the same distance it is the earlier one. -/
def Obligations.TruncatedValuesWidenToTheNearest : Prop :=
  ∀ (w v r : Nat), 1 ≤ w →
    widen w v r - r < 2 ^ (w - 1) ∧ -(2 ^ (w - 1) : Int) ≤ widen w v r - r ∧ widen w v r % (2 ^ w : Int) = (v : Int) % (2 ^ w : Int) ∧
    ∀ s : Int, -(2 ^ (w - 1) : Int) ≤ s → s < 2 ^ (w - 1) → ((r : Int) + s) % (2 ^ w : Int) = (v : Int) % (2 ^ w : Int) → widen w v r = r + s

/-- The block and its number (R13, R14, R15, R41): block k starts at the first nanosecond t with 3 t ≥ 125,000 k; BLOCK_BOUNDARY
advances the number by one, and the timebase stands at the new block's start or after it; until blocks are numbered nothing
happens, which is the model's choice (log entry 77: DESIGN CHOICE). A read of GLB_BSN gives the number mod 2^32 and latches its bits [48:32]. -/
def Obligations.BlockNumbersAdvanceByOne : Prop :=
  (∀ k t : Nat, blockStart k ≤ t ↔ 125000 * k ≤ 3 * t) ∧
  (∀ k t : Nat, blockAt t = k ↔ blockStart k ≤ t ∧ t < blockStart (k + 1)) ∧
  ∀ s : State,
    (tlValid s = true → 125000 * (s.tl.k.toNat + 1) ≤ 3 * 0xFFFFFFFFFFFFFFFF →
      Goes .blockBoundary s (fun t => t.tl.k = s.tl.k + 1 ∧ 125000 * t.tl.k.toNat ≤ 3 * t.ns.toNat ∧
        (blockStart (s.tl.k.toNat + 1) ≤ s.ns.toNat → t.ns = s.ns))) ∧
    (tlValid s = false → exec .blockBoundary s = .next s) ∧
    (tlValid s = true → Goes .glbBsnRead s (fun t => t.tl = s.tl ∧
      (readReg GLB_BSN_BSN.addr t).toNat + (readReg GLB_BLKHI_K_HI.addr t).toNat * 2 ^ 32 = s.tl.k.toNat)) ∧
    (tlValid s = false → Goes .glbBsnRead s (fun t => readReg GLB_BSN_BSN.addr t = 0))

/-- An apply (R25, R26, R27, R30): the changes that are due at a data block leave the pending store together, the others stay, and
GEN goes on by one, from 0xFFFF to 0, whatever their number; with none due GEN stays. A change accepted later takes the place of
one to the same element of the same apply. -/
def Obligations.AppliesLandTogetherAndCountOnce : Prop :=
  ∀ (d : Nat) (s : State),
    let due := s.tl.pend.filter (changeDue d)
    (∀ c ∈ s.tl.pend, ∀ a, c.elem = .word a → 0x41000000 ≤ a ∧ a < 0x42000000) →
    (landApply d s).tl.pend = s.tl.pend.filter (fun c => !changeDue d c) ∧
    rd GLB_GEN_GEN (landApply d s) = (if isApply due then (rd GLB_GEN_GEN s + 1) % 2 ^ 16 else rd GLB_GEN_GEN s) ∧
    ∀ c : Change, c ∈ insertChange c s.tl.pend ∧
      (insertChange c s.tl.pend).filter (fun x => !sameChange c x) = s.tl.pend.filter (fun x => !sameChange c x) ∧
      (insertChange c s.tl.pend).length = s.tl.pend.length + (if s.tl.pend.any (sameChange c) then 0 else 1)
/-- Transfers into task input slots (R133, R135, R136, R137, R138): ROUTER_ASSEMBLY writes the zero source or a front-end channel
of the last block's data block, BUS_DELIVERY a bus, ROUTER_FORWARDING an output slot that is valid, each sample as a sign-extended
word of the slot and no other word of shared memory; with the last member of an event group one event is posted; while RUN is 0
nothing moves.
Readings and choices of the model in it: log entries 37 (DEDUCED), 38 (DEDUCED). -/
def Obligations.RouterFillsTaskInputSlots : Prop :=
  ∀ (d : Fin 4096) (crossed : Bool) (s : State),
    let src := rd (DST_CFG_SRC d.val) s
    let ch := rd (SRC_ENT_INDEX src) s
    let pod := rd (DST_IDX_INDEX d.val) s / 1024
    let slot := 512 + rd (DST_IDX_INDEX d.val) s % 512
    let k1 := s.tl.k.toNat - 1
    let k := s.tl.k.toNat - if crossed then 2 else 1
    let on (kind : Nat) : Prop := rd SG_CTL_RUN s = 1 ∧ rd (DST_CFG_EN d.val) s = 1 ∧ rd (DST_CFG_KIND d.val) s = 1 ∧
      rd (SRC_ENT_KIND src) s = kind ∧ s.nS ≤ 8
    let wrote (k : Nat) (f : Nat → DWord) (t : State) : Prop :=
      (∀ i, i < s.nS → rdShared pod (slotWord pod k slot i s) t = (f i).signExtend 32) ∧
      ∀ n a, n < 16 → a < 1048576 → (n = pod → ∀ i, i < s.nS → a ≠ slotWord pod k slot i s % 1048576) → rdShared n a t = rdShared n a s
    let g := rd (DST_CFG_GRP d.val) s
    (on 0 → Goes (.routerAssembly d) s (wrote k1 (fun _ => 0))) ∧
    (on 1 → Goes (.routerAssembly d) s (wrote k1 (fun i => getSamp k1 skFE ch i s))) ∧
    (on 2 → Goes (.routerAssembly d) s (wrote k1 (fun i => getSamp k1 skFE (2048 + ch) i s))) ∧
    (on 4 → Goes (.busDelivery d crossed) s (wrote k (fun i => getSamp k skBUS ch i s))) ∧
    (on 3 → markValid (ch / 512) (ch % 512) k s = true → paired s = false → guardPlain ch s → (getGuard ch s).evaluated ≠ k + 1 →
      Goes (.routerForwarding d crossed) s
        (wrote k (fun i => (rdShared (ch / 512) (slotWord (ch / 512) k (ch % 512) i s) s).setWidth 24))) ∧
    (on 1 → g < 512 → rd (EVG_CFG_EN g) s = 1 → delivered k1 skBUS (4096 + d.val) s = false →
      mapGet (fun _ => 0) s.graph.done (doneKey k1 skGATE (4096 + g)) + 1 = groupMembers g s →
      Goes (.routerAssembly d) s (fun t => t.pods.events =
        s.pods.events ++ [(rd (EVG_TGT_POD g) s, rd (EVG_TGT_PEA g) s, rd (EVG_TGT_TASK g) s, rd (EVG_TGT_INPUT g) s)])) ∧
    (rd SG_CTL_RUN s = 0 → exec (.routerAssembly d) s = .next s ∧ exec (.busDelivery d crossed) s = .next s ∧
      exec (.routerForwarding d crossed) s = .next s)

/-- The output side (R134, R141, R147, R148, R149, R150, R162, R163): ROUTER_OUTPUT passes its source through crossfade and output
gain to an egress, TDM or modulator channel: at 0 dB the sample itself, with MUTE or off 0, during a crossfade the linear mix; a
capture takes the source as it is. A meter takes the block into its window; METER_WINDOW_END makes the record of a window that is
complete, and METER_PUBLISH writes it with SEQ counted on in words 0 and 7.
Readings and choices of the model in it: log entries 34 (DESIGN CHOICE), 35 (DEDUCED), 37 (DEDUCED). -/
def Obligations.RouterOutputFeedsItsTargets : Prop :=
  ∀ (d : Fin 4096) (m : Fin 1024) (s : State),
    let src := rdBehind (DST_CFG_SRC d.val) s
    let idx := rdBehind (DST_IDX_INDEX d.val) s
    let k := s.tl.k.toNat - 2
    let x (i : Nat) : DWord := getSamp k skFE (rd (SRC_ENT_INDEX src) s) i s
    let on (kind : Nat) : Prop := rd SG_CTL_RUN s = 1 ∧ rdBehind (DST_CFG_EN d.val) s = 1 ∧ rdBehind (DST_CFG_KIND d.val) s = kind ∧
      rd (SRC_ENT_KIND src) s = 1 ∧ s.nS ≤ 8
    let unity : Prop := settled (DST_GAIN_GAIN d.val) s ∧ rdBehind (DST_GAIN_GAIN d.val) s = 0 ∧ rdBehind (DST_CFG_MUTE d.val) s = 0
    let calm : Prop := s.graph.xfades.find? (fun e => e.1 == d.val) = none
    (∀ kind sk, (kind, sk) ∈ [(2, skEGR), (3, skTDM), (4, skMOD)] → on kind →
      (calm → unity → Goes (.routerOutput d) s (fun t => ∀ i, i < s.nS → getSamp k sk idx i t = x i)) ∧
      (calm → settled (DST_GAIN_GAIN d.val) s → rdBehind (DST_CFG_MUTE d.val) s = 1 ∨ rdBehind (DST_GAIN_GAIN d.val) s = 0x8000 →
        Goes (.routerOutput d) s (fun t => ∀ i, i < s.nS → getSamp k sk idx i t = 0)) ∧
      (∀ old j len, s.graph.xfades.find? (fun e => e.1 == d.val) = some (d.val, ⟨old, j, len⟩) → j + s.nS < len → unity →
        rd (SRC_ENT_KIND old) s = 1 → Goes (.routerOutput d) s (fun t => ∀ i, i < s.nS → getSamp k sk idx i t =
          toSamp (rndDiv (sInt (getSamp k skFE (rd (SRC_ENT_INDEX old) s) i s) * ((len : Int) - (j + i + 1 : Nat)) +
            sInt (x i) * (j + i + 1 : Nat)) len)))) ∧
    (on 6 → Goes (.routerOutput d) s (fun t => ∀ i, i < s.nS → getSamp k skCAP idx i t = x i)) ∧
    (on 5 → rdBehind (MTR_CFG_EN idx) s = 1 → rdBehind (MTR_CFG_GR idx) s = 0 →
      (∀ e ∈ s.graph.meters, e.1 = idx → e.2.count = 0) →
      Goes (.routerOutput d) s (fun t => ∃ q, t.graph.meters.find? (fun e => e.1 == idx) = some (idx, q) ∧ q.first = k ∧ q.count = 1 ∧
        (∀ i, i < s.nS → (sInt (x i)).natAbs ≤ q.peak) ∧ (q.peak = 0 ∨ ∃ i, i < s.nS ∧ q.peak = (sInt (x i)).natAbs) ∧
        q.clip = ((List.range s.nS).filter fun i => Nat.ble (rdBehind (MTR_CLIP_CLIPTH idx) s) (sInt (x i)).natAbs).length)) ∧
    (∀ q, s.graph.meters.find? (fun e => e.1 == m.val) = some (m.val, q) →
      (q.count ≠ 0 → (q.first + q.count) % meterWin m.val q.tainted s = 0 → Goes (.meterWindowEnd m) s (fun t =>
        (∃ r, t.graph.ready = s.graph.ready ++ [r] ∧ r.meter = m.val ∧ r.last = q.first + q.count - 1 ∧ r.words[1]? = some (BitVec.ofNat 32 q.first) ∧
          r.words[2]? = some (BitVec.ofNat 32 q.count) ∧ (q.tainted = false → rdBehind (MTR_CFG_GR m.val) s = 0 →
            r.words[3]? = some (BitVec.ofNat 32 q.peak) ∧ r.words[5]? = some (BitVec.ofNat 32 (min q.clip 0xFFFF)))) ∧
        ∃ p, t.graph.meters.find? (fun e => e.1 == m.val) = some (m.val, p) ∧ p.count = 0)) ∧
      (q.count ≠ 0 → (q.first + q.count) % meterWin m.val q.tainted s ≠ 0 → exec (.meterWindowEnd m) s = .next s)) ∧
    (∀ r rest, s.graph.ready = r :: rest → r.meter = m.val → r.words.length = 7 → Goes (.meterPublish m) s (fun t => t.graph.ready = rest ∧
      rd (MTR_REC_DATA m.val 7) t = (rd (MTR_REC_DATA m.val 0) s + 1) % 256 ∧ rd (MTR_REC_DATA m.val 0) t % 256 = rd (MTR_REC_DATA m.val 7) t ∧
      ∀ i, 1 ≤ i → i < 7 → some (rdReg (MTR_REC_DATA m.val i).addr t) = r.words[i]?))

/-- Buses (R122, R157, R158, R159, R161): at the start of its phase an enabled bus with settled gains and no scaling gives the sum of
its enabled sends' sources, each times its send factor, times the bus factor, rounded once with ties to even and saturated, and N
counts the sends that R161 counts; a disabled bus gives nothing. In an overrun each bus not formed repeats its last sample, PHOVR
is set and class 0x3 with detail 0x0F0 + p is logged.
Readings and choices of the model in it: log entries 36 (DEDUCED), 87 (DEDUCED). -/
def Obligations.BusesSumTheirSends : Prop :=
  ∀ (p : Fin 4) (b : Nat) (s : State),
    let k := s.tl.k.toNat - 1
    let sends := busSends b s
    let used := sends.filter fun x => rd (SEND_CFG_EN x) s == 1
    let src (x i : Nat) : Int := sInt (getSamp k skFE (rd (SRC_ENT_INDEX (rd (SEND_CFG_SRC x) s)) s) i s)
    let sum (i : Nat) : Int := (used.map fun x => src x i * gainTarget (rd (SEND_GAIN_GAIN x) s) (rdB (SEND_CFG_MUTE x) s)).sum
    let fb := gainTarget (rd (BUS_GAIN_GAIN b) s) (rdB (BUS_CFG_MUTE b) s)
    (rd SG_CTL_RUN s = 1 → b < 256 → s.nS ≤ 8 → phaseBuses p.val s = [b] → rd (BUS_CFG_SCALE b) s = 0 → settled (BUS_GAIN_GAIN b) s →
      (∀ x ∈ sends, settled (SEND_GAIN_GAIN x) s ∧ rd (SRC_ENT_KIND (rd (SEND_CFG_SRC x) s)) s = 1) → guardPlain (busGuard b) s →
      Goes (.busPhaseStart p) s (fun t =>
        (∀ i, i < s.nS → sInt (getSamp k skBUS b i t) = clampTo 24 (rndDiv (sum i * fb) (2 ^ 38))) ∧
        rd (BUS_CNT_N b) t = (sends.filter fun x => sendCounted x k s).length ∧
        (∀ c, c ≠ b → c < 8192 → ∀ i, i < 8 → getSamp k skBUS c i t = getSamp k skBUS c i s))) ∧
    (rd SG_CTL_RUN s = 1 → (phaseBuses p.val s).contains b = true → delivered k skBUS b s = false → s.nS ≤ 8 →
      (getGuard (busGuard b) s).run = 0 →
      Goes (.busPhaseOverrun p) s (fun t => (∀ i, i < s.nS → getSamp k skBUS b i t = toSamp (getGuard (busGuard b) s).last) ∧
        (rd SG_STAT_PHOVR t).testBit p.val = true ∧ (roomAt 2 s → Logs 2 (0x30F0 + p.val) 0 t))) ∧
    (rd SG_CTL_RUN s = 0 → exec (.busPhaseStart p) s = .next s ∧ exec (.busPhaseOverrun p) s = .next s)

/-- Gates, ramps and table messages (R23, R140, R150, R151, R152): a gate closes when HOLD has run out and else stands. A ramp of SHAPE 0
takes each sample's factor within one step of the straight line and ends on the target; a change that reaches an element starts a
ramp of round(T fs) samples from the factor in force, or with no time applies at once. COMMIT puts the queued writes in as one
message, and RESULT says accepted, accepted late, or rejected, with the counts of R23.
Readings and choices of the model in it: log entries 33 (DEDUCED), 34 (DESIGN CHOICE), 60 (DEDUCED). -/
def Obligations.GatesRampsAndTableMessages : Prop :=
  ∀ (c : Fin 3072) (s : State),
    let b := s.tl.k.toNat
    let a := rd SG_WAPPLY_BSN_BSN s
    let fresh : Prop := changesBreach (changeWords (s.tl.pend ++ s.graph.queue) s) s = false ∧ (mirrors s && isHolder s) = false
    (rd (FE_STAT_GATE c.val) s = 1 → holdSamples c.val s ≤ quietSamples c.val s.tl.k.toNat s →
      Goes (.gateHoldExpiry c) s (fun t => rd (FE_STAT_GATE c.val) t = 0 ∧ t.graph.openGates = s.graph.openGates.filter (· != c.val))) ∧
    (quietSamples c.val s.tl.k.toNat s < holdSamples c.val s → exec (.gateHoldExpiry c) s = .next s) ∧
    (∀ (f : FRef) (target : Nat) (g : GainSt), s.graph.gains.find? (fun e => e.1 == f.addr) = some (f.addr, g) → g.shape = false →
      g.i < g.len → let r := (gainStep f.addr target s).1
      (((r : Int) * g.len - ((g.g0 : Int) * g.len + ((g.g1 : Int) - g.g0) * (g.i + 1))).natAbs ≤ g.len) ∧
      (g.i + 1 = g.len → r = g.g1)) ∧
    (∀ (f : FRef) (old new ramp : Nat) (shape : Bool), let t := gainChange f.addr old new ramp shape s
      (rampLen ramp s = 0 → (gainStep f.addr new t).1 = new) ∧
      (t.graph.gains.find? (fun e => e.1 == f.addr) =
        some (f.addr, ⟨gainNow f.addr old s, new, 0, rampLen ramp s, shape, gainNow f.addr old s⟩))) ∧
    (fresh → storeHolds s.tl.pend (landingAt (a % 2 ^ 32) s.graph.queue) = true → (∃ d, serialCmp 32 a b = .later d ∧ d ≤ 1440000) →
      Goes .sgWapplyCommit s (fun t => rd SG_WAPPLY_CTL_RESULT t = 1 ∧ t.graph.queue = [] ∧
        t.tl.pend = insertAll s.tl.pend (landingAt a s.graph.queue))) ∧
    (fresh → storeHolds s.tl.pend (landingAt ((b + 1) % 2 ^ 32) s.graph.queue) = true →
      serialCmp 32 a b = .equal ∨ (∃ d, serialCmp 32 a b = .earlier d) → rd GLB_APPLY_CNT_LATE_COUNT s + s.graph.queue.length < 2 ^ 16 →
      Goes .sgWapplyCommit s (fun t => rd SG_WAPPLY_CTL_RESULT t = 2 ∧ t.graph.queue = [] ∧
        t.tl.pend = insertAll s.tl.pend (landingAt ((b + 1) % 2 ^ 32) s.graph.queue) ∧
        rd GLB_APPLY_CNT_LATE_COUNT t = rd GLB_APPLY_CNT_LATE_COUNT s + s.graph.queue.length)) ∧
    (fresh → serialCmp 32 a b = .outOfWindow ∨ (∃ d, serialCmp 32 a b = .later d ∧ 1440000 < d) → rd GLB_APPLY_CNT_FAR_COUNT s + 1 < 2 ^ 16 →
      Goes .sgWapplyCommit s (fun t => rd SG_WAPPLY_CTL_RESULT t = 3 ∧ t.graph.queue = [] ∧ t.tl.pend = s.tl.pend ∧
        rd GLB_APPLY_CNT_FAR_COUNT t = rd GLB_APPLY_CNT_FAR_COUNT s + 1))
/-- Bridges and the M range (R174, R175, R176, R177, R178, R179, R183, R184, R246): a tracking bridge that meets every condition of R176
starts the crossfade to locked mode and stores φ; a mean error over 1 ppm or a phase deviation over half an N sample starts the
crossfade back and counts an exit; on loss of clock it tracks at once; crossfades end in their state; RANGE is entered beyond
2,000 ppm. Outside ±500 ppm M_RANGE sets RANGE, counts the entry and requests the mute of every channel.
Readings and choices of the model in it: log entries 40 (DEDUCED). -/
def Obligations.BridgesChangeModeByTheirRules : Prop :=
  ∀ (b : Fin 64) (err : BitVec 24) (phi dep : BitVec 32) (s : State),
    let st (t : State) : Nat := rd (BRG_STAT_STATE b.val) t
    let shown (t : State) : Bool := rdB (bitOf (if b.val < 32 then BRG_LOCKED0_LOCKED else BRG_LOCKED1_LOCKED) (b.val % 32)) t
    let exits (t : State) : Nat := rd (BRG_CNT_EXIT_COUNT b.val) t
    let jump : Prop := 32768 < (phi.toInt - (getBridge b.val s).phi0).natAbs
    let left (x : Nat) (t : State) : Prop := st t = x ∧ shown t = false ∧ exits t = exits s + 1
    let onLocked : Prop := (st s = 3 ∨ st s = 4) ∧ exits s + 1 < 2 ^ 16
    let x := getBridge b.val s
    (st s = 2 → inSync b.val s = false → lockable b.val s = true → rd (BRG_CFG_MODE b.val) s = 0 → err.toInt.natAbs ≤ 100 → 9 ≤ x.updates →
      rd (TDM_STAT_FAULT (b.val / 2)) s = 0 → x.leftAt = 0 ∨ x.leftAt - 1 + rd (BRG_CFG_RELOCK b.val) s * 24000 ≤ s.tl.k.toNat →
      Goes (.bridgeRateUpdate b err phi dep) s (fun t => st t = 3 ∧ rd (BRG_STAT_LOCKQ b.val) t = 1 ∧
        (getBridge b.val t).phi0 = phi.toInt ∧ rd (BRG_RATIO_ERR b.val) t = err.toNat)) ∧
    (st s = 2 → 100 < err.toInt.natAbs → Goes (.bridgeRateUpdate b err phi dep) s (fun t => st t = 2 ∧ rd (BRG_STAT_LOCKQ b.val) t = 0)) ∧
    (onLocked → inSync b.val s = false → 1000 < err.toInt.natAbs ∨ jump → Goes (.bridgeRateUpdate b err phi dep) s (left 5)) ∧
    (onLocked → err.toInt.natAbs ≤ 1000 → ¬jump → Goes (.bridgeRateUpdate b err phi dep) s (fun t => st t = st s ∧ exits t = exits s ∧
      (rd (BRG_PHASE_PHI b.val) t : Int) = phi.toInt % 65536)) ∧
    (onLocked → Goes (.bridgeLockExit b phi true) s (left 2)) ∧
    (onLocked → inSync b.val s = false → jump → Goes (.bridgeLockExit b phi false) s (left 5)) ∧
    (st s = 3 → Goes (.bridgeCrossfadeEnd b) s (fun t => st t = 4 ∧ shown t = true)) ∧
    (st s = 5 → Goes (.bridgeCrossfadeEnd b) s (fun t => st t = 2 ∧ shown t = false ∧ (getBridge b.val t).leftAt = s.tl.k.toNat + 1)) ∧
    (st s ≠ 0 → rd (BRG_CNT_SLIP_COUNT b.val) s + 1 < 2 ^ 16 →
      Goes (.bridgeSlip b) s (fun t => rd (BRG_CNT_SLIP_COUNT b.val) t = rd (BRG_CNT_SLIP_COUNT b.val) s + 1 ∧ st t = st s)) ∧
    (st s ≠ 0 → 2000000 < err.toInt.natAbs → Goes (.bridgeRangeEntry b err) s (fun t => st t = 6 ∧ shown t = false)) ∧
    (st s = 6 → Goes (.bridgeRangeExit b) s (fun t => st t = 2 ∧ (getBridge b.val t).updates = 0)) ∧
    (st s = 1 → Goes (.bridgeSettleEnd b) s (fun t => st t = 2 ∧ (getBridge b.val t).updates = 2)) ∧
    (5000 < err.toInt.natAbs → rd MXC_CNT_RANGE_COUNT s + 1 < 2 ^ 16 → Goes (.mRange err) s (fun t => rd MXC_STAT_RANGE t = 1 ∧
      rd MXC_RATIO_ERR t = err.toNat ∧ rd MXC_CNT_RANGE_COUNT t = rd MXC_CNT_RANGE_COUNT s + (1 - rd MXC_STAT_RANGE s) ∧
      ∀ c, c < 72 → rdB (bitOf (MOD_STAT_MREQ c) 2) t = true ∧ (rd (MOD_CFG_EN c) s = 1 → rd (MOD_STAT_STATE c) s = 4 →
        rd (MODG_STAT_STATE (c / 4)) s ≠ 3 → rd (MOD_STAT_STATE c) t = 5))) ∧
    (err.toInt.natAbs ≤ 5000 → Goes (.mRange err) s (fun t => rd MXC_STAT_RANGE t = 0 ∧ rd MXC_RATIO_ERR t = err.toNat ∧
      ∀ c, c < 72 → rd (MOD_STAT_MREQ c) t = rd (MOD_STAT_MREQ c) s)) ∧
    (rd MXC_STAT_RANGE s = 0 → Goes .mRangeClear s (fun t => ∀ c, c < 72 → rdB (bitOf (MOD_STAT_MREQ c) 2) t = false))
/-- Channels and groups start, mute, idle and stop (R231, R233, R237, R242, R245, R246, R248, R249, R250, R251): each command makes the move
of its rule and no other; a power-stage fault stops every channel of the group with its legs low, drives the line, counts and
logs 0x5100 + g; after a late wake the channels fade in.
Readings and choices of the model in it: log entry 44: DEDUCED (DEDUCED). -/
def Obligations.ModulatorChannelsStartMuteAndStop : Prop :=
  ∀ (c : Fin 72) (g : Fin 18) (mute : Bool) (ns : BitVec 64) (s : State),
    let st (c : Nat) (t : State) : Nat := rd (MOD_STAT_STATE c) t
    let gr (t : State) : Nat := rd (MODG_STAT_STATE g.val) t
    let mine := groupChans g.val s
    let faults (t : State) : Nat := rd (MODG_CNT2_FAULT_COUNT g.val) t
    (st c s = 1 → Goes (.prechgEnd c) s (fun t => st c t = 2)) ∧ (st c s ≠ 1 → exec (.prechgEnd c) s = .next s) ∧
    (st c s = 2 → rd (MOD_STAT_MREQ c) s = 0 → (getMod c s).wake = false → Goes (.zeroEnd c) s (fun t => st c t = 3)) ∧
    (st c s = 2 → rd (MOD_STAT_MREQ c) s = 0 → (getMod c s).wake = true → s.mods.lateWake.contains (c.val / 4) = false →
      Goes (.zeroEnd c) s (fun t => st c t = 4 ∧ (getMod c t).wake = s.mods.waking.contains (c.val / 4))) ∧
    (st c s = 2 → rd (MOD_STAT_MREQ c) s = 0 → s.mods.lateWake.contains (c.val / 4) = true → Goes (.zeroEnd c) s (fun t => st c t = 3)) ∧
    (st c s = 2 → rd (MOD_STAT_MREQ c) s ≠ 0 → Goes (.zeroEnd c) s (fun t => st c t = 6)) ∧
    (st c s = 3 → Goes (.rampEnd c) s (fun t => st c t = 4)) ∧ (st c s = 5 → Goes (.rampEnd c) s (fun t => st c t = 6)) ∧
    (st c s ≠ 3 → st c s ≠ 5 → exec (.rampEnd c) s = .next s) ∧
    Goes (.modMuteWrite c mute) s (fun t => rd (MOD_CTL_MUTE c) t = (if mute then 1 else 0) ∧
      ∀ a, a ≠ (MOD_CTL_MUTE c).addr → rdReg a t = rdReg a s) ∧
    (rd (MODG_STAT_REQ g.val) s = 1 → rd (MODG_STAT_DRIVE g.val) s = 0 → rd (MODG_STAT_LINE g.val) s = 1 →
      Goes (.groupLineReleased g) s (fun t =>
        gr t = (if gr s = 5 ∨ (gr s = 1 ∧ s.mods.waking.contains g.val = false) then 2 else gr s) ∧ ∀ c ∈ mine,
        st c t = if (st c s = 0 ∨ st c s = 7) ∧ (getMod c s).hard = false then 1 else st c s)) ∧
    (gr s = 2 → mine ≠ [] → (∀ c ∈ mine, st c s = 4 ∨ st c s = 6) → rd (MODG_CFG_IDLE_EN g.val) s = 1 →
      wakeStands (rd (MODG_CFG_ACTGRP g.val) s) s = false → inactiveLong g.val s = true →
      Goes (.idleEntry g) s (fun t => gr t = 3 ∧ ∀ c ∈ mine, st c t = if st c s = 4 then 5 else 6)) ∧
    (s.mods.quietStop = false → rd (MODG_CFG_IDLE_EN g.val) s = 0 ∨ wakeStands (rd (MODG_CFG_ACTGRP g.val) s) s = true →
      exec (.idleEntry g) s = .next s) ∧
    (rd (MOD_CFG_EN c) s = 1 → rd MOD_GCTL_RUN s = 1 → st c s = 6 → rd (MODG_STAT_STATE (c.val / 4)) s = 3 →
      (∀ d ∈ groupChans (c.val / 4) s, d ≠ c.val → st d s = 0) → Goes (.carrierPeriod c) s (fun t => st c t = 0 ∧
        (getMod c t).legA = 0 ∧ (getMod c t).legB = 0 ∧ rd (MODG_STAT_STATE (c.val / 4)) t = 4 ∧ rd (MODG_STAT_REQ (c.val / 4)) t = 0 ∧
        rd (MODG_STAT_DRIVE (c.val / 4)) t = 1)) ∧
    (gr s = 1 → rd (MODG_STAT_DRIVE g.val) s = 0 → Goes (.groupActive g ns) s (fun t => gr t = 2 ∧ ∀ c ∈ mine,
      st c s = 4 → (getMod c s).wake = true → st c t = (if wakeLate g.val ns.toNat s then 3 else 4) ∧ (getMod c t).wake = false)) ∧
    (rd (MODG_STAT_DRIVE g.val) s = 0 → faults s + 1 < 2 ^ 16 → Goes (.powerStageFault g) s (fun t =>
      (∀ c ∈ mine, st c t = 7 ∧ (getMod c t).legA = 0 ∧ (getMod c t).legB = 0) ∧ gr t = 5 ∧ faults t = faults s + 1 ∧
      rd (MODG_STAT_DRIVE g.val) t = 1 ∧ rd (ROOK_GRP_STAT_HOLDING g.val) t = 1 ∧
      (roomAt 28 s → Logs 28 (0x5100 + g.val) 0 t))) ∧
    (rd (MODG_STAT_DRIVE g.val) s = 1 → exec (.powerStageFault g) s = .next s) ∧
    Goes .carrierGridStart s (fun t => rd MOD_GCTL_RUN t = 1 ∧ ∀ c, c < 72 → rd (MOD_INDEX_PHASE c) t =
      if rd MOD_GCTL_DIV s = 0 then 0 else c * 65536 / rd MOD_GCTL_DIV s % 65536)

/-- What channels play and rails are told (R232, R233, R234, R236, R240, R241, R254, R255, R256): in every period the legs share the period
and each is high for at least MINPW, in ZERO and MUTED for half of it; the own feed is taken where it is there, and else the last
sample is held for a block and counted; the planned setpoint lies between floor and VMAX and covers what the members require; a
serial frame carries it with the next SEQ. The samples are those of the feed where Rook's stage stands at 1.0.
Readings and choices of the model in it: log entries 34 (DESIGN CHOICE), 37 (DEDUCED), 44 (DEDUCED). -/
def Obligations.ModulatorsPlayTheirFeedsAndPlanRails : Prop :=
  ∀ (c : Fin 72) (r : Fin 8) (s : State),
    let t0 := periodSteps (c.val / 4) (getMod c s).periods s
    let on (l : List Nat) : Prop := rd MOD_GCTL_RUN s = 1 ∧ rd (MOD_CFG_EN c) s = 1 ∧ rd (MOD_STAT_STATE c) s ∈ l ∧
      rd (MODG_STAT_STATE (c.val / 4)) s ≠ 3 ∧ rd MOD_GCTL_SPREAD s = 0
    let k := s.tl.k.toNat - 2
    let fresh : Prop := tlRun s = true ∧ rd (MOD_CFG_EN c) s = 1 ∧ s.nS ≤ 8 ∧
      (getRc c s).mf = RampSt.at unity ∧ (getRc c s).gth = RampSt.at unity ∧ (getRc c s).gx = unity ∧ (getRc c s).pa = RampSt.at 0
    let played (f : Nat → DWord) (t : State) : Prop := ∀ i, i < s.nS → getSamp k skCAP (4096 + c.val) i t = f i
    let p := getRail r s
    let q := railReq k r s
    let vmax := inForceAt k (RAIL_VLIM_VMAX r) s
    (on [2, 6] → Goes (.carrierPeriod c) s (fun t => (getMod c t).legA + (getMod c t).legB = t0 ∧
      (getMod c t).legA ≤ (getMod c t).legB + 1 ∧ (getMod c t).legB ≤ (getMod c t).legA + 1 ∧ rd (MOD_INDEX_M c) t = 0)) ∧
    (on [3, 4, 5] → Goes (.carrierPeriod c) s (fun t => (getMod c t).legA + (getMod c t).legB = t0 ∧
      t0 * rd (MOD_CFG_MINPW c) s * carrierHz (c.val / 4) s < ((getMod c t).legA + 1) * 1000000000 ∧
      t0 * rd (MOD_CFG_MINPW c) s * carrierHz (c.val / 4) s < ((getMod c t).legB + 1) * 1000000000)) ∧
    (fresh → delivered k skMOD c s = true → inForceAt k (MOD_SRC_PREF c) s = 0 → (getMod c s).held ≤ 1 → (getMod c s).back = none →
      Goes .sourceSelect s (fun t => rd (MOD_SRC_LAST c) t = 0 ∧ played (fun i => getSamp k skMOD c i s) t)) ∧
    (fresh → delivered k skMOD c s = false → paired s = false → (getMod c s).heldAt = 0 → rd (MOD_CNT_HOLD_COUNT c) s + 1 < 2 ^ 16 →
      Goes .sourceSelect s (fun t => rd (MOD_SRC_LAST c) t = 2 ∧ rd (MOD_CNT_HOLD_COUNT c) t = rd (MOD_CNT_HOLD_COUNT c) s + 1 ∧
        played (fun _ => toSamp (getMod c s).last) t)) ∧
    (rd (RAIL_CFG_EN r) s = 1 → tlRun s = true → Goes (.railPlan r) s (fun t => let n := getRail r t
      n.setpoint ≤ vmax ∧ ((railFloor k r s).1 ≤ vmax → (railFloor k r s).1 ≤ n.setpoint) ∧ (q ≤ vmax → q ≤ n.setpoint) ∧
      p.target - inForceAt k (RAIL_SLEW_FALL r) s ≤ n.target ∧ n.quiet = (railFloor k r s).2 ∧
      (vmax < q → rd (RAIL_CNT_SHORT_COUNT r) s + 1 < 2 ^ 16 →
        rd (RAIL_CNT_SHORT_COUNT r) t = rd (RAIL_CNT_SHORT_COUNT r) s + 1) ∧
      (rd (RAIL_CFG_FORMAT r) s = 0 → rd (RAIL_CMDV_VCMD r) t = n.setpoint))) ∧
    (rd (RAIL_CFG_FORMAT r) s = 1 → Goes (.railFrame r) s (fun t => rd (RAIL_CMDV_SEQ r) t = (rd (RAIL_CMDV_SEQ r) s + 1) % 16 ∧
      rd (RAIL_CMDV_VCMD r) t = p.setpoint % 2 ^ 16 ∧ rd (RAIL_CMDV_QUIET r) t = (if p.quiet then 1 else 0) ∧
      rd (RAIL_CMDV_ENABLE r) t = (if rd (RAIL_CFG_EN r) s = 1 ∧ rd PWR_STAT_STATE s = 2 then 1 else 0)))
/-- The sense chain (R263, R265, R268, R269, R271, R272, R273, R274, R236, R297): RUN is refused while an enabled stream's set fails its
checks and else clears every history; a fast value is the fourth-order CIC over 32 bits shifted and saturated, valid from the
fifth; HI sets a comparator state on a magnitude at or above it; a rail's valid value scales to 0.01 V; a slow value becomes
valid with TAPS valid fast values; two low dip values in a row trip RAILDIP while Rook is armed; a stuck stream is flagged; and a
read of SNS_OUTIDX latches the time.
Readings and choices of the model in it: log entries 34 (DESIGN CHOICE), 43 (DESIGN CHOICE). -/
def Obligations.SenseStreamsBecomeValues : Prop :=
  ∀ (x : Fin 152) (r : Fin 8) (bits : List Bool) (dip : BitVec 4) (ns : BitVec 64) (s : State),
    let on : Prop := rd SNS_CTL_RUN s = 1 ∧ rd (SNS_SCFG_EN x) s = 1
    let d := getStream x s
    let fits := ∀ x, x < 152 → rd (SNS_SCFG_EN x) s = 1 → setLegal (rd (SNS_SCFG_SET x) s) s = true
    let fast (t : State) : Int := rdI (SNS_FASTV_VALUE x) t
    let dips := getStream (144 + r.val) s
    (rd SNS_CTL_RUN s = 0 → fits → Goes .senseRun s (fun t => rd SNS_CTL_RUN t = 1 ∧ (rd SNS_STAT_VALID t = 1 ↔ ∀ y, y < 152 → rd (SNS_SCFG_EN y) s = 0) ∧
      rd SNS_OUTIDX_IDX t = 0 ∧
      ∀ y, y < 152 → getStream y t = StreamSt.reset ∧ rd (SNS_FLAG_VALID y) t = 0)) ∧
    (rd SNS_CTL_RUN s = 0 → ¬fits → Goes .senseRun s (fun t => rd SNS_CTL_RUN t = 0 ∧ rd SNS_STAT_CFGERR t = 1 ∧ t.sense = s.sense)) ∧
    (rd SNS_CTL_RUN s = 1 → exec .senseRun s = .next s) ∧
    (on → d.integ.length = 4 → d.comb.length = 4 → Goes (.senseFastValue x bits) s (fun t =>
      (getStream x t).fastN = d.fastN + 1 ∧ (getStream x t).hist = (fast t :: d.hist).take 384)) ∧
    (on → d = StreamSt.reset → bits = List.replicate 32 (rd (SNS_SCFG_INV x) s == 0) → Goes (.senseFastValue x bits) s (fun t =>
      fast t = clampTo 24 (52360 * 2 ^ rd (SNS_SCFG_SH1 x) s))) ∧
    (on → 4 ≤ d.fastN → rd (SNS_FLAG_STUCK x) s = 0 → rd (SNS_FAST_HI x) s ≠ 0 → rd (SNS_FLAG_FHI x) s = 0 →
      Goes (.senseFastValue x bits) s (fun t => rd (SNS_FLAG_FHI x) t = if rd (SNS_FAST_HI x) s ≤ (fast t / 256).natAbs then 1 else 0)) ∧
    (on → 144 ≤ x.val → Goes (.senseFastValue x bits) s (fun t => rd (RAIL_MEAS_VMEAS (x.val - 144)) t =
      if 4 ≤ d.fastN then min (rndDiv (fast t * rd (RAIL_SENSE_FS (x.val - 144)) s) (2 ^ 23)).toNat 65535 else 0)) ∧
    (on → Goes (.senseSlowValue x ns) s (fun t => rd (SNS_FLAG_VALID x) t =
      if setTaps (rd (SNS_SCFG_SET x) s) s + 4 ≤ d.fastN then 1 else 0)) ∧
    (rd SNS_CTL_RUN s = 1 → Goes (.senseSlowValue 0 ns) s (fun t => t.senseAt = ns)) ∧
    (rd SNS_CTL_RUN s = 1 → rd (SNS_SCFG_EN (144 + r.val)) s = 1 → 3 ≤ dips.dipN → 1 ≤ dips.below →
      underLo (rd (SNS_FAST_LO (144 + r.val)) s) (dipValue (144 + r.val) dip s).1 = true → rookArmed s = true → rd (ROOK_RAIL_STAT_DIP r.val) s = 0 →
      Goes (.senseDipValue r dip) s (fun t => rd (ROOK_RAIL_STAT_DIP r.val) t = 1 ∧
        (∀ c ∈ chansOfRail r.val s, safeMuted c t = true ∧ (hasCause c cDIP s = false → rd (MOD_STAT_STATE c) t = 7)) ∧
        (roomAt 28 s → Logs 28 (0x5500 + r.val) 0 t))) ∧
    (on → rd (SNS_FLAG_STUCK x) s = 0 → Goes (.senseStuck x) s (fun t => rd (SNS_FLAG_STUCK x) t = 1 ∧
      (rookArmed s = true → x.val < 144 → safeMuted (x.val / 2) t = true))) ∧
    Goes .snsOutidxRead s (fun t => rd SNS_TLATCH_TIME t = s.senseAt.toNat % 2 ^ 32 ∧
      ∀ a, a ≠ SNS_TLATCH_TIME.addr → rdReg a t = rdReg a s)
/-- Rook's safe state, loading, relay, lines and trips (R279, R280, R281, R282, R283, R284, R285, R286, R297, R298, R299, R307): the three
events and a bad clock put every output into the hardware safe state and log; a second event within 60 s is SAFE; a section that
does not verify leaves LOADING; relay and lines close only under their conditions; a DC trip mutes, drives the line, opens the
relay and latches; holds end as their rules say.
Readings and choices of the model in it: log entries 43 (DESIGN CHOICE), 44 (DEDUCED), 46 (DESIGN CHOICE). -/
def Obligations.RookHoldsAndLeavesTheSafeState : Prop :=
  ∀ (c : Fin 72) (g : Fin 18) (r : Fin 8) (sec : SafetySection) (output : Bool) (s : State),
    let st (t : State) : Nat := rd ROOK_STAT_STATE t
    let safe (t : State) : Prop := t.rook.hw = true ∧ rd ROOK_STAT_RELAY t = 0 ∧ rd ROOK_STAT_SYSMUTE t = 1 ∧
      (∀ g, g < 18 → rd (MODG_STAT_DRIVE g) t = 1) ∧ ∀ c ∈ modChans s, safeMuted c t = true ∧ rd (MOD_STAT_STATE c) t = 7
    let again : Prop := ∃ e, s.rook.lastEvent = some e ∧ s.ns.toNat ≤ e + 60000000000
    let verified : Bool := sec.sigOk && sec.hashOk && Nat.ble (rd KS_STAT_EPOCH s) sec.epoch.toNat && Nat.ble sec.epoch.toNat 64
    let only (b : Nat) : Prop := (getRc c s).causes = 2 ^ b ∧ s.rook.hw = false
    (∀ cmd code, (cmd, code) ∈ [(Instr.lockstepMismatch, 0x5A00), (.rookSramError, 0x5A02), (.selfWatchdogExpiry, 0x5A03)] →
      st s ≠ 3 → Goes cmd s (fun t => safe t ∧ (roomAt 28 s → Logs 28 code 0 t) ∧ (again → st t = 3) ∧
        (¬again → st t = 2 ∧ inReset 28 t = true))) ∧
    (∀ cmd ∈ [Instr.rookSramError, .selfWatchdogExpiry], st s = 3 → exec cmd s = .next s) ∧
    (∀ ok : Fin 3 → Bool, (ok 0 && ok 1 && ok 2) = false → s.rook.clkBad = false →
      Goes (.clockMonitorWindow (ok 0) (ok 1) (ok 2)) s (fun t => safe t ∧ rd ROOK_STAT_CLKOK t = 0 ∧ t.rook.clkBad = true ∧
        (roomAt 28 s → Logs 28 0x5A01 0 t))) ∧
    Goes (.clockMonitorWindow true true true) s (fun t => rd ROOK_STAT_CLKOK t = 1 ∧ t.rook = s.rook) ∧
    (s.rook.clkBad = true → rd ROOK_STAT_CLKOK s = 1 → rd ROOK_STAT_SAFECFG s = 1 → st s ≠ 3 →
      Goes .clockRecovered s (fun t => st t = 1 ∧ t.rook.hw = false ∧ t.rook.clkBad = false)) ∧
    (st s = 0 → inReset 28 s = false → verified = false → Goes (.rookLoad sec) s (fun t => st t = 0 ∧ rd ROOK_STAT_SAFECFG t = 0 ∧
      t.rook = s.rook)) ∧
    (st s = 0 → inReset 28 s = false → verified = true → Goes (.rookLoad sec) s (fun t => st t = 1 ∧ t.rook.tamax = sec.tamax ∧
      t.rook.hw = (s.rook.hw && s.rook.clkBad))) ∧
    (st s = 1 → s.rook.hw = false → s.rook.latchDc = [] → sfAny 3 s = false → s.rook.hold = false → rd SNS_STAT_VALID s = 1 →
      Goes .relayClose s (fun t => rd ROOK_STAT_RELAY t = 1 ∧ t.rook.rlyon = false)) ∧
    (st s ≠ 1 ∨ s.rook.latchDc ≠ [] ∨ rd SNS_STAT_VALID s = 0 → exec .relayClose s = .next s) ∧
    (rd ROOK_STAT_RELAY s = 1 → Goes .rlyonEnd s (fun t => t.rook.rlyon = true ∧ ∀ c, c < 72 → hasCause c cRELAY t = false)) ∧
    (rd (ROOK_GRP_STAT_REQ g) s = 1 → lineOk g s = true → Goes (.lineRelease g) s (fun t => rd (ROOK_GRP_STAT_REL g) t = 1 ∧
      rd (MODG_STAT_DRIVE g) t = 0 ∧ rd (MODG_STAT_LINE g) t = 1)) ∧
    (lineOk g s = false → exec (.lineRelease g) s = .next s) ∧
    (st s = 1 → rd (ROOK_CH_CFG_EN c) s = 1 → rd (if output then ROOK_CH_CFG_DCO_EN c else ROOK_CH_CFG_DCI_EN c) s = 1 →
      Goes (.dcTrip c output) s (fun t => safeMuted c t = true ∧ rd (MODG_STAT_DRIVE (c.val / 4)) t = 1 ∧ rd ROOK_STAT_RELAY t = 0 ∧
        c.val ∈ t.rook.latchCh ∧ c.val ∈ t.rook.latchDc ∧ rd (if output then ROOK_CH_STAT_DCO c else ROOK_CH_STAT_DCI c) t = 1 ∧
        rd ROOK_LAST_CODE t = (if output then 0x5300 else 0x5200) + c.val ∧
        (roomAt 28 s → Logs 28 ((if output then 0x5300 else 0x5200) + c.val) 0 t))) ∧
    (only cOC → Goes (.ocholdEnd c) s (fun t => safeMuted c t = false ∧ rd (ROOK_CH_STAT_SMUTE c) t = 0 ∧
      (rd (MOD_CFG_EN c) s = 1 → tlRun s = true → rd (ROOK_GRP_STAT_REL (c.val / 4)) s = 1 → rd (MODG_STAT_STATE (c.val / 4)) s ≠ 3 →
        rd (MOD_STAT_STATE c) t = 1))) ∧
    (rd (ROOK_GRP_STAT_HOLDING g) s = 1 → Goes (.fltholdEnd g) s (fun t => rd (ROOK_GRP_STAT_HOLDING g) t = 0 ∧
      (s.rook.latchGr.contains g.val = false → tlRun s = true → groupChans g s ≠ [] → s.mods.quietStop = false →
        rd (MODG_STAT_STATE g) s ≠ 3 → rd (MODG_STAT_STATE g) s ≠ 4 → rd (ROOK_GRP_STAT_REQ g) t = 1) ∧
      (s.rook.latchGr.contains g.val = true → rd (ROOK_GRP_STAT_REQ g) t = rd (ROOK_GRP_STAT_REQ g) s))) ∧
    (rd (ROOK_RAIL_STAT_DIP r) s = 1 →
      (rdI (SNS_FAST_LO (144 + r.val)) s + 8 * rd (SNS_HYST_FHYST (144 + r.val)) s ≤ rdI (SNS_FASTV_VALUE (144 + r.val)) s / 256 →
        Goes (.rdclrEnd r) s (fun t => rd (ROOK_RAIL_STAT_DIP r) t = 0 ∧ ∀ c ∈ chansOfRail r s, hasCause c cDIP t = false)) ∧
      (rdI (SNS_FASTV_VALUE (144 + r.val)) s / 256 < rdI (SNS_FAST_LO (144 + r.val)) s → exec (.rdclrEnd r) s = .next s))

/-- Rook's models, measurements, safety inputs and watchdogs (R288, R289, R291, R292, R293, R294, R295, R296, R300, R301, R305, R306): the
temperatures start as R291 says and then move by the equations of R289, within the model's 0.01 °C (log entry 45: DEDUCED); the line flags
rise after 100 windows outside and clear after 1,000 inside; the excursion gain never exceeds 1.0 and stays where it is not
written in time; an input is active after 3 samples and inactive after 10; a core whose heartbeat stands still is reset.
Readings and choices of the model in it: log entries 34 (DESIGN CHOICE), 42 (PRESUMED). -/
def Obligations.RookWatchesHeatLinesAndInputs : Prop :=
  ∀ (c : Fin 72) (n : Fin 4) (word : BitVec 32) (s : State),
    let armed : Prop := rd ROOK_STAT_STATE s = 1 ∧ rd (ROOK_CH_CFG_EN c) s = 1
    let lim : Int := rd (ROOK_CH_TLIM_TLIM c) s * 100
    let knee : Int := rd (ROOK_CH_TLIM_TKNEE c) s * 1000
    let cut (t : State) : Nat × Nat := (rd (ROOK_CH_STAT_THCUT c) t, rd (ROOK_CH_STAT_THLIM c) t)
    let zp (t : State) : Nat := rd (ROOK_CH_Z_ZP c) t
    let lines (t : State) : Nat × Nat := (rd (ROOK_CH_STAT_LINE_OPEN c) t, rd (ROOK_CH_STAT_LINE_SHORT c) t)
    let bit (f : FRef) (t : State) : Bool := rdB (bitOf f n.val) t
    let active (l : BitVec 4) : Prop := l.getLsbD n = bit ROOK_SFCFG_POL s
    let seen := mapGet (fun _ => (⟨0, 0⟩ : SfSt)) s.rook.sf n.val
    let last := s.rook.words.find? fun e => e.1 == n.val
    (armed → rd (ROOK_CH_CFG_TH_EN c) s = 1 →
      ((getRc c s).temp = none → Goes (.thermalUpdate c) s (fun t => (getRc c t).temp = some (firstTemp c s, firstTemp c s))) ∧
      ∀ tc tm, (getRc c s).temp = some (tc, tm) → let x := thermalStep c tc tm s
        Goes (.thermalUpdate c) s (fun t => (∃ a b : Int, (getRc c t).temp = some (a, b) ∧ (a - x.1).natAbs ≤ 10 ∧ (b - x.2).natAbs ≤ 10) ∧
          (lim ≤ x.1 - 10 → cut t = (1, 1) ∧ (getRc c t).off = true) ∧
          (x.1 + 10 < lim - knee → x.1 + 10 < lim - 5000 → (getRc c s).att = 0 → cut t = (0, 0) ∧ (getRc c t).off = false))) ∧
    (armed → rd (ROOK_CH_CFG_PILOT c) s = 0 → ∀ tc tm, (getRc c s).temp = some (tc, tm) →
      Goes (.impedanceMeasure c) s (fun t => ∃ a, (getRc c t).temp = some (a, tm))) ∧
    (rd (ROOK_CH_CFG_PILOT c) s = 1 → exec (.impedanceMeasure c) s = .next s) ∧
    (armed → rd (ROOK_CH_CFG_PILOT c) s = 1 → 4 ≤ s.nS → Goes (.pilotWindow c) s (fun t =>
      (rd (ROOK_CH_ZLIM_ZHI c) s < zp t → 99 ≤ (getRc c s).zOpen → (lines t).1 = 1 ∧
        (rd (ROOK_CH_CFG_LINEACT c) s = 1 → lines s = (0, 0) → safeMuted c t = true)) ∧
      (zp t < rd (ROOK_CH_ZLIM_ZLO c) s → 99 ≤ (getRc c s).zShort → (lines t).2 = 1) ∧
      (rd (ROOK_CH_ZLIM_ZLO c) s ≤ zp t → zp t ≤ rd (ROOK_CH_ZLIM_ZHI c) s → 999 ≤ (getRc c s).zIn → lines t = (0, 0)))) ∧
    (armed → rd (ROOK_CH_CFG_X_EN c) s = 1 → tlRun s = true →
      Goes (.excursionGain c true) s (fun t => (getRc c t).gx ≤ 0x800000 ∧
        (rookFeed (dataBlock 2 s) c s = none → (getMod c s).dirty = false → (getRc c s).gx ≤ 0x800000 → (getRc c s).gx ≤ (getRc c t).gx)) ∧
      (rd ROOK_CNT2_XLATE_COUNT s + 1 < 2 ^ 16 → Goes (.excursionGain c false) s (fun t => (getRc c t).gx = (getRc c s).gx ∧
        rd ROOK_CNT2_XLATE_COUNT t = rd ROOK_CNT2_XLATE_COUNT s + 1))) ∧
    (∀ l, active l → bit ROOK_SFIN_ACT s = false → Goes (.sfinSample l) s (fun t => bit ROOK_SFIN_RAW t = l.getLsbD n ∧
      bit ROOK_SFIN_ACT t = decide (2 ≤ seen.on) ∧ (2 ≤ seen.on → bit ROOK_SFIN_HOLD t = false ∧ (n.val = 0 → rd ROOK_STAT_SYSMUTE t = 1 ∧
        rd ROOK_STAT_EMUTE t = 1)))) ∧
    (∀ l, ¬active l → bit ROOK_SFIN_ACT s = true → Goes (.sfinSample l) s (fun t => bit ROOK_SFIN_ACT t = decide (seen.off < 9) ∧
      (9 ≤ seen.off → bit ROOK_SFIN_HOLD t = true ∧ bit ROOK_SFIN_STUCK t = false))) ∧
    (bit ROOK_SFIN_HOLD s = true → Goes (.sfinHoldEnd n) s (fun t => bit ROOK_SFIN_HOLD t = false ∧
      (n.val = 0 → bit ROOK_SFIN_ACT s = false → rd ROOK_SFCFG_FN2 s ≠ 1 → rd ROOK_SFCFG_FN3 s ≠ 1 → s.rook.hw = false →
        rd ROOK_STAT_STATE s ≠ 3 → rd ROOK_STAT_SYSMUTE t = 0 ∧ rd ROOK_STAT_EMUTE t = 0))) ∧
    (bit ROOK_SFIN_ACT s = true → bit ROOK_SFIN_STUCK s = false → Goes (.sfinStuck n) s (fun t => bit ROOK_SFIN_STUCK t = true ∧
      (roomAt 28 s → Logs 28 (0x5800 + n.val) 0 t))) ∧
    (rd ROOK_STAT_STATE s = 1 → bit ROOK_WD_CWDEN s = true → inReset (261 + n.val) s = false →
      ((∀ e, last = some e → e.2 ≠ word) → Goes (.ccWatchdogRead n word) s (fun t => bit ROOK_WD_CC_OK t = true ∧
        mapGet (fun _ => 0) t.rook.stale n.val = 0)) ∧
      (last = some (n.val, word) → mapGet (fun _ => 0) s.rook.stale n.val = 0 → Goes (.ccWatchdogRead n word) s (fun t =>
        bit ROOK_WD_CC_OK t = false ∧ mapGet (fun _ => 0) t.rook.stale n.val = 1 ∧ inReset (261 + n.val) t = false)) ∧
      (last = some (n.val, word) → mapGet (fun _ => 0) s.rook.stale n.val = 1 → Goes (.ccWatchdogRead n word) s (fun t =>
        bit ROOK_WD_CC_OK t = false ∧ inReset (261 + n.val) t = true ∧ (roomAt 28 s → Logs 28 (0x5910 + n.val) 0 t))))
/-- The lease and the king (R322, R327, R328, R329, R333, R334, R335): a status frame with a valid CRC is heard on its channel and kept
if its send block is the latest; of two holders the lower in rank yields and both count the split; an engine that is ABLE takes
the king after END, or after a YIELD, or with no partner heard for LEASE + 2 blocks, and counts KSEQ on; a castling is proposed
for CLEAD blocks on, accepted and committed by its deadlines or cancelled, and completes at its block.
Readings and choices of the model in it: log entries 21 (DEDUCED), 25 (DEDUCED), 26 (DEDUCED). -/
def Obligations.LeaseAndCastlingDecideTheKing : Prop :=
  ∀ (w : BitVec 128) (kb : BitVec 64) (tagOk : Bool) (dblk : BitVec 24) (s : State),
    let k := s.tl.k.toNat
    let c := blockOf24 dblk s
    let f := leaseFields w
    let sends (x : KingCode) (b : Nat) (t : State) : Prop := t.pair.kingSent = s.pair.kingSent ++ [(x, BitVec.ofNat 24 b)]
    let counts (r : FRef) (t : State) : Prop := rd r s + 1 < 2 ^ 16 → rd r t = rd r s + 1
    let heard (ch sent : Nat) (t : State) : Prop := t.pair.heardNow = s.pair.heardNow ||| BitVec.ofNat 3 (2 ^ ch) ∧
      rd (DRN_PDEV_ID 0) t + rd (DRN_PDEV_ID 1) t * 2 ^ 32 = f.dev.toNat ∧
      ((∀ l, s.pair.last = some l → l.block ≤ sent) → t.pair.last = some ⟨f, sent, blockOf24 f.fin s⟩) ∧
      (∀ l, s.pair.last = some l → sent < l.block → t.pair.last = some l)
    let taken (cause : Nat) (t : State) : Prop := kstate t = kHOLD ∧ rd DRN_KING_KSEQ t = (rd DRN_KING_KSEQ s + 1) % 256 ∧
      rd DRN_KBSN_BSN t = (k + 1) % 2 ^ 32 ∧ rd DRN_KING_CAUSE t = cause ∧ counts DRN_CNT_TAKE_COUNT t
    let mayTake : Prop := ableNow s = true ∧ (kstate s = kWAIT ∨ kstate s = kSTBY)
    (leaseCrcOk w = false → exec (.leaseLineFrame w) s = .next s ∧ exec (.networkHeartbeat w kb tagOk) s = .next s) ∧
    (paired s = true → leaseCrcOk w = true → rd DRN_CFG_LLINE s = 1 → Goes (.leaseLineFrame w) s (fun t => heard 1 k t ∧
      (kstate s = kHOLD → f.typ = 0 → k < blockOf24 f.fin s → s.pair.splitSeen = false →
        t.pair.yieldNext = !ranksHigher f s ∧ counts DRN_CNT2_SPLIT_COUNT t) ∧
      (kstate s = kWAIT → f.typ = 0 → (∀ l, s.pair.last = some l → l.block ≤ k) → kstate t = kSTBY ∧
        rd DRN_KING_KSEQ t = f.kseq.toNat))) ∧
    (paired s = true → leaseCrcOk w = true → rd DRN_CFG_NETHB s = 1 → tagOk = true → (kb.toNat : Int) - k ≤ 2 → (k : Int) - kb.toNat ≤ 2 →
      Goes (.networkHeartbeat w kb tagOk) s (heard 2 kb.toNat)) ∧
    (tagOk = false ∨ 2 < (kb.toNat : Int) - k ∨ 2 < (k : Int) - kb.toNat → exec (.networkHeartbeat w kb tagOk) s = .next s) ∧
    (paired s = true → mayTake →
      (s.pair.last = none → s.pair.since + rd DRN_CFG_LEASE s + 2 ≤ k → Goes .kingTake s (taken 1)) ∧
      ∀ l, s.pair.last = some l →
        (l.frame.typ = 0 ∨ l.frame.typ = 3 → l.fin ≤ k → Goes .kingTake s (taken 2)) ∧
        (l.frame.typ = 0 ∨ l.frame.typ = 3 → k < l.fin → exec .kingTake s = .next s) ∧
        (l.frame.typ = 2 → l.fin ≤ k → Goes .kingTake s (taken 3)) ∧
        (l.frame.typ = 1 → ranksHigher l.frame s = true → Goes .kingTake s (taken 1))) ∧
    (ableNow s = false → exec .kingTake s = .next s) ∧
    (paired s = true → s.pair.castling = none →
      (kstate s = kHOLD → ∀ h, s.pair.beat = some h → h.healthy = true → Goes .drnCastle s (fun t => kstate t = kOUT ∧
        sends .propose (k + rd DRN_CFG2_CLEAD s) t ∧ t.pair.castling = some ⟨k + rd DRN_CFG2_CLEAD s, true, false, false, 4⟩)) ∧
      (kstate s = kHOLD → s.pair.beat = none → Goes .drnCastle s (fun t => kstate t = kHOLD ∧ rd DRN_STAT_CASTERR t = 1 ∧
        t.pair.castling = none ∧ (roomAt 29 s → Logs 29 0x7020 0 t))) ∧
      (kstate s = kSTBY → Goes .drnCastle s (sends .request k)) ∧
      (∀ b, s.pair.healthySince = some b → revertRuns s = true →
        (b + rd DRN_CFG2_REVERT s * 24000 ≤ k → Goes .revertExpiry s (fun t => sends .request k t ∧ t.pair.wantRevert = true)) ∧
        (k < b + rd DRN_CFG2_REVERT s * 24000 → Goes .revertExpiry s (fun t => t.pair.kingSent = s.pair.kingSent))) ∧
      (rd DRN_STAT_ALIGN s = 1 → kstate s = kSTBY → healthyButMatch s = true → k + 8 ≤ c → Goes (.recordKing true .propose dblk) s (fun t =>
        sends .accept c t ∧ kstate t = kIN ∧ t.pair.castling = some ⟨c, false, true, false, if s.pair.wantRevert then 5 else 4⟩))) ∧
    (∀ q, s.pair.castling = some q →
      Goes .drnCastle s (fun t => t.pair.castling = some q ∧ t.pair.kingSent = s.pair.kingSent) ∧
      (q.holder = true → q.accepted = false → q.block ≤ k + 8 → Goes .castlingAcceptDeadline s (fun t => t.pair.castling = none ∧
        sends .cancel q.block t ∧ (kstate s = kOUT → kstate t = kHOLD) ∧ counts DRN_CNT4_CANCEL_COUNT t)) ∧
      (k + 8 < q.block → exec .castlingAcceptDeadline s = .next s) ∧
      (k < q.block → exec .castlingBlock s = .next s) ∧
      (q.block ≤ k → q.committed = true → Goes .castlingBlock s (fun t => t.pair.castling = none ∧ counts DRN_CNT_CASTLE_COUNT t ∧
        rd DRN_KBSN_BSN t = q.block % 2 ^ 32 ∧
        (q.holder = true → kstate t = kSTBY ∧ t.pair.sentType = 2 ∧ t.pair.sentEnd = BitVec.ofNat 32 q.block) ∧
        (q.holder = false → kstate t = kHOLD ∧ rd DRN_KING_KSEQ t = (rd DRN_KING_KSEQ s + 1) % 256))) ∧
      (q.block ≤ k → q.committed = false → q.holder = false → kstate s = kIN → Goes .castlingBlock s (fun t =>
        t.pair.castling = none ∧ kstate t = kSTBY)) ∧
      (paired s = true → rd DRN_STAT_ALIGN s = 1 → q.block = c →
        (q.holder = true → q.committed = false → k + 8 ≤ c → Goes (.recordKing true .accept dblk) s (fun t => sends .commit c t ∧
          t.pair.castling = some ⟨c, true, true, true, q.cause⟩ ∧ t.pair.sentType = 3 ∧ t.pair.sentEnd = BitVec.ofNat 32 c)) ∧
        (q.holder = false → Goes (.recordKing true .commit dblk) s (fun t => t.pair.castling = some ⟨c, false, q.accepted, true, q.cause⟩)) ∧
        (q.holder = false → Goes (.recordKing true .cancel dblk) s (fun t => t.pair.castling = none))))

/-- The Dranan link (R313, R314, R315, R317, R318, R320, R321, R322, R323, R324): a lane goes from HUNT through three markers in a row to
ALIGNED and leaves it after two misses; a record that fails is discarded and counted; a heartbeat gives the partner's state and
releases what its MACK covers; TIME gives the delay and the offset; feeds and slots are kept for their data block; mirror
entries are taken in the order of their numbers; a resync lies at least 25 blocks on.
Readings and choices of the model in it: log entries 22 (DEDUCED), 23 (DEDUCED), 24 (DESIGN CHOICE). -/
def Obligations.RecordsBringThePartnersState : Prop :=
  ∀ (n : Fin 16) (m : BitVec 64) (inPlace : Bool) (ns sent got arrived : BitVec 64) (dblk : BitVec 24) (h : Heartbeat) (feeds : List (BitVec 32))
    (pod : Fin 16) (slot : Fin 512) (samples : List (BitVec 32)) (first : BitVec 32) (value : BitVec 16) (s : State),
    let k := s.tl.k.toNat
    let c := blockOf24 dblk s
    let f := getFramer n s
    let g (t : State) := getFramer n t
    let bsn := m.extractLsb' 8 32
    let counts (r : FRef) (t : State) : Prop := rd r s + 1 < 2 ^ 16 → rd r t = rd r s + 1
    let half (x : Int) (y : Int) : Prop := 2 * y ≤ x ∧ x < 2 * y + 2
    let there : Int := (got.toNat : Int) - s.pair.markerNs.toNat
    let back : Int := (arrived.toNat : Int) - sent.toNat
    let own := mapGet (fun _ => []) s.pair.ownFeeds c
    let goesMarker := Goes (.drananMarker n m inPlace ns) s
    (rd (LN_CFG_MODE n) s < 6 → exec (.drananMarker n m inPlace ns) s = .next s) ∧
    (rd (LN_CFG_MODE n) s = 6 ∨ rd (LN_CFG_MODE n) s = 7 →
      (f.state = 0 → markerCrcOk m = true → goesMarker (fun t => (g t).state = 1 ∧ (g t).bsn = bsn ∧ (g t).seen = 0)) ∧
      (f.state = 1 → markerCrcOk m = true → inPlace = true → bsn = f.bsn + 1 → goesMarker (fun t => (g t).bsn = bsn ∧
        (g t).seen = f.seen + 1 ∧ ((g t).state = 2 ↔ f.seen = 2) ∧ (f.seen ≠ 2 → (g t).state = 1))) ∧
      (f.state = 1 → markerCrcOk m = false ∨ inPlace = false ∨ bsn ≠ f.bsn + 1 → goesMarker (fun t => (g t).state = 0)) ∧
      (f.state = 2 → markerCrcOk m = true → inPlace = true → bsn = f.bsn + 1 → goesMarker (fun t => (g t).state = 2 ∧ (g t).misses = 0 ∧
        (linkAligned t = true ↔ rd DRN_STAT_ALIGN t = 1) ∧
        (rd DRN_STAT_ALIGN t = 1 → (rd DRN_STAT_LOCKSTEP t = 1 ↔ rd DRN_DELAY_DELAY s ≤ 5000 ∧
          blockAt (ns.toNat - rd DRN_DELAY_DELAY s) % 2 ^ 32 = bsn.toNat)))) ∧
      (f.state = 2 → markerCrcOk m = false → f.misses = 0 → goesMarker (fun t => (g t).state = 2 ∧ (g t).misses = 1)) ∧
      (f.state = 2 → markerCrcOk m = false → f.misses ≠ 0 → goesMarker (fun t => (g t).state = 0 ∧ counts DRN_CNT2_ALOSS_COUNT t))) ∧
    (paired s = true → rd DRN_STAT_ALIGN s = 1 →
      (∀ cmd ∈ [Instr.recordHeartbeat false dblk h, .recordTime false sent got arrived, .recordModfeed true false dblk feeds,
        .recordModfeed false true dblk feeds, .recordSlot true false dblk pod slot samples, .recordKing false .commit dblk],
        Goes cmd s (fun t => t.pair = s.pair ∧ counts DRN_CNT3_CRC_COUNT t)) ∧
      Goes (.recordHeartbeat true dblk h) s (fun t => t.pair.beat = some h ∧ rdB DRN_STAT_PABLE t = h.able ∧ t.pair.heardNow.getLsbD 0 = true ∧
        t.pair.mirrorOut = s.pair.mirrorOut.filter (fun e => serialLater 32 e.1.toNat h.mack.toNat) ∧
        (rd DRN_STAT_SHARED t = 1 ↔ ownGm s ≠ 0 ∧ ownGm s = h.gm.toNat ∧ (rdI DRN_OFFSET_OFFSET s).natAbs < 1000)) ∧
      Goes (.recordTime true sent got arrived) s (fun t =>
        (∀ d, half (there + back) d → rd DRN_DELAY_DELAY t = min d.toNat 65535) ∧
        (∀ d, half (there - back) d → rdI DRN_OFFSET_OFFSET t = clampTo 32 d)) ∧
      Goes (.recordModfeed true true dblk feeds) s (fun t => mapGet (fun _ => []) t.pair.feeds c = feeds ∧
        (feeds ≠ [] → own ≠ [] → feedCrc feeds = feedCrc own → t.pair.equalRun = s.pair.equalRun + 1 ∧
          (23 ≤ s.pair.equalRun → rd DRN_STAT_COHERENT t = 1)) ∧
        (feeds ≠ [] → own ≠ [] → feedCrc feeds ≠ feedCrc own → t.pair.equalRun = 0 ∧ rd DRN_STAT_COHERENT t = 0 ∧
          counts DRN_CNT3_DIVERGE_COUNT t)) ∧
      (samples ≠ [] → samples.length = s.nS → Goes (.recordSlot true true dblk pod slot samples) s (fun t =>
        mapGet (fun _ => []) t.pair.slots (slotKey c pod slot) = samples)) ∧
      (first = s.pair.mirrorGot + 1 → s.pair.gather = none →
        Goes (.recordMirror true first [.kout dblk (BitVec.ofNat 16 n) value]) s (fun t => t.pair.mirrorGot = first ∧
          t.pair.koutNext = s.pair.koutNext ++ [(c, n.val, value)]) ∧
        ∀ ch : Change, s.pair.mirrored = [ch] → Goes (.recordMirror true first [.close dblk 0]) s (fun t => t.pair.mirrored = [] ∧
          t.tl.pend = insertChange { ch with apply := BitVec.ofNat 32 (if c ≤ k then k + 1 else c) } s.tl.pend ∧
          (c ≤ k → counts DRN_CNT4_LATE_COUNT t))) ∧
      (first ≠ s.pair.mirrorGot + 1 → Goes (.recordMirror true first [.kout dblk (BitVec.ofNat 16 n) value]) s (fun t =>
        t.pair.mirrorGot = s.pair.mirrorGot ∧ t.pair.koutNext = s.pair.koutNext))) ∧
    (let resynced (l : List (BitVec 32 × Nat × MirrorEntry)) (t : State) : Prop := t.pair.needResync = false ∧ ∃ d, 25 ≤ d ∧
        t.pair.resyncAt = some (BitVec.ofNat 32 (k + d)) ∧ t.pair.mirrorOut = l ++ [
          (s.pair.mirrorNext, k, .resync (BitVec.ofNat 24 (k + d)) (BitVec.ofNat 16 (rd GLB_GEN_GEN s))),
          (s.pair.mirrorNext + 1, k, .close (BitVec.ofNat 24 (k + d)) (BitVec.ofNat 16 (rd GLB_GEN_GEN s)))]
     paired s = true → kstate s = kHOLD → rd DRN_STAT_MATCH s = 1 →
      (rd DRN_STAT_ALIGN s = 1 → Goes .drnResync s (resynced s.pair.mirrorOut)) ∧
      (rd DRN_STAT_ALIGN s = 0 → Goes .drnResync s (fun t => t.pair.needResync = true ∧ t.pair.mirrorOut = s.pair.mirrorOut)) ∧
      ((∃ e ∈ s.pair.mirrorOut, e.2.1 + 24 < k) →
        (rd DRN_STAT_ALIGN s = 1 → Goes .mirrorExpiry s (resynced [])) ∧
        (rd DRN_STAT_ALIGN s = 0 → Goes .mirrorExpiry s (fun t => t.pair.mirrorOut = [] ∧ t.pair.needResync = true))) ∧
      ((∀ e ∈ s.pair.mirrorOut, k ≤ e.2.1 + 24) → exec .mirrorExpiry s = .next s))

/-- The key-store commands (R187, R192, R193, R194, R196, R197, R198, R199, R226, R229): a GO runs its command unless one runs, which
is ERR 1; an OP of no command is ERR 6; a completed command clears GO, sets DONE and gives its ERR, with its effect where ERR is 0
and none on keys, memory or fuses where it is not.
Readings and choices of the model in it: log entries 27 (DESIGN CHOICE), 48 (DEDUCED). -/
def Obligations.KeyStoreCommandsGiveTheirResults : Prop :=
  ∀ (slot : Fin 64) (record tagOk owner : Bool) (key : BitVec 256) (dst : BitVec 40) (plain : List Byte) (words : List (BitVec 32)) (num : BitVec 32)
    (r : SakRecord) (apply : BitVec 32) (verify : List Bool) (oh sh : BitVec 384) (op : BitVec 8) (s : State),
    let result (e : Nat) (t : State) : Prop := rd KS_RESULT_ERR t = e ∧ rd KS_RESULT_DONE t = 1
    let done (j : KsJob) (e : Nat) (Q : State → Prop) : Prop := s.ks.job = some j → Goes .ksCommandDone s (fun t =>
      result e t ∧ rd KS_CMD_GO t = 0 ∧ t.ks.job = none ∧ Q t)
    let kept (t : State) : Prop := t.ks.keys = s.ks.keys ∧ t.mem = s.mem ∧ t.ks.epochBits = s.ks.epochBits ∧ t.ks.owned = s.ks.owned ∧
      t.ks.golden = s.ks.golden
    let trng := rd KS_STAT_TRNG_OK s
    let fails (t : State) : Prop := kept t ∧ (rd KS_CNT_UNWRAP_FAIL_COUNT s + 1 < 2 ^ 16 →
      rd KS_CNT_UNWRAP_FAIL_COUNT t = rd KS_CNT_UNWRAP_FAIL_COUNT s + 1)
    let inDram (n : Nat) : Prop := 0x1000000000 ≤ dst.toNat ∧ dst.toNat + n ≤ 0x1000000000 + rd DRC_MAP_TOP s * 2 ^ 20
    let sak := 4 * r.mac.val + r.an.val
    (∀ e ∈ [(Instr.ksUnwrap slot record tagOk key, 1, KsJob.unwrap slot record tagOk key), (.ksDecrypt slot tagOk dst plain, 2, .decrypt slot tagOk dst.toNat plain),
        (.ksBuildGolden slot tagOk dst words, 3, .golden slot tagOk dst.toNat words), (.ksSession num key, 4, .session num.toNat key),
        (.ksSakInstall slot r apply, 5, .sak slot r apply), (.ksSlotClear slot, 6, .clear slot), (.ksEpochAdvance verify, 8, .epoch verify),
        (.ksProvision record oh sh, 9, .provision record oh sh), (.ksRandom, 0xA, .random), (.ksKillJtag owner, 0xB, .killJtag owner)],
      (s.ks.job = none → Goes e.1 s (fun t => t.ks.job = some e.2.2 ∧ rd KS_CMD_OP t = e.2.1 ∧ rd KS_CMD_GO t = 1)) ∧
      (s.ks.job ≠ none → Goes e.1 s (fun t => result 1 t ∧ t.ks = s.ks))) ∧
    (op = 0 ∨ 0xB < op.toNat → s.ks.job = none → Goes (.ksBadOp op) s (result 6)) ∧
    (op = 0 ∨ 0xB < op.toNat → s.ks.job ≠ none → Goes (.ksBadOp op) s (result 1)) ∧
    (s.ks.job = none → exec .ksCommandDone s = .next s) ∧
    (slot.val < 48 → done (.unwrap slot record tagOk key) 6 kept) ∧
    (48 ≤ slot.val → deviceKeyOk s = false ∨ rd KS_STAT_JTAG s ≠ 0 → done (.unwrap slot record tagOk key) 2 kept) ∧
    (48 ≤ slot.val → deviceKeyOk s = true → rd KS_STAT_JTAG s = 0 →
      done (.unwrap slot false tagOk key) 4 fails ∧ done (.unwrap slot true false key) 3 fails ∧
      done (.unwrap slot true true key) 0 (fun t => slotValid slot t = true ∧ (slot.val, key) ∈ t.ks.keys)) ∧
    (slotValid slot s = false → done (.decrypt slot tagOk dst.toNat plain) 2 kept ∧ done (.golden slot tagOk dst.toNat words) 2 kept) ∧
    (slotValid slot s = true →
      (inDram plain.length → done (.decrypt slot false dst.toNat plain) 3 kept ∧ done (.decrypt slot true dst.toNat plain) 0 (fun t =>
        (∀ i (h : i < plain.length), rdDram (dst.toNat - 0x1000000000 + i) t = plain[i]) ∧
        ∀ a, a < dst.toNat - 0x1000000000 ∨ dst.toNat - 0x1000000000 + plain.length ≤ a → rdDram a t = rdDram a s)) ∧
      (¬inDram plain.length → done (.decrypt slot tagOk dst.toNat plain) 6 kept) ∧
      (inDram 4096 → dst.toNat % 4096 = 0 → words.length = 1024 → done (.golden slot false dst.toNat words) 3 kept ∧
        (trng = 1 ∨ s.ks.gck = true → done (.golden slot true dst.toNat words) 0 (fun t => t.ks.gck = true ∧ (dst.toNat / 4096, words) ∈ t.ks.golden)) ∧
        (trng = 0 → s.ks.gck = false → done (.golden slot true dst.toNat words) 5 kept))) ∧
    (deviceKeyOk s = false → done (.session num.toNat key) 2 kept) ∧
    (deviceKeyOk s = true → trng = 0 → done (.session num.toNat key) 5 kept) ∧
    (deviceKeyOk s = true → trng = 1 → num ≠ 0 → done (.session num.toNat key) 0 kept) ∧
    (slot.val ≠ sak → done (.sak slot r apply) 6 kept) ∧
    ((getSec r.mac s).tx = some r.an.val → done (.sak sak r apply) 2 kept) ∧
    ((getSec r.mac s).tx ≠ some r.an.val → done (.sak sak r apply) 0 (fun t => slotValid sak t = true ∧ (sak, r.key) ∈ t.ks.keys ∧
      ((getSec r.mac s).tx = none → (getSec r.mac t).tx = some r.an.val ∧ rd (MS_TXPN_LO_PN r.mac) t = 1) ∧
      ((getSec r.mac s).tx ≠ none → (getSec r.mac t).tx = (getSec r.mac s).tx ∧ (getSec r.mac t).next = some (r.an.val, apply) ∧
        (getSec r.mac t).retire = if r.retire = 0 then 10 else r.retire.toNat))) ∧
    done (.clear slot) 0 (fun t => slotValid slot t = false ∧ ∀ k, (slot.val, k) ∉ t.ks.keys) ∧
    (epochDue s = false → done (.epoch verify) 2 kept) ∧
    (epochDue s = true → done (.epoch (false :: verify)) 0 (fun t => t.ks.epochBits = s.ks.epochBits ∧ rd KS_STAT_FUSE_ERR t = 1) ∧
      done (.epoch (List.replicate 64 true)) 0 (fun t => s.image.epoch ≤ epochOf t.ks.epochBits ∧ rd KS_STAT_EPOCH t = epochOf t.ks.epochBits)) ∧
    (s.ks.owned = true → done (.provision record oh sh) 2 kept) ∧ done (.provision false oh sh) 2 kept ∧
    (s.ks.owned = false → s.ks.fa = false → done (.provision true oh sh) 0 (fun t => t.ks.owned = true ∧ rd KS_STAT_LIFE t = 1 ∧
      ∀ i, i < 12 → rd (KS_OWNER_HASH_HASH i) t = oh.toNat / 2 ^ (32 * (11 - i)) % 2 ^ 32 ∧
        rd (KS_SAFETY_HASH_HASH i) t = sh.toNat / 2 ^ (32 * (11 - i)) % 2 ^ 32)) ∧
    (trng = 0 → done .random 5 kept) ∧
    (trng = 1 → 0x10 ≤ rd KS_ARG1_ADDR_HI s → rd KS_ARG1_ADDR_HI s * 2 ^ 32 + rd KS_ARG0_ADDR s + rd KS_ARG2_LEN s ≤
      0x1000000000 + rd DRC_MAP_TOP s * 2 ^ 20 → done .random 0 (fun t => t.ks.keys = s.ks.keys)) ∧
    done (.killJtag true) 0 (fun t => rd KS_STAT_JKILL t = 1) ∧ done (.killJtag false) 2 kept

/-- Zeroisation, seal windows, the unlock of JTAG and retired SAKs (R190, R201, R203, R204, R205, R220, R221, R222, R223, R224, R226): ZEROISE
clears all slots and keys, ends every session, clears RUN and safe-mutes; at its completion LOCK is 0, the tasks are disabled and
JTAG opens if an unlock waits; a valid response mutes, opens the relay and zeroises; one that fails is counted.
Readings and choices of the model in it: log entries 27 (DESIGN CHOICE), 47 (DESIGN CHOICE), 48 (DEDUCED). -/
def Obligations.ZeroisationAndUnlockFollowTheirOrder : Prop :=
  ∀ (q : Fin 144) (m : Fin 12) (r : UnlockResponse) (s : State),
    let gone (t : State) : Prop := (∀ i, i < 64 → slotValid i t = false) ∧ t.ks.keys = [] ∧ t.ks.saks = [] ∧ t.ks.golden = [] ∧ t.ks.gck = false ∧
      t.halv.sessions = [] ∧ rd KS_STAT_ZBUSY t = 1 ∧ (∀ p, p < 144 → p ∈ t.ks.zeroing) ∧ ∀ c ∈ modChans s, safeMuted c t = true
    Goes .ksZeroise s (fun t => gone t ∧ (∀ n, n < 16 → rd (POD_CTL_RUN n) t = 0) ∧ (s.ks.job = none → t.ks.job = some .zeroise) ∧
      (s.ks.job ≠ none → rd KS_RESULT_ERR t = 1)) ∧
    (rd KS_STAT_ZBUSY s = 0 → exec .zeroisationDone s = .next s) ∧
    (rd KS_STAT_ZBUSY s = 1 → (∀ p ∈ s.ks.zeroing, p < 144) → s.ks.opening ≤ 3 → Goes .zeroisationDone s (fun t => rd KS_STAT_ZBUSY t = 0 ∧
      rd KS_EVT_ZDONE t = 1 ∧ t.ks.zeroing = [] ∧
      (∀ p ∈ s.ks.zeroing, rd (KS_SEAL_CTL_LOCK p) t = 0 ∧ ∀ e, e < 64 → taskOn (p / 9) (p % 9) e t = false) ∧
      (s.ks.opening = 0 → rd KS_STAT_JTAG t = rd KS_STAT_JTAG s) ∧
      (s.ks.opening ≠ 0 → rd KS_STAT_JTAG t = s.ks.opening ∧ t.ks.opening = 0) ∧
      (s.ks.opening = 3 → t.ks.fa = true ∧ rd KS_STAT_LIFE t = 2))) ∧
    Goes (.sealLock q) s (fun t => rd (KS_SEAL_CTL_LOCK q) t = 1 ∧
      (rd (KS_SEAL_P_LEN q) s ≠ 0 ∨ rd (KS_SEAL_X_LEN q) s ≠ 0 ∨ rd (KS_SEAL_Y_LEN q) s ≠ 0 → rd (bitOf KS_SEALPODS_PODS (q.val / 9)) t = 1) ∧
      ∀ n, n < 16 → n ≠ q.val / 9 → rd (bitOf KS_SEALPODS_PODS n) t = rd (bitOf KS_SEALPODS_PODS n) s) ∧
    Goes .trngHealthFail s (fun t => rd KS_STAT_TRNG_OK t = 0 ∧ t.ks = s.ks) ∧
    Goes .jtagIdcode s (fun t => t.ks.jtagReg = 0 ∧ t.regs = s.regs) ∧
    Goes .jtagBypass s (fun t => t.ks.jtagReg = 1 ∧ t.ks.jtagOut = 0 ∧ t.regs = s.regs) ∧
    (rd KS_STAT_TRNG_OK s = 1 → s.ks.quietUntil ≤ s.ns.toNat → s.ks.fails < 3 → rd KS_STAT_JTAG s = 0 → Goes .unlockChal s (fun t =>
      t.ks.jtagReg = 2 ∧ ∃ n, t.ks.nonce = some n ∧ t.ks.chal = some (deviceIdKs s, epochOf s.ks.epochBits, n))) ∧
    (rd KS_STAT_TRNG_OK s = 0 ∨ s.ns.toNat < s.ks.quietUntil ∨ 3 ≤ s.ks.fails → Goes .unlockChal s (fun t => t.ks.nonce = s.ks.nonce ∧
      t.ks.chal = s.ks.chal)) ∧
    (rd KS_STAT_JTAG s = 0 →
      (s.ks.nonce = some r.nonce → r.device = deviceIdKs s → r.reserved = 0 → r.sigOk = true → epochOf s.ks.epochBits ≤ r.epoch.toNat →
        r.epoch.toNat ≤ 64 → s.ks.fails < 3 → r.scope = 3 ∨ ((r.scope = 1 ∨ r.scope = 2) ∧ s.image.owner = true ∧ rd KS_STAT_JKILL s = 0) →
        Goes (.unlockResp r) s (fun t => gone t ∧ t.ks.opening = r.scope.toNat ∧ t.ks.nonce = none ∧ rd ROOK_STAT_RELAY t = 0 ∧
          t.rook.hold = true ∧ rd KS_STAT_JTAG t = 0 ∧ (r.scope = 3 → t.ks.secret = false ∧ rd KS_STAT_PUF_OK t = 0))) ∧
      (s.ks.nonce ≠ some r.nonce ∨ r.device ≠ deviceIdKs s ∨ r.reserved ≠ 0 ∨ r.sigOk = false ∨ r.epoch.toNat < epochOf s.ks.epochBits ∨
          64 < r.epoch.toNat ∨ 3 ≤ s.ks.fails ∨ r.scope = 0 ∨ 3 < r.scope.toNat ∨
          (r.scope ≠ 3 ∧ (s.image.owner = false ∨ rd KS_STAT_JKILL s = 1)) →
        Goes (.unlockResp r) s (fun t => t.ks.fails = s.ks.fails + 1 ∧ t.ks.opening = s.ks.opening ∧ t.ks.keys = s.ks.keys ∧
          t.ks.quietUntil = s.ns.toNat + 1000000000 ∧ (rd KS_CNT_JTAG_FAIL_COUNT s + 1 < 2 ^ 16 →
            rd KS_CNT_JTAG_FAIL_COUNT t = rd KS_CNT_JTAG_FAIL_COUNT s + 1)))) ∧
    (∀ a, (getSec m s).old = some a → a < 4 → Goes (.sakRetire m) s (fun t => (getSec m t).old = none ∧ slotValid (4 * m + a) t = false ∧
      (getSec m t).tx = (getSec m s).tx)) ∧
    ((getSec m s).old = none → exec (.sakRetire m) s = .next s)

/-- The timebase, PTP, capture units and triggers (R338, R339, R340, R341, R344, R346, R347, R349, R350, R352, R353, R354, R355): GO and
free start set it and number blocks; while audio runs it is never stepped and slews; sixteen residuals in LOCKTH lock a domain
and four beyond 1,000 ns unlock it; messages and edges are stamped; a trigger acts at its target and a periodic one moves on by
its period, past the present if it is late.
Readings and choices of the model in it: log entries 49 (DEDUCED), 81 (DEDUCED). -/
def Obligations.TimebaseStampsAndTriggersFollowTheirRules : Prop :=
  ∀ (p : Fin 8) (d : Fin 2) (r : Fin 6) (u x : Fin 32) (ns offset gm : BitVec 64) (frac residual : BitVec 32) (freq mpd : BitVec 24) (sub : BitVec 8)
    (rising egress : Bool) (latch : BitVec 66) (waiting : Fin 33) (verdict : Fin 9) (s : State),
    let counts (f : FRef) (t : State) : Prop := rd f s + 1 < 2 ^ 16 → rd f t = rd f s + 1
    let go := rd TB_SET_LO_NS s + rd TB_SET_HI_NS s * 2 ^ 32
    let set (v : Nat) (t : State) : Prop := t.ns.toNat = v ∧ t.frac = 0 ∧ tlValid t = true ∧ t.tl.k.toNat = blockAt v ∧ rd TB_STAT_STATE t = 1
    let st := rd (TB_DSTAT_STATE d) s
    let res := residual.toInt.natAbs
    let off := offset.toInt
    let sync := Goes (.ptpSync p d offset residual freq mpd gm) s
    let takes : Prop := rd (TB_DCFG_EN d) s = 1 ∧ portServes p d s = true ∧ portState p d s = 8
    let steers : Prop := takes ∧ st = 3 ∧ res ≤ 1000 ∧ rd TB_STAT_SEL s = d ∧ rd TB_CTL_PAIRFOL s = 0
    let stamps (t : State) := mapGet (fun _ => []) t.time.stamps (p.val * 2 + if egress then 1 else 0)
    let made := makeStamp p egress latch.toNat s
    let pps : Prop := rd TB_CTL_GMPPS s = 1 ∧ rd TB_CTL_PPSSRC s = r ∧ tlValid s = true ∧ portServes p d s = true ∧ portState p d s = 5
    let c := getCap u s
    let inst (t : State) : Nat := trgTarget x t * 2 ^ 32 + (getTrg x t).frac
    let due : Prop := rd (TRG_CFG_EN x) s = 1 ∧ (getTrg x s).fired = false ∧ trgTarget x s ≤ (runTo ns.toNat s).ns.toNat
    (tlRun s = true → Goes .tbSetGo s (fun t => rd TB_STAT_CFGERR t = 1 ∧ t.ns = s.ns ∧ t.tl = s.tl)) ∧
    (tlRun s = false → Goes .tbSetGo s (set go)) ∧
    (tlValid s = true → exec .freestartTimeout s = .next s) ∧
    (tlValid s = false → rd TB_CTL_FREESTART s = 1 → rd (PTP_PCFG_EN p) s = 1 → Goes .freestartTimeout s (fun t => set 0 t ∧ rd TB_RATE_Y t = 0)) ∧
    Goes (.tbNsLoRead ns frac) s (fun t => rd TB_NS_LO_NS t + rd TB_NS_HI_NS t * 2 ^ 32 = t.ns.toNat ∧ rd TB_FRAC_FRAC t = frac.toNat ∧
      (s.ns.toNat ≤ ns.toNat → blockAt ns.toNat = s.tl.k.toNat → t.ns = ns)) ∧
    (takes → sync (fun t => rd (TB_DFREQ_FREQ d) t = freq.toNat ∧ rd (TB_DGM_GM d 0) t + rd (TB_DGM_GM d 1) t * 2 ^ 32 = gm.toNat ∧
      (tlRun s = true → t.ns = s.ns) ∧
      (st = 3 → rd (TB_DSTAT_STATE d) t = if 1000 < res ∧ 3 ≤ (getDom d s).bad then 2 else 3) ∧
      (st ≠ 3 → rd (TB_DSTAT_STATE d) t = if res ≤ 10 * rd (TB_DCFG_LOCKTH d) s ∧ 15 ≤ (getDom d s).good then 3 else 2) ∧
      (st = 3 → 1000 < res → 3 ≤ (getDom d s).bad → roomAt 4 s → Logs 4 (0x8010 + d) 0 t))) ∧
    (steers → tlRun s = true → tlValid s = true → 1000 < off.natAbs → sync (fun t => rd TB_STAT_STATE t = 3 ∧
      (rd TB_STAT_FAR t = 1 ↔ 100000000 < off.natAbs) ∧
      rdI TB_RATE_Y t = max (-200000) (min 200000 freq.toInt) + (if off < 0 then -1 else 1) * (rd TB_CTL_SLEW s * 1000 : Int))) ∧
    (steers → tlRun s = false → rd TB_STEPTH_STEPTH s < off.natAbs → sync (fun t => t.ns = BitVec.ofNat 64 ((s.ns.toNat : Int) + off).toNat ∧
      tlValid t = true ∧ counts TB_CNT_STEP_COUNT t ∧ (roomAt 4 s → Logs 4 0x8040 0 t))) ∧
    (rd (TB_DCFG_EN d) s = 1 → Goes (.announceTimeout d) s (fun t => (∀ p, p < 8 → portState p d t ≠ 8) ∧
      (st = 3 → rd (TB_DSTAT_STATE d) t = 4 ∧ (roomAt 4 s → Logs 4 (0x8010 + d) 0 t)) ∧ (st = 2 → rd (TB_DSTAT_STATE d) t = 1))) ∧
    (rd TB_CTL_REVERT s = 1 → rd TB_CTL_PAIRFOL s = 0 → domLocked (rd TB_CTL_PREF s) s = true → Goes .domainWtrExpiry s (fun t =>
      rd TB_STAT_SEL t = rd TB_CTL_PREF s ∧ (rd TB_STAT_SEL s ≠ rd TB_CTL_PREF s → counts TB_CNT_SWITCH_COUNT t))) ∧
    (pps → ns.toNat % 1000000000 = 0 → 15 ≤ s.time.ppsGood → rd TB_STAT_STATE s ≠ 5 → Goes (.ppsEdge r ns) s (fun t =>
      rd TB_STAT_STATE t = 5 ∧ t.time.clockClass = 6)) ∧
    (pps → 1000 < ns.toNat % 1000000000 → ns.toNat % 1000000000 < 500000000 → 3 ≤ s.time.ppsBad → rd TB_STAT_STATE s = 5 →
      s.time.ppsOnce = true → Goes (.ppsEdge r ns) s (fun t => rd TB_STAT_STATE t = 4 ∧ t.time.clockClass = 7)) ∧
    (rd (PTP_PCFG_EN p) s = 1 →
      Goes (.ptpEventMessage p d egress latch waiting true verdict) s (fun t => stamps t = stamps s ∧ counts (PTP_PCNT_BADMSG_COUNT p) t) ∧
      Goes (.ptpEventMessage p d egress latch 32 false verdict) s (fun t => stamps t = stamps s ∧ counts (PTP_PCNT_TSERR_COUNT p) t) ∧
      (waiting.val < 32 → Goes (.ptpEventMessage p d egress latch waiting false verdict) s (fun t =>
        (stamps t).getLast? = some (BitVec.ofNat 64 (made / 4), BitVec.ofNat 2 made) ∧
        (portServes p d s = true → portState p d t = portVerdict p verdict.val s)))) ∧
    (rd (PTP_PCFG_MAC p) s = 12 → rd MG_STAT_SPEEDNOW s = 2 → rd (PTP_PADJ_IN p) s = 0 → egress = false → 192 ≤ latch.toNat →
      made = latch.toNat - 192) ∧
    (rd (CAP_CFG_EN u) s = 1 → capEdge u rising s = true →
      (c.edges < rd (CAP_CFG_DIV u) s → Goes (.captureEdge u rising ns sub) s (fun t => getCap u t = ⟨c.stamps, c.edges + 1, c.dropped⟩ ∧
        rd (CAP_CNT_EDGE_SEQUENCE u) t = rd (CAP_CNT_EDGE_SEQUENCE u) s)) ∧
      (rd (CAP_CFG_DIV u) s ≤ c.edges → Goes (.captureEdge u rising ns sub) s (fun t => (getCap u t).edges = 0 ∧
        rd (CAP_CNT_EDGE_SEQUENCE u) t = (rd (CAP_CNT_EDGE_SEQUENCE u) s + 1) % 2 ^ 16 ∧
        (c.stamps.length < 4 → (getCap u t).stamps = c.stamps ++ [(ns, sub &&& 0xC0)] ∧ rd (CAP_STAT_LEVEL u) t = c.stamps.length + 1) ∧
        (c.stamps = [] → rd (CAP_NS_LO_NS u) t + rd (CAP_NS_HI_NS u) t * 2 ^ 32 = ns.toNat) ∧
        (4 ≤ c.stamps.length → (getCap u t).stamps = c.stamps ∧ counts (CAP_CNT_OVF_COUNT u) t ∧
          (c.dropped = false → roomAt 4 s → Logs 4 (0x8200 + u) 0 t))))) ∧
    (rd (CAP_CFG_EN u) s = 0 ∨ capEdge u rising s = false → exec (.captureEdge u rising ns sub) s = .next s) ∧
    Goes (.capPop u) s (fun t => (getCap u t).stamps = c.stamps.drop 1 ∧ (c.stamps.length ≤ 4 → rd (CAP_STAT_LEVEL u) t = c.stamps.length - 1)) ∧
    (rd (TRG_CFG_EN x) s = 1 → exec (.triggerArm x) s = .next s) ∧
    (rd (TRG_CFG_EN x) s = 0 → Goes (.triggerArm x) s (fun t => rd (TRG_CFG_EN x) t = 1 ∧
      (s.ns.toNat ≤ trgTarget x s → (getTrg x t).fired = false ∧ t.time.irqs = s.time.irqs) ∧
      (trgTarget x s < s.ns.toNat → rd (TRG_STAT_LATE x) t = 1 ∧ counts (TRG_CNT_LATE_COUNT x) t ∧ (roomAt 4 s → Logs 4 (0x8300 + x) 0 t) ∧
        (rd (TRG_CFG_PERIODIC x) s = 0 → (getTrg x t).fired = true) ∧
        (rd (TRG_CFG_PERIODIC x) s = 1 → trgPeriod x s ≠ 0 → s.ns.toNat * 2 ^ 32 + trgPeriod x s + (getTrg x s).frac < 2 ^ 96 →
          s.ns.toNat * 2 ^ 32 < inst t)))) ∧
    (due → Goes (.triggerFire x ns) s (fun t => (rd (bitOf (TRG_CFG_ACT x) 0) s = 1 → x.val ∈ t.time.irqs) ∧
      (rd (bitOf (TRG_CFG_ACT x) 1) s = 1 → rd (TRG_CFG_OUT x) s < 5 → rd (CKO_CFG_MODE (rd (TRG_CFG_OUT x) s)) s = 1 →
        rd (CKO_STAT_RUN (rd (TRG_CFG_OUT x) s)) t = 1) ∧
      (rd (TRG_CFG_PERIODIC x) s = 0 → (getTrg x t).fired = true ∧ inst t = inst s) ∧
      (rd (TRG_CFG_PERIODIC x) s = 1 → trgPeriod x s ≠ 0 → (getTrg x t).fired = false ∧ inst t = (inst s + trgPeriod x s) % 2 ^ 96))) ∧
    (rd (TRG_CFG_EN x) s = 0 → Goes (.triggerFire x ns) s (fun t => t = runTo ns.toNat s))

/-- The DPLL and the clock outputs (R356, R357, R358, R359, R360, R361, R362, R363, R364): a candidate that may qualify does; without a
reference the best one is taken; a failed one gives way to the next or to HOLDOVER or LOST by the history; OPEN freezes the
states; an output's mode is structural; an output is aligned at its edge.
Readings and choices of the model in it: log entries 49 (DEDUCED). -/
def Obligations.DpllFollowsItsReferences : Prop :=
  ∀ (c : Fin 8) (ferr step : BitVec 24) (near miss : Bool) (v : BitVec 32) (o : Fin 6) (mode : Fin 4) (err : BitVec 16) (s : State),
    let counts (f : FRef) (t : State) : Prop := rd f s + 1 < 2 ^ 16 → rd f t = rd f s + 1
    let st (t : State) := rd DPLL_STAT_STATE t
    let opn : Prop := rd DPLL_STAT_OPEN s = 1
    let qual (t : State) := rd (bitOf DPLL_STAT_QUAL c) t
    let alone : Prop := rd DRN_CFG_EN s = 0 ∧ ∀ b, b < 8 → b ≠ c.val → qualified b s = false
    let takes (b : Nat) (t : State) : Prop := rd DPLL_STAT_SEL t = b ∧ st t = (if st s = dpLOCKED ∧ near = true then dpLOCKED else dpACQ)
    (mayQualify c s = true → Goes (.refQualify c ferr near step) s (fun t => qual t = 1 ∧ (c.val < 6 → rd (REF_STAT_QUAL c) t = 1) ∧
      (¬opn → st s ≠ dpACQ → st s ≠ dpLOCKED → alone → rd (DPLL_PRIO_PRI c) s ≠ 15 → takes c t) ∧
      (opn ∨ st s = dpACQ ∨ st s = dpLOCKED → st t = st s ∧ rd DPLL_STAT_SEL t = rd DPLL_STAT_SEL s))) ∧
    (mayQualify c s = false → Goes (.refQualify c ferr near step) s (fun t => qual t = qual s ∧
      (c.val < 6 → rd (REF_CFG_FREQ c) s ≠ 0 → (rd (REF_STAT_SLOWREF c) t = 1 ↔ rd (REF_CFG_FREQ c) s * 100 < 20 * loopBw s)))) ∧
    (c.val = 5 → rd DRN_CFG_LLINE s = 1 → mayQualify c s = false) ∧
    (qual s = 1 → c.val < 6 → Goes (.refDisqualify c miss ferr near step) s (fun t => qual t = 0 ∧ rdB (REF_STAT_MISS c) t = miss ∧
      counts (REF_CNT_DISQ_COUNT c) t ∧
      (¬opn → rd DPLL_STAT_SEL s = c → st s = dpACQ ∨ st s = dpLOCKED →
        (alone → rd DPLL_STAT_HIST s = 1 → st t = dpHOLD ∧ counts DPLL_CNT_HOLD_COUNT t ∧ (roomAt 5 s → Logs 5 0x8110 0 t)) ∧
        (alone → rd DPLL_STAT_HIST s = 0 → st t = dpLOST ∧ counts DPLL_CNT_HOLD_COUNT t ∧ (roomAt 5 s → Logs 5 0x8111 0 t)) ∧
        (∀ b, b < 8 → b ≠ c.val → rd DRN_CFG_EN s = 0 → qualified b s = true → rd (DPLL_PRIO_PRI b) s ≠ 15 →
          (∀ a, a < 8 → a ≠ c.val → a ≠ b → qualified a s = false) → takes b t ∧ (s.time.selected = true →
            counts DPLL_CNT_SWITCH_COUNT t ∧ (roomAt 5 s → Logs 5 (0x8100 + b) 0 t) ∧
            (1000 < step.toInt.natAbs → rd MXC_STEP_LAST t = step.toNat ∧ counts MXC_CNT_STEP_COUNT t)))))) ∧
    (qual s = 0 → exec (.refDisqualify c miss ferr near step) s = .next s) ∧
    (st s = dpACQ → ¬opn → Goes .dpllLock s (fun t => st t = dpLOCKED)) ∧
    (st s = dpLOCKED → ¬opn → Goes .dpllUnlock s (fun t => st t = dpACQ) ∧
      Goes .historyValid s (fun t => st t = dpLOCKED ∧ rd DPLL_STAT_HIST t = 1 ∧ 60 ≤ rd DPLL_LOCKT_LOCKT t)) ∧
    (opn → exec .dpllLock s = .next s ∧ exec .dpllUnlock s = .next s ∧ exec .historyValid s = .next s ∧ exec (.dpllRevert near step) s = .next s) ∧
    (¬opn → rd DPLL_CTL_REVERT s = 1 → st s = dpACQ ∨ st s = dpLOCKED → qual s = 1 → rd (DPLL_PRIO_PRI c) s ≠ 15 → rd DRN_CFG_EN s = 0 →
      (∀ b, b < 8 → b ≠ c.val → qualified b s = true → rd (DPLL_PRIO_PRI c) s < rd (DPLL_PRIO_PRI b) s) → rd DPLL_STAT_SEL s ≠ c →
      Goes (.dpllRevert near step) s (takes c)) ∧
    Goes (.dpllOpen true step) s (fun t => rd DPLL_STAT_OPEN t = 1 ∧ rd DPLL_CTL_OPEN t = 1 ∧ st t = st s) ∧
    (opn → qualified (rd DPLL_STAT_SEL s) s = true → Goes (.dpllOpen false step) s (fun t => rd DPLL_STAT_OPEN t = 0 ∧ st t = dpACQ ∧
      counts DPLL_CNT_SWITCH_COUNT t)) ∧
    (¬opn → Goes (.dpllFreqWrite v) s (fun t => rd DPLL_STAT_CFGERR t = 1 ∧ rd DPLL_FREQ_FREQ t = rd DPLL_FREQ_FREQ s)) ∧
    (opn → Goes (.dpllFreqWrite v) s (fun t => rdI DPLL_FREQ_FREQ t = max (-549755813) (min 549755813 v.toInt) ∧
      (549755813 < v.toInt.natAbs → rd DPLL_STAT_FCLAMP t = 1))) ∧
    (rd SG_CTL_RUN s = 1 → Goes (.ckoutModeWrite o mode) s (fun t => rd DPLL_STAT_CFGERR t = 1 ∧ rd (CKO_CFG_MODE o) t = rd (CKO_CFG_MODE o) s)) ∧
    (rd SG_CTL_RUN s = 0 → Goes (.ckoutModeWrite o mode) s (fun t => rd (CKO_CFG_MODE o) t = mode ∧
      (rd (CKO_STAT_RUN o) t = 1 ↔ (mode.val = 1 ∨ mode.val = 2) ∧ ¬(o.val = 5 ∧ rd DRN_CFG_LLINE s = 1)))) ∧
    Goes (.ckoAlignGo o) s (fun t => rd (CKO_ALIGN_GO o) t = 1) ∧
    (o.val < 5 → rd (CKO_STAT_RUN o) s = 1 → (rd (CKO_ALIGN_MODE o) s = 1 ∧ rd (CKO_ALIGN_GO o) s = 1) ∨ rd (CKO_ALIGN_MODE o) s = 2 →
      Goes (.ckoAlignEdge o err) s (fun t => rd (CKO_STAT_AERR o) t = err.toNat ∧ rd (CKO_ALIGN_GO o) t = 0 ∧
        (rd (CKO_ALIGN_MODE o) s = 1 ∨ err.toInt.natAbs ≤ 1 → rd (CKO_STAT_ALIGNED o) t = 1)))

/-- The serial lanes (R372, R373, R374, R375, R376, R377, R378, R379, R381, R382, R384, R385): bring-up runs its stages and
falls back as they say; training requests keep MAIN at 32 or more; a capability word passes, is refused and logged, or is
ignored; lost block lock, windows of errors, adaptation and eye scans count and end by their rules; and R386, R388, R389, R392:
a lane declared failed is FAILED and logged, and a spare takes its role.
Readings and choices of the model in it: log entries 52 (DEDUCED), 88 (DEDUCED). -/
def Obligations.LanesComeUpFailAndAreReplaced : Prop :=
  ∀ (n : Fin 16) (ok found settled : Bool) (word invalid : BitVec 32) (words : List (BitVec 64)) (ns payload errs : BitVec 64) (phase : BitVec 6)
    (voff : BitVec 7) (dwell : BitVec 4) (up : BitVec 5) (errors : BitVec 11) (s : State),
    let st (t : State) := lnState n t
    let x := getLane n s
    let counts (f : FRef) (t : State) : Prop := rd f s + 1 < 2 ^ 16 → rd f t = rd f s + 1
    let logs (code : Nat) (t : State) : Prop := roomAt (30 + n) s → Logs (30 + n) code 0 t
    let block (t : State) := rd (LN_STAT_BLOCK n) t
    let eth := lnEth n s = true
    let dr := lnDranan n s = true
    let afterDetect := if lnKr n s then (if rd (LN_CFG_AN n) s = 1 then lnAN else lnTRAIN) else lnLOCK
    let fresh := rd (bitOf LN_FAILED_FAILED n) s = 0 ∧ st s ≠ lnFAILED
    let failed (t : State) : Prop := st t = lnFAILED ∧ rd (bitOf LN_FAILED_FAILED n) t = 1 ∧ logs (0x9010 + n) t
    let auto := fresh ∧ rd (LN_CFG_AUTOSUB n) s = 1
    let mac := rd (LN_CFG_MAC n) s
    let w := word.toNat
    (eth → st s ≠ lnFAILED → Goes (.laneSignalSet n) s (fun t => rd (LN_STAT_SIG n) t = 1 ∧ block t = 0 ∧ st t = afterDetect) ∧
      Goes (.laneSignalLoss n) s (fun t => rd (LN_STAT_SIG n) t = 0 ∧ block t = 0 ∧ st t = lnDETECT ∧ (mac < 12 → rd (ETH_STAT_LINK mac) t = 0) ∧
        rdReg LN_FAILED_FAILED.addr t = rdReg LN_FAILED_FAILED.addr s)) ∧
    (¬eth → exec (.laneSignalSet n) s = .next s ∧ exec (.laneSignalLoss n) s = .next s) ∧
    (lnKr n s = true →
      (st s = lnAN → Goes (.krAutoneg n true) s (fun t => st t = lnTRAIN) ∧ exec (.krAutoneg n false) s = .next s) ∧
      (st s = lnTRAIN → Goes (.krAutoneg n true) s (fun t => st t = lnLOCK) ∧
        (x.fails ≠ 2 → Goes (.krAutoneg n false) s (fun t => counts (LN_CNT2_TRAINFAIL_COUNT n) t ∧ st t = afterDetect)))) ∧
    (dr → st s = lnDETECT →
      (x.probes = 3 → Goes (.detectProbe n true) s (fun t => st t = lnTRAIN)) ∧
      (x.probes ≠ 3 → Goes (.detectProbe n true) s (fun t => st t = lnDETECT ∧ (getLane n t).probes = x.probes + 1)) ∧
      Goes (.detectProbe n false) s (fun t => st t = lnDETECT ∧ (getLane n t).probes = 0) ∧
      Goes (.detectTimeout n) s (fun t => st t = lnDETECT ∧ (getLane n t).logged = true ∧ (x.logged = false → logs (0x9000 + n) t) ∧
        (x.logged = true → t.feu = s.feu))) ∧
    (dr → st s = lnTRAIN →
      (controlCrcOk w = false → Goes (.trainingFrame n word settled) s (fun t => st t = lnTRAIN ∧ (getLane n t).run = 0 ∧
        rdReg (LN_TXEQ_PRE n).addr t = rdReg (LN_TXEQ_PRE n).addr s)) ∧
      (controlCrcOk w = true → Goes (.trainingFrame n word settled) s (fun t =>
        (rd (LN_TXEQ_FIXED n) s = 0 → rd (LN_TXEQ_PRE n) s + rd (LN_TXEQ_POST n) s ≤ 32 → rd (LN_TXEQ_PRE n) t + rd (LN_TXEQ_POST n) t ≤ 32 ∧
          (w / 16 % 2 = 1 → rd (LN_TXEQ_PRE n) t = 0 ∧ rd (LN_TXEQ_POST n) t = 0) ∧
          (w / 16 % 4 = 2 → rd (LN_TXEQ_PRE n) t = 2 ∧ rd (LN_TXEQ_POST n) t = 6)) ∧
        (w / 1024 % 2 = 1 → x.ready = true → 15 ≤ x.run → st t = lnLOCK))) ∧
      (x.fails ≠ 2 → Goes (.trainTimeout n) s (fun t => st t = lnDETECT ∧ (getLane n t).fails = x.fails + 1 ∧
        counts (LN_CNT2_TRAINFAIL_COUNT n) t)) ∧
      (x.fails = 2 → x.term = true → auto → Goes (.trainTimeout n) s failed)) ∧
    (st s = lnLOCK →
      (eth → Goes (.blockLockAcquired n) s (fun t => st t = lnACTIVE ∧ block t = 1 ∧ rd (bitOf LN_FAILED_FAILED n) t = 0 ∧
        (mac < 12 → rd (ETH_STAT_LINK mac) t = 1)) ∧ Goes (.lockTimeout n) s (fun t => st t = afterDetect)) ∧
      (dr → Goes (.blockLockAcquired n) s (fun t => st t = lnEXCHANGE ∧ block t = 1) ∧ Goes (.lockTimeout n) s (fun t => st t = lnTRAIN))) ∧
    (st s = lnEXCHANGE →
      Goes (.capabilitySend n) s (fun t => let c := (getLane n t).capOut
        c.length = 9 ∧ capField c 56 8 = 1 ∧ capField c 12 4 = 4 ∧ capField c 6 4 = n ∧ capField c 16 16 = rd DRN_PAIRID_PAIRID s ∧
        capDevice c = deviceId s) ∧
      Goes (.exchangeTimeout n) s (fun t => st t = lnLOCK ∧ block t = 0 ∧ (rd (LN_ESCAN_GO n) s = 1 → rd (LN_ESCAN_GO n) t = 0 ∧
        rd (LN_ESCAN_DONE n) t = 1 ∧ rd (LN_ESCERR_ERRS n) t = 0xFFFFFFFF ∧ rd (LN_STAT_ESCERR n) t = 1)) ∧
      (words.length = 9 → words[8]? = some (BitVec.ofNat 64 (crc32Words (words.take 8) * 2 ^ 32)) →
        (capAccepted n (words.take 8) s = false → Goes (.capabilityWord n words) s (fun t => st t = lnEXCHANGE ∧ logs (0x9040 + n) t)) ∧
        (capAccepted n (words.take 8) s = true →
          (capPairs (words.take 8) s = false → Goes (.capabilityWord n words) s (fun t => st t = lnEXCHANGE ∧ (roomAt 29 s → Logs 29 0x7010 0 t))) ∧
          (capPairs (words.take 8) s = true → x.cap = [] → Goes (.capabilityWord n words) s (fun t => st t = lnEXCHANGE ∧
            (getLane n t).cap = words.take 8 ∧ (getLane n t).got = true)) ∧
          (capPairs (words.take 8) s = true → x.cap = words.take 8 → capField words 5 1 = 1 →
            (lnMode n s = 7 → Goes (.capabilityWord n words) s (fun t => st t = lnSTANDBY)) ∧
            (lnMode n s = 6 → (∃ l, l < 4 ∧ drLane l s ≠ n.val ∧ lnState (drLane l s) s ≠ lnACTIVE) →
              Goes (.capabilityWord n words) s (fun t => st t = lnACTIVE)))))) ∧
    (st s = lnACTIVE → block s = 0 →
      Goes (.blockLockAcquired n) s (fun t => st t = lnACTIVE ∧ block t = 1 ∧ (getLane n t).lossAt = none) ∧
      (¬eth → Goes (.relockTimeout n) s (fun t => st t = lnTRAIN))) ∧
    (st s = lnACTIVE → block s = 1 → let recent := (x.losses.filter fun t => Nat.blt ns.toNat (t + 1000000000)).length
      (recent < 2 → Goes (.blockLockLoss n ns) s (fun t => st t = lnACTIVE ∧ block t = 0 ∧ counts (LN_CNT_LOCKLOSS_COUNT n) t ∧
        (¬eth → (getLane n t).lossAt = some s.tl.k.toNat))) ∧
      (2 ≤ recent → auto → Goes (.blockLockLoss n ns) s (fun t => st t = lnFAILED ∧ rd (bitOf LN_FAILED_FAILED n) t = 1))) ∧
    (st s = lnACTIVE → lnMode n s ≠ 1 → let limit := if lnMode n s = 2 ∨ lnMode n s = 4 then 16 else 97
      (invalid.toNat < limit → Goes (.hiberWindow n invalid) s (fun t => rd (LN_STAT_HIBER n) t = 0 ∧ (getLane n t).hiberRun = 0)) ∧
      (limit ≤ invalid.toNat → x.hiberRun < 2 → Goes (.hiberWindow n invalid) s (fun t => rd (LN_STAT_HIBER n) t = 1 ∧
        counts (LN_CNT_HBER_COUNT n) t ∧ (getLane n t).hiberRun = x.hiberRun + 1)) ∧
      (limit ≤ invalid.toNat → 2 ≤ x.hiberRun → auto → Goes (.hiberWindow n invalid) s failed)) ∧
    (fresh → Goes (.lnCtlFail n) s (fun t => st t = lnFAILED ∧ rd (bitOf LN_FAILED_FAILED n) t = 1)) ∧
    (st s = lnFAILED → exec (.lnCtlFail n) s = .next s) ∧
    (rd (bitOf LN_FAILED_FAILED n) s = 0 → exec (.lnCtlClear n) s = .next s) ∧
    (∀ m, rd (bitOf LN_FAILED_FAILED n) s = 1 → replacedBy n s = some m → Goes (.lnCtlClear n) s (fun t => lnMode n t = 7 ∧
      rd (LN_STAT_ROLEOF n) t = n ∧ rd (LN_SPCFG_FOR n) t = rd (LN_SPCFG_FOR m) s ∧ rd (bitOf LN_FAILED_FAILED n) t = 0 ∧
      rd (LN_STAT_ROLEOF m) t = n)) ∧
    (st s = lnFAILED → (replacedBy n s).isSome → exec (.lnCtlRestart n) s = .next s ∧ exec (.laneRetryBringup n) s = .next s) ∧
    (dr → st s ≠ lnFAILED → Goes (.lnCtlRestart n) s (fun t => st t = lnDETECT ∧ block t = 0)) ∧
    (dr → st s = lnFAILED → replacedBy n s = none → Goes (.laneRetryBringup n) s (fun t => st t = lnDETECT)) ∧
    Goes (.lnCtlPreset n) s (fun t => (getLane n t).preset = true ∧ t.regs = s.regs) ∧
    (st s = lnSTANDBY → swapCrcOk payload = true → let p := payload.toNat
      let blk := (widen 32 (p / 2 ^ 8 % 2 ^ 32) s.tl.k.toNat).toNat
      (x.swap = none → p / 2 ^ 46 % 2 = 0 → Goes (.swapBlock n payload) s (fun t =>
        (getLane n t).swap = some ⟨blk, p / 2 ^ 40 % 4, p / 2 ^ 42 % 16, false, true, false⟩)) ∧
      (∀ q, x.swap = some q → q.mine = true → q.ll = p / 2 ^ 40 % 4 → q.block = blk → p / 2 ^ 46 % 2 = 1 → Goes (.swapBlock n payload) s (fun t =>
        (getLane n t).swap = some { q with acked := true }))) ∧
    (st s ≠ lnSTANDBY ∨ swapCrcOk payload = false → exec (.swapBlock n payload) s = .next s) ∧
    (∀ q, x.swap = some q → (s.tl.k.toNat < q.block → exec (.swapBlockDue n) s = .next s) ∧
      (q.block ≤ s.tl.k.toNat → q.theirs = true ∨ q.acked = true → q.src < 16 → q.src ≠ n.val → q.ll < 4 → Goes (.swapBlockDue n) s (fun t =>
        st t = lnACTIVE ∧ rd (LN_STAT_ROLEOF n) t = q.src ∧ rd (LN_STAT_LLANE n) t = q.ll ∧ (getFramer n t).state = 0 ∧ (getLane n t).swap = none ∧
        counts (LN_CNT2_SUB_COUNT n) t ∧ counts (LN_CNT2_SUB_COUNT q.src) t ∧ (roomAt (30 + q.src) s → Logs (30 + q.src) (0x9020 + q.src) 0 t)))) ∧
    (4 ≤ st s → st s ≠ lnFAILED → Goes (.dfeAdapt n up errors) s (fun t =>
      (rd (LN_RXEQ_FREEZE n) s = 0 → ∀ i, i < 5 → rdI (LN_DFE_TAP n i) t = clampTo 6 (rdI (LN_DFE_TAP n i) s + if up.getLsbD i then 1 else -1)) ∧
      (rd (LN_RXEQ_FREEZE n) s = 1 → ∀ i, i < 5 → rd (LN_DFE_TAP n i) t = rd (LN_DFE_TAP n i) s) ∧
      (st s = lnTEST → rd (LN_TESTERR_ERRS n) t = min (rd (LN_TESTERR_ERRS n) s + errors.toNat) 0xFFFFFFFF))) ∧
    (rd (LN_ESCAN_GO n) s = 1 ∨ voff = 64 → Goes (.eyeScanGo n phase voff dwell) s (fun t => rd (LN_STAT_ESCERR n) t = 1 ∧
      rd (LN_ESCAN_GO n) t = rd (LN_ESCAN_GO n) s)) ∧
    (rd (LN_ESCAN_GO n) s = 0 → voff ≠ 64 → Goes (.eyeScanGo n phase voff dwell) s (fun t => rd (LN_ESCAN_GO n) t = 1 ∧ rd (LN_ESCAN_DONE n) t = 0 ∧
      rd (LN_ESCAN_PHASE n) t = phase.toNat ∧ rd (LN_ESCAN_VOFF n) t = voff.toNat ∧ rd (LN_ESCAN_DWELL n) t = dwell.toNat)) ∧
    (rd (LN_ESCAN_GO n) s = 1 → Goes (.eyeScanDone n errs) s (fun t => rd (LN_ESCAN_GO n) t = 0 ∧ rd (LN_ESCAN_DONE n) t = 1 ∧
      rd (LN_ESCERR_ERRS n) t = min errs.toNat 0xFFFFFFFF))

/-- The Ethernet MACs (R398, R399, R400, R402, R403, R406, R408, R409, R422, R423, R425): frames that fail a check are dropped and counted;
PAUSE stops and resumes the transmitter; a control frame is kept whole or not at all; queued frames leave in their order, not
before their instant and not after the tolerance; a MAC that goes down flushes its audio frames.
Readings and choices of the model in it: log entries 50 (DESIGN CHOICE), 51 (DEDUCED). -/
def Obligations.MacsReceiveLaunchAndFlush : Prop :=
  ∀ (m : Fin 13) (f : RxFrame) (pri : Fin 8) (cf : CtlFrame) (credit : BitVec 8) (ns : BitVec 64) (speed : Fin 3) (time : BitVec 16) (on : Bool) (s : State),
    let counts (r : FRef) (t : State) : Prop := rd r s + 1 < 2 ^ 16 → rd r t = rd r s + 1
    let x := getMac m s
    let up : Prop := rd (ETH_STAT_LINK m) s = 1
    let plain : Prop := m.val = 12 ∨ rd (MS_CFG_EN m) s = 0
    let sound : Prop := rd (ETH_CFG_EN m) s = 1 ∧ up ∧ f.fcsOk = true ∧ 64 ≤ f.bytes.toNat ∧ f.bytes.toNat ≤ rd (ETH_CFG_MAXLEN m) s
    let rx := Goes (.frameReceive m f) s
    let mine := rd (ETH_ADDR_HI_ADDR m) s * 2 ^ 32 + rd (ETH_ADDR_LO_ADDR m) s
    let held := x.rxCtl.drop (x.rxCtl.length - f.waiting.toNat)
    let txSeq (t : State) := rd (ETH_TXSEQ_TXFRAME_SEQUENCE m) t
    let ready := x.audio.filter fun g => Nat.ble g.launch ns.toNat && Nat.ble ns.toNat (g.launch + launchTol m s) && !stopped m g.tc s
    let gone := x.audio.filter fun g => Nat.blt (g.launch + launchTol m s) ns.toNat
    let old (e : Nat × CtlFrame) : Bool := Nat.ble (max e.1 x.downAt + 8000000) ns.toNat
    (rd (ETH_CFG_EN m) s = 0 ∨ rd (ETH_STAT_LINK m) s = 0 → exec (.frameReceive m f) s = .next s) ∧
    (rd (ETH_CFG_EN m) s = 1 → up → (∀ b, f.payload ≠ .lpi b) →
      (f.fcsOk = false → rx (fun t => t.eth = s.eth ∧ counts (ETH_CNT_FCS_COUNT m) t)) ∧
      (f.fcsOk = true → f.bytes.toNat < 64 ∨ rd (ETH_CFG_MAXLEN m) s < f.bytes.toNat → rx (fun t => t.eth = s.eth ∧ counts (ETH_CNT4_LEN_COUNT m) t))) ∧
    (rd (ETH_CFG_EN m) s = 1 → up → f.payload = .lpi on → lpiMode m s = true → rx (fun t => rdB (ETH_STAT_LPIRX m) t = on)) ∧
    (sound → m.val < 12 → rd (MS_CFG_EN m) s = 1 → rd (MS_CFG_VALIDATE m) s = 2 → f.sec = none → f.payload = .other →
      rx (fun t => t.eth = s.eth ∧ counts (MS_CNT2_NOSA_COUNT m) t ∧ rd (ETH_RXSEQ_RXFRAME_SEQUENCE m) t = rd (ETH_RXSEQ_RXFRAME_SEQUENCE m) s)) ∧
    (sound → plain →
      (vlanOk m f s = false → (∀ b, f.payload ≠ .lpi b) → rx (fun t => t.eth = s.eth ∧ counts (ETH_CNT5_UNMATCHED_COUNT m) t)) ∧
      (vlanOk m f s = true →
        (f.payload = .pause time → rx (fun t => counts (ETH_CNT3_PAUSE_COUNT m) t ∧
          rd (ETH_RXSEQ_RXFRAME_SEQUENCE m) t = (rd (ETH_RXSEQ_RXFRAME_SEQUENCE m) s + 1) % 2 ^ (ETH_RXSEQ_RXFRAME_SEQUENCE m).w ∧
          (getMac m t).stopAll = (if rd (ETH_FC_RXPAUSE m) s = 1 then time != 0 else x.stopAll) ∧
          (rd (ETH_FC_RXPAUSE m) s = 1 → time ≠ 0 → ∀ c, c < 8 → rd (bitOf (ETH_FC_PAUSED m) c) t = 1))) ∧
        (f.payload = .other → f.dst.toNat ≠ mine → f.dst.toNat ≠ 2 ^ 48 - 1 → rx (fun t => t.eth = s.eth ∧ counts (ETH_CNT5_UNMATCHED_COUNT m) t)) ∧
        (f.payload = .other → f.dst.toNat = mine ∨ f.dst.toNat = 2 ^ 48 - 1 →
          (held.sum + f.bytes.toNat ≤ 32768 → rx (fun t => (getMac m t).rxCtl = held ++ [f.bytes.toNat])) ∧
          (32768 < held.sum + f.bytes.toNat → rx (fun t => t.eth = s.eth ∧ counts (ETH_CNT_RXOVF_COUNT m) t))))) ∧
    Goes (.pauseExpiry m none) s (fun t => (getMac m t).stopAll = false ∧ (getMac m t).stopPfc = x.stopPfc ∧
      ∀ c, c < 8 → rdB (bitOf (ETH_FC_PAUSED m) c) t = stopped m c t) ∧
    Goes (.pauseExpiry m (some pri)) s (fun t => (getMac m t).stopAll = x.stopAll ∧ (getMac m t).stopPfc = x.stopPfc.filter (· != pri.val) ∧
      ∀ c, c < 8 → rdB (bitOf (ETH_FC_PAUSED m) c) t = stopped m c t) ∧
    (∀ l g, firstFrame l = some g → g ∈ l ∧ ∀ h ∈ l, h.tc ≤ g.tc ∧ (h.tc = g.tc → g.launch ≤ h.launch ∧ (h.launch = g.launch → g.entry ≤ h.entry))) ∧
    (∀ g, up → firstFrame ready = some g →
      (g.shared = true → isHolder s = false → Goes (.frameLaunch m ns) s (fun t => (getMac m t).audio = x.audio.erase g ∧ txSeq t = txSeq s)) ∧
      (g.shared = false ∨ isHolder s = true → plain → g.entry < 512 → Goes (.frameLaunch m ns) s (fun t => (getMac m t).audio = x.audio.erase g ∧
        (getMac m t).sent = some g ∧ txSeq t = (txSeq s + 1) % 2 ^ (ETH_TXSEQ_TXFRAME_SEQUENCE m).w ∧
        rd (SOUT_SEQ_TX_SEQUENCE g.entry) t = (rd (SOUT_SEQ_TX_SEQUENCE g.entry) s + 1) % 2 ^ (SOUT_SEQ_TX_SEQUENCE g.entry).w))) ∧
    (ready = [] → exec (.frameLaunch m ns) s = .next s) ∧
    Goes (.launchDeadlineDrop m ns) s (fun t => (getMac m t).audio = x.audio.filter (fun g => Nat.ble ns.toNat (g.launch + launchTol m s)) ∧
      (∀ g, gone = [g] → counts (ETH_CNT2_LAUNCHDROP_COUNT m) t ∧ (g.entry < 512 → counts (SOUT_CNT_DROP_COUNT g.entry) t))) ∧
    (rd (ETH_TCCFG_LT m cf.tc.val) s = 0 → ¬up → Goes (.controlFrameSend m (some cf) credit ns) s (fun t =>
      (getMac m t).ctl = x.ctl ++ [(ns.toNat, cf)] ∧ txSeq t = txSeq s)) ∧
    (rd (ETH_TCCFG_LT m cf.tc.val) s = 0 → up → x.ctl = [] → plain → stopped m cf.tc.val s = false → rd (ETH_TCCFG_CBS m cf.tc.val) s = 0 →
      (x.audio = [] → Goes (.controlFrameSend m (some cf) credit ns) s (fun t => (getMac m t).ctl = [] ∧
        txSeq t = (txSeq s + 1) % 2 ^ (ETH_TXSEQ_TXFRAME_SEQUENCE m).w)) ∧
      (fitsBefore m (ctlBytes m cf s) ns.toNat s = false → Goes (.controlFrameSend m (some cf) credit ns) s (fun t =>
        (getMac m t).ctl = [(ns.toNat, cf)] ∧ txSeq t = txSeq s))) ∧
    (up → Goes (.linkDown m) s (fun t => rd (ETH_STAT_LINK m) t = 0 ∧ rd (ETH_STAT_LPITX m) t = 0 ∧ (getMac m t).audio = [] ∧
      (getMac m t).ctl = x.ctl ∧ (getMac m t).downAt = s.ns.toNat ∧ (roomAt (macIsl m) s → Logs (macIsl m) (0xA000 + m) 0 t) ∧
      (rd (ETH_CNT2_FLUSH_COUNT m) s + x.audio.length < 2 ^ 16 → rd (ETH_CNT2_FLUSH_COUNT m) t = rd (ETH_CNT2_FLUSH_COUNT m) s + x.audio.length) ∧
      ∀ p d, p < 8 → d < 2 → portServes p d s = true → rd (PTP_PCFG_MAC p) s = m → portState p d t = 1)) ∧
    (¬up → m.val < 12 → exec (.linkDown m) s = .next s) ∧
    (¬up → m.val < 12 → laneUp m s = true → Goes (.linkUp m speed false) s (fun t => rd (ETH_STAT_LINK m) t = 1 ∧
      (roomAt (macIsl m) s → Logs (macIsl m) (0xA010 + m) 0 t))) ∧
    Goes (.linkUp 12 speed true) s (fun t => rd (ETH_STAT_LINK 12) t = 0 ∧ rd MG_STAT_FDERR t = 1) ∧
    Goes (.linkUp 12 speed false) s (fun t => rd (ETH_STAT_LINK 12) t = 1 ∧ (rd MG_CFG_SPEED s = 3 → rd MG_STAT_SPEEDNOW t = speed)) ∧
    (¬up → Goes (.controlFrameTimeout m ns) s (fun t => (getMac m t).ctl = x.ctl.filter (fun e => !old e) ∧
      (rd (ETH_CNT3_CTLDROP_COUNT m) s + (x.ctl.filter old).length < 2 ^ 16 →
        rd (ETH_CNT3_CTLDROP_COUNT m) t = rd (ETH_CNT3_CTLDROP_COUNT m) s + (x.ctl.filter old).length))) ∧
    (up → exec (.controlFrameTimeout m ns) s = .next s) ∧
    (inQuiet s = true → rd (ETH_EEE_EN m) s = 1 → rd (ETH_EEE_TWTX m) s ≠ 0 → x.audio = [] → x.ctl = [] → lpiMode m s = true → up →
      Goes (.lpiEnter m) s (fun t => rd (ETH_STAT_LPITX m) t = 1)) ∧
    (inQuiet s = false ∨ x.audio ≠ [] ∨ rd (ETH_EEE_TWTX m) s = 0 → exec (.lpiEnter m) s = .next s)

/-- The media streams (R399, R400, R412, R413, R415, R416, R417, R418, R419, R420, R421): a commit puts a legal shadow in force and one that
is not sets CFGERR; a matched frame makes its entry LIVE, one of the wrong form is counted; an entry ages to STALE; a window
closes once per block; a one-block packet has the number, the instant and the sequence of its data block.
Readings and choices of the model in it: log entries 50 (DESIGN CHOICE), 51 (DEDUCED). -/
def Obligations.StreamsCommitPlaceAgeAndBuild : Prop :=
  ∀ (i : Fin 512) (m : Fin 12) (f : RxFrame) (b : Bool) (s : State),
    let counts (r : FRef) (t : State) : Prop := rd r s + 1 < 2 ^ 16 → rd r t = rd r s + 1
    let st (t : State) := rd (SIN_STAT_STATE i) t
    let k := s.tl.k.toNat
    let q := getSin i s
    let media := q.words
    let mac := soutNow i (SOUT_CFG_MAC i) s
    let matched : Prop := rd (ETH_CFG_EN m) s = 1 ∧ rd (ETH_STAT_LINK m) s = 1 ∧ f.fcsOk = true ∧ 64 ≤ f.bytes.toNat ∧
      f.bytes.toNat ≤ rd (ETH_CFG_MAXLEN m) s ∧ rd (MS_CFG_EN m) s = 0 ∧ vlanOk m f s = true ∧ rxMatches m f s = [(i.val, false)] ∧
      f.begun = [] ∧ ((getMac m s).rxMedia.drop ((getMac m s).rxMedia.length - f.waiting.toNat)).sum + f.bytes.toNat ≤ 229376
    let builds : Prop := soutNow i (SOUT_CFG_EN i) s = 1 ∧ tlRun s = true ∧ 2 ≤ k ∧ inQuiet s = false ∧ soutNow i (SOUT_FMT_PTIME i) s = 0 ∧
      soutNow i (SOUT_CFG_FMT i) s = 0
    (sinLegal i s = true → Goes (.sinCommit i) s (fun t => (getSin i t).words = shadowWords (sinAddr i) s ∧ rd (SIN_STAT_PEND i) t = 0 ∧
      (sinRematch media (shadowWords (sinAddr i) s) i = true → st t = (if rd (SIN_CFG_EN i) s = 1 then 1 else 0) ∧ (getSin i t).newest = none ∧
        (getSin i t).store = []) ∧
      (sinRematch media (shadowWords (sinAddr i) s) i = false → st t = st s ∧ (getSin i t).store = q.store))) ∧
    (sinLegal i s = false → Goes (.sinCommit i) s (fun t => rd ST_STAT_CFGERR t = 1 ∧ t.eth = s.eth)) ∧
    (soutLegal i s = true → Goes (.soutCommit i) s (fun t => mapGet (fun _ => []) t.eth.souts i = shadowWords (soutAddr i) s ∧
      rd (SOUT_STAT_PEND i) t = 0 ∧ (rd (SOUT_CFG_EN i) s = 0 → rd (SOUT_STAT_STATE i) t = 0))) ∧
    (soutLegal i s = false → Goes (.soutCommit i) s (fun t => rd ST_STAT_CFGERR t = 1 ∧ t.eth = s.eth)) ∧
    (matched →
      (rxSamples media i f.payload s = none → Goes (.frameReceive (m.castSucc) f) s (fun t => st t = st s ∧ counts (ETH_CNT4_BADFMT_COUNT m) t ∧
        (getSin i t).store = q.store)) ∧
      (∀ xs, rxSamples media i f.payload s = some xs → sinField media i (SIN_CFG_MERGE i) = 0 → Goes (.frameReceive (m.castSucc) f) s (fun t =>
        st t = 2 ∧ rd (SIN_STAT_LEGA i) t = 1 ∧
        rd (SIN_SEQ_RXA_SEQUENCE i) t = (rd (SIN_SEQ_RXA_SEQUENCE i) s + 1) % 2 ^ (SIN_SEQ_RXA_SEQUENCE i).w))) ∧
    (st s = 1 ∨ st s = 2 → Goes (.streamAgeExpiry i) s (fun t => st t = 3 ∧ (getSin i t).store = [] ∧ counts (SIN_CNT2_STALE_COUNT i) t ∧
      (roomAt 58 s → Logs 58 (0xA200 + i) 0 t))) ∧
    (st s = 0 ∨ st s = 3 → exec (.streamAgeExpiry i) s = .next s) ∧
    (sinNow i (SIN_CFG_MERGE i) s = 1 → rd (if b then SIN_STAT_LEGB i else SIN_STAT_LEGA i) s = 1 → Goes (.legAgeExpiry i b) s (fun t =>
      rd (if b then SIN_STAT_LEGB i else SIN_STAT_LEGA i) t = 0 ∧ st t = st s ∧ (roomAt 58 s → Logs 58 (0xA400 + i) 0 t))) ∧
    (sinNow i (SIN_CFG_MERGE i) s = 0 → exec (.legAgeExpiry i b) s = .next s) ∧
    (tlValid s = true → s.eth.closed < k → Goes .ingressWindowClose s (fun t => t.eth.closed = k ∧
      (sinEntries s = [i.val] → st s = 2 → (∀ e ∈ (getSin i t).store, k ≤ e.1 / 512) ∧
        (∀ j, q.first = some j → j ≤ k - 1 → sinNow i (SIN_FMT_NCH i) s ≠ 0 → q.store = [] → 0 < s.nS → counts (SIN_CNT_LOST_COUNT i) t)))) ∧
    (k ≤ s.eth.closed → exec .ingressWindowClose s = .next s) ∧
    (soutNow i (SOUT_CFG_EN i) s = 0 → exec (.egressPacketBuild i) s = .next s) ∧
    (builds → rd (ETH_STAT_LINK mac) s = 1 → Goes (.egressPacketBuild i) s (fun t => ∃ g, (getMac mac t).audio = (getMac mac s).audio ++ [g] ∧
      g.entry = i.val ∧ g.block = k - 2 ∧ g.seq = (k - 2) % 256 ∧ g.launch = blockStart k + soutNow i (SOUT_FMT_LAUNCH i) s ∧
      g.samples.length = s.nS * soutNow i (SOUT_FMT_NCH i) s)) ∧
    (builds → rd (ETH_STAT_LINK mac) s = 0 → Goes (.egressPacketBuild i) s (fun t => (getMac mac t).audio = (getMac mac s).audio ∧
      counts (ETH_CNT2_FLUSH_COUNT mac) t))

/-- The field bus and the TDM ports (R430, R431, R432, R434, R436, R437, R442, R444, R445, R446, R447, R449): a report that passes its checks is
written whole and one that fails is counted; a frame backs off and is dropped at its sixteenth collision; a port runs after four
good frames, leaves RUN on an error, fades once per episode, and recovers after sixteen good frames.
Readings and choices of the model in it: log entries 40 (DEDUCED), 53 (DEDUCED). -/
def Obligations.ReportsAreCheckedAndTdmPortsRecover : Prop :=
  ∀ (p : Fin 4) (q : Fin 32) (n : Fin 63) (dst : BitVec 48) (bytes : List (BitVec 8)) (ns : BitVec 64) (waiting counted fsw : BitVec 12) (len : BitVec 11)
    (edge : Bool) (slots : List (BitVec 24)) (s : State),
    let counts (r : FRef) (t : State) : Prop := rd r s + 1 < 2 ^ 16 → rd r t = rd r s + 1
    let here : Prop := rd (FB_CFG_EN p) s = 1 ∧ fbForMe p dst s = true
    let be (i w : Nat) := bigEnd bytes i w
    let c := be 1 1
    let ident := rd (CAB_IDENT_LO_IDENT c) s + rd (CAB_IDENT_HI_IDENT c) s * 2 ^ 32
    let bound : Prop := be 0 1 = 1 ∧ c ≤ 62 ∧ rd (CAB_BIND_EN c) s = 1 ∧ rd (CAB_BIND_PORT c) s = p ∧ (ident = 0 ∨ be 4 8 = ident)
    let order := serialCmp 16 (be 2 2) (rd (CAB_SEQ_SEQ c) s)
    let isNew : Prop := c ∉ s.fb.seen ∨ ∃ d, order = .later d
    let recent := ((mapGet (fun _ => []) s.fb.times c).filter fun t => Nat.blt ns.toNat (t + 1000000000)).length
    let report := Goes (.cabinetReport p dst bytes ns) s
    let bad (t : State) : Prop := t.fb = s.fb ∧ counts (FB_CNT2_BADRPT_COUNT p) t
    let tamb := toSigned 16 (be 12 2)
    let go (t : State) := rd (FB_TXCTL_GO p) t
    let tries (t : State) := mapGet (fun _ => 0) t.fb.attempts p.val
    let l := mapGet (fun _ => []) s.fb.rx p.val
    let held := l.drop (l.length - waiting.toNat)
    let st (t : State) := tdState q t
    let gain (t : State) := rd (TDM_STAT_GAIN q) t
    let fault (t : State) := rd (TDM_STAT_FAULT q) t
    let x := getTdm q s
    let ok : Prop := edge = true ∧ counted.toNat = bpf q s ∧ (rd (TDM_FS_FSW q) s = 0 ∨ rd (TDM_FS_FSW q) s = fsw.toNat)
    let frame := Goes (.tdmFrame q counted edge fsw slots ns) s
    let faulted (detail : Nat) (t : State) : Prop := fault t = 1 ∧ rd (TDM_MEAS_GOOD q) t = 0 ∧
      (fault s = 0 → gain t = 1 ∧ (roomAt (61 + q) s → Logs (61 + q) (0xA000 + detail + q) 0 t))
    (here → bound → isNew → recent < 100 → report (fun t => rd (CAB_SEQ_SEQ c) t = be 2 2 ∧ rd (CAB_SEQ_FLAGS c) t = be 24 2 ∧
      rd (CAB_TEMP_TAMB c) t = be 12 2 ∧ rd (CAB_TEMP_TSINK c) t = be 14 2 ∧ rd (CAB_TILT_PITCH c) t = be 16 2 ∧
      rd (CAB_TILT_ROLL c) t = be 18 2 ∧ rd (CAB_FAN_FAN0 c) t = be 20 2 ∧ rd (CAB_FAN_FAN1 c) t = be 22 2 ∧
      rd (FB_SEQ_REPORT_SEQUENCE p) t = (rd (FB_SEQ_REPORT_SEQUENCE p) s + 1) % 2 ^ 32 ∧ c ∈ t.fb.seen ∧
      (be 24 2 % 2 = 1 → -400 ≤ tamb → tamb ≤ 1250 → rd (CAB_AGE_AGE c) t = 0 ∧ mapGet (fun _ => 0) t.rook.ta c = tamb) ∧
      (be 24 2 % 2 = 0 ∨ tamb < -400 ∨ 1250 < tamb → rd (CAB_AGE_AGE c) t = rd (CAB_AGE_AGE c) s ∧ t.rook = s.rook))) ∧
    (here → bound → isNew → 100 ≤ recent → report bad) ∧ (here → ¬bound → report bad) ∧
    (here → bound → c ∈ s.fb.seen → order = .outOfWindow → report bad) ∧
    (c ∈ s.fb.seen → bound → order = .equal ∨ (∃ d, order = .earlier d) → exec (.cabinetReport p dst bytes ns) s = .next s) ∧
    (¬here → exec (.cabinetReport p dst bytes ns) s = .next s ∧ exec (.fbFrameReceive p dst bytes waiting) s = .next s) ∧
    (here → (held.map List.length).sum + bytes.length ≤ 16384 → Goes (.fbFrameReceive p dst bytes waiting) s (fun t =>
      mapGet (fun _ => []) t.fb.rx p.val = held ++ [bytes])) ∧
    (here → 16384 < (held.map List.length).sum + bytes.length → Goes (.fbFrameReceive p dst bytes waiting) s (fun t =>
      t.fb = s.fb ∧ counts (FB_CNT2_RXOVF_COUNT p) t)) ∧
    (rd (FB_CFG_EN p) s = 1 → go s = 0 →
      (60 ≤ len.toNat → len.toNat ≤ 1514 → Goes (.fbTxGo p len false) s (fun t => go t = 1 ∧ rd (FB_TXCTL_LEN p) t = len.toNat) ∧
        Goes (.fbTxGo p len true) s (fun t => go t = 0 ∧ tries t = 0 ∧ (mapGet (fun _ => []) t.fb.sent p.val).length = len.toNat)) ∧
      (len.toNat < 60 ∨ 1514 < len.toNat → Goes (.fbTxGo p len edge) s (fun t => go t = 0 ∧ rd (FB_STAT_CFGERR p) t = 1))) ∧
    (go s = 1 → exec (.fbTxGo p len edge) s = .next s) ∧
    (rd (FB_CFG_EN p) s = 1 → Goes (.fbCollision p) s (fun t => counts (FB_CNT_COLL_COUNT p) t ∧
      (go s = 0 → go t = 0 ∧ t.fb = s.fb) ∧
      (go s = 1 → tries s + 1 ≠ 16 → go t = 1 ∧ tries t = tries s + 1 ∧ ∃ b, (p.val, b) ∈ t.fb.backoff ∧ b < 2 ^ min (tries s + 1) 10) ∧
      (go s = 1 → tries s + 1 = 16 → go t = 0 ∧ tries t = 0 ∧ counts (FB_CNT_EXCOLL_COUNT p) t))) ∧
    (go s = 1 → p.val ∈ mapKeys s.fb.backoff → Goes (.fbBackoffEnd p edge) s (fun t => p.val ∉ mapKeys t.fb.backoff ∧
      go t = if edge then 0 else 1)) ∧
    (rd (FB_CFG_PLCA p) s = 1 → Goes (.plcaBeaconTimeout p) s (fun t => rd (FB_STAT_PLCAOK p) t = 0) ∧
      (rd (FB_CFG_EN p) s = 1 → Goes (.plcaBeacon p) s (fun t => rd (FB_STAT_PLCAOK p) t = 1))) ∧
    (n.val ∈ s.fb.live → Goes (.cabAgeLapse n) s (fun t => 10000 ≤ rd (CAB_AGE_AGE n) t ∧ n.val ∉ t.fb.live ∧
      (roomAt 60 s → Logs 60 (0xA600 + n) 0 t))) ∧
    (n.val ∉ s.fb.live → exec (.cabAgeLapse n) s = .next s) ∧
    (st s ≠ tdOFF → Goes (.tdmClockGap q) s (fun t => st t = tdNOCLK ∧ rd (TDM_STAT_CLKLOSS q) t = 1 ∧
      (rd (TDM_STAT_CLKLOSS q) s = 0 → counts (TDM_CNT2_CLKLOSS_COUNT q) t ∧ faulted 0x840 t))) ∧
    (st s = tdNOCLK → Goes (.firstBckEdge q) s (fun t => st t = tdHUNT ∧ (getTdm q t).hunt = 0)) ∧
    (st s ≠ tdNOCLK → exec (.firstBckEdge q) s = .next s) ∧
    (st s = tdHUNT →
      (ok → x.hunt = 3 → frame (fun t => st t = tdRUN ∧ rd (TDM_STAT_CLKLOSS q) t = 0 ∧ rd (TDM_MEAS_GOOD q) t = 0)) ∧
      (ok → x.hunt ≠ 3 → frame (fun t => st t = tdHUNT ∧ (getTdm q t).hunt = x.hunt + 1)) ∧
      (¬ok → frame (fun t => st t = tdHUNT ∧ (getTdm q t).hunt = 0)) ∧
      (rd (TDM_STAT_CLKLOSS q) s = 0 → Goes (.tdmHuntTimeout q) s (fun t => st t = tdHUNT ∧ rd (TDM_STAT_CLKLOSS q) t = 1 ∧ faulted 0x840 t))) ∧
    (st s = tdRUN →
      (ok → frame (fun t => st t = tdRUN ∧ rd (TDM_MEAS_GOOD q) t = min (rd (TDM_MEAS_GOOD q) s + 1) 65535 ∧
        rd (TDM_FRAME_FRAME_SEQUENCE q) t = (rd (TDM_FRAME_FRAME_SEQUENCE q) s + 1) % 2 ^ 32 ∧
        (rd (TDM_CFG_TXEN q) s = 1 → (getTdm q t).sent.length = rd (TDM_CFG_SLOTS q) s) ∧
        (fault s = 1 → gain s = 2 → 15 ≤ rd (TDM_MEAS_GOOD q) s → (x.lost = false → gain t = 3 ∧ fault t = 1) ∧
          (x.lost = true → gain t = 0 ∧ fault t = 0)))) ∧
      (¬ok → frame (fun t => st t = tdHUNT ∧ counts (TDM_CNT_SYNC_COUNT q) t ∧ faulted 0x800 t)) ∧
      Goes (.tdmResync q) s (fun t => st t = tdHUNT ∧ counts (TDM_CNT_SYNC_COUNT q) t ∧ faulted 0x800 t) ∧
      (∀ cmd ∈ [Instr.tdmOverrun q, .tdmUnderrun q], Goes cmd s (fun t => st t = tdRUN ∧ counts (TDM_CNT_XRUN_COUNT q) t ∧ faulted 0x820 t))) ∧
    (st s = tdNOCLK → fault s = 1 → Goes (.tdmCoastFrame q ns) s (fun t => st t = tdNOCLK ∧ (getTdm q t).sent = x.sent ∧
      (gain s = 1 → (getTdm q t).pos = min (x.pos + 1) (fadeFrames q s)))) ∧
    (gain s = 1 → Goes (.tdmFadeEnd q) s (fun t => (st s ≠ tdRUN → gain t = 2 ∧ fault t = fault s) ∧
      (st s = tdRUN → fault s = 1 → 16 ≤ rd (TDM_MEAS_GOOD q) s → x.lost = false → gain t = 3))) ∧
    (gain s = 3 → Goes (.tdmRampEnd q) s (fun t => gain t = 0 ∧ fault t = 0))

/-- The crossbar and the DRAM (R453, R454, R455, R457, R460, R461, R462, R463, R464, R466, R467): a request takes a tag and is checked and
decoded, or waits for a tag; a target serves the first piece by its keys; writes land and reads answer in the order of issue; a
timeout frees the tag, answers with an error and enters fall-back; DRAM errors are counted, logged and make repair candidates.
Readings and choices of the model in it: log entries 54 (DEDUCED), 83 (DEDUCED), 90 (DESIGN CHOICE). -/
def Obligations.CrossbarServesAndAnswersInOrder : Prop :=
  ∀ (r : XbReq) (ns : BitVec 64) (g : Fin 19) (n : Fin 2) (ecc : Option DramErr) (index : BitVec 14) (m : BitVec 6) (rm : Fin 3) (e : DramErr) (s : State),
    let counts (f : FRef) (t : State) : Prop := rd f s + 1 < 2 ^ 16 → rd f t = rd f s + 1
    let now := runTo ns.toNat s
    let id := r.master.toNat
    let a := r.addr.toNat
    let len := r.len.toNat
    let legal : Prop := isMaster id = true ∧ 0 < len ∧ (r.write = true → r.data.length = len)
    let allowed : Prop := (0x40000000 ≤ a ∧ a < 0x50000000) ∨ ∀ p ∈ pagesOf a len, fwRefusal id r.write (r.user && Nat.blt id 5) p now = none
    let waits := s.xb.pieces.filter fun p => p.target == g.val && !mustWait p s
    let ready : Prop := drcReady n s = true
    (legal → tagFree id now = false → Goes (.xbTransaction r ns) s (fun t => t.xb.waiting = s.xb.waiting ++ [r] ∧ t.xb.trans = s.xb.trans ∧
      counts (XB_MCNT_TAGWAIT_COUNT id) t)) ∧
    (legal → tagFree id now = true → allowed →
      (∀ d, targetOf a len now = some d → Goes (.xbTransaction r ns) s (fun t => t.mem = s.mem ∧ t.xb.nextId = s.xb.nextId + 1 ∧
        (∃ x ∈ t.xb.trans, x.id = s.xb.nextId ∧ x.req.addr = r.addr ∧ x.done = false) ∧
        ∃ p ∈ t.xb.pieces, p.id = s.xb.nextId ∧ p.target = d ∧ p.addr = a ∧ p.len = min len (256 - a % 256) ∧ p.master = id)) ∧
      (targetOf a len now = none → Goes (.xbTransaction r ns) s (fun t => t.mem = s.mem ∧ t.xb.pieces = s.xb.pieces ∧
        (∃ x ∈ t.xb.trans, x.id = s.xb.nextId ∧ x.done = true ∧ x.err = true ∧ (r.write = false → x.data = List.replicate len 0)) ∧
        rd XB_DECERR_LO_ADDR t = a % 2 ^ 32 ∧ rd XB_DECERR_HI_ADDR t = a / 2 ^ 32 ∧ rd XB_DECERR_HI_MASTER t = id ∧ counts XB_CNT_DECERR_COUNT t))) ∧
    (legal → tagFree id now = true → ¬allowed → Goes (.xbTransaction r ns) s (fun t => t.mem = s.mem ∧
      t.xb.pieces = s.xb.pieces ∧ ∃ x ∈ t.xb.trans, x.id = s.xb.nextId ∧ x.done = true ∧ x.err = true)) ∧
    (waits = [] → exec (.xbPieceGrant g ecc) s = .next s) ∧
    (∀ p, nextPiece g s = some p → p ∈ waits ∧ (∀ q ∈ waits, keysBefore (pieceKeys q s) (pieceKeys p s) = false) ∧
      ∀ x, (s.xb.trans.find? fun y => y.id == p.id) = some x → x.freed = false → x.at_ + p.len = x.req.len.toNat →
        let pod := g.val - 1
        let o := p.addr - 0x08000000 - pod * 0x400000
        (1 ≤ g.val → g.val < 17 → x.req.write = true → o + p.len ≤ 0x400000 → x.req.data.length = x.req.len.toNat →
          Goes (.xbPieceGrant g ecc) s (fun t => (∃ y ∈ t.xb.trans, y.id = p.id ∧ y.done = true ∧ y.err = x.err) ∧
            (∀ i, i < p.len → some (sharedByte pod (o + i) t) = x.req.data[x.at_ + i]?) ∧
            ∀ i, i < o ∨ (o + p.len ≤ i ∧ i < 0x400000) → sharedByte pod i t = sharedByte pod i s)) ∧
        (1 ≤ g.val → g.val < 17 → x.req.write = false → podSealed pod s = true → Goes (.xbPieceGrant g ecc) s (fun t => t.mem = s.mem ∧
          (∃ y ∈ t.xb.trans, y.id = p.id ∧ y.done = true ∧ y.err = true ∧ y.data = x.data ++ List.replicate p.len 0) ∧
          (roomAt (101 + 10 * pod) s → Logs (101 + 10 * pod) 0x6005 (p.addr % 2 ^ 32) t))) ∧
        (1 ≤ g.val → g.val < 17 → x.req.write = false → podSealed pod s = false → Goes (.xbPieceGrant g ecc) s (fun t => t.mem = s.mem ∧
          ∃ y ∈ t.xb.trans, y.id = p.id ∧ y.done = true ∧ y.err = x.err ∧ y.data = x.data ++ (List.range p.len).map fun i => sharedByte pod (o + i) s)) ∧
        (17 ≤ g.val → x.req.write = false → s.ks.golden = [] → 0x1000000000 ≤ p.addr → Goes (.xbPieceGrant g none) s (fun t => t.mem = s.mem ∧
          ∃ y ∈ t.xb.trans, y.id = p.id ∧ y.done = true ∧ y.data = x.data ++ (List.range p.len).map fun i => rdDram (p.addr - 0x1000000000 + i) s))) ∧
    (nextResponse m.toNat s = none → exec (.xbResponse m) s = .next s) ∧
    (∀ x, nextResponse m.toNat s = some x → x.done = true ∧ x.req.master = m ∧
      (x.req.write = false → ∀ u ∈ transOf m.toNat s, u.id < x.id → u.req.write = true ∨ u.done = true) ∧
      Goes (.xbResponse m) s (fun t => t.xb.out = some ⟨m.toNat, x.req.addr.toNat, if x.req.write then [] else x.data, x.err⟩)) ∧
    (∀ x, ((transOf m.toNat now).find? fun t => Nat.ble (t.issued + rd XB_TIMEOUT_TO now * 1000) now.ns.toNat) = some x →
      Goes (.xbTimeout m ns) s (fun t => t.xb.out = some ⟨m.toNat, x.req.addr.toNat, [], true⟩ ∧ rd XB_STAT_FALLBACK t = 1 ∧
        (s.xb.waiting = [] → counts XB_CNT_TIMEOUT_COUNT t ∧ (roomAt 93 s → Logs 93 0xB002 0 t)))) ∧
    (transOf m.toNat now = [] → exec (.xbTimeout m ns) s = .next now) ∧
    (∀ p, (s.xb.pieces.filter fun p => p.target == g.val)[index.toNat]? = some p →
      (p.qos < 14 → Goes (.xbQosAge g index) s (fun t => { p with qos := p.qos + 1 } ∈ t.xb.pieces)) ∧
      (14 ≤ p.qos → exec (.xbQosAge g index) s = .next s)) ∧
    (rd SG_CTL_RUN s = 1 → Goes .xbFbclr s (fun t => rd XB_STAT_CFGERR t = 1 ∧ rd XB_STAT_FALLBACK t = rd XB_STAT_FALLBACK s)) ∧
    (rd SG_CTL_RUN s = 0 → rd XB_CTL_QOSEN s = 1 → Goes .xbFbclr s (fun t => rd XB_STAT_FALLBACK t = 0)) ∧
    (rd SG_CTL_RUN s = 0 → rd XB_CTL_QOSEN s = 0 → exec .xbFbclr s = .next s) ∧
    Goes .fwLock s (fun t => rd FW_CTL_LOCK t = 1) ∧
    Goes .arbiterParityError s (fun t => rd XB_STAT_FALLBACK t = 1 ∧ fixedPriority t = true ∧
      (rd XB_STAT_FALLBACK s = 0 → roomAt 93 s → Logs 93 0xB010 0 t)) ∧
    (ready → Goes (.mr4Read n rm) s (fun t => rd (DRC_STAT_RMULT n) t = rm)) ∧
    (¬ready → exec (.mr4Read n rm) s = .next s ∧ exec (.patrolScrub n [e]) s = .next s) ∧
    (ready → Goes (.patrolScrub n []) s (fun t => rd (DRC_SCRUB_PASS_SEQUENCE n) t = (rd (DRC_SCRUB_PASS_SEQUENCE n) s + 1) % 2 ^ 16)) ∧
    (ready → Goes (.patrolScrub n [e]) s (fun t => rd (DRC_ERRADDR_LO_ADDR n) t + rd (DRC_ERRADDR_HI_ADDR n) t * 2 ^ 32 = e.addr.toNat ∧
      rdB (DRC_ERRADDR_HI_UE n) t = e.ue ∧
      (e.ue = true → counts (DRC_CNT_UE_COUNT n) t ∧ (roomAt (94 + n) s → Logs (94 + n) (0xB110 + n) 0 t) ∧
        (rd (DRC_STAT_RPRFULL n) t = 1 ∨ ∃ i, i < 8 ∧ rd (DRC_RPR_VALID n i) t = 1 ∧ rd (DRC_RPR_ROW n i) t = e.row.toNat ∧
          rd (DRC_RPR_BANK n i) t = e.bank.toNat)) ∧
      (e.ue = false → counts (DRC_CNT_CE_COUNT n) t ∧ (s.xb.ceLog = [] → roomAt (94 + n) s → Logs (94 + n) (0xB100 + n) 0 t))))


/-- The flash store (R474, R478, R479, R480, R481, R482, R484, R485, R489, R492, R493, R494, R497): a job runs, or ends at once with
the error of its state, its argument or its slot; a job that ends has its effect or its error; dies count reads and erases, blocks go
bad and are never erased or programmed again, background jobs have their deadlines and become urgent once; and chunks and log pages
reach flash in order.
Readings and choices of the model in it: log entries 55 (DEDUCED). -/
def Obligations.FlashJobsAndDiesFollowTheirRules : Prop :=
  ∀ (slot : Fin 2) (on ok recorder : Bool) (d : FlashDesc) (bad : List (Fin 64 × BitVec 16)) (opc : BitVec 8) (op : NandOp) (r : NandResult)
    (fs : List (Fin 64 × BitVec 16 × BitVec 8)) (index : BitVec 16) (blk : BitVec 32) (s : State),
    let counts (f : FRef) (t : State) : Prop := rd f s + 1 < 2 ^ 16 → rd f t = rd f s + 1
    let small (f : FRef) : Prop := rd f s + 1 < 2 ^ 16
    let res (e : Nat) (t : State) : Prop := rd FL_JOB_RES_ERR t = e ∧ rd FL_JOB_RES_DONE t = 1 ∧ t.flash = s.flash
    let idle : Prop := rd FL_JOB_CTL_GO s = 0
    let busy : Prop := rd FL_JOB_CTL_GO s = 1
    let ready : Prop := rd FL_STAT_STATE s = 2 ∨ rd FL_STAT_STATE s = 3
    let starts (o : Nat) (a : Nat) (j : FlashJob) (t : State) : Prop := t.flash.job = some j ∧ rd FL_JOB_CTL_GO t = 1 ∧ rd FL_JOB_CTL_OP t = o ∧
      rd FL_JOB_CTL_ARG t = a ∧ rd FL_JOB_RES_DONE t = 0 ∧ rd FL_JOB_RES_ERR t = 0 ∧ t.mem = s.mem
    let a := rd FL_JOB_LO_ADDR s + rd FL_JOB_HI_ADDR s * 2 ^ 32
    let n := rd FL_JOB_LEN_LEN s
    let id := rd FL_JOB_ARG_VALUE s
    let inDram (b m : Nat) : Prop := 0x1000000000 ≤ b ∧ b + m ≤ 0x1000000000 + rd DRC_MAP_TOP s * 2 ^ 20
    let buffer : Prop := n ≠ 0 ∧ inDram a n
    let disjoint : Prop := ∀ x ∈ d.capDies, x ∉ d.recDies
    let ends (j : FlashJob) (Q : State → Prop) : Prop := s.flash.job = some j → Goes (.flashJobDone true) s (fun t =>
      t.flash.job = none ∧ rd FL_JOB_CTL_GO t = 0 ∧ rd FL_JOB_RES_ERR t = 0 ∧ rd FL_JOB_RES_DONE t = 1 ∧ Q t)
    let die := op.die.val
    let b := op.block.toNat
    let key := die * 65536 + b
    let reads (t : State) : Nat := mapGet (fun _ => 0) t.flash.reads key
    let erases (t : State) : Nat := mapGet (fun _ => 0) t.flash.erases key
    let isBad (t : State) : Prop := (die, b) ∈ t.flash.factory ∨ (die, b) ∈ t.flash.grown
    let refresh (x y within : Nat) (t : State) : Prop := ∃ j ∈ t.flash.bg, j.kind = 0 ∧ j.die = x ∧ j.block = y ∧ j.deadline ≤ s.ns.toNat + within
    let grows (t : State) : Prop := isBad t ∧ (¬isBad s → small FL_CNT2_GROWN_COUNT → rd FL_CNT2_GROWN_COUNT t = rd FL_CNT2_GROWN_COUNT s + 1)
    let scans (t : State) (hours : Nat) : Prop := ∃ j ∈ t.flash.bg, j.kind = 2 ∧ j.deadline = s.ns.toNat + hours * 3600000000000
    let hour := 3600000000000
    let k := (widen 32 blk.toNat s.tl.k.toNat).toNat
    let w := if recorder then s.flash.recw else s.flash.cap
    let wOf (t : State) : Writer := if recorder then t.flash.recw else t.flash.cap
    (busy → ∀ e ∈ [Instr.imgWrite slot, .imgRead slot, .flLogRead, .capDelete, .capProtect on, .format d bad, .scanNow, .flLife], Goes e s (res 1)) ∧
    (idle → ¬ready → ∀ e ∈ [Instr.imgWrite slot, .imgRead slot, .flLogRead, .capDelete, .capProtect on, .scanNow, .flLife], Goes e s (res 2)) ∧
    (idle → ready →
      (rd FL_SLOTST_BOOTED s = slot.val → s.image.owner = true → Goes (.imgWrite slot) s (res 6)) ∧
      (rd FL_SLOTST_BOOTED s ≠ slot.val → ¬buffer → Goes (.imgWrite slot) s (res 3)) ∧
      (rd FL_SLOTST_BOOTED s ≠ slot.val → buffer → Goes (.imgWrite slot) s (fun t =>
        starts 1 slot.val (.imgWrite slot.val a n (nextSlotSeq s)) t ∧ rd FL_SLOTST_WRITING t = 1 ∧ getSlot slot.val t = SlotSt.reset ∧
        getSlot (1 - slot.val) t = getSlot (1 - slot.val) s)) ∧
      ((getSlot slot.val s).committed = false → Goes (.imgRead slot) s (res 2)) ∧
      ((getSlot slot.val s).committed = true → buffer → (getSlot slot.val s).bytes.length ≤ n →
        Goes (.imgRead slot) s (starts 2 slot.val (.imgRead slot.val a n))) ∧
      ((getSlot slot.val s).committed = true → ¬buffer ∨ n < (getSlot slot.val s).bytes.length → Goes (.imgRead slot) s (res 3)) ∧
      (buffer → Goes .flLogRead s (starts 3 0 (.logRead id a n)) ∧ Goes .flLife s (starts 8 0 (.life a n))) ∧
      (¬buffer → Goes .flLogRead s (res 3) ∧ Goes .flLife s (res 3)) ∧
      ((∀ c ∈ s.flash.captures, c.id ≠ id) → Goes .capDelete s (res 3) ∧ Goes (.capProtect on) s (res 3)) ∧
      ((∃ c ∈ s.flash.captures, c.id = id) → Goes (.capProtect on) s (starts 5 (if on then 1 else 0) (.capProtect id on))) ∧
      ((∃ c ∈ s.flash.captures, c.id = id ∧ c.recording = true) → Goes .capDelete s (res 2)) ∧
      ((∃ c ∈ s.flash.captures, c.id = id) → (∀ c ∈ s.flash.captures, c.id = id → c.recording = false) → Goes .capDelete s (starts 4 0 (.capDelete id))) ∧
      Goes .scanNow s (starts 7 0 .scan)) ∧
    (idle → d.partsOk = true → disjoint → Goes (.format d bad) s (fun t => ∃ l, starts 6 0 (.format d l) t ∧ l.length = bad.length)) ∧
    (idle → d.partsOk = false ∨ ¬disjoint → Goes (.format d bad) s (res 3)) ∧
    (opc = 0 ∨ 8 < opc.toNat → (busy → Goes (.flBadOp opc) s (res 1)) ∧ (idle → Goes (.flBadOp opc) s (res 3))) ∧
    (s.flash.job = none → exec (.flashJobDone ok) s = .next s) ∧
    (∀ j, s.flash.job = some j → Goes (.flashJobDone false) s (fun t => t.flash = { s.flash with job := none } ∧ t.mem = s.mem ∧
      rd FL_JOB_CTL_GO t = 0 ∧ rd FL_JOB_RES_ERR t = 4 ∧ rd FL_JOB_RES_DONE t = 1 ∧
      (∀ m q x, j = .imgWrite slot.val m q x → roomAt 96 s → Logs 96 (0xC340 + slot.val) 0 t))) ∧
    (∀ m q, inDram m q → ∀ seq, ends (.imgWrite slot.val m q seq) (fun t => rd FL_SLOTST_WRITING t = 0 ∧ (getSlot slot.val t).committed = true ∧
      (getSlot slot.val t).seq = BitVec.ofNat 32 seq ∧ (getSlot slot.val t).bytes = (List.range q).map (fun i => rdDram (m - 0x1000000000 + i) s) ∧
      getSlot (1 - slot.val) t = getSlot (1 - slot.val) s)) ∧
    (∀ m q, inDram m (getSlot slot.val s).bytes.length → ends (.imgRead slot.val m q) (fun t =>
      ∀ i, i < (getSlot slot.val s).bytes.length → some (rdDram (m - 0x1000000000 + i) t) = (getSlot slot.val s).bytes[i]?)) ∧
    (∀ m q, ends (.logRead id m q) (fun t => t.flash.pages = s.flash.pages)) ∧
    ends (.capDelete id) (fun t => ∀ c, c ∈ t.flash.captures ↔ c ∈ s.flash.captures ∧ c.id ≠ id) ∧
    ends (.capProtect id on) (fun t => ∀ c ∈ s.flash.captures, (if c.id = id then { c with protect := on } else c) ∈ t.flash.captures) ∧
    (∀ l, ends (.format d l) (fun t => rd FL_STAT_STATE t = 2 ∧ t.flash.formatted = true ∧ t.flash.desc = some d ∧ t.flash.factory = l ∧
      t.flash.grown = [] ∧ t.flash.captures = [] ∧ t.flash.pages = [] ∧ t.flash.ring = [] ∧ (getSlot 0 t).committed = false ∧ (getSlot 1 t).committed = false)) ∧
    ends .scan (fun t => scans t 24) ∧
    (∀ m q, ends (.life m q) (fun t => t.flash.captures = s.flash.captures)) ∧
    (op.kind = .program → r.ok = true → Goes (.nandOperationDone op r) s (fun t => t.flash.grown = s.flash.grown ∧
      mapGet (fun _ => []) t.flash.queues die = (mapGet (fun _ => []) s.flash.queues die).erase op)) ∧
    (op.kind = .program → r.ok = false → ¬isBad s → Goes (.nandOperationDone op r) s (fun t => grows t ∧ counts (FLC_CNT_PFAIL_COUNT (die % 4)) t ∧
      (small FL_CNT2_GROWN_COUNT → roomAt 96 s → Logs 96 (0xC100 + die) 0 t))) ∧
    (op.kind = .erase → r.ok = false → ¬isBad s → Goes (.nandOperationDone op r) s (fun t => grows t ∧ counts (FLC_CNT_EFAIL_COUNT (die % 4)) t)) ∧
    (op.kind ≠ .read → isBad s → Goes (.nandOperationDone op r) s (fun t => t.flash.grown = s.flash.grown ∧ t.flash.erases = s.flash.erases ∧
      t.flash.bg = s.flash.bg)) ∧
    (op.kind = .erase → r.ok = true → ¬isBad s → Goes (.nandOperationDone op r) s (fun t => erases t = erases s + 1 ∧ reads t = 0 ∧
      (∀ j ∈ t.flash.bg, ¬(j.kind = 0 ∧ j.die = die ∧ j.block = b)))) ∧
    (op.kind = .read → r.ok = true → Goes (.nandOperationDone op r) s (fun t => reads t = reads s + 1 ∧ t.flash.grown = s.flash.grown ∧
      (r.step.val < 2 → rd FL_CNT_RETRY_COUNT t = rd FL_CNT_RETRY_COUNT s) ∧
      (2 ≤ r.step.val → counts FL_CNT_RETRY_COUNT t ∧ refresh die b (if 80 ≤ r.share.toNat then hour else 24 * hour) t) ∧
      (reads s + 1 = (if op.tlc then 20000 else 50000) → refresh die b 0 t))) ∧
    (op.kind = .read → r.ok = false → Goes (.nandOperationDone op r) s (fun t => reads t = reads s + 1 ∧ grows t ∧
      counts FL_CNT_RETRY_COUNT t ∧ counts FL_CNT_UNCORR_COUNT t ∧
      (small FL_CNT_RETRY_COUNT → small FL_CNT_UNCORR_COUNT → roomAt 96 s → ∃ x, Logs 96 0xC001 x t))) ∧
    (ready → Goes (.retentionScan fs) s (fun t => scans t 192 ∧ ∀ e ∈ fs, (60 ≤ e.2.2.toNat → refresh e.1.val e.2.1.toNat (24 * hour) t) ∧
      (80 ≤ e.2.2.toNat → refresh e.1.val e.2.1.toNat hour t))) ∧
    (¬ready → ∀ e ∈ [Instr.retentionScan fs, .captureChunkProgram recorder, .checkpoint, .logPageFlush], exec e s = .next s) ∧
    (∀ j, s.flash.bg[index.toNat]? = some j → (j.urgent = true → exec (.jobUrgent index) s = .next s) ∧
      (j.urgent = false → Goes (.jobUrgent index) s (fun t => { j with urgent := true } ∈ t.flash.bg ∧ counts FL_CNT4_URGENT_COUNT t ∧
        (small FL_CNT4_URGENT_COUNT → roomAt 96 s → Logs 96 0xC320 0 t)))) ∧
    (w.staged = [] → exec (.captureChunkProgram recorder) s = .next s) ∧
    (ready → ∀ c l, w.staged = c :: l → Goes (.captureChunkProgram recorder) s (fun t => (wOf t).staged = l ∧
      (recorder = true → ∃ q, t.flash.ring = (s.flash.ring ++ [c]).drop q) ∧
      (recorder = false → rd FL_CTL_CAPFULL s = 0 → ∀ x ∈ s.flash.captures, x.id = c.id → ∃ y ∈ t.flash.captures, y.id = x.id ∧
        y.chunks = x.chunks ++ [c] ∧ y.bytes = x.bytes + chunkBytes c))) ∧
    (((∀ e ∈ w.cur, e.1 ≠ k) → exec (.captureDeliveryTimeout recorder blk) s = .next s) ∧
     ((∃ e ∈ w.cur, e.1 = k) → Goes (.captureDeliveryTimeout recorder blk) s (fun t => (∀ e ∈ (wOf t).cur, k < e.1) ∧ (wOf t).gap = true ∧
       counts (if recorder then FL_CNT3_RECDROP_COUNT else FL_CNT3_CAPDROP_COUNT) t))) ∧
    (ready → Goes .checkpoint s (fun t => ∃ q, t.flash.ckpt = some (q, s.flash.ring.length) ∧
      ((∀ c ∈ s.flash.captures, c.recording = false) → q = 0))) ∧
    (s.flash.logBuf = [] → exec .logPageFlush s = .next s) ∧
    (ready → ∀ e, (s.flash.logBuf.take 510).getLast? = some e → Goes .logPageFlush s (fun t => t.flash.logBuf = s.flash.logBuf.drop 510 ∧
      t.flash.pages.getLast? = some (s.flash.logBuf.take 510) ∧ rd FL_LOGSEQ_SEQUENCE t = e.1 % 2 ^ 32 ∧ t.flash.logLost = 0 ∧
      (s.flash.logLost ≠ 0 → roomAt 96 s → Logs 96 0xC302 s.flash.logLost t)))

/-- Pawn's sequence (R188, R500, R502, R503, R504, R505, R509, R513, R588, R606): a wake begins the first step; a step drives its PEN,
passes by power-good, status or windows, waits DLY and hands over; a failed one is retried at most three times and then WAKE_FAILED
drops every PEN; after the last step every island starts and Sprout takes the first copy that passes.
Readings and choices of the model in it: log entries 57 (DEDUCED), 84 (DEDUCED). -/
def Obligations.PawnSequencesTheSupplies : Prop :=
  ∀ (lost pufOk trngOk ack fault asTarget : Bool) (x : Fin 12) (copies : List BootCopy) (cycles : BitVec 17) (swing : BitVec 12) (s : State),
    let e := rd PWR_STAT_STEP s
    let st := rd PWR_STAT_STATE s
    let at_ := rd PWR_STAT_ATTEMPT s
    let stepping : Prop := st = 1 ∨ (st = 3 ∧ s.pawn.leaving = true)
    let phase (n : Nat) : Prop := s.pawn.phase = n
    let penOff (t : State) : Prop := ∀ i, i < 12 → rd (PWR_ENT_STAT_PEN i) t = 0
    let begins (o : Nat) (t : State) : Prop := rd PWR_STAT_STEP t = o ∧ t.pawn.windows = 0 ∧
      t.pawn.phase = (if o ≠ 12 ∧ entPmb o s = true ∧ entNow (PWR_ENT_SET_VNOM o) s ≠ 0 then 1 else 2) ∧
      (t.pawn.phase = 2 → o ≠ 12 → rd (PWR_ENT_STAT_PEN o) t = 1)
    let wakes (t : State) : Prop := rd PWR_STAT_STATE t = 1 ∧ rd PWR_STAT_ATTEMPT t = 0 ∧ rd PWR_STAT_FAULT t = 0 ∧
      (stepOrder t).head? = some (rd PWR_STAT_STEP t) ∧ (t.pawn.phase = 1 ∨ t.pawn.phase = 2)
    let passes (t : State) : Prop := t.pawn.phase = 4 ∧ (e < 12 → rd (PWR_ENT_STAT_PG e) t = 1 ∧ rd (PWR_ENT_STAT_FAIL e) t = 0)
    let fails (o : Nat) (t : State) : Prop :=
      (at_ < 3 → t.pawn.phase = 5 ∧ rd PWR_STAT_ATTEMPT t = at_ + 1 ∧ rd PWR_STAT_STEP t = o ∧
        (rd PWR_CNT_RETRY_COUNT s + 1 < 2 ^ 16 → rd PWR_CNT_RETRY_COUNT t = rd PWR_CNT_RETRY_COUNT s + 1) ∧
        (∀ i ∈ (stepOrder s).dropWhile (· != o), i < 12 → rd (PWR_ENT_STAT_PEN i) t = 0) ∧ (roomAt 7 s → Logs 7 (0x1010 + e) 0 t)) ∧
      (at_ = 3 → rd PWR_STAT_STATE t = 4 ∧ rd PWR_STAT_FAULT t = 1 ∧ penOff t ∧ t.rook.hw = true ∧ (roomAt 7 s → Logs 7 (0x1020 + e) 0 t))
    let good : Prop := 300 ≤ swing.toNat ∧ 50 * cycles.toNat ≤ 51 * 49152 ∧ 49 * 49152 ≤ 50 * cycles.toNat
    let copyOk (c : BootCopy) : Prop := c.formOk = true ∧ c.vendorOk = true ∧ epochOk c.vendorEpoch.toNat s = true ∧
      (if s.ks.fa then c.analysis = true
       else if s.ks.owned then (∀ i, i < 12 → rd (KS_OWNER_HASH_HASH i) s = c.ownerHash.toNat / 2 ^ (32 * (11 - i)) % 2 ^ 32) ∧ c.sigOk = true ∧
         c.hashesOk = true ∧ epochOk c.epoch.toNat s = true
       else c.sigZero = true ∧ c.production = true)
    let booted (t : State) : Prop := rd PWR_STAT_STATE t = 2 ∧ rd PWR_STAT_STEP t = 15 ∧ rd PWR_BOOT_FAILS t = min 7 (rd PWR_BOOT_FAILS s + 1) ∧
      ((∃ c ∈ copies, copyOk c) → t.pawn.booted = true) ∧
      ((∀ c ∈ copies, ¬copyOk c) → t.pawn.booted = false ∧ rd PWR_STAT_FAULT t = 1 ∧ (getPea 144 t).stall = .halted)
    let out (b : List Byte) (t : State) : Prop := t = { s with pawn := { s.pawn with out := b } }
    Goes (.powerOnReset lost pufOk trngOk) s (fun t => t.mem = MemSt.reset ∧ t.ns = 0 ∧ t.feu = FeuSt.reset ∧
      rdB KS_STAT_PUF_OK t = (pufOk && !s.ks.fa) ∧ rdB KS_STAT_TRNG_OK t = trngOk ∧ t.ks.epochBits = s.ks.epochBits ∧ t.ks.owned = s.ks.owned ∧
      (lost = true ∨ rd PWR_CFG_AUTO s = 1 → wakes t) ∧
      (lost = false → rd PWR_CFG_AUTO s = 0 → rd PWR_STAT_STATE t = 0 ∧ rd PWR_STAT_STEP t = 15 ∧ penOff t ∧
        ∀ i, i < 8 → rd (flogRef i) t = rd (flogRef i) s)) ∧
    (st = 0 → Goes .wakePin s wakes ∧ Goes .pawnCmdWake s (fun t => wakes t ∧ t.pawn.out = [])) ∧
    (st ≠ 0 → exec .wakePin s = .next s ∧ Goes .pawnCmdWake s (out [])) ∧
    (st = 4 → Goes .pawnCmdRetry s (fun t => wakes t ∧ t.pawn.out = [])) ∧
    (st ≠ 4 → Goes .pawnCmdRetry s (out [])) ∧
    Goes .pawnState s (out [BitVec.ofNat 8 (st + 8 * rd PWR_BOOT_NOIMAGE s)]) ∧
    Goes .pawnFault s (out [BitVec.ofNat 8 (rd PWR_FAULT_CODE s), BitVec.ofNat 8 (rd PWR_FAULT_CODE s / 256)]) ∧
    Goes .pawnFlog s (fun t => t.pawn.out.length = 16 ∧ ∀ i, i < 8 → t.pawn.out[2 * i]? = some (BitVec.ofNat 8 (rd (flogRef i) s / 256)) ∧
      t.pawn.out[2 * i + 1]? = some (BitVec.ofNat 8 (rd (flogRef i) s))) ∧
    (stepping → phase 2 → e < 12 → entPmb e s = false → Goes .stepPass s passes) ∧
    (stepping → phase 2 → e < 12 → entPmb e s = true → Goes .stepPass s (fun t => t.pawn.phase = 3 ∧ rd (PWR_ENT_STAT_PG e) t = 1)) ∧
    (¬stepping ∨ ¬phase 2 ∨ e = 12 → exec .stepPass s = .next s) ∧
    (stepping → phase 1 → e < 12 → Goes (.pmbusTransactionDone true fault) s (fun t => t.pawn.phase = 2 ∧ rd (PWR_ENT_STAT_PEN e) t = 1)) ∧
    (stepping → phase 3 → e < 12 → Goes (.pmbusTransactionDone true false) s passes) ∧
    (stepping → phase 1 ∨ phase 3 → Goes (.pmbusTransactionDone false fault) s (fails e)) ∧
    (stepping → phase 3 → Goes (.pmbusTransactionDone ack true) s (fails e)) ∧
    (¬stepping ∨ (¬phase 1 ∧ ¬phase 3) → exec (.pmbusTransactionDone ack fault) s = .next s) ∧
    (stepping → phase 1 ∨ phase 2 ∨ phase 3 → Goes .stepTimeout s (fails e)) ∧
    (¬stepping ∨ phase 0 ∨ 4 ≤ s.pawn.phase → exec .stepTimeout s = .next s) ∧
    (stepping → phase 2 → e = 12 →
      (good → s.pawn.windows < 3 → Goes (.oscCheckWindow cycles swing) s (fun t => t.pawn.phase = 2 ∧ t.pawn.windows = s.pawn.windows + 1)) ∧
      (good → 3 ≤ s.pawn.windows → Goes (.oscCheckWindow cycles swing) s (fun t => t.pawn.phase = 4 ∧ rd PWR_OSC_AMPOK t = 1 ∧ rd PWR_OSC_FREQOK t = 1)) ∧
      (¬good → Goes (.oscCheckWindow cycles swing) s (fun t => t.pawn.phase = 2 ∧ t.pawn.windows = 0))) ∧
    (¬stepping ∨ ¬phase 2 ∨ e ≠ 12 → exec (.oscCheckWindow cycles swing) s = .next s) ∧
    (stepping → ¬phase 5 → x.val ∈ (stepOrder s).takeWhile (· != e) → Goes (.passedEntryPpgFall x) s (fails x.val)) ∧
    (¬stepping ∨ phase 5 ∨ x.val ∉ stepOrder s → x.val ≠ e → exec (.passedEntryPpgFall x) s = .next s) ∧
    (stepping → phase 5 → Goes .stepRetry s (begins e)) ∧
    (st = 0 → phase 6 → Goes .stepRetry s wakes) ∧
    (¬stepping → ¬(st = 0 ∧ phase 6) → exec .stepRetry s = .next s) ∧
    (stepping → phase 4 →
      (∀ o, stepAfter e s = some o → Goes (.stepDlyEnd copies) s (fun t => begins o t ∧ rd PWR_STAT_ATTEMPT t = 0)) ∧
      (stepAfter e s = none → s.pawn.leaving = true → Goes (.stepDlyEnd copies) s (fun t => rd PWR_STAT_STEP t = 15 ∧ t.pawn.runNext = true ∧
        t.pawn.leaving = false)) ∧
      (stepAfter e s = none → s.pawn.leaving = false → Goes (.stepDlyEnd copies) s booted)) ∧
    (¬stepping ∨ ¬phase 4 → exec (.stepDlyEnd copies) s = .next s) ∧
    (st = 2 ∨ st = 3 → Goes (.pwrRestart copies) s (fun t => booted t ∧ rd GLB_RSTCAUSE_WARM t = 1 ∧ rd GLB_RSTCAUSE_POR t = 0 ∧
      rd PWR_BOOT_NOIMAGE t = 0 ∧ t.mem = s.mem)) ∧
    (st ≠ 2 → st ≠ 3 → exec (.pwrRestart copies) s = .next s) ∧
    exec (.sclLowTimeout true x) s = .next s ∧
    (stepping → phase 1 ∨ phase 3 → Goes (.sclLowTimeout false x) s (fails e)) ∧
    (st = 2 → entOn x.val s = true → entPmb x.val s = true → x.val ∉ s.pawn.pmbBad → Goes (.sclLowTimeout false x) s (fun t =>
      x.val ∈ t.pawn.pmbBad ∧ (roomAt 7 s → Logs 7 (0x1060 + x.val) 0 t))) ∧
    (st ≠ 2 → st ≠ 3 → st ≠ 1 → exec (.sclLowTimeout asTarget x) s = .next s)

/-- RUN, QUIET and STOPPING, and the start of audio (R465, R467, R472, R506, R507, R508, R510, R511, R512, R516, R525, R526, R528): a loss
of power-good is logged and has its effect; polls fill the telemetry; QUIET is entered and left; STOPPING ends in STANDBY; the vendor
runtime starts DRAM and flash; a slot is admitted or the next one has its turn; and audio starts with every RUN bit.
Readings and choices of the model in it: log entries 57 (DEDUCED), 64 (DEDUCED), 68 (DEDUCED), 69 (DEDUCED). -/
def Obligations.RunQuietAndStartFollowTheirOrder : Prop :=
  ∀ (x : Fin 12) (r : PmbRead) (levels : BitVec 12) (target : BitVec 10) (fit1 ranks ok0 ok1 : Bool) (dens : Fin 4) (repaired : List Bool)
    (fl : List FlcTrain) (slot : Fin 2) (im : Image) (failed : List (Fin 144)) (s : State),
    let st := rd PWR_STAT_STATE s
    let up : Prop := st = 2 ∨ st = 3
    let down : Prop := st ≠ 2 ∧ st ≠ 3
    let pen (i : Nat) (t : State) : Nat := rd (PWR_ENT_STAT_PEN i) t
    let stops (t : State) : Prop := rd PWR_STAT_STATE t = 5 ∧ t.rook.hw = true ∧ t.pawn.stopAudio = true
    let i := r.entry.val
    let goal := max 720 (min 800 target.toNat)
    let v := rd PWR_AVS_VSET s
    let avs : Prop := up ∧ rd PWR_CFG_AVSEN s = 1 ∧ entOn 0 s = true ∧ entPmb 0 s = true ∧ s.image.started ≠ none
    let quiet : Prop := st = 2 ∧ rd PWR_CFG_QEN s = 1 ∧ rd SG_QUIET_QUIET s = 1 ∧ rd FL_STAT_CAP s = 0 ∧ rd ROOK_STAT_PA s = 0 ∧
      rd PWR_CTL_STANDBY s = 0 ∧ ∃ b, s.pawn.quietSince = some b ∧ b + rd PWR_CFG_QDLY s * 24000 ≤ s.tl.k.toNat
    let leave (t : State) : Prop := (st ≠ 3 ∨ s.pawn.leaving = true ∨ s.pawn.runNext = true → t = s) ∧
      (st = 3 → s.pawn.leaving = false → s.pawn.runNext = false →
        (∀ j, entQoff j s = true → j < 12 → t.pawn.leaving = true ∧ rd PWR_STAT_ATTEMPT t = 0 ∧ entQoff (rd PWR_STAT_STEP t) t = true) ∧
        ((∀ j, j < 12 → entQoff j s = false) → t.pawn.runNext = true ∧ t.pawn.leaving = false))
    let exits : Prop := rd SG_QUIET_QUIET s = 0 ∨ rd ROOK_STAT_PA s = 1 ∨ rd FL_STAT_CAP s ≠ 0
    let vend : Instr := .vendorRuntimeStart fit1 ranks dens ok0 ok1 repaired fl
    let starts : Prop := s.pawn.booted = true ∧ rd FL_STAT_STATE s = 0
    let bad (code : Nat) (t : State) : Prop := t.pawn.failed = slot.val :: s.pawn.failed ∧ t.mem = s.mem ∧ t.image = s.image ∧
      (roomAt 261 s → Logs 261 (code + slot.val) 0 t) ∧ (slotOpen (1 - slot.val) s = false → rd PWR_BOOT_NOIMAGE t = 1 ∧ rd PWR_STAT_FAULT t = 1)
    let loaded := loadImage im failed s
    let ready : Prop := s.image.owner = true ∧ s.image.started = none ∧ rd GLB_TLSTAT_RUN s = 0 ∧ rookArmed s = true ∧ rd GLB_TLSTAT_VALID s = 1 ∧
      (domLocked (rd TB_STAT_SEL s) s = true ∨ rd TB_STAT_STATE s = 5 ∨
        (rd PWR_START_STARTTO s ≠ 0 ∧ s.time.validAt + rd PWR_START_STARTTO s * 1000000000 ≤ s.ns.toNat))
    (up → Goes .pwrStandby s (fun t => stops t ∧ rd PWR_CTL_STANDBY t = 1 ∧ t.pawn.loss = false)) ∧
    (down → exec .pwrStandby s = .next s ∧ exec (.ppgLoss x) s = .next s ∧ exec (.ppgLossPersist x) s = .next s ∧
      exec (.pmbusPoll [r] levels) s = .next s ∧ exec (.avsStep target) s = .next s) ∧
    (st = 5 → Goes .stoppingFlushDone s (fun t => rd PWR_STAT_STATE t = 0 ∧ rd PWR_CTL_STANDBY t = 0 ∧ t.mem = MemSt.reset ∧
      rd GLB_TLSTAT_RUN t = 0 ∧ (∀ j, j < 12 → pen j t = 0) ∧ t.pawn.phase = (if s.pawn.loss then 6 else 0))) ∧
    (st ≠ 5 → exec .stoppingFlushDone s = .next s) ∧
    (up → entOn x.val s = true → x.val ∉ s.pawn.low → Goes (.ppgLoss x) s (fun t => x.val ∈ t.pawn.low ∧
      (roomAt 7 s → Logs 7 (0x1040 + x.val) 0 t) ∧ (x.val = 6 ∨ x.val = 7 → t.mem.dram = [] ∧ rd PWR_STAT_STATE t = 2 ∧ rd GLB_RSTCAUSE_WARM t = 1) ∧
      (x.val < 2 ∨ 9 ≤ x.val → t.mem = s.mem ∧ rd PWR_STAT_STATE t = st ∧ t.rook = s.rook) ∧ (x.val = 8 → s.rook.clkBad = false → t.rook.hw = true))) ∧
    (up → entOn x.val s = false ∨ x.val ∈ s.pawn.low → exec (.ppgLoss x) s = .next s) ∧
    (up → x.val ∈ s.pawn.low → x.val < 9 → Goes (.ppgLossPersist x) s (fun t => stops t ∧ t.pawn.loss = true)) ∧
    (x.val ∉ s.pawn.low ∨ 9 ≤ x.val → exec (.ppgLossPersist x) s = .next s) ∧
    (up → Goes (.pmbusPoll [r] levels) s (fun t => (∀ j, j < 12 → pen j s = 1 → rd (PWR_ENT_STAT_PG j) t = levels.toNat / 2 ^ j % 2) ∧
      (∀ j ∈ t.pawn.low, j ∈ s.pawn.low ∧ levels.getLsbD j = false) ∧
      (entOn i s = true → entPmb i s = true →
        (r.ack = true → rd (PWR_ENT_STAT_TEMP i) t = r.temp.toNat ∧ rd (PWR_ENT_TEL_IOUT i) t = r.iout.toNat ∧ rd (PWR_ENT_TEL_VOUT i) t = r.vout.toNat) ∧
        (r.ack = false ∨ r.fault = true → i ∈ t.pawn.pmbBad ∧ (i ∉ s.pawn.pmbBad → roomAt 7 s → Logs 7 (0x1060 + i) 0 t)) ∧
        (r.ack = true → r.fault = false → i ∉ t.pawn.pmbBad)))) ∧
    (avs → Goes (.avsStep target) s (fun t => rd PWR_AVS_VSET t = (if v < goal then min goal (v + 5) else max goal (v - 5)) ∧
      (target.toNat < 720 → t.pawn.avsLogged = true ∧ (s.pawn.avsLogged = false → roomAt 7 s → Logs 7 0x1080 0 t)))) ∧
    (¬avs → exec (.avsStep target) s = .next s) ∧
    (quiet → Goes .quietEntry s (fun t => rd PWR_STAT_STATE t = 3 ∧ (∀ j, j < 12 → entQoff j s = true → pen j t = 0) ∧
      (rd PWR_CNT_QUIET_COUNT s + 1 < 2 ^ 16 → rd PWR_CNT_QUIET_COUNT t = rd PWR_CNT_QUIET_COUNT s + 1))) ∧
    (¬quiet → exec .quietEntry s = .next s) ∧
    Goes .pwrRun s leave ∧ (exits → Goes .quietExit s leave) ∧ (¬exits → exec .quietExit s = .next s) ∧
    (starts → Goes vend s (fun t => rd (DRC_STAT_STATE 0) t = (if ok0 then 2 else 3) ∧
      (fit1 = true → rd (DRC_STAT_STATE 1) t = if ok1 then 2 else 3) ∧
      (ok0 = true → ok1 = true → fit1 = true → rd DRC_MAP_TOP t = 2 * 2 ^ (dens.val + 1) * 896) ∧
      (fit1 = false ∨ ok1 = false → rd DRC_MAP_ILV t = 0) ∧
      (ok0 = false → rd PWR_BOOT_NOIMAGE t = 1 ∧ rd PWR_STAT_FAULT t = 1 ∧ (roomAt 94 s → Logs 94 0xB140 0 t) ∧ (roomAt 261 s → Logs 261 0x2070 0 t)) ∧
      (s.flash.formatted = false → rd FL_STAT_STATE t = 4) ∧ (s.flash.formatted = true → rd FL_STAT_STATE t = 2 ∨ rd FL_STAT_STATE t = 3))) ∧
    (¬starts → exec vend s = .next s) ∧
    (admitting slot.val s = false → exec (.slotAdmission slot im failed) s = .next s) ∧
    (admitting slot.val s = true →
      (imageIntegrity im s = false → Goes (.slotAdmission slot im failed) s (bad 0x2020)) ∧
      (imageIntegrity im s = true → imageForm im = false ∨ configOk loaded.2 = false → Goes (.slotAdmission slot im failed) s (bad 0x2040)) ∧
      (imageIntegrity im s = true → imageForm im = true → configOk loaded.2 = true →
        (loaded.1 = true → Goes (.slotAdmission slot im failed) s (fun t => rd (bitOf PWR_BOOT_TRIED slot.val) t = 1 ∧ rd PWR_STAT_STATE t = 2 ∧
          rd GLB_RSTCAUSE_WARM t = 1)) ∧
        (loaded.1 = false → Goes (.slotAdmission slot im failed) s (fun t => rd FL_SLOTST_BOOTED t = slot.val ∧ rd PWR_BOOT_SLOT t = slot.val)))) ∧
    (ready → Goes .audioStart s (fun t => rd GLB_TLSTAT_RUN t = 1 ∧ rd SG_CTL_RUN t = 1 ∧ rd TEMPO_CTL_EN t = 1 ∧ rd MOD_GCTL_RUN t = 1 ∧
      (∀ n, n < 16 → rd (POD_CTL_RUN n) t = 1) ∧ rd GLB_GEN_GEN t = 0 ∧ rd PWR_BOOT_FAILS t = 0 ∧ rd PWR_BOOT_TRIED t = 0 ∧
      t.image.started = some s.tl.k.toNat)) ∧
    (¬ready → exec .audioStart s = .next s)

/-- Sessions and messages (R10, R215, R216, R535, R536, R537, R538, R539, R540, R541, R551, R557): HELLO makes a session or is answered in
clear; a message is checked in its order, discarded in silence or answered; copies are answered again; sessions end; EVENTs carry the
records that wait; and records that wait too long are dropped and counted.
Readings and choices of the model in it: log entries 27 (DESIGN CHOICE), 71 (DEDUCED), 74 (DESIGN CHOICE), 75 (DEDUCED), 76 (DEDUCED). -/
def Obligations.HalvonChecksMessagesAndKeepsSessions : Prop :=
  ∀ (formOk : Bool) (role : Fin 16) (seq num : BitVec 32) (cert : RoleCert) (h : MsgHead) (x : Session) (els : List ParamAddr) (sets : List ParamElem)
    (scene mask max : BitVec 16) (mode div op flags : BitVec 8) (meters : List (BitVec 16)) (capid first : BitVec 32) (start stop : BitVec 64)
    (rec : SakRecord) (kind : EventKind) (s : State),
    let sq := h.seq.toNat
    let kept (t : State) : Prop := t.halv.sessions = s.halv.sessions ∧ t.mem = s.mem ∧ t.tl = s.tl
    let up1 (n : Nat) : Nat := min (n + 1) 0xFFFFFFFF
    let past : Prop := tlValid s = true ∧ x.notAfter ≠ BitVec.allOnes 64 ∧ x.notAfter.toNat < s.ns.toNat / 1000000000
    let framed : Prop := h.formOk = true ∧ getSession h.session.toNat s = some x ∧ (x.opened = true ∨ sq = 1)
    let inWindow : Prop := sq ≠ 0 ∧ x.high < sq + 64
    let authentic : Prop := framed ∧ inWindow ∧ h.tagOk = true ∧ ¬past
    let fresh : Prop := authentic ∧ sq ∉ x.seen ∧ sq < 2 ^ 32 - 1 ∧ x.tx < 2 ^ 32 - 100
    let plain : Prop := h.apply = 0 ∧ h.now = false ∧ h.ptp = false ∧ h.bodyOk = true
    let role3 : Prop := h.role.val = x.role ∧ roleDefined x.role s = true
    let answer (typ st idx : Nat) (t : State) : Prop := ∃ m, t.halv.out = [m] ∧ m.typ = typ ∧ m.session = x.num ∧ m.seq = x.tx + 1 ∧ m.reqSeq = sq ∧
      m.status = st ∧ m.errIdx = idx ∧ m.more = false
    let clear (typ st : Nat) (t : State) : Prop := ∃ m, t.halv.out = [m] ∧ m.typ = typ ∧ m.session = 0 ∧ m.status = st
    let certOk : Prop := cert.sigOk = true ∧ role = cert.role ∧ roleDefined role.val s = true ∧ cert.serial ∉ s.image.revoked ∧
      (cert.forDevice = true → cert.device = deviceIdKs s) ∧ certTime cert s = true
    let few : Prop := (lastSecond s.halv.helloTimes s).length < 20
    let reqs : List (Instr × Nat × Option Nat) := [(.bye h, 0x03, none), (.keyroll h, 0x04, some 9), (.get h els, 0x10, some 0), (.set h sets, 0x11, some 1),
      (.scene h scene, 0x12, some 4), (.meterSub h mode div meters, 0x13, some 2), (.eventSub h mask, 0x14, some 3),
      (.capture h op flags capid start stop, 0x16, some 5), (.castle h, 0x17, some 6), (.logRead h first max, 0x18, some 7), (.life h, 0x19, some 8),
      (.macsecRekey h rec, 0x1A, some 10)]
    let timed (typ : Nat) : Prop := typ = 0x11 ∨ typ = 0x12 ∨ typ = 0x1A
    (∀ e ∈ reqs,
      (h.formOk = false ∨ getSession h.session.toNat s = none → Goes e.1 s (fun t => t.halv.out = [] ∧ kept t)) ∧
      (framed → h.oldOk = false → ¬inWindow → Goes e.1 s (fun t => t.halv.out = [] ∧ kept t ∧ t.halv.replays = up1 s.halv.replays)) ∧
      (framed → h.oldOk = false → inWindow → h.tagOk = false → Goes e.1 s (fun t => t.halv.out = [] ∧ kept t ∧ t.halv.tagFails = up1 s.halv.tagFails)) ∧
      (framed → inWindow → h.tagOk = true → past → Goes e.1 s (fun t => t.halv.out = [] ∧ kept t)) ∧
      (authentic → sq ∈ x.seen →
        (∀ ms, (x.replies.find? fun r => r.1 == false && r.2.1 == sq) = some (false, sq, ms) →
          Goes e.1 s (fun t => t = { s with halv := { s.halv with out := ms } })) ∧
        ((∀ r ∈ x.replies, ¬(r.1 = false ∧ r.2.1 = sq)) → Goes e.1 s (fun t => t.halv.out = [] ∧ kept t ∧ t.halv.replays = up1 s.halv.replays))) ∧
      (fresh → ¬role3 → Goes e.1 s (fun t => answer e.2.1 0x03 0xFFFF t ∧ t.tl = s.tl)) ∧
      (fresh → role3 → ∀ b, e.2.2 = some b → rolePermits x.role b s = false → Goes e.1 s (fun t => answer e.2.1 0x04 0xFFFF t ∧ t.tl = s.tl)) ∧
      (fresh → role3 → (∀ b, e.2.2 = some b → rolePermits x.role b s = true) →
        h.bodyOk = false ∨ (h.now = true ∧ h.ptp = true) ∨ (¬timed e.2.1 ∧ (h.apply ≠ 0 ∨ h.now = true ∨ h.ptp = true)) →
        Goes e.1 s (fun t => answer e.2.1 0x01 0xFFFF t ∧ t.tl = s.tl ∧ ∃ y, getSession x.num t = some y ∧ y.opened = true ∧ y.high = Nat.max x.high sq ∧
          sq ∈ y.seen))) ∧
    (fresh → role3 → plain → Goes (.bye h) s (fun t => answer 0x03 0 0xFFFF t ∧ getSession x.num t = none)) ∧
    (fresh → role3 → plain → rolePermits x.role 9 s = true → Goes (.keyroll h) s (fun t => answer 0x04 0 0xFFFF t ∧
      (∀ m ∈ t.halv.out, m.body.length = 33) ∧ ∃ y l, getSession x.num t = some y ∧ y.high = 0 ∧ y.seen = [] ∧ y.tx = 0 ∧ y.old = some (Nat.max x.high sq, l) ∧ sq ∈ l)) ∧
    (framed → h.tagOk = false → h.oldOk = true → ∀ hi, x.old = some (hi, []) → sq ≠ 0 → hi < sq + 64 → ¬past → sq < 2 ^ 32 - 1 → x.tx < 2 ^ 32 - 100 →
      role3 → plain → rolePermits x.role 9 s = true → Goes (.keyroll h) s (answer 0x04 0x16 0xFFFF)) ∧
    (formOk = false → Goes (.hello formOk role seq cert) s (fun t => t.halv.out = [] ∧ kept t) ∧ Goes (.devcert formOk seq) s (fun t => t.halv.out = [] ∧ kept t)) ∧
    (¬few → Goes (.hello true role seq cert) s (fun t => t.halv.out = [] ∧ kept t ∧ t.halv.helloDrops = up1 s.halv.helloDrops) ∧
      Goes (.devcert true seq) s (fun t => t.halv.out = [] ∧ kept t ∧ t.halv.helloDrops = up1 s.halv.helloDrops)) ∧
    (few → Goes (.devcert true seq) s (fun t => clear 2 0 t ∧ (∀ m ∈ t.halv.out, m.body = deviceCert s) ∧ kept t)) ∧
    (few → ¬certOk → ∃ st, st ∈ [0x10, 0x03, 0x11] ∧ Goes (.hello true role seq cert) s (fun t => clear 1 st t ∧ kept t ∧
      (roomAt 261 s → Logs 261 0xD001 0 t))) ∧
    (few → cert.sigOk = false → Goes (.hello true role seq cert) s (clear 1 0x10)) ∧
    (few → cert.sigOk = true → role ≠ cert.role → Goes (.hello true role seq cert) s (clear 1 0x03)) ∧
    (few → certOk → 64 ≤ s.halv.sessions.length → Goes (.hello true role seq cert) s (fun t => clear 1 0x12 t ∧ kept t)) ∧
    (few → certOk → s.halv.sessions.length < 64 → deviceKeyOk s = true → rd KS_STAT_TRNG_OK s = 1 → Goes (.hello true role seq cert) s (fun t =>
      ∃ y m, t.halv.sessions = s.halv.sessions ++ [y] ∧ y.num ≠ 0 ∧ (∀ z ∈ s.halv.sessions, z.num ≠ y.num) ∧ y.role = role.val ∧ y.opened = false ∧
        y.high = 0 ∧ t.halv.out = [m] ∧ m.typ = 1 ∧ m.session = y.num ∧ m.seq = 0 ∧ m.body.length = 33)) ∧
    (getSession num.toNat s = none → exec (.sessionOpenTimeout num) s = .next s ∧ exec (.sessionExpiry num) s = .next s ∧ exec (.event num kind) s = .next s ∧
      exec (.eventDropTimeout num kind) s = .next s) ∧
    Goes (.sessionIdleTimeout num) s (fun t => getSession num.toNat t = none ∧ ∀ z ∈ s.halv.sessions, z.num ≠ num.toNat → z ∈ t.halv.sessions) ∧
    (getSession num.toNat s = some x →
      (x.opened = true → exec (.sessionOpenTimeout num) s = .next s) ∧
      (x.opened = false → Goes (.sessionOpenTimeout num) s (fun t => getSession num.toNat t = none)) ∧
      (tlValid s = true → x.notAfter ≠ BitVec.allOnes 64 → x.notAfter.toNat * 1000000000 ≤ blockStart (s.tl.k.toNat + 1) →
        Goes (.sessionExpiry num) s (fun t => getSession num.toNat t = none ∧ (roomAt 261 s → Logs 261 0xD002 0 t))) ∧
      (tlValid s = false ∨ x.notAfter = BitVec.allOnes 64 → exec (.sessionExpiry num) s = .next s) ∧
      Goes (.oldKeyExpiry num) s (fun t => ∃ y, getSession num.toNat t = some y ∧ y.old = none ∧ y.high = x.high ∧ y.seen = x.seen) ∧
      (let mine := (x.queue.filter fun e => e.1 == kind).map (·.2)
       let cap := (match kind with | .meter => 37 | .fault => 42)
       let lost := (match kind with | .meter => x.dropMeter | .fault => x.dropFault)
       (mine = [] ∨ 100 ≤ (lastSecond x.sent s).length → exec (.event num kind) s = .next s) ∧
       (mine ≠ [] → (lastSecond x.sent s).length < 100 → x.tx < 2 ^ 32 - 100 → Goes (.event num kind) s (fun t => ∃ m y, t.halv.out = [m] ∧ m.typ = 0x15 ∧
         m.session = x.num ∧ m.seq = x.tx + 1 ∧ m.body[0]? = some (BitVec.ofNat 32 ((match kind with | .meter => 1 | .fault => 2) * 16777216 + Nat.min mine.length cap)) ∧
         m.body[1]? = some (BitVec.ofNat 32 lost) ∧ getSession num.toNat t = some y ∧ y.tx = x.tx + 1 ∧
         (y.queue.filter fun e => e.1 == kind).map (·.2) = mine.drop cap ∧ (match kind with | .meter => y.dropMeter | .fault => y.dropFault) = 0)) ∧
       (mine = [] → exec (.eventDropTimeout num kind) s = .next s) ∧
       (mine ≠ [] → Goes (.eventDropTimeout num kind) s (fun t => t.halv.eventDrops = up1 s.halv.eventDrops ∧ ∃ y, getSession num.toNat t = some y ∧
         (y.queue.filter fun e => e.1 == kind).map (·.2) = mine.drop 1 ∧ (match kind with | .meter => y.dropMeter | .fault => y.dropFault) = lost + 1))))

/-- What a message of a session does once its head has passed (R36, R37, R226, R333, R544, R545, R546, R547, R549, R552, R553, R554): values
are read, sets and scenes go in as one message of changes, meters and classes are subscribed, windows open and stop, castlings are
requested, the log, the life summary and rekeys are served, each with the status of its rule.
Readings and choices of the model in it: log entries 71 (DEDUCED), 72 (DEDUCED), 73 (DEDUCED), 74 (DESIGN CHOICE), 75 (DEDUCED). -/
def Obligations.HalvonRequestsHaveTheirEffects : Prop :=
  ∀ (h : MsgHead) (x : Session) (els : List ParamAddr) (a : ParamAddr) (sets : List ParamElem) (e : ParamElem) (scene mask max : BitVec 16) (div op flags : BitVec 8)
    (meters : List (BitVec 16)) (meter : BitVec 16) (capid first : BitVec 32) (start stop : BitVec 64) (r : SakRecord) (s : State),
    let sq := h.seq.toNat
    let b := s.tl.k.toNat
    let past : Prop := tlValid s = true ∧ x.notAfter ≠ BitVec.allOnes 64 ∧ x.notAfter.toNat < s.ns.toNat / 1000000000
    let ok (perm : Nat) : Prop := h.formOk = true ∧ getSession h.session.toNat s = some x ∧ (x.opened = true ∨ sq = 1) ∧ sq ≠ 0 ∧ x.high < sq + 64 ∧
      h.tagOk = true ∧ ¬past ∧ sq ∉ x.seen ∧ sq < 2 ^ 32 - 1 ∧ x.tx < 2 ^ 32 - 2000 ∧ h.role.val = x.role ∧ roleDefined x.role s = true ∧
      rolePermits x.role perm s = true ∧ h.bodyOk = true
    let plain (perm : Nat) : Prop := ok perm ∧ h.apply = 0 ∧ h.now = false ∧ h.ptp = false
    let timed (perm : Nat) : Prop := ok perm ∧ ¬(h.now = true ∧ h.ptp = true) ∧ (h.now = true → h.apply = 0) ∧ (h.ptp = false → h.apply.toNat < 2 ^ 32)
    let answer (typ st idx : Nat) (Q : HalvonOut → Prop) (t : State) : Prop := ∃ m, t.halv.out = [m] ∧ m.typ = typ ∧ m.session = x.num ∧ m.seq = x.tx + 1 ∧
      m.reqSeq = sq ∧ m.status = st ∧ m.errIdx = idx ∧ m.more = false ∧ Q m
    let any (_ : HalvonOut) : Prop := True
    let with_ (t : State) (Q : Session → Prop) : Prop := ∃ y, getSession x.num t = some y ∧ Q y
    let holder : Prop := ¬(paired s = true ∧ rd DRN_STAT_MATCH s = 1 ∧ isHolder s = false)
    let change (es : List ParamElem) : MsgRes × State :=
      let cs := es.map fun e => ({ elem := .par e.addr.inst e.addr.pid e.addr.index, value := e.value, apply := 0 } : Change)
      acceptChanges cs (applyOf h s) (changeWords (s.tl.pend ++ cs) s) s
    let changes (i : Instr) (typ : Nat) (es : List ParamElem) : Prop :=
      (holder → ∀ y late, (change es).1 = .accepted y late → Goes i s (fun t => answer typ 0 0xFFFF (fun m => m.late = late ∧ m.applyBsn = y) t ∧
        t.tl.pend = (change es).2.tl.pend)) ∧
      (holder → (change es).1 = .far → Goes i s (fun t => answer typ 0x0A 0xFFFF any t ∧ t.tl.pend = s.tl.pend)) ∧
      (holder → (change es).1 = .full → Goes i s (fun t => answer typ 0x0B 0xFFFF any t ∧ t.tl.pend = s.tl.pend)) ∧
      (holder → (change es).1 = .taint → Goes i s (fun t => answer typ 0x0F 0xFFFF any t ∧ t.tl.pend = s.tl.pend)) ∧
      (¬holder → Goes i s (fun t => answer typ 0x0E 0xFFFF any t ∧ t.tl.pend = s.tl.pend))
    let total := (s.halv.sessions.map fun q => q.meters.length).foldl (· + ·) 0
    let bsn := b % 2 ^ 32
    let st0 := if flags.getLsbD 2 then (b + 1) % 2 ^ 32 else if flags.getLsbD 0 then blockFrom start.toNat % 2 ^ 32 else start.toNat % 2 ^ 32
    let win := resolveWindow bsn st0 (capStop flags (movedStart bsn st0) stop)
    let openOk : Prop := plain 5 ∧ op = 0 ∧ flags.toNat < 32 ∧ capid = 0 ∧ holder
    let stopOk : Prop := plain 5 ∧ (op = 1 ∨ op = 2) ∧ flags.toNat < 32 ∧ holder
    let cap : Instr := .capture h op flags capid start stop
    let log := (s.flash.pages.flatten.filter fun e => !serialLater 32 first.toNat e.1).take max.toNat
    let at_ := if h.now then (b + 1) % 2 ^ 32 else if h.ptp then blockFrom h.apply.toNat % 2 ^ 32 else h.apply.toNat
    let rekey (y : Nat) : Change := ⟨.rekey ⟨r.mac.val, by omega⟩ r.an, 0, BitVec.ofNat 32 y⟩
    let slot := 4 * r.mac.val + r.an.val
    (plain 0 → els.length ≤ 111 → (∀ q ∈ els, q.inst ≠ 0xF0 ∧ paramValue q s ≠ none ∧ (x.role = 0 ∨ ∃ g ∈ s.image.grants, grantCovers g x.role false q = true)) →
      Goes (.get h els) s (answer 0x10 0 0xFFFF fun m => m.body = BitVec.ofNat 32 (rd GLB_GEN_GEN s * 65536 + els.length) ::
        els.flatMap fun q => [q.inst ++ q.pid ++ (0 : BitVec 8), q.index, (paramValue q s).getD 0])) ∧
    (plain 0 → paramValue a s = none → Goes (.get h [a]) s (answer 0x10 0x07 0 any)) ∧
    (plain 0 → paramValue a s ≠ none → x.role ≠ 0 → (∀ g ∈ s.image.grants, grantCovers g x.role false a = false) → Goes (.get h [a]) s (answer 0x10 0x05 0 any)) ∧
    (timed 1 → sets ≠ [] → sets.length ≤ 113 → (∀ q ∈ sets, setStatus x.role false q s = none) → changes (.set h sets) 0x11 sets) ∧
    (timed 1 → Goes (.set h []) s (answer 0x11 0x01 0xFFFF any)) ∧
    (timed 1 → ∀ st, setStatus x.role false e s = some st → Goes (.set h [e]) s (fun t => answer 0x11 st 0 any t ∧ t.tl = s.tl)) ∧
    (timed 1 → paramValue e.addr s ≠ none → x.role = 0 → e.addr.inst = 0xFF → Goes (.set h [e]) s (answer 0x11 0x09 0 any)) ∧
    (timed 4 → (∀ q ∈ s.image.scenes, q.1 ≠ scene.toNat) → Goes (.scene h scene) s (answer 0x12 0x07 0xFFFF any)) ∧
    (timed 4 → ∀ q, (s.image.scenes.find? fun q => q.1 == scene.toNat) = some q → (∀ y ∈ q.2, setStatus x.role true y s = none) →
      changes (.scene h scene) 0x12 q.2) ∧
    (plain 2 → meters ≠ [] → meters.length ≤ 64 → div ≠ 0 → (∀ m ∈ meters, m.toNat < 1024) →
      ((∀ m ∈ meters, meterGranted x.role m.toNat s = true) → x.meters.length + meters.length ≤ 256 → total + meters.length ≤ 2048 →
        Goes (.meterSub h 1 div meters) s (fun t => answer 0x13 0 0xFFFF any t ∧ with_ t fun y =>
          (∀ m ∈ meters, ∃ c, (m.toNat, div.toNat, c) ∈ y.meters) ∧ ∀ q ∈ x.meters, (∀ m ∈ meters, m.toNat ≠ q.1) → q ∈ y.meters)) ∧
      Goes (.meterSub h 0 div meters) s (fun t => answer 0x13 0 0xFFFF any t ∧ with_ t fun y =>
        ∀ q, q ∈ y.meters ↔ q ∈ x.meters ∧ ∀ m ∈ meters, m.toNat ≠ q.1)) ∧
    (plain 2 → div ≠ 0 → 1024 ≤ meter.toNat → Goes (.meterSub h 1 div [meter]) s (answer 0x13 0x07 0 any)) ∧
    (plain 2 → Goes (.meterSub h 1 0 meters) s (answer 0x13 0x01 0xFFFF any)) ∧
    (plain 3 → Goes (.eventSub h mask) s (fun t => answer 0x14 0 0xFFFF any t ∧ with_ t fun y => y.mask = mask)) ∧
    (plain 5 → 2 < op.toNat ∨ 32 ≤ flags.toNat ∨ (op = 0 ∧ capid ≠ 0) → Goes cap s (answer 0x16 0x01 0xFFFF any)) ∧
    (plain 5 → op.toNat ≤ 2 → flags.toNat < 32 → capid = 0 → ¬holder → Goes cap s (answer 0x16 0x0E 0xFFFF any)) ∧
    (openOk → win = .empty → Goes cap s (answer 0x16 0x0C 0xFFFF any)) ∧ (openOk → win = .long → Goes cap s (answer 0x16 0x0D 0xFFFF any)) ∧
    (openOk → win = .far → Goes cap s (answer 0x16 0x0A 0xFFFF any)) ∧
    (openOk → ∀ y z late, win = .ok y z late →
      let o := openCapture (absBlock y s) (absBlock z s) (flags.getLsbD 4) s
      (o.1 = .ok → Goes cap s (fun t => answer 0x16 0 0xFFFF (fun m => m.late = late ∧ m.applyBsn = y % 2 ^ 32 ∧
          m.body = [BitVec.ofNat 32 (rd FL_CAP_CAPID t), BitVec.ofNat 32 y, BitVec.ofNat 32 z]) t ∧ rd FL_STAT_CAP t = 1 ∧ t.flash.window = o.2.flash.window)) ∧
      (o.1 = .rate → Goes cap s (answer 0x16 0x15 0xFFFF any)) ∧ (o.1 = .space → Goes cap s (answer 0x16 0x14 0xFFFF any)) ∧
      (o.1 = .wear → Goes cap s (answer 0x16 0x13 0xFFFF any)) ∧ (o.1 = .state → Goes cap s (answer 0x16 0x16 0xFFFF any))) ∧
    (stopOk → s.flash.window = none → (∀ c ∈ s.flash.captures, c.id ≠ capid.toNat) → Goes cap s (answer 0x16 0x07 0xFFFF any)) ∧
    (stopOk → ∀ w, s.flash.window = some w → w.id = capid.toNat →
      let ws := w.start % 2 ^ 32
      let res := resolveStop bsn ws (if op = 2 then (bsn + 1) % 2 ^ 32 else capStop flags ws stop) (Nat.ble w.start b)
      (res = .far → Goes cap s (answer 0x16 0x0A 0xFFFF any)) ∧
      (∀ y z late, res = .ok y z late → (changeStop w (absBlock z s) s).1 = .ok → Goes cap s (fun t =>
        answer 0x16 0 0xFFFF (fun m => m.stopLate = (late && !(op == 2)) ∧ m.body = [BitVec.ofNat 32 w.id, BitVec.ofNat 32 ws, BitVec.ofNat 32 z]) t ∧
        t.flash.window = some { w with stop := absBlock z s })) ∧
      (∀ y z late, res = .ok y z late → (changeStop w (absBlock z s) s).1 = .wear → Goes cap s (fun t => answer 0x16 0x13 0xFFFF any t ∧ t.flash.window = some w))) ∧
    (plain 6 → (s.pair.castling = none → paired s = false → Goes (.castle h) s (answer 0x17 0x16 0xFFFF any)) ∧
      (∀ c, s.pair.castling = some c → Goes (.castle h) s (answer 0x17 0 0xFFFF fun m => m.applyBsn = c.block % 2 ^ 32)) ∧
      (s.pair.castling = none → paired s = true → kstate s = kHOLD → standbyFit s = true →
        Goes (.castle h) s (answer 0x17 0 0xFFFF fun m => m.applyBsn = (b + rd DRN_CFG2_CLEAD s) % 2 ^ 32)) ∧
      (s.pair.castling = none → paired s = true → kstate s = kHOLD → standbyFit s = false → Goes (.castle h) s (answer 0x17 0x16 0xFFFF any)) ∧
      (s.pair.castling = none → paired s = true → kstate s ≠ kHOLD → Goes (.castle h) s (fun t => t.halv.out = [] ∧ (x.num, sq) ∈ t.halv.castle))) ∧
    (plain 7 → max = 0 → Goes (.logRead h first max) s (answer 0x18 0x01 0xFFFF any)) ∧
    (plain 7 → max ≠ 0 → log.length ≤ 41 → Goes (.logRead h first max) s (answer 0x18 0 0xFFFF fun m =>
      m.body = BitVec.ofNat 32 (log.length * 65536) :: log.flatMap fun q => recWords q.1 q.2)) ∧
    (plain 8 → Goes (.life h) s (fun t => ∃ m n, t.halv.out = [m, n] ∧ m.more = true ∧ n.more = false ∧ m.typ = 0x19 ∧ m.status = 0 ∧ m.body.length = 16 ∧
      n.typ = 0x19 ∧ n.body = deviceCert s ∧ m.seq = x.tx + 1 ∧ n.seq = x.tx + 2)) ∧
    (timed 10 → rekeyOk r.mac.val r.an.val s = false → Goes (.macsecRekey h r) s (fun t => answer 0x1A 0x16 0xFFFF any t ∧ t.ks = s.ks)) ∧
    (timed 10 → rekeyOk r.mac.val r.an.val s = true →
      (judgeApply b at_ = .far → Goes (.macsecRekey h r) s (fun t => answer 0x1A 0x0A 0xFFFF any t ∧ t.ks = s.ks)) ∧
      (∀ y, judgeApply b at_ = .held y ∨ judgeApply b at_ = .late y →
        (storeHolds s.tl.pend [rekey y] = false → Goes (.macsecRekey h r) s (fun t => answer 0x1A 0x0B 0xFFFF any t ∧ t.ks = s.ks)) ∧
        (storeHolds s.tl.pend [rekey y] = true → Goes (.macsecRekey h r) s (fun t => answer 0x1A 0 0xFFFF (fun m => m.applyBsn = y ∧
          (m.late = true ↔ judgeApply b at_ = .late y)) t ∧ rekey y ∈ t.tl.pend ∧ slotValid slot t = true ∧ (slot, r.key) ∈ t.ks.keys))))

/-- Register writes, records and island resets (R139, R454, R464, R504, R558, R562, R563, R567, R575, R577, R578, R588): a write is refused by the
firewall, answered as a decode error or as of an island in reset, refused by its block, or lands by its access types; records are
taken in, in rotation; an island in reset holds its reset values until the reset ends and its supply has returned.
Readings and choices of the model in it: log entries 56 (DEDUCED), 58 (DEDUCED), 59 (DEDUCED), 62 (DEDUCED), 89 (DEDUCED). -/
def Obligations.WritesRecordsAndResetsFollowTheirRules : Prop :=
  ∀ (master : BitVec 6) (user met : Bool) (addr v : BitVec 32) (code : BitVec 16) (n : Fin 275) (l : Fin 16) (br : Fin 64) (s : State),
    let m := master.toNat
    let a := addr.toNat
    let w : Instr := .registerWrite master user met addr v
    let counts (f : FRef) (t : State) : Prop := rd f s + 1 < 2 ^ 16 → rd f t = rd f s + 1
    let space : Prop := 0x40000000 ≤ a ∧ a < 0x50000000
    let allowed : Prop := space ∧ fwRefusal m true user a s = none
    let served : Prop := allowed ∧ a % 4 = 0 ∧ (rowOf a).isSome = true ∧ islandState (islandOf a) s < 2
    let refused (d : Nat) : Prop := Goes w s (fun t => t.mem = s.mem ∧ counts XB_CNT2_FWREF_COUNT t ∧
      (roomAt 93 s → ∃ r ∈ feuQueue 93 t, r.code = BitVec.ofNat 16 (0x6000 + d) ∧ r.arg = addr ∧ r.master = master ∧ r.write = true ∧ r.user = user))
    let old := rdReg a s
    let pm := accMask isPlain a
    let cm := accMask (· == .w1c) a
    let sm := accMask (· == .w1s) a
    let landed := (((old &&& ~~~pm) ||| (v &&& pm)) &&& ~~~(v &&& cm)) ||| (v &&& sm)
    let i := n.val
    let aon : Prop := i = 0 ∨ i = 7 ∨ i = 28 ∨ i = 265
    let down (t : State) : Prop := rd (ISL_STAT_STATE i) t = 2
    let dip : Prop := i ∈ s.feu.dipped
    let ended (t : State) : Prop := rd (ISL_STAT_STATE i) t = 0 ∧ rd (ISL_CTL_RESET i) t = 0 ∧ i ∉ t.feu.dipped
    (∀ d, space → fwRefusal m true user a s = some d → refused d) ∧
    (0x4B000000 ≤ a → a < 0x4B001000 → m ≠ 0 → refused 4) ∧ (0x4A000000 ≤ a → a < 0x4A002000 → m ≠ 0 ∨ user = true → refused 2) ∧
    (allowed → a % 4 ≠ 0 ∨ blockOf a = none → Goes w s (fun t => counts XB_CNT_DECERR_COUNT t ∧ rd XB_DECERR_LO_ADDR t = a ∧
      rd XB_DECERR_HI_MASTER t = m ∧ (roomAt 93 s → Logs 93 0xB001 0 t) ∧ t.mem = s.mem)) ∧
    (allowed → a % 4 = 0 → blockOf a ≠ none → islandState (islandOf a) s = 2 → Goes w s (fun t => (roomAt 93 s → Logs 93 0xB003 0 t) ∧ t.mem = s.mem)) ∧
    (allowed → a % 4 = 0 → blockOf a ≠ none → islandState (islandOf a) s = 3 → exec w s = .next s) ∧
    (allowed → a % 4 = 0 → blockOf a ≠ none → islandState (islandOf a) s < 2 → rowOf a = none → a < 0x44418000 → exec w s = .next s) ∧
    (served → met = false → a < 0x40200000 → a % 0x10000 < 0x1000 → a ≠ TEMPO_POP_POP.addr → Goes w s (fun t =>
      rdReg a t = landed ∧ (∀ b, b ≠ a → rdReg b t = rdReg b s) ∧ t.mem = s.mem ∧ t.tl = s.tl ∧ t.cores = s.cores)) ∧
    (served → a = FEU_PEND_CLASS.addr → Goes w s (fun t => rd FEU_PEND_CLASS t = rd FEU_PEND_CLASS s - (rd FEU_PEND_CLASS s &&& v.toNat % 2 ^ 16) ∧
      ∀ b, b ≠ a → rdReg b t = rdReg b s)) ∧
    (served → met = true → a = (LN_TXEQ_PRE l.val).addr → v.toNat % 16 + v.toNat / 256 % 32 ≤ 32 → Goes w s (fun t => rd (LN_TXEQ_PRE l.val) t = rd (LN_TXEQ_PRE l.val) s ∧
      rd (LN_TXEQ_FIXED l.val) t = v.toNat / 2 ^ 31 ∧ rd (ISL_STAT_COLLIDE (30 + l.val)) t = 1 ∧ rd (ISL_COLL_ADDR (30 + l.val)) t = a % 2 ^ 28)) ∧
    (served → a = (BRG_CFG_EN br.val).addr → rd SG_CTL_RUN s = 1 → exec w s = .next (wrB (BRG_STAT_CFGERR br.val) true s)) ∧
    (served → isTable a = false → a ≠ FEU_RAISE_CODE.addr → ∀ g, verdict a v old s = .refuse (some g) → exec w s = .next (wrB g true s)) ∧
    (code.toNat / 4096 ≠ 15 → Goes (.feuRaise code master user) s (fun t => roomAt 265 s → Logs 265 0xE201 0 t)) ∧
    (code.toNat / 4096 = 15 → Goes (.feuRaise code master user) s (fun t => roomAt 265 s → ∃ r ∈ feuQueue 265 t, r.code = code ∧
      r.arg.toNat = rd FEU_RAISEARG_ARG s ∧ r.island = masterIsland m ∧ r.master = master ∧ r.write = true ∧ r.user = user ∧ r.ns = s.ns)) ∧
    (s.feu.queues = [] → exec .feuIntake s = .next s) ∧
    (∀ isl r rest, (feuTurn s).head? = some isl → feuQueue isl s = r :: rest →
      let seq := rd FEU_SEQ_SEQUENCE s
      let cls := r.code.toNat / 4096
      Goes .feuIntake s (fun t => rd FEU_SEQ_SEQUENCE t = (seq + 1) % 2 ^ 32 ∧ t.feu.served = isl ∧
        (∀ k, k < 8 → some (rdReg (0x4C000020 + 4 * k) t) = (recWords seq r)[k]?) ∧
        rd (bitOf FEU_PEND_CLASS cls) t = 1 ∧ counts (classCount cls) t ∧
        (cls = 1 ∨ cls = 2 → rd PWR_FAULT_CODE t = r.code.toNat ∧ rd (flogRef 0) t = r.code.toNat ∧ ∀ k, k < 7 → rd (flogRef (k + 1)) t = rd (flogRef k) s) ∧
        (r.pair = false → s.flash.logBuf.length < 4096 → t.flash.logBuf = s.flash.logBuf ++ [(seq, r)]))) ∧
    (aon → exec (.islReset n) s = .next s ∧ exec (.supplyDip n) s = .next s) ∧
    (¬aon → inReset i s = true → exec (.islReset n) s = .next s) ∧
    (¬aon → inReset i s = false →
      (fatalIsland i = false → Goes (.islReset n) s (fun t => down t ∧ (∀ b, inIsland i b = true → rdReg b t = regReset b) ∧
        counts (ISL_CNT_RST_COUNT i) t ∧ (roomAt 265 s → Logs 265 (0xE000 + i) 0 t))) ∧
      (fatalIsland i = true → Goes (.islReset n) s (fun t => rd GLB_RSTCAUSE_WARM t = 1 ∧ rd PWR_STAT_STATE t = 2 ∧ (rd FL_STAT_STATE t = 0) ∧
        t.mem.dram = s.mem.dram))) ∧
    (inReset i s = true → ¬dip → Goes (.domainResetEnd n) s ended) ∧
    (inReset i s = false ∨ dip → exec (.domainResetEnd n) s = .next s) ∧
    (¬aon → ¬dip → Goes (.supplyDip n) s (fun t => i ∈ t.feu.dipped ∧ down t)) ∧
    (dip → exec (.supplyDip n) s = .next s) ∧
    (dip → inReset i s = true → Goes (.supplyReturn n) s ended) ∧
    (inReset i s = false → Goes (.supplyReturn n) s (fun t => i ∉ t.feu.dipped ∧ t.regs = s.regs ∧ t.mem = s.mem))
end

