-- ==== Sys2Proof/Laws/Maps.lean ====
section
/-! SUPPORT. The laws of sparse tables: a read after a write, and the canonical form that every operation keeps. -/

namespace Sys2Proof.Machine

variable {α : Type}

theorem mapGet_mapInsert_same (d : Nat → α) (m : List (Nat × α)) (k : Nat) (v : α) :
    mapGet d (mapInsert k v m) k = v := by
  induction m with
  | nil => simp [mapInsert, mapGet]
  | cons e r ih =>
    obtain ⟨k', v'⟩ := e
    by_cases h : k = k'
    · simp [mapInsert, mapGet, h]
    · by_cases g : k < k'
      · simp [mapInsert, mapGet, h, g]
      · simp [mapInsert, mapGet, h, g, ih]

theorem mapGet_mapInsert_ne (d : Nat → α) (m : List (Nat × α)) (k j : Nat) (v : α) (hj : j ≠ k) :
    mapGet d (mapInsert k v m) j = mapGet d m j := by
  induction m with
  | nil => simp [mapInsert, mapGet, hj]
  | cons e r ih =>
    obtain ⟨k', v'⟩ := e
    by_cases h : k = k'
    · subst h; simp [mapInsert, mapGet, hj]
    · by_cases g : k < k'
      · simp [mapInsert, mapGet, h, g, hj]
      · simp [mapInsert, mapGet, h, g, ih]

theorem mapGet_mapErase_same (d : Nat → α) (m : List (Nat × α)) (k : Nat) : mapGet d (mapErase k m) k = d k := by
  induction m with
  | nil => rfl
  | cons e r ih =>
    obtain ⟨k', v'⟩ := e
    by_cases h : k = k'
    · simp [mapErase, h, h ▸ ih]
    · simp [mapErase, mapGet, h, ih]

theorem mapGet_mapErase_ne (d : Nat → α) (m : List (Nat × α)) (k j : Nat) (hj : j ≠ k) :
    mapGet d (mapErase k m) j = mapGet d m j := by
  induction m with
  | nil => rfl
  | cons e r ih =>
    obtain ⟨k', v'⟩ := e
    by_cases h : k = k'
    · subst h; simp [mapErase, mapGet, hj, ih]
    · simp [mapErase, mapGet, h, ih]

variable [DecidableEq α]

/-- A read after a write to the same key gives the value written. -/
@[simp] theorem mapGet_mapSet_same (d : Nat → α) (m : List (Nat × α)) (k : Nat) (v : α) :
    mapGet d (mapSet d m k v) k = v := by
  unfold mapSet
  split
  · next h => rw [mapGet_mapErase_same, h]
  · exact mapGet_mapInsert_same d m k v

/-- A write leaves every other key alone. -/
theorem mapGet_mapSet_ne (d : Nat → α) (m : List (Nat × α)) (k j : Nat) (v : α) (hj : j ≠ k) :
    mapGet d (mapSet d m k v) j = mapGet d m j := by
  unfold mapSet
  split
  · exact mapGet_mapErase_ne d m k j hj
  · exact mapGet_mapInsert_ne d m k j v hj

omit [DecidableEq α] in
theorem mem_mapInsert {m : List (Nat × α)} {k : Nat} {v : α} {e : Nat × α} (h : e ∈ mapInsert k v m) :
    e = (k, v) ∨ e ∈ m := by
  induction m with
  | nil => simpa [mapInsert] using h
  | cons x r ih =>
    obtain ⟨k', v'⟩ := x
    simp only [mapInsert] at h
    split at h
    · rcases List.mem_cons.1 h with h | h
      · exact .inl h
      · exact .inr (List.mem_cons_of_mem _ h)
    · split at h
      · rcases List.mem_cons.1 h with h | h
        · exact .inl h
        · exact .inr h
      · rcases List.mem_cons.1 h with h | h
        · exact .inr (h ▸ List.mem_cons_self)
        · exact (ih h).imp id (List.mem_cons_of_mem _)

omit [DecidableEq α] in
theorem mem_mapErase {m : List (Nat × α)} {k : Nat} {e : Nat × α} (h : e ∈ mapErase k m) : e ∈ m := by
  induction m with
  | nil => exact h
  | cons x r ih =>
    obtain ⟨k', v'⟩ := x
    simp only [mapErase] at h
    split at h
    · exact List.mem_cons_of_mem _ (ih h)
    · rcases List.mem_cons.1 h with h | h
      · exact h ▸ List.mem_cons_self
      · exact List.mem_cons_of_mem _ (ih h)

omit [DecidableEq α] in
theorem mapSorted_cons (k : Nat) (v : α) (r : List (Nat × α)) :
    mapSorted ((k, v) :: r) = true ↔ (∀ e ∈ r, k < e.1) ∧ mapSorted r = true := by
  simp [mapSorted, Nat.blt_eq]

omit [DecidableEq α] in
theorem mapSorted_mapInsert {m : List (Nat × α)} (k : Nat) (v : α) (h : mapSorted m = true) :
    mapSorted (mapInsert k v m) = true := by
  induction m with
  | nil => rfl
  | cons x r ih =>
    obtain ⟨k', v'⟩ := x
    obtain ⟨h1, h2⟩ := (mapSorted_cons _ _ _).1 h
    simp only [mapInsert]
    split
    · next e => subst e; exact (mapSorted_cons _ _ _).2 ⟨h1, h2⟩
    · split
      · next g =>
        refine (mapSorted_cons _ _ _).2 ⟨fun e he => ?_, h⟩
        rcases List.mem_cons.1 he with he | he
        · exact he ▸ g
        · exact Nat.lt_trans g (h1 e he)
      · next n g =>
        refine (mapSorted_cons _ _ _).2 ⟨fun e he => ?_, ih h2⟩
        rcases mem_mapInsert he with he | he
        · subst he; show k' < k; omega
        · exact h1 e he

omit [DecidableEq α] in
theorem mapSorted_filter {m : List (Nat × α)} (p : Nat × α → Bool) (h : mapSorted m = true) :
    mapSorted (m.filter p) = true := by
  induction m with
  | nil => rfl
  | cons x r ih =>
    obtain ⟨k', v'⟩ := x
    obtain ⟨h1, h2⟩ := (mapSorted_cons _ _ _).1 h
    simp only [List.filter]
    split
    · exact (mapSorted_cons _ _ _).2 ⟨fun e he => h1 e (List.mem_filter.1 he).1, ih h2⟩
    · exact ih h2

omit [DecidableEq α] in
theorem mapErase_eq_filter (k : Nat) (m : List (Nat × α)) : mapErase k m = m.filter fun e => e.1 != k := by
  induction m with
  | nil => rfl
  | cons x r ih =>
    obtain ⟨k', v'⟩ := x
    by_cases h : k = k'
    · simp [mapErase, List.filter, h, h ▸ ih]
    · have : (k' != k) = true := by simp; omega
      simp [mapErase, List.filter, h, this, ih]

theorem mapWf_iff (d : Nat → α) (m : List (Nat × α)) :
    mapWf d m = true ↔ mapSorted m = true ∧ ∀ e ∈ m, e.2 ≠ d e.1 := by
  simp [mapWf]

/-- The empty table is in canonical form. -/
@[simp] theorem mapWf_nil (d : Nat → α) : mapWf d [] = true := rfl

/-- Taking entries out keeps the canonical form. -/
theorem mapWf_filter (d : Nat → α) (m : List (Nat × α)) (p : Nat × α → Bool) (h : mapWf d m = true) :
    mapWf d (m.filter p) = true := by
  obtain ⟨h1, h2⟩ := (mapWf_iff d m).1 h
  exact (mapWf_iff d _).2 ⟨mapSorted_filter p h1, fun e he => h2 e (List.mem_filter.1 he).1⟩

/-- A write keeps the canonical form. -/
theorem mapWf_mapSet (d : Nat → α) (m : List (Nat × α)) (k : Nat) (v : α) (h : mapWf d m = true) :
    mapWf d (mapSet d m k v) = true := by
  unfold mapSet
  split
  · rw [mapErase_eq_filter]; exact mapWf_filter d m _ h
  · next hv =>
    obtain ⟨h1, h2⟩ := (mapWf_iff d m).1 h
    refine (mapWf_iff d _).2 ⟨mapSorted_mapInsert k v h1, fun e he => ?_⟩
    rcases mem_mapInsert he with he | he
    · subst he; exact hv
    · exact h2 e he

/-- Dropping keys keeps the canonical form. -/
theorem mapWf_mapDrop (d : Nat → α) (m : List (Nat × α)) (p : Nat → Bool) (h : mapWf d m = true) :
    mapWf d (mapDrop p m) = true := mapWf_filter d m _ h

end Sys2Proof.Machine
end

