-- ==== Sys2Proof/Laws/Regs.lean ====
section
/-! SUPPORT. The laws of registers and their fields (R558, R568): a read after a write of the same field gives the value cut to
the field, and a write leaves every other field and every other register alone. -/

namespace Sys2Proof.Machine

theorem getLsbD_fieldMask (lo w i : Nat) (hi : i < 32) :
    (fieldMask lo w).getLsbD i = (decide (lo ≤ i) && decide (i < lo + w)) := by
  have h : (2 ^ w - 1).testBit (i - lo) = decide (i - lo < w) := Nat.testBit_two_pow_sub_one w _
  simp only [fieldMask, BitVec.getLsbD_shiftLeft, BitVec.getLsbD_ofNat, hi, decide_true, Bool.true_and, h]
  by_cases h1 : i < lo
  · have : ¬ lo ≤ i := by omega
    simp [h1, this]
  · have h3 : lo ≤ i := by omega
    have h4 : i - lo < 32 := by omega
    simp [h1, h3, h4]
    omega

theorem getLsbD_putField (x : Word) (lo w v i : Nat) (hi : i < 32) :
    (putField x lo w v).getLsbD i = if lo ≤ i ∧ i < lo + w then v.testBit (i - lo) else x.getLsbD i := by
  simp only [putField, BitVec.getLsbD_or, BitVec.getLsbD_and, BitVec.getLsbD_not, hi, decide_true, Bool.true_and,
    getLsbD_fieldMask, BitVec.getLsbD_shiftLeft, BitVec.getLsbD_ofNat]
  split
  · next h =>
    have h1 : ¬ i < lo := by omega
    have h4 : i - lo < 32 := by omega
    simp [h.1, h.2, h1, h4]
  · next h =>
    by_cases h1 : lo ≤ i
    · have h2 : ¬ i < lo + w := fun g => h ⟨h1, g⟩
      simp [h2]
    · simp [h1]

theorem getField_testBit (x : Word) (lo w i : Nat) :
    (getField x lo w).testBit i = (decide (i < w) && x.getLsbD (lo + i)) := by
  simp only [getField, Nat.testBit_mod_two_pow, Nat.testBit_div_two_pow, BitVec.getLsbD, Nat.add_comm]

/-- A field reads as the value written, cut to its width. -/
theorem getField_putField_same (x : Word) (lo w v : Nat) (h : lo + w ≤ 32) : getField (putField x lo w v) lo w = v % 2 ^ w := by
  apply Nat.eq_of_testBit_eq
  intro i
  rw [getField_testBit, Nat.testBit_mod_two_pow]
  by_cases hi : i < w
  · rw [getLsbD_putField _ _ _ _ _ (by omega)]
    have h1 : lo ≤ lo + i ∧ lo + i < lo + w := by omega
    simp [hi]
  · simp [hi]

/-- A write of a field leaves a field that shares no bit with it alone. -/
theorem getField_putField_other (x : Word) (lo w v lo' w' : Nat) (h : lo' + w' ≤ lo ∨ lo + w ≤ lo') :
    getField (putField x lo w v) lo' w' = getField x lo' w' := by
  apply Nat.eq_of_testBit_eq
  intro i
  rw [getField_testBit, getField_testBit]
  by_cases hi : i < w'
  · by_cases h32 : lo' + i < 32
    · rw [getLsbD_putField _ _ _ _ _ h32, if_neg (by omega)]
    · have e : ∀ y : Word, y.getLsbD (lo' + i) = false := fun y => BitVec.getLsbD_of_ge y _ (by omega)
      rw [e, e]
  · simp [hi]

theorem getField_lt (x : Word) (lo w : Nat) : getField x lo w < 2 ^ w := Nat.mod_lt _ (Nat.two_pow_pos w)

@[simp] theorem rdReg_wrReg_same (a : Nat) (v : Word) (s : State) : rdReg a (wrReg a v s) = v := mapGet_mapSet_same _ _ _ _

theorem rdReg_wrReg_ne (a b : Nat) (v : Word) (s : State) (h : b ≠ a) : rdReg b (wrReg a v s) = rdReg b s :=
  mapGet_mapSet_ne _ _ _ _ _ h

/-- A field reads as the value written to it, cut to its width. -/
theorem rd_wr_same (f : FRef) (v : Nat) (s : State) (h : f.lo + f.w ≤ 32) : rd f (wr f v s) = v % 2 ^ f.w := by
  simp [rd, wr, getField_putField_same _ _ _ _ h]

/-- A write of a field of another register leaves the field alone. -/
theorem rd_wr_addr (f g : FRef) (v : Nat) (s : State) (h : f.addr ≠ g.addr) : rd f (wr g v s) = rd f s := by
  simp [rd, wr, rdReg_wrReg_ne _ _ _ _ h]

/-- A write of another field of the same register leaves the field alone. -/
theorem rd_wr_bits (f g : FRef) (v : Nat) (s : State) (h : f.lo + f.w ≤ g.lo ∨ g.lo + g.w ≤ f.lo) :
    rd f (wr g v s) = rd f s := by
  by_cases e : f.addr = g.addr
  · simp [rd, wr, e, getField_putField_other _ _ _ _ _ _ h]
  · exact rd_wr_addr f g v s e

theorem rd_lt (f : FRef) (s : State) : rd f s < 2 ^ f.w := getField_lt _ _ _

/-- Fields read alike where the registers are alike. -/
theorem rd_congr {s t : State} (h : t.regs = s.regs) (f : FRef) : rd f t = rd f s := by simp [rd, rdReg, h]

/-- A count goes up by one while it is below its maximum (R569). -/
theorem count_below (cnt sat : FRef) (isl : Nat) (s : State) (h : rd cnt s + 1 < 2 ^ cnt.w) :
    count cnt sat isl s = wr cnt (rd cnt s + 1) s := by simp [count, h]

end Sys2Proof.Machine
end

