-- ==== Sys2Proof/Laws/State.lean ====
section
/-! SUPPORT. One lemma per field per update of the state, each true by computation, so that no later proof unfolds a record
update; then what a read of registers, cores and queues finds after an update that is none of its own. -/

namespace Sys2Proof.Machine

variable (s : State)

/-! ### `wrReg` -/

@[simp] theorem wrReg_regs (a : Nat) (v : Word) : (wrReg a v s).regs = mapSet regReset s.regs a v := rfl
@[simp] theorem wrReg_cores (a : Nat) (v : Word) : (wrReg a v s).cores = s.cores := rfl
@[simp] theorem wrReg_mem (a : Nat) (v : Word) : (wrReg a v s).mem = s.mem := rfl
@[simp] theorem wrReg_pods (a : Nat) (v : Word) : (wrReg a v s).pods = s.pods := rfl
@[simp] theorem wrReg_ns (a : Nat) (v : Word) : (wrReg a v s).ns = s.ns := rfl
@[simp] theorem wrReg_frac (a : Nat) (v : Word) : (wrReg a v s).frac = s.frac := rfl
@[simp] theorem wrReg_tl (a : Nat) (v : Word) : (wrReg a v s).tl = s.tl := rfl
@[simp] theorem wrReg_feu (a : Nat) (v : Word) : (wrReg a v s).feu = s.feu := rfl
@[simp] theorem wrReg_pair (a : Nat) (v : Word) : (wrReg a v s).pair = s.pair := rfl
@[simp] theorem wrReg_nS (a : Nat) (v : Word) : (wrReg a v s).nS = s.nS := rfl
@[simp] theorem wrReg_image (a : Nat) (v : Word) : (wrReg a v s).image = s.image := rfl
@[simp] theorem wrReg_graph (a : Nat) (v : Word) : (wrReg a v s).graph = s.graph := rfl
@[simp] theorem wrReg_mods (a : Nat) (v : Word) : (wrReg a v s).mods = s.mods := rfl
@[simp] theorem wrReg_edge (a : Nat) (v : Word) : (wrReg a v s).edge = s.edge := rfl
@[simp] theorem wrReg_sense (a : Nat) (v : Word) : (wrReg a v s).sense = s.sense := rfl
@[simp] theorem wrReg_senseAt (a : Nat) (v : Word) : (wrReg a v s).senseAt = s.senseAt := rfl
@[simp] theorem wrReg_rook (a : Nat) (v : Word) : (wrReg a v s).rook = s.rook := rfl
@[simp] theorem wrReg_ks (a : Nat) (v : Word) : (wrReg a v s).ks = s.ks := rfl
@[simp] theorem wrReg_time (a : Nat) (v : Word) : (wrReg a v s).time = s.time := rfl
@[simp] theorem wrReg_halv (a : Nat) (v : Word) : (wrReg a v s).halv = s.halv := rfl
@[simp] theorem wrReg_eth (a : Nat) (v : Word) : (wrReg a v s).eth = s.eth := rfl
@[simp] theorem wrReg_fb (a : Nat) (v : Word) : (wrReg a v s).fb = s.fb := rfl
@[simp] theorem wrReg_xb (a : Nat) (v : Word) : (wrReg a v s).xb = s.xb := rfl
@[simp] theorem wrReg_flash (a : Nat) (v : Word) : (wrReg a v s).flash = s.flash := rfl
@[simp] theorem wrReg_pawn (a : Nat) (v : Word) : (wrReg a v s).pawn = s.pawn := rfl
@[simp] theorem wrReg_lanes (a : Nat) (v : Word) : (wrReg a v s).lanes = s.lanes := rfl
@[simp] theorem wrReg_freeCtr (a : Nat) (v : Word) : (wrReg a v s).freeCtr = s.freeCtr := rfl
@[simp] theorem wrReg_pending (a : Nat) (v : Word) : (wrReg a v s).pending = s.pending := rfl
@[simp] theorem getPea_wrReg (a : Nat) (v : Word) (k : Nat) : getPea k (wrReg a v s) = getPea k s := rfl
@[simp] theorem getRun_wrReg (a : Nat) (v : Word) (k : Nat) : getRun k (wrReg a v s) = getRun k s := rfl
@[simp] theorem feuQueue_wrReg (a : Nat) (v : Word) (k : Nat) : feuQueue k (wrReg a v s) = feuQueue k s := rfl

/-! ### `wr` -/

@[simp] theorem wr_cores (f : FRef) (v : Nat) : (wr f v s).cores = s.cores := rfl
@[simp] theorem wr_mem (f : FRef) (v : Nat) : (wr f v s).mem = s.mem := rfl
@[simp] theorem wr_pods (f : FRef) (v : Nat) : (wr f v s).pods = s.pods := rfl
@[simp] theorem wr_ns (f : FRef) (v : Nat) : (wr f v s).ns = s.ns := rfl
@[simp] theorem wr_frac (f : FRef) (v : Nat) : (wr f v s).frac = s.frac := rfl
@[simp] theorem wr_tl (f : FRef) (v : Nat) : (wr f v s).tl = s.tl := rfl
@[simp] theorem wr_feu (f : FRef) (v : Nat) : (wr f v s).feu = s.feu := rfl
@[simp] theorem wr_pair (f : FRef) (v : Nat) : (wr f v s).pair = s.pair := rfl
@[simp] theorem wr_nS (f : FRef) (v : Nat) : (wr f v s).nS = s.nS := rfl
@[simp] theorem wr_image (f : FRef) (v : Nat) : (wr f v s).image = s.image := rfl
@[simp] theorem wr_graph (f : FRef) (v : Nat) : (wr f v s).graph = s.graph := rfl
@[simp] theorem wr_mods (f : FRef) (v : Nat) : (wr f v s).mods = s.mods := rfl
@[simp] theorem wr_edge (f : FRef) (v : Nat) : (wr f v s).edge = s.edge := rfl
@[simp] theorem wr_sense (f : FRef) (v : Nat) : (wr f v s).sense = s.sense := rfl
@[simp] theorem wr_senseAt (f : FRef) (v : Nat) : (wr f v s).senseAt = s.senseAt := rfl
@[simp] theorem wr_rook (f : FRef) (v : Nat) : (wr f v s).rook = s.rook := rfl
@[simp] theorem wr_ks (f : FRef) (v : Nat) : (wr f v s).ks = s.ks := rfl
@[simp] theorem wr_time (f : FRef) (v : Nat) : (wr f v s).time = s.time := rfl
@[simp] theorem wr_halv (f : FRef) (v : Nat) : (wr f v s).halv = s.halv := rfl
@[simp] theorem wr_eth (f : FRef) (v : Nat) : (wr f v s).eth = s.eth := rfl
@[simp] theorem wr_fb (f : FRef) (v : Nat) : (wr f v s).fb = s.fb := rfl
@[simp] theorem wr_xb (f : FRef) (v : Nat) : (wr f v s).xb = s.xb := rfl
@[simp] theorem wr_flash (f : FRef) (v : Nat) : (wr f v s).flash = s.flash := rfl
@[simp] theorem wr_pawn (f : FRef) (v : Nat) : (wr f v s).pawn = s.pawn := rfl
@[simp] theorem wr_lanes (f : FRef) (v : Nat) : (wr f v s).lanes = s.lanes := rfl
@[simp] theorem wr_freeCtr (f : FRef) (v : Nat) : (wr f v s).freeCtr = s.freeCtr := rfl
@[simp] theorem wr_pending (f : FRef) (v : Nat) : (wr f v s).pending = s.pending := rfl
@[simp] theorem getPea_wr (f : FRef) (v : Nat) (k : Nat) : getPea k (wr f v s) = getPea k s := rfl
@[simp] theorem getRun_wr (f : FRef) (v : Nat) (k : Nat) : getRun k (wr f v s) = getRun k s := rfl
@[simp] theorem feuQueue_wr (f : FRef) (v : Nat) (k : Nat) : feuQueue k (wr f v s) = feuQueue k s := rfl

/-! ### `wrB` -/

@[simp] theorem wrB_cores (f : FRef) (b : Bool) : (wrB f b s).cores = s.cores := rfl
@[simp] theorem wrB_mem (f : FRef) (b : Bool) : (wrB f b s).mem = s.mem := rfl
@[simp] theorem wrB_pods (f : FRef) (b : Bool) : (wrB f b s).pods = s.pods := rfl
@[simp] theorem wrB_ns (f : FRef) (b : Bool) : (wrB f b s).ns = s.ns := rfl
@[simp] theorem wrB_frac (f : FRef) (b : Bool) : (wrB f b s).frac = s.frac := rfl
@[simp] theorem wrB_tl (f : FRef) (b : Bool) : (wrB f b s).tl = s.tl := rfl
@[simp] theorem wrB_feu (f : FRef) (b : Bool) : (wrB f b s).feu = s.feu := rfl
@[simp] theorem wrB_pair (f : FRef) (b : Bool) : (wrB f b s).pair = s.pair := rfl
@[simp] theorem wrB_nS (f : FRef) (b : Bool) : (wrB f b s).nS = s.nS := rfl
@[simp] theorem wrB_image (f : FRef) (b : Bool) : (wrB f b s).image = s.image := rfl
@[simp] theorem wrB_graph (f : FRef) (b : Bool) : (wrB f b s).graph = s.graph := rfl
@[simp] theorem wrB_mods (f : FRef) (b : Bool) : (wrB f b s).mods = s.mods := rfl
@[simp] theorem wrB_edge (f : FRef) (b : Bool) : (wrB f b s).edge = s.edge := rfl
@[simp] theorem wrB_sense (f : FRef) (b : Bool) : (wrB f b s).sense = s.sense := rfl
@[simp] theorem wrB_senseAt (f : FRef) (b : Bool) : (wrB f b s).senseAt = s.senseAt := rfl
@[simp] theorem wrB_rook (f : FRef) (b : Bool) : (wrB f b s).rook = s.rook := rfl
@[simp] theorem wrB_ks (f : FRef) (b : Bool) : (wrB f b s).ks = s.ks := rfl
@[simp] theorem wrB_time (f : FRef) (b : Bool) : (wrB f b s).time = s.time := rfl
@[simp] theorem wrB_halv (f : FRef) (b : Bool) : (wrB f b s).halv = s.halv := rfl
@[simp] theorem wrB_eth (f : FRef) (b : Bool) : (wrB f b s).eth = s.eth := rfl
@[simp] theorem wrB_fb (f : FRef) (b : Bool) : (wrB f b s).fb = s.fb := rfl
@[simp] theorem wrB_xb (f : FRef) (b : Bool) : (wrB f b s).xb = s.xb := rfl
@[simp] theorem wrB_flash (f : FRef) (b : Bool) : (wrB f b s).flash = s.flash := rfl
@[simp] theorem wrB_pawn (f : FRef) (b : Bool) : (wrB f b s).pawn = s.pawn := rfl
@[simp] theorem wrB_lanes (f : FRef) (b : Bool) : (wrB f b s).lanes = s.lanes := rfl
@[simp] theorem wrB_freeCtr (f : FRef) (b : Bool) : (wrB f b s).freeCtr = s.freeCtr := rfl
@[simp] theorem wrB_pending (f : FRef) (b : Bool) : (wrB f b s).pending = s.pending := rfl
@[simp] theorem getPea_wrB (f : FRef) (b : Bool) (k : Nat) : getPea k (wrB f b s) = getPea k s := rfl
@[simp] theorem getRun_wrB (f : FRef) (b : Bool) (k : Nat) : getRun k (wrB f b s) = getRun k s := rfl
@[simp] theorem feuQueue_wrB (f : FRef) (b : Bool) (k : Nat) : feuQueue k (wrB f b s) = feuQueue k s := rfl

/-! ### `wrI` -/

@[simp] theorem wrI_cores (f : FRef) (i : Int) : (wrI f i s).cores = s.cores := rfl
@[simp] theorem wrI_mem (f : FRef) (i : Int) : (wrI f i s).mem = s.mem := rfl
@[simp] theorem wrI_pods (f : FRef) (i : Int) : (wrI f i s).pods = s.pods := rfl
@[simp] theorem wrI_ns (f : FRef) (i : Int) : (wrI f i s).ns = s.ns := rfl
@[simp] theorem wrI_frac (f : FRef) (i : Int) : (wrI f i s).frac = s.frac := rfl
@[simp] theorem wrI_tl (f : FRef) (i : Int) : (wrI f i s).tl = s.tl := rfl
@[simp] theorem wrI_feu (f : FRef) (i : Int) : (wrI f i s).feu = s.feu := rfl
@[simp] theorem wrI_pair (f : FRef) (i : Int) : (wrI f i s).pair = s.pair := rfl
@[simp] theorem wrI_nS (f : FRef) (i : Int) : (wrI f i s).nS = s.nS := rfl
@[simp] theorem wrI_image (f : FRef) (i : Int) : (wrI f i s).image = s.image := rfl
@[simp] theorem wrI_graph (f : FRef) (i : Int) : (wrI f i s).graph = s.graph := rfl
@[simp] theorem wrI_mods (f : FRef) (i : Int) : (wrI f i s).mods = s.mods := rfl
@[simp] theorem wrI_edge (f : FRef) (i : Int) : (wrI f i s).edge = s.edge := rfl
@[simp] theorem wrI_sense (f : FRef) (i : Int) : (wrI f i s).sense = s.sense := rfl
@[simp] theorem wrI_senseAt (f : FRef) (i : Int) : (wrI f i s).senseAt = s.senseAt := rfl
@[simp] theorem wrI_rook (f : FRef) (i : Int) : (wrI f i s).rook = s.rook := rfl
@[simp] theorem wrI_ks (f : FRef) (i : Int) : (wrI f i s).ks = s.ks := rfl
@[simp] theorem wrI_time (f : FRef) (i : Int) : (wrI f i s).time = s.time := rfl
@[simp] theorem wrI_halv (f : FRef) (i : Int) : (wrI f i s).halv = s.halv := rfl
@[simp] theorem wrI_eth (f : FRef) (i : Int) : (wrI f i s).eth = s.eth := rfl
@[simp] theorem wrI_fb (f : FRef) (i : Int) : (wrI f i s).fb = s.fb := rfl
@[simp] theorem wrI_xb (f : FRef) (i : Int) : (wrI f i s).xb = s.xb := rfl
@[simp] theorem wrI_flash (f : FRef) (i : Int) : (wrI f i s).flash = s.flash := rfl
@[simp] theorem wrI_pawn (f : FRef) (i : Int) : (wrI f i s).pawn = s.pawn := rfl
@[simp] theorem wrI_lanes (f : FRef) (i : Int) : (wrI f i s).lanes = s.lanes := rfl
@[simp] theorem wrI_freeCtr (f : FRef) (i : Int) : (wrI f i s).freeCtr = s.freeCtr := rfl
@[simp] theorem wrI_pending (f : FRef) (i : Int) : (wrI f i s).pending = s.pending := rfl
@[simp] theorem getPea_wrI (f : FRef) (i : Int) (k : Nat) : getPea k (wrI f i s) = getPea k s := rfl
@[simp] theorem getRun_wrI (f : FRef) (i : Int) (k : Nat) : getRun k (wrI f i s) = getRun k s := rfl
@[simp] theorem feuQueue_wrI (f : FRef) (i : Int) (k : Nat) : feuQueue k (wrI f i s) = feuQueue k s := rfl

/-! ### `wrSat` -/

@[simp] theorem wrSat_cores (f : FRef) (v : Nat) : (wrSat f v s).cores = s.cores := rfl
@[simp] theorem wrSat_mem (f : FRef) (v : Nat) : (wrSat f v s).mem = s.mem := rfl
@[simp] theorem wrSat_pods (f : FRef) (v : Nat) : (wrSat f v s).pods = s.pods := rfl
@[simp] theorem wrSat_ns (f : FRef) (v : Nat) : (wrSat f v s).ns = s.ns := rfl
@[simp] theorem wrSat_frac (f : FRef) (v : Nat) : (wrSat f v s).frac = s.frac := rfl
@[simp] theorem wrSat_tl (f : FRef) (v : Nat) : (wrSat f v s).tl = s.tl := rfl
@[simp] theorem wrSat_feu (f : FRef) (v : Nat) : (wrSat f v s).feu = s.feu := rfl
@[simp] theorem wrSat_pair (f : FRef) (v : Nat) : (wrSat f v s).pair = s.pair := rfl
@[simp] theorem wrSat_nS (f : FRef) (v : Nat) : (wrSat f v s).nS = s.nS := rfl
@[simp] theorem wrSat_image (f : FRef) (v : Nat) : (wrSat f v s).image = s.image := rfl
@[simp] theorem wrSat_graph (f : FRef) (v : Nat) : (wrSat f v s).graph = s.graph := rfl
@[simp] theorem wrSat_mods (f : FRef) (v : Nat) : (wrSat f v s).mods = s.mods := rfl
@[simp] theorem wrSat_edge (f : FRef) (v : Nat) : (wrSat f v s).edge = s.edge := rfl
@[simp] theorem wrSat_sense (f : FRef) (v : Nat) : (wrSat f v s).sense = s.sense := rfl
@[simp] theorem wrSat_senseAt (f : FRef) (v : Nat) : (wrSat f v s).senseAt = s.senseAt := rfl
@[simp] theorem wrSat_rook (f : FRef) (v : Nat) : (wrSat f v s).rook = s.rook := rfl
@[simp] theorem wrSat_ks (f : FRef) (v : Nat) : (wrSat f v s).ks = s.ks := rfl
@[simp] theorem wrSat_time (f : FRef) (v : Nat) : (wrSat f v s).time = s.time := rfl
@[simp] theorem wrSat_halv (f : FRef) (v : Nat) : (wrSat f v s).halv = s.halv := rfl
@[simp] theorem wrSat_eth (f : FRef) (v : Nat) : (wrSat f v s).eth = s.eth := rfl
@[simp] theorem wrSat_fb (f : FRef) (v : Nat) : (wrSat f v s).fb = s.fb := rfl
@[simp] theorem wrSat_xb (f : FRef) (v : Nat) : (wrSat f v s).xb = s.xb := rfl
@[simp] theorem wrSat_flash (f : FRef) (v : Nat) : (wrSat f v s).flash = s.flash := rfl
@[simp] theorem wrSat_pawn (f : FRef) (v : Nat) : (wrSat f v s).pawn = s.pawn := rfl
@[simp] theorem wrSat_lanes (f : FRef) (v : Nat) : (wrSat f v s).lanes = s.lanes := rfl
@[simp] theorem wrSat_freeCtr (f : FRef) (v : Nat) : (wrSat f v s).freeCtr = s.freeCtr := rfl
@[simp] theorem wrSat_pending (f : FRef) (v : Nat) : (wrSat f v s).pending = s.pending := rfl
@[simp] theorem getPea_wrSat (f : FRef) (v : Nat) (k : Nat) : getPea k (wrSat f v s) = getPea k s := rfl
@[simp] theorem getRun_wrSat (f : FRef) (v : Nat) (k : Nat) : getRun k (wrSat f v s) = getRun k s := rfl
@[simp] theorem feuQueue_wrSat (f : FRef) (v : Nat) (k : Nat) : feuQueue k (wrSat f v s) = feuQueue k s := rfl

/-! ### `setPea` -/

@[simp] theorem setPea_regs (c : Nat) (p : Pea) : (setPea c p s).regs = s.regs := rfl
@[simp] theorem setPea_cores (c : Nat) (p : Pea) : (setPea c p s).cores = mapSet (fun _ => Pea.reset) s.cores c p := rfl
@[simp] theorem setPea_mem (c : Nat) (p : Pea) : (setPea c p s).mem = s.mem := rfl
@[simp] theorem setPea_pods (c : Nat) (p : Pea) : (setPea c p s).pods = s.pods := rfl
@[simp] theorem setPea_ns (c : Nat) (p : Pea) : (setPea c p s).ns = s.ns := rfl
@[simp] theorem setPea_frac (c : Nat) (p : Pea) : (setPea c p s).frac = s.frac := rfl
@[simp] theorem setPea_tl (c : Nat) (p : Pea) : (setPea c p s).tl = s.tl := rfl
@[simp] theorem setPea_feu (c : Nat) (p : Pea) : (setPea c p s).feu = s.feu := rfl
@[simp] theorem setPea_pair (c : Nat) (p : Pea) : (setPea c p s).pair = s.pair := rfl
@[simp] theorem setPea_nS (c : Nat) (p : Pea) : (setPea c p s).nS = s.nS := rfl
@[simp] theorem setPea_image (c : Nat) (p : Pea) : (setPea c p s).image = s.image := rfl
@[simp] theorem setPea_graph (c : Nat) (p : Pea) : (setPea c p s).graph = s.graph := rfl
@[simp] theorem setPea_mods (c : Nat) (p : Pea) : (setPea c p s).mods = s.mods := rfl
@[simp] theorem setPea_edge (c : Nat) (p : Pea) : (setPea c p s).edge = s.edge := rfl
@[simp] theorem setPea_sense (c : Nat) (p : Pea) : (setPea c p s).sense = s.sense := rfl
@[simp] theorem setPea_senseAt (c : Nat) (p : Pea) : (setPea c p s).senseAt = s.senseAt := rfl
@[simp] theorem setPea_rook (c : Nat) (p : Pea) : (setPea c p s).rook = s.rook := rfl
@[simp] theorem setPea_ks (c : Nat) (p : Pea) : (setPea c p s).ks = s.ks := rfl
@[simp] theorem setPea_time (c : Nat) (p : Pea) : (setPea c p s).time = s.time := rfl
@[simp] theorem setPea_halv (c : Nat) (p : Pea) : (setPea c p s).halv = s.halv := rfl
@[simp] theorem setPea_eth (c : Nat) (p : Pea) : (setPea c p s).eth = s.eth := rfl
@[simp] theorem setPea_fb (c : Nat) (p : Pea) : (setPea c p s).fb = s.fb := rfl
@[simp] theorem setPea_xb (c : Nat) (p : Pea) : (setPea c p s).xb = s.xb := rfl
@[simp] theorem setPea_flash (c : Nat) (p : Pea) : (setPea c p s).flash = s.flash := rfl
@[simp] theorem setPea_pawn (c : Nat) (p : Pea) : (setPea c p s).pawn = s.pawn := rfl
@[simp] theorem setPea_lanes (c : Nat) (p : Pea) : (setPea c p s).lanes = s.lanes := rfl
@[simp] theorem setPea_freeCtr (c : Nat) (p : Pea) : (setPea c p s).freeCtr = s.freeCtr := rfl
@[simp] theorem setPea_pending (c : Nat) (p : Pea) : (setPea c p s).pending = s.pending := rfl
@[simp] theorem rdReg_setPea (c : Nat) (p : Pea) (b : Nat) : rdReg b (setPea c p s) = rdReg b s := rfl
@[simp] theorem rd_setPea (c : Nat) (p : Pea) (g : FRef) : rd g (setPea c p s) = rd g s := rfl
@[simp] theorem rdB_setPea (c : Nat) (p : Pea) (g : FRef) : rdB g (setPea c p s) = rdB g s := rfl
@[simp] theorem rdI_setPea (c : Nat) (p : Pea) (g : FRef) : rdI g (setPea c p s) = rdI g s := rfl
@[simp] theorem getRun_setPea (c : Nat) (p : Pea) (k : Nat) : getRun k (setPea c p s) = getRun k s := rfl
@[simp] theorem feuQueue_setPea (c : Nat) (p : Pea) (k : Nat) : feuQueue k (setPea c p s) = feuQueue k s := rfl
@[simp] theorem tlValid_setPea (c : Nat) (p : Pea) : tlValid (setPea c p s) = tlValid s := rfl
@[simp] theorem tlRun_setPea (c : Nat) (p : Pea) : tlRun (setPea c p s) = tlRun s := rfl

/-! ### `onPea` -/

@[simp] theorem onPea_regs (c : Nat) (f : Pea → Pea) : (onPea c f s).regs = s.regs := rfl
@[simp] theorem onPea_mem (c : Nat) (f : Pea → Pea) : (onPea c f s).mem = s.mem := rfl
@[simp] theorem onPea_pods (c : Nat) (f : Pea → Pea) : (onPea c f s).pods = s.pods := rfl
@[simp] theorem onPea_ns (c : Nat) (f : Pea → Pea) : (onPea c f s).ns = s.ns := rfl
@[simp] theorem onPea_frac (c : Nat) (f : Pea → Pea) : (onPea c f s).frac = s.frac := rfl
@[simp] theorem onPea_tl (c : Nat) (f : Pea → Pea) : (onPea c f s).tl = s.tl := rfl
@[simp] theorem onPea_feu (c : Nat) (f : Pea → Pea) : (onPea c f s).feu = s.feu := rfl
@[simp] theorem onPea_pair (c : Nat) (f : Pea → Pea) : (onPea c f s).pair = s.pair := rfl
@[simp] theorem onPea_nS (c : Nat) (f : Pea → Pea) : (onPea c f s).nS = s.nS := rfl
@[simp] theorem onPea_image (c : Nat) (f : Pea → Pea) : (onPea c f s).image = s.image := rfl
@[simp] theorem onPea_graph (c : Nat) (f : Pea → Pea) : (onPea c f s).graph = s.graph := rfl
@[simp] theorem onPea_mods (c : Nat) (f : Pea → Pea) : (onPea c f s).mods = s.mods := rfl
@[simp] theorem onPea_edge (c : Nat) (f : Pea → Pea) : (onPea c f s).edge = s.edge := rfl
@[simp] theorem onPea_sense (c : Nat) (f : Pea → Pea) : (onPea c f s).sense = s.sense := rfl
@[simp] theorem onPea_senseAt (c : Nat) (f : Pea → Pea) : (onPea c f s).senseAt = s.senseAt := rfl
@[simp] theorem onPea_rook (c : Nat) (f : Pea → Pea) : (onPea c f s).rook = s.rook := rfl
@[simp] theorem onPea_ks (c : Nat) (f : Pea → Pea) : (onPea c f s).ks = s.ks := rfl
@[simp] theorem onPea_time (c : Nat) (f : Pea → Pea) : (onPea c f s).time = s.time := rfl
@[simp] theorem onPea_halv (c : Nat) (f : Pea → Pea) : (onPea c f s).halv = s.halv := rfl
@[simp] theorem onPea_eth (c : Nat) (f : Pea → Pea) : (onPea c f s).eth = s.eth := rfl
@[simp] theorem onPea_fb (c : Nat) (f : Pea → Pea) : (onPea c f s).fb = s.fb := rfl
@[simp] theorem onPea_xb (c : Nat) (f : Pea → Pea) : (onPea c f s).xb = s.xb := rfl
@[simp] theorem onPea_flash (c : Nat) (f : Pea → Pea) : (onPea c f s).flash = s.flash := rfl
@[simp] theorem onPea_pawn (c : Nat) (f : Pea → Pea) : (onPea c f s).pawn = s.pawn := rfl
@[simp] theorem onPea_lanes (c : Nat) (f : Pea → Pea) : (onPea c f s).lanes = s.lanes := rfl
@[simp] theorem onPea_freeCtr (c : Nat) (f : Pea → Pea) : (onPea c f s).freeCtr = s.freeCtr := rfl
@[simp] theorem onPea_pending (c : Nat) (f : Pea → Pea) : (onPea c f s).pending = s.pending := rfl
@[simp] theorem rdReg_onPea (c : Nat) (f : Pea → Pea) (b : Nat) : rdReg b (onPea c f s) = rdReg b s := rfl
@[simp] theorem rd_onPea (c : Nat) (f : Pea → Pea) (g : FRef) : rd g (onPea c f s) = rd g s := rfl
@[simp] theorem rdB_onPea (c : Nat) (f : Pea → Pea) (g : FRef) : rdB g (onPea c f s) = rdB g s := rfl
@[simp] theorem rdI_onPea (c : Nat) (f : Pea → Pea) (g : FRef) : rdI g (onPea c f s) = rdI g s := rfl
@[simp] theorem getRun_onPea (c : Nat) (f : Pea → Pea) (k : Nat) : getRun k (onPea c f s) = getRun k s := rfl
@[simp] theorem feuQueue_onPea (c : Nat) (f : Pea → Pea) (k : Nat) : feuQueue k (onPea c f s) = feuQueue k s := rfl
@[simp] theorem tlValid_onPea (c : Nat) (f : Pea → Pea) : tlValid (onPea c f s) = tlValid s := rfl
@[simp] theorem tlRun_onPea (c : Nat) (f : Pea → Pea) : tlRun (onPea c f s) = tlRun s := rfl

/-! ### `setRun` -/

@[simp] theorem setRun_regs (q : Nat) (r : PeaRun) : (setRun q r s).regs = s.regs := rfl
@[simp] theorem setRun_cores (q : Nat) (r : PeaRun) : (setRun q r s).cores = s.cores := rfl
@[simp] theorem setRun_mem (q : Nat) (r : PeaRun) : (setRun q r s).mem = s.mem := rfl
@[simp] theorem setRun_ns (q : Nat) (r : PeaRun) : (setRun q r s).ns = s.ns := rfl
@[simp] theorem setRun_frac (q : Nat) (r : PeaRun) : (setRun q r s).frac = s.frac := rfl
@[simp] theorem setRun_tl (q : Nat) (r : PeaRun) : (setRun q r s).tl = s.tl := rfl
@[simp] theorem setRun_feu (q : Nat) (r : PeaRun) : (setRun q r s).feu = s.feu := rfl
@[simp] theorem setRun_pair (q : Nat) (r : PeaRun) : (setRun q r s).pair = s.pair := rfl
@[simp] theorem setRun_nS (q : Nat) (r : PeaRun) : (setRun q r s).nS = s.nS := rfl
@[simp] theorem setRun_image (q : Nat) (r : PeaRun) : (setRun q r s).image = s.image := rfl
@[simp] theorem setRun_graph (q : Nat) (r : PeaRun) : (setRun q r s).graph = s.graph := rfl
@[simp] theorem setRun_mods (q : Nat) (r : PeaRun) : (setRun q r s).mods = s.mods := rfl
@[simp] theorem setRun_edge (q : Nat) (r : PeaRun) : (setRun q r s).edge = s.edge := rfl
@[simp] theorem setRun_sense (q : Nat) (r : PeaRun) : (setRun q r s).sense = s.sense := rfl
@[simp] theorem setRun_senseAt (q : Nat) (r : PeaRun) : (setRun q r s).senseAt = s.senseAt := rfl
@[simp] theorem setRun_rook (q : Nat) (r : PeaRun) : (setRun q r s).rook = s.rook := rfl
@[simp] theorem setRun_ks (q : Nat) (r : PeaRun) : (setRun q r s).ks = s.ks := rfl
@[simp] theorem setRun_time (q : Nat) (r : PeaRun) : (setRun q r s).time = s.time := rfl
@[simp] theorem setRun_halv (q : Nat) (r : PeaRun) : (setRun q r s).halv = s.halv := rfl
@[simp] theorem setRun_eth (q : Nat) (r : PeaRun) : (setRun q r s).eth = s.eth := rfl
@[simp] theorem setRun_fb (q : Nat) (r : PeaRun) : (setRun q r s).fb = s.fb := rfl
@[simp] theorem setRun_xb (q : Nat) (r : PeaRun) : (setRun q r s).xb = s.xb := rfl
@[simp] theorem setRun_flash (q : Nat) (r : PeaRun) : (setRun q r s).flash = s.flash := rfl
@[simp] theorem setRun_pawn (q : Nat) (r : PeaRun) : (setRun q r s).pawn = s.pawn := rfl
@[simp] theorem setRun_lanes (q : Nat) (r : PeaRun) : (setRun q r s).lanes = s.lanes := rfl
@[simp] theorem setRun_freeCtr (q : Nat) (r : PeaRun) : (setRun q r s).freeCtr = s.freeCtr := rfl
@[simp] theorem setRun_pending (q : Nat) (r : PeaRun) : (setRun q r s).pending = s.pending := rfl
@[simp] theorem rdReg_setRun (q : Nat) (r : PeaRun) (b : Nat) : rdReg b (setRun q r s) = rdReg b s := rfl
@[simp] theorem rd_setRun (q : Nat) (r : PeaRun) (g : FRef) : rd g (setRun q r s) = rd g s := rfl
@[simp] theorem rdB_setRun (q : Nat) (r : PeaRun) (g : FRef) : rdB g (setRun q r s) = rdB g s := rfl
@[simp] theorem rdI_setRun (q : Nat) (r : PeaRun) (g : FRef) : rdI g (setRun q r s) = rdI g s := rfl
@[simp] theorem getPea_setRun (q : Nat) (r : PeaRun) (k : Nat) : getPea k (setRun q r s) = getPea k s := rfl
@[simp] theorem feuQueue_setRun (q : Nat) (r : PeaRun) (k : Nat) : feuQueue k (setRun q r s) = feuQueue k s := rfl
@[simp] theorem tlValid_setRun (q : Nat) (r : PeaRun) : tlValid (setRun q r s) = tlValid s := rfl
@[simp] theorem tlRun_setRun (q : Nat) (r : PeaRun) : tlRun (setRun q r s) = tlRun s := rfl

/-! ### `setFeuQueue` -/

@[simp] theorem setFeuQueue_regs (n : Nat) (q : List FaultRec) : (setFeuQueue n q s).regs = s.regs := rfl
@[simp] theorem setFeuQueue_cores (n : Nat) (q : List FaultRec) : (setFeuQueue n q s).cores = s.cores := rfl
@[simp] theorem setFeuQueue_mem (n : Nat) (q : List FaultRec) : (setFeuQueue n q s).mem = s.mem := rfl
@[simp] theorem setFeuQueue_pods (n : Nat) (q : List FaultRec) : (setFeuQueue n q s).pods = s.pods := rfl
@[simp] theorem setFeuQueue_ns (n : Nat) (q : List FaultRec) : (setFeuQueue n q s).ns = s.ns := rfl
@[simp] theorem setFeuQueue_frac (n : Nat) (q : List FaultRec) : (setFeuQueue n q s).frac = s.frac := rfl
@[simp] theorem setFeuQueue_tl (n : Nat) (q : List FaultRec) : (setFeuQueue n q s).tl = s.tl := rfl
@[simp] theorem setFeuQueue_pair (n : Nat) (q : List FaultRec) : (setFeuQueue n q s).pair = s.pair := rfl
@[simp] theorem setFeuQueue_nS (n : Nat) (q : List FaultRec) : (setFeuQueue n q s).nS = s.nS := rfl
@[simp] theorem setFeuQueue_image (n : Nat) (q : List FaultRec) : (setFeuQueue n q s).image = s.image := rfl
@[simp] theorem setFeuQueue_graph (n : Nat) (q : List FaultRec) : (setFeuQueue n q s).graph = s.graph := rfl
@[simp] theorem setFeuQueue_mods (n : Nat) (q : List FaultRec) : (setFeuQueue n q s).mods = s.mods := rfl
@[simp] theorem setFeuQueue_edge (n : Nat) (q : List FaultRec) : (setFeuQueue n q s).edge = s.edge := rfl
@[simp] theorem setFeuQueue_sense (n : Nat) (q : List FaultRec) : (setFeuQueue n q s).sense = s.sense := rfl
@[simp] theorem setFeuQueue_senseAt (n : Nat) (q : List FaultRec) : (setFeuQueue n q s).senseAt = s.senseAt := rfl
@[simp] theorem setFeuQueue_rook (n : Nat) (q : List FaultRec) : (setFeuQueue n q s).rook = s.rook := rfl
@[simp] theorem setFeuQueue_ks (n : Nat) (q : List FaultRec) : (setFeuQueue n q s).ks = s.ks := rfl
@[simp] theorem setFeuQueue_time (n : Nat) (q : List FaultRec) : (setFeuQueue n q s).time = s.time := rfl
@[simp] theorem setFeuQueue_halv (n : Nat) (q : List FaultRec) : (setFeuQueue n q s).halv = s.halv := rfl
@[simp] theorem setFeuQueue_eth (n : Nat) (q : List FaultRec) : (setFeuQueue n q s).eth = s.eth := rfl
@[simp] theorem setFeuQueue_fb (n : Nat) (q : List FaultRec) : (setFeuQueue n q s).fb = s.fb := rfl
@[simp] theorem setFeuQueue_xb (n : Nat) (q : List FaultRec) : (setFeuQueue n q s).xb = s.xb := rfl
@[simp] theorem setFeuQueue_flash (n : Nat) (q : List FaultRec) : (setFeuQueue n q s).flash = s.flash := rfl
@[simp] theorem setFeuQueue_pawn (n : Nat) (q : List FaultRec) : (setFeuQueue n q s).pawn = s.pawn := rfl
@[simp] theorem setFeuQueue_lanes (n : Nat) (q : List FaultRec) : (setFeuQueue n q s).lanes = s.lanes := rfl
@[simp] theorem setFeuQueue_freeCtr (n : Nat) (q : List FaultRec) : (setFeuQueue n q s).freeCtr = s.freeCtr := rfl
@[simp] theorem setFeuQueue_pending (n : Nat) (q : List FaultRec) : (setFeuQueue n q s).pending = s.pending := rfl
@[simp] theorem rdReg_setFeuQueue (n : Nat) (q : List FaultRec) (b : Nat) : rdReg b (setFeuQueue n q s) = rdReg b s := rfl
@[simp] theorem rd_setFeuQueue (n : Nat) (q : List FaultRec) (g : FRef) : rd g (setFeuQueue n q s) = rd g s := rfl
@[simp] theorem rdB_setFeuQueue (n : Nat) (q : List FaultRec) (g : FRef) : rdB g (setFeuQueue n q s) = rdB g s := rfl
@[simp] theorem rdI_setFeuQueue (n : Nat) (q : List FaultRec) (g : FRef) : rdI g (setFeuQueue n q s) = rdI g s := rfl
@[simp] theorem getPea_setFeuQueue (n : Nat) (q : List FaultRec) (k : Nat) : getPea k (setFeuQueue n q s) = getPea k s := rfl
@[simp] theorem getRun_setFeuQueue (n : Nat) (q : List FaultRec) (k : Nat) : getRun k (setFeuQueue n q s) = getRun k s := rfl
@[simp] theorem tlValid_setFeuQueue (n : Nat) (q : List FaultRec) : tlValid (setFeuQueue n q s) = tlValid s := rfl
@[simp] theorem tlRun_setFeuQueue (n : Nat) (q : List FaultRec) : tlRun (setFeuQueue n q s) = tlRun s := rfl

/-! ### `freeNext` -/

@[simp] theorem freeNext_regs : (freeNext s).regs = s.regs := rfl
@[simp] theorem freeNext_cores : (freeNext s).cores = s.cores := rfl
@[simp] theorem freeNext_mem : (freeNext s).mem = s.mem := rfl
@[simp] theorem freeNext_pods : (freeNext s).pods = s.pods := rfl
@[simp] theorem freeNext_ns : (freeNext s).ns = s.ns := rfl
@[simp] theorem freeNext_frac : (freeNext s).frac = s.frac := rfl
@[simp] theorem freeNext_tl : (freeNext s).tl = s.tl := rfl
@[simp] theorem freeNext_feu : (freeNext s).feu = s.feu := rfl
@[simp] theorem freeNext_pair : (freeNext s).pair = s.pair := rfl
@[simp] theorem freeNext_nS : (freeNext s).nS = s.nS := rfl
@[simp] theorem freeNext_image : (freeNext s).image = s.image := rfl
@[simp] theorem freeNext_graph : (freeNext s).graph = s.graph := rfl
@[simp] theorem freeNext_mods : (freeNext s).mods = s.mods := rfl
@[simp] theorem freeNext_edge : (freeNext s).edge = s.edge := rfl
@[simp] theorem freeNext_sense : (freeNext s).sense = s.sense := rfl
@[simp] theorem freeNext_senseAt : (freeNext s).senseAt = s.senseAt := rfl
@[simp] theorem freeNext_rook : (freeNext s).rook = s.rook := rfl
@[simp] theorem freeNext_ks : (freeNext s).ks = s.ks := rfl
@[simp] theorem freeNext_time : (freeNext s).time = s.time := rfl
@[simp] theorem freeNext_halv : (freeNext s).halv = s.halv := rfl
@[simp] theorem freeNext_eth : (freeNext s).eth = s.eth := rfl
@[simp] theorem freeNext_fb : (freeNext s).fb = s.fb := rfl
@[simp] theorem freeNext_xb : (freeNext s).xb = s.xb := rfl
@[simp] theorem freeNext_flash : (freeNext s).flash = s.flash := rfl
@[simp] theorem freeNext_pawn : (freeNext s).pawn = s.pawn := rfl
@[simp] theorem freeNext_lanes : (freeNext s).lanes = s.lanes := rfl
@[simp] theorem freeNext_freeCtr : (freeNext s).freeCtr = s.freeCtr + 1 := rfl
@[simp] theorem freeNext_pending : (freeNext s).pending = s.pending := rfl
@[simp] theorem rdReg_freeNext (b : Nat) : rdReg b (freeNext s) = rdReg b s := rfl
@[simp] theorem rd_freeNext (g : FRef) : rd g (freeNext s) = rd g s := rfl
@[simp] theorem rdB_freeNext (g : FRef) : rdB g (freeNext s) = rdB g s := rfl
@[simp] theorem rdI_freeNext (g : FRef) : rdI g (freeNext s) = rdI g s := rfl
@[simp] theorem getPea_freeNext (k : Nat) : getPea k (freeNext s) = getPea k s := rfl
@[simp] theorem getRun_freeNext (k : Nat) : getRun k (freeNext s) = getRun k s := rfl
@[simp] theorem feuQueue_freeNext (k : Nat) : feuQueue k (freeNext s) = feuQueue k s := rfl
@[simp] theorem tlValid_freeNext : tlValid (freeNext s) = tlValid s := rfl
@[simp] theorem tlRun_freeNext : tlRun (freeNext s) = tlRun s := rfl

/-! ### `wrX` -/

@[simp] theorem wrX_regs (c a : Nat) (v : DWord) : (wrX c a v s).regs = s.regs := rfl
@[simp] theorem wrX_cores (c a : Nat) (v : DWord) : (wrX c a v s).cores = s.cores := rfl
@[simp] theorem wrX_pods (c a : Nat) (v : DWord) : (wrX c a v s).pods = s.pods := rfl
@[simp] theorem wrX_ns (c a : Nat) (v : DWord) : (wrX c a v s).ns = s.ns := rfl
@[simp] theorem wrX_frac (c a : Nat) (v : DWord) : (wrX c a v s).frac = s.frac := rfl
@[simp] theorem wrX_tl (c a : Nat) (v : DWord) : (wrX c a v s).tl = s.tl := rfl
@[simp] theorem wrX_feu (c a : Nat) (v : DWord) : (wrX c a v s).feu = s.feu := rfl
@[simp] theorem wrX_pair (c a : Nat) (v : DWord) : (wrX c a v s).pair = s.pair := rfl
@[simp] theorem wrX_nS (c a : Nat) (v : DWord) : (wrX c a v s).nS = s.nS := rfl
@[simp] theorem wrX_image (c a : Nat) (v : DWord) : (wrX c a v s).image = s.image := rfl
@[simp] theorem wrX_graph (c a : Nat) (v : DWord) : (wrX c a v s).graph = s.graph := rfl
@[simp] theorem wrX_mods (c a : Nat) (v : DWord) : (wrX c a v s).mods = s.mods := rfl
@[simp] theorem wrX_edge (c a : Nat) (v : DWord) : (wrX c a v s).edge = s.edge := rfl
@[simp] theorem wrX_sense (c a : Nat) (v : DWord) : (wrX c a v s).sense = s.sense := rfl
@[simp] theorem wrX_senseAt (c a : Nat) (v : DWord) : (wrX c a v s).senseAt = s.senseAt := rfl
@[simp] theorem wrX_rook (c a : Nat) (v : DWord) : (wrX c a v s).rook = s.rook := rfl
@[simp] theorem wrX_ks (c a : Nat) (v : DWord) : (wrX c a v s).ks = s.ks := rfl
@[simp] theorem wrX_time (c a : Nat) (v : DWord) : (wrX c a v s).time = s.time := rfl
@[simp] theorem wrX_halv (c a : Nat) (v : DWord) : (wrX c a v s).halv = s.halv := rfl
@[simp] theorem wrX_eth (c a : Nat) (v : DWord) : (wrX c a v s).eth = s.eth := rfl
@[simp] theorem wrX_fb (c a : Nat) (v : DWord) : (wrX c a v s).fb = s.fb := rfl
@[simp] theorem wrX_xb (c a : Nat) (v : DWord) : (wrX c a v s).xb = s.xb := rfl
@[simp] theorem wrX_flash (c a : Nat) (v : DWord) : (wrX c a v s).flash = s.flash := rfl
@[simp] theorem wrX_pawn (c a : Nat) (v : DWord) : (wrX c a v s).pawn = s.pawn := rfl
@[simp] theorem wrX_lanes (c a : Nat) (v : DWord) : (wrX c a v s).lanes = s.lanes := rfl
@[simp] theorem wrX_freeCtr (c a : Nat) (v : DWord) : (wrX c a v s).freeCtr = s.freeCtr := rfl
@[simp] theorem wrX_pending (c a : Nat) (v : DWord) : (wrX c a v s).pending = s.pending := rfl
@[simp] theorem rdReg_wrX (c a : Nat) (v : DWord) (b : Nat) : rdReg b (wrX c a v s) = rdReg b s := rfl
@[simp] theorem rd_wrX (c a : Nat) (v : DWord) (g : FRef) : rd g (wrX c a v s) = rd g s := rfl
@[simp] theorem rdB_wrX (c a : Nat) (v : DWord) (g : FRef) : rdB g (wrX c a v s) = rdB g s := rfl
@[simp] theorem rdI_wrX (c a : Nat) (v : DWord) (g : FRef) : rdI g (wrX c a v s) = rdI g s := rfl
@[simp] theorem getPea_wrX (c a : Nat) (v : DWord) (k : Nat) : getPea k (wrX c a v s) = getPea k s := rfl
@[simp] theorem getRun_wrX (c a : Nat) (v : DWord) (k : Nat) : getRun k (wrX c a v s) = getRun k s := rfl
@[simp] theorem feuQueue_wrX (c a : Nat) (v : DWord) (k : Nat) : feuQueue k (wrX c a v s) = feuQueue k s := rfl
@[simp] theorem tlValid_wrX (c a : Nat) (v : DWord) : tlValid (wrX c a v s) = tlValid s := rfl
@[simp] theorem tlRun_wrX (c a : Nat) (v : DWord) : tlRun (wrX c a v s) = tlRun s := rfl

/-! ### `wrY` -/

@[simp] theorem wrY_regs (c a : Nat) (v : DWord) : (wrY c a v s).regs = s.regs := rfl
@[simp] theorem wrY_cores (c a : Nat) (v : DWord) : (wrY c a v s).cores = s.cores := rfl
@[simp] theorem wrY_pods (c a : Nat) (v : DWord) : (wrY c a v s).pods = s.pods := rfl
@[simp] theorem wrY_ns (c a : Nat) (v : DWord) : (wrY c a v s).ns = s.ns := rfl
@[simp] theorem wrY_frac (c a : Nat) (v : DWord) : (wrY c a v s).frac = s.frac := rfl
@[simp] theorem wrY_tl (c a : Nat) (v : DWord) : (wrY c a v s).tl = s.tl := rfl
@[simp] theorem wrY_feu (c a : Nat) (v : DWord) : (wrY c a v s).feu = s.feu := rfl
@[simp] theorem wrY_pair (c a : Nat) (v : DWord) : (wrY c a v s).pair = s.pair := rfl
@[simp] theorem wrY_nS (c a : Nat) (v : DWord) : (wrY c a v s).nS = s.nS := rfl
@[simp] theorem wrY_image (c a : Nat) (v : DWord) : (wrY c a v s).image = s.image := rfl
@[simp] theorem wrY_graph (c a : Nat) (v : DWord) : (wrY c a v s).graph = s.graph := rfl
@[simp] theorem wrY_mods (c a : Nat) (v : DWord) : (wrY c a v s).mods = s.mods := rfl
@[simp] theorem wrY_edge (c a : Nat) (v : DWord) : (wrY c a v s).edge = s.edge := rfl
@[simp] theorem wrY_sense (c a : Nat) (v : DWord) : (wrY c a v s).sense = s.sense := rfl
@[simp] theorem wrY_senseAt (c a : Nat) (v : DWord) : (wrY c a v s).senseAt = s.senseAt := rfl
@[simp] theorem wrY_rook (c a : Nat) (v : DWord) : (wrY c a v s).rook = s.rook := rfl
@[simp] theorem wrY_ks (c a : Nat) (v : DWord) : (wrY c a v s).ks = s.ks := rfl
@[simp] theorem wrY_time (c a : Nat) (v : DWord) : (wrY c a v s).time = s.time := rfl
@[simp] theorem wrY_halv (c a : Nat) (v : DWord) : (wrY c a v s).halv = s.halv := rfl
@[simp] theorem wrY_eth (c a : Nat) (v : DWord) : (wrY c a v s).eth = s.eth := rfl
@[simp] theorem wrY_fb (c a : Nat) (v : DWord) : (wrY c a v s).fb = s.fb := rfl
@[simp] theorem wrY_xb (c a : Nat) (v : DWord) : (wrY c a v s).xb = s.xb := rfl
@[simp] theorem wrY_flash (c a : Nat) (v : DWord) : (wrY c a v s).flash = s.flash := rfl
@[simp] theorem wrY_pawn (c a : Nat) (v : DWord) : (wrY c a v s).pawn = s.pawn := rfl
@[simp] theorem wrY_lanes (c a : Nat) (v : DWord) : (wrY c a v s).lanes = s.lanes := rfl
@[simp] theorem wrY_freeCtr (c a : Nat) (v : DWord) : (wrY c a v s).freeCtr = s.freeCtr := rfl
@[simp] theorem wrY_pending (c a : Nat) (v : DWord) : (wrY c a v s).pending = s.pending := rfl
@[simp] theorem rdReg_wrY (c a : Nat) (v : DWord) (b : Nat) : rdReg b (wrY c a v s) = rdReg b s := rfl
@[simp] theorem rd_wrY (c a : Nat) (v : DWord) (g : FRef) : rd g (wrY c a v s) = rd g s := rfl
@[simp] theorem rdB_wrY (c a : Nat) (v : DWord) (g : FRef) : rdB g (wrY c a v s) = rdB g s := rfl
@[simp] theorem rdI_wrY (c a : Nat) (v : DWord) (g : FRef) : rdI g (wrY c a v s) = rdI g s := rfl
@[simp] theorem getPea_wrY (c a : Nat) (v : DWord) (k : Nat) : getPea k (wrY c a v s) = getPea k s := rfl
@[simp] theorem getRun_wrY (c a : Nat) (v : DWord) (k : Nat) : getRun k (wrY c a v s) = getRun k s := rfl
@[simp] theorem feuQueue_wrY (c a : Nat) (v : DWord) (k : Nat) : feuQueue k (wrY c a v s) = feuQueue k s := rfl
@[simp] theorem tlValid_wrY (c a : Nat) (v : DWord) : tlValid (wrY c a v s) = tlValid s := rfl
@[simp] theorem tlRun_wrY (c a : Nat) (v : DWord) : tlRun (wrY c a v s) = tlRun s := rfl

/-! ### `wrProg` -/

@[simp] theorem wrProg_regs (c a : Nat) (v : Bundle64) : (wrProg c a v s).regs = s.regs := rfl
@[simp] theorem wrProg_cores (c a : Nat) (v : Bundle64) : (wrProg c a v s).cores = s.cores := rfl
@[simp] theorem wrProg_pods (c a : Nat) (v : Bundle64) : (wrProg c a v s).pods = s.pods := rfl
@[simp] theorem wrProg_ns (c a : Nat) (v : Bundle64) : (wrProg c a v s).ns = s.ns := rfl
@[simp] theorem wrProg_frac (c a : Nat) (v : Bundle64) : (wrProg c a v s).frac = s.frac := rfl
@[simp] theorem wrProg_tl (c a : Nat) (v : Bundle64) : (wrProg c a v s).tl = s.tl := rfl
@[simp] theorem wrProg_feu (c a : Nat) (v : Bundle64) : (wrProg c a v s).feu = s.feu := rfl
@[simp] theorem wrProg_pair (c a : Nat) (v : Bundle64) : (wrProg c a v s).pair = s.pair := rfl
@[simp] theorem wrProg_nS (c a : Nat) (v : Bundle64) : (wrProg c a v s).nS = s.nS := rfl
@[simp] theorem wrProg_image (c a : Nat) (v : Bundle64) : (wrProg c a v s).image = s.image := rfl
@[simp] theorem wrProg_graph (c a : Nat) (v : Bundle64) : (wrProg c a v s).graph = s.graph := rfl
@[simp] theorem wrProg_mods (c a : Nat) (v : Bundle64) : (wrProg c a v s).mods = s.mods := rfl
@[simp] theorem wrProg_edge (c a : Nat) (v : Bundle64) : (wrProg c a v s).edge = s.edge := rfl
@[simp] theorem wrProg_sense (c a : Nat) (v : Bundle64) : (wrProg c a v s).sense = s.sense := rfl
@[simp] theorem wrProg_senseAt (c a : Nat) (v : Bundle64) : (wrProg c a v s).senseAt = s.senseAt := rfl
@[simp] theorem wrProg_rook (c a : Nat) (v : Bundle64) : (wrProg c a v s).rook = s.rook := rfl
@[simp] theorem wrProg_ks (c a : Nat) (v : Bundle64) : (wrProg c a v s).ks = s.ks := rfl
@[simp] theorem wrProg_time (c a : Nat) (v : Bundle64) : (wrProg c a v s).time = s.time := rfl
@[simp] theorem wrProg_halv (c a : Nat) (v : Bundle64) : (wrProg c a v s).halv = s.halv := rfl
@[simp] theorem wrProg_eth (c a : Nat) (v : Bundle64) : (wrProg c a v s).eth = s.eth := rfl
@[simp] theorem wrProg_fb (c a : Nat) (v : Bundle64) : (wrProg c a v s).fb = s.fb := rfl
@[simp] theorem wrProg_xb (c a : Nat) (v : Bundle64) : (wrProg c a v s).xb = s.xb := rfl
@[simp] theorem wrProg_flash (c a : Nat) (v : Bundle64) : (wrProg c a v s).flash = s.flash := rfl
@[simp] theorem wrProg_pawn (c a : Nat) (v : Bundle64) : (wrProg c a v s).pawn = s.pawn := rfl
@[simp] theorem wrProg_lanes (c a : Nat) (v : Bundle64) : (wrProg c a v s).lanes = s.lanes := rfl
@[simp] theorem wrProg_freeCtr (c a : Nat) (v : Bundle64) : (wrProg c a v s).freeCtr = s.freeCtr := rfl
@[simp] theorem wrProg_pending (c a : Nat) (v : Bundle64) : (wrProg c a v s).pending = s.pending := rfl
@[simp] theorem rdReg_wrProg (c a : Nat) (v : Bundle64) (b : Nat) : rdReg b (wrProg c a v s) = rdReg b s := rfl
@[simp] theorem rd_wrProg (c a : Nat) (v : Bundle64) (g : FRef) : rd g (wrProg c a v s) = rd g s := rfl
@[simp] theorem rdB_wrProg (c a : Nat) (v : Bundle64) (g : FRef) : rdB g (wrProg c a v s) = rdB g s := rfl
@[simp] theorem rdI_wrProg (c a : Nat) (v : Bundle64) (g : FRef) : rdI g (wrProg c a v s) = rdI g s := rfl
@[simp] theorem getPea_wrProg (c a : Nat) (v : Bundle64) (k : Nat) : getPea k (wrProg c a v s) = getPea k s := rfl
@[simp] theorem getRun_wrProg (c a : Nat) (v : Bundle64) (k : Nat) : getRun k (wrProg c a v s) = getRun k s := rfl
@[simp] theorem feuQueue_wrProg (c a : Nat) (v : Bundle64) (k : Nat) : feuQueue k (wrProg c a v s) = feuQueue k s := rfl
@[simp] theorem tlValid_wrProg (c a : Nat) (v : Bundle64) : tlValid (wrProg c a v s) = tlValid s := rfl
@[simp] theorem tlRun_wrProg (c a : Nat) (v : Bundle64) : tlRun (wrProg c a v s) = tlRun s := rfl

/-! ### `wrShared` -/

@[simp] theorem wrShared_regs (c a : Nat) (v : Word) : (wrShared c a v s).regs = s.regs := rfl
@[simp] theorem wrShared_cores (c a : Nat) (v : Word) : (wrShared c a v s).cores = s.cores := rfl
@[simp] theorem wrShared_pods (c a : Nat) (v : Word) : (wrShared c a v s).pods = s.pods := rfl
@[simp] theorem wrShared_ns (c a : Nat) (v : Word) : (wrShared c a v s).ns = s.ns := rfl
@[simp] theorem wrShared_frac (c a : Nat) (v : Word) : (wrShared c a v s).frac = s.frac := rfl
@[simp] theorem wrShared_tl (c a : Nat) (v : Word) : (wrShared c a v s).tl = s.tl := rfl
@[simp] theorem wrShared_feu (c a : Nat) (v : Word) : (wrShared c a v s).feu = s.feu := rfl
@[simp] theorem wrShared_pair (c a : Nat) (v : Word) : (wrShared c a v s).pair = s.pair := rfl
@[simp] theorem wrShared_nS (c a : Nat) (v : Word) : (wrShared c a v s).nS = s.nS := rfl
@[simp] theorem wrShared_image (c a : Nat) (v : Word) : (wrShared c a v s).image = s.image := rfl
@[simp] theorem wrShared_graph (c a : Nat) (v : Word) : (wrShared c a v s).graph = s.graph := rfl
@[simp] theorem wrShared_mods (c a : Nat) (v : Word) : (wrShared c a v s).mods = s.mods := rfl
@[simp] theorem wrShared_edge (c a : Nat) (v : Word) : (wrShared c a v s).edge = s.edge := rfl
@[simp] theorem wrShared_sense (c a : Nat) (v : Word) : (wrShared c a v s).sense = s.sense := rfl
@[simp] theorem wrShared_senseAt (c a : Nat) (v : Word) : (wrShared c a v s).senseAt = s.senseAt := rfl
@[simp] theorem wrShared_rook (c a : Nat) (v : Word) : (wrShared c a v s).rook = s.rook := rfl
@[simp] theorem wrShared_ks (c a : Nat) (v : Word) : (wrShared c a v s).ks = s.ks := rfl
@[simp] theorem wrShared_time (c a : Nat) (v : Word) : (wrShared c a v s).time = s.time := rfl
@[simp] theorem wrShared_halv (c a : Nat) (v : Word) : (wrShared c a v s).halv = s.halv := rfl
@[simp] theorem wrShared_eth (c a : Nat) (v : Word) : (wrShared c a v s).eth = s.eth := rfl
@[simp] theorem wrShared_fb (c a : Nat) (v : Word) : (wrShared c a v s).fb = s.fb := rfl
@[simp] theorem wrShared_xb (c a : Nat) (v : Word) : (wrShared c a v s).xb = s.xb := rfl
@[simp] theorem wrShared_flash (c a : Nat) (v : Word) : (wrShared c a v s).flash = s.flash := rfl
@[simp] theorem wrShared_pawn (c a : Nat) (v : Word) : (wrShared c a v s).pawn = s.pawn := rfl
@[simp] theorem wrShared_lanes (c a : Nat) (v : Word) : (wrShared c a v s).lanes = s.lanes := rfl
@[simp] theorem wrShared_freeCtr (c a : Nat) (v : Word) : (wrShared c a v s).freeCtr = s.freeCtr := rfl
@[simp] theorem wrShared_pending (c a : Nat) (v : Word) : (wrShared c a v s).pending = s.pending := rfl
@[simp] theorem rdReg_wrShared (c a : Nat) (v : Word) (b : Nat) : rdReg b (wrShared c a v s) = rdReg b s := rfl
@[simp] theorem rd_wrShared (c a : Nat) (v : Word) (g : FRef) : rd g (wrShared c a v s) = rd g s := rfl
@[simp] theorem rdB_wrShared (c a : Nat) (v : Word) (g : FRef) : rdB g (wrShared c a v s) = rdB g s := rfl
@[simp] theorem rdI_wrShared (c a : Nat) (v : Word) (g : FRef) : rdI g (wrShared c a v s) = rdI g s := rfl
@[simp] theorem getPea_wrShared (c a : Nat) (v : Word) (k : Nat) : getPea k (wrShared c a v s) = getPea k s := rfl
@[simp] theorem getRun_wrShared (c a : Nat) (v : Word) (k : Nat) : getRun k (wrShared c a v s) = getRun k s := rfl
@[simp] theorem feuQueue_wrShared (c a : Nat) (v : Word) (k : Nat) : feuQueue k (wrShared c a v s) = feuQueue k s := rfl
@[simp] theorem tlValid_wrShared (c a : Nat) (v : Word) : tlValid (wrShared c a v s) = tlValid s := rfl
@[simp] theorem tlRun_wrShared (c a : Nat) (v : Word) : tlRun (wrShared c a v s) = tlRun s := rfl

/-! ### `wrDram` -/

@[simp] theorem wrDram_regs (a : Nat) (v : Byte) : (wrDram a v s).regs = s.regs := rfl
@[simp] theorem wrDram_cores (a : Nat) (v : Byte) : (wrDram a v s).cores = s.cores := rfl
@[simp] theorem wrDram_pods (a : Nat) (v : Byte) : (wrDram a v s).pods = s.pods := rfl
@[simp] theorem wrDram_ns (a : Nat) (v : Byte) : (wrDram a v s).ns = s.ns := rfl
@[simp] theorem wrDram_frac (a : Nat) (v : Byte) : (wrDram a v s).frac = s.frac := rfl
@[simp] theorem wrDram_tl (a : Nat) (v : Byte) : (wrDram a v s).tl = s.tl := rfl
@[simp] theorem wrDram_feu (a : Nat) (v : Byte) : (wrDram a v s).feu = s.feu := rfl
@[simp] theorem wrDram_pair (a : Nat) (v : Byte) : (wrDram a v s).pair = s.pair := rfl
@[simp] theorem wrDram_nS (a : Nat) (v : Byte) : (wrDram a v s).nS = s.nS := rfl
@[simp] theorem wrDram_image (a : Nat) (v : Byte) : (wrDram a v s).image = s.image := rfl
@[simp] theorem wrDram_graph (a : Nat) (v : Byte) : (wrDram a v s).graph = s.graph := rfl
@[simp] theorem wrDram_mods (a : Nat) (v : Byte) : (wrDram a v s).mods = s.mods := rfl
@[simp] theorem wrDram_edge (a : Nat) (v : Byte) : (wrDram a v s).edge = s.edge := rfl
@[simp] theorem wrDram_sense (a : Nat) (v : Byte) : (wrDram a v s).sense = s.sense := rfl
@[simp] theorem wrDram_senseAt (a : Nat) (v : Byte) : (wrDram a v s).senseAt = s.senseAt := rfl
@[simp] theorem wrDram_rook (a : Nat) (v : Byte) : (wrDram a v s).rook = s.rook := rfl
@[simp] theorem wrDram_ks (a : Nat) (v : Byte) : (wrDram a v s).ks = s.ks := rfl
@[simp] theorem wrDram_time (a : Nat) (v : Byte) : (wrDram a v s).time = s.time := rfl
@[simp] theorem wrDram_halv (a : Nat) (v : Byte) : (wrDram a v s).halv = s.halv := rfl
@[simp] theorem wrDram_eth (a : Nat) (v : Byte) : (wrDram a v s).eth = s.eth := rfl
@[simp] theorem wrDram_fb (a : Nat) (v : Byte) : (wrDram a v s).fb = s.fb := rfl
@[simp] theorem wrDram_xb (a : Nat) (v : Byte) : (wrDram a v s).xb = s.xb := rfl
@[simp] theorem wrDram_flash (a : Nat) (v : Byte) : (wrDram a v s).flash = s.flash := rfl
@[simp] theorem wrDram_pawn (a : Nat) (v : Byte) : (wrDram a v s).pawn = s.pawn := rfl
@[simp] theorem wrDram_lanes (a : Nat) (v : Byte) : (wrDram a v s).lanes = s.lanes := rfl
@[simp] theorem wrDram_freeCtr (a : Nat) (v : Byte) : (wrDram a v s).freeCtr = s.freeCtr := rfl
@[simp] theorem wrDram_pending (a : Nat) (v : Byte) : (wrDram a v s).pending = s.pending := rfl
@[simp] theorem rdReg_wrDram (a : Nat) (v : Byte) (b : Nat) : rdReg b (wrDram a v s) = rdReg b s := rfl
@[simp] theorem rd_wrDram (a : Nat) (v : Byte) (g : FRef) : rd g (wrDram a v s) = rd g s := rfl
@[simp] theorem rdB_wrDram (a : Nat) (v : Byte) (g : FRef) : rdB g (wrDram a v s) = rdB g s := rfl
@[simp] theorem rdI_wrDram (a : Nat) (v : Byte) (g : FRef) : rdI g (wrDram a v s) = rdI g s := rfl
@[simp] theorem getPea_wrDram (a : Nat) (v : Byte) (k : Nat) : getPea k (wrDram a v s) = getPea k s := rfl
@[simp] theorem getRun_wrDram (a : Nat) (v : Byte) (k : Nat) : getRun k (wrDram a v s) = getRun k s := rfl
@[simp] theorem feuQueue_wrDram (a : Nat) (v : Byte) (k : Nat) : feuQueue k (wrDram a v s) = feuQueue k s := rfl
@[simp] theorem tlValid_wrDram (a : Nat) (v : Byte) : tlValid (wrDram a v s) = tlValid s := rfl
@[simp] theorem tlRun_wrDram (a : Nat) (v : Byte) : tlRun (wrDram a v s) = tlRun s := rfl

/-! ### `onEdge` -/

@[simp] theorem onEdge_regs (f : EdgeSt → EdgeSt) : (onEdge f s).regs = s.regs := rfl
@[simp] theorem onEdge_cores (f : EdgeSt → EdgeSt) : (onEdge f s).cores = s.cores := rfl
@[simp] theorem onEdge_mem (f : EdgeSt → EdgeSt) : (onEdge f s).mem = s.mem := rfl
@[simp] theorem onEdge_pods (f : EdgeSt → EdgeSt) : (onEdge f s).pods = s.pods := rfl
@[simp] theorem onEdge_ns (f : EdgeSt → EdgeSt) : (onEdge f s).ns = s.ns := rfl
@[simp] theorem onEdge_frac (f : EdgeSt → EdgeSt) : (onEdge f s).frac = s.frac := rfl
@[simp] theorem onEdge_tl (f : EdgeSt → EdgeSt) : (onEdge f s).tl = s.tl := rfl
@[simp] theorem onEdge_feu (f : EdgeSt → EdgeSt) : (onEdge f s).feu = s.feu := rfl
@[simp] theorem onEdge_pair (f : EdgeSt → EdgeSt) : (onEdge f s).pair = s.pair := rfl
@[simp] theorem onEdge_nS (f : EdgeSt → EdgeSt) : (onEdge f s).nS = s.nS := rfl
@[simp] theorem onEdge_image (f : EdgeSt → EdgeSt) : (onEdge f s).image = s.image := rfl
@[simp] theorem onEdge_graph (f : EdgeSt → EdgeSt) : (onEdge f s).graph = s.graph := rfl
@[simp] theorem onEdge_mods (f : EdgeSt → EdgeSt) : (onEdge f s).mods = s.mods := rfl
@[simp] theorem onEdge_edge (f : EdgeSt → EdgeSt) : (onEdge f s).edge = f s.edge := rfl
@[simp] theorem onEdge_sense (f : EdgeSt → EdgeSt) : (onEdge f s).sense = s.sense := rfl
@[simp] theorem onEdge_senseAt (f : EdgeSt → EdgeSt) : (onEdge f s).senseAt = s.senseAt := rfl
@[simp] theorem onEdge_rook (f : EdgeSt → EdgeSt) : (onEdge f s).rook = s.rook := rfl
@[simp] theorem onEdge_ks (f : EdgeSt → EdgeSt) : (onEdge f s).ks = s.ks := rfl
@[simp] theorem onEdge_time (f : EdgeSt → EdgeSt) : (onEdge f s).time = s.time := rfl
@[simp] theorem onEdge_halv (f : EdgeSt → EdgeSt) : (onEdge f s).halv = s.halv := rfl
@[simp] theorem onEdge_eth (f : EdgeSt → EdgeSt) : (onEdge f s).eth = s.eth := rfl
@[simp] theorem onEdge_fb (f : EdgeSt → EdgeSt) : (onEdge f s).fb = s.fb := rfl
@[simp] theorem onEdge_xb (f : EdgeSt → EdgeSt) : (onEdge f s).xb = s.xb := rfl
@[simp] theorem onEdge_flash (f : EdgeSt → EdgeSt) : (onEdge f s).flash = s.flash := rfl
@[simp] theorem onEdge_pawn (f : EdgeSt → EdgeSt) : (onEdge f s).pawn = s.pawn := rfl
@[simp] theorem onEdge_lanes (f : EdgeSt → EdgeSt) : (onEdge f s).lanes = s.lanes := rfl
@[simp] theorem onEdge_freeCtr (f : EdgeSt → EdgeSt) : (onEdge f s).freeCtr = s.freeCtr := rfl
@[simp] theorem onEdge_pending (f : EdgeSt → EdgeSt) : (onEdge f s).pending = s.pending := rfl
@[simp] theorem rdReg_onEdge (f : EdgeSt → EdgeSt) (b : Nat) : rdReg b (onEdge f s) = rdReg b s := rfl
@[simp] theorem rd_onEdge (f : EdgeSt → EdgeSt) (g : FRef) : rd g (onEdge f s) = rd g s := rfl
@[simp] theorem rdB_onEdge (f : EdgeSt → EdgeSt) (g : FRef) : rdB g (onEdge f s) = rdB g s := rfl
@[simp] theorem rdI_onEdge (f : EdgeSt → EdgeSt) (g : FRef) : rdI g (onEdge f s) = rdI g s := rfl
@[simp] theorem getPea_onEdge (f : EdgeSt → EdgeSt) (k : Nat) : getPea k (onEdge f s) = getPea k s := rfl
@[simp] theorem getRun_onEdge (f : EdgeSt → EdgeSt) (k : Nat) : getRun k (onEdge f s) = getRun k s := rfl
@[simp] theorem feuQueue_onEdge (f : EdgeSt → EdgeSt) (k : Nat) : feuQueue k (onEdge f s) = feuQueue k s := rfl
@[simp] theorem tlValid_onEdge (f : EdgeSt → EdgeSt) : tlValid (onEdge f s) = tlValid s := rfl
@[simp] theorem tlRun_onEdge (f : EdgeSt → EdgeSt) : tlRun (onEdge f s) = tlRun s := rfl

/-! ### `onXb` -/

@[simp] theorem onXb_regs (f : XbSt → XbSt) : (onXb f s).regs = s.regs := rfl
@[simp] theorem onXb_cores (f : XbSt → XbSt) : (onXb f s).cores = s.cores := rfl
@[simp] theorem onXb_mem (f : XbSt → XbSt) : (onXb f s).mem = s.mem := rfl
@[simp] theorem onXb_pods (f : XbSt → XbSt) : (onXb f s).pods = s.pods := rfl
@[simp] theorem onXb_ns (f : XbSt → XbSt) : (onXb f s).ns = s.ns := rfl
@[simp] theorem onXb_frac (f : XbSt → XbSt) : (onXb f s).frac = s.frac := rfl
@[simp] theorem onXb_tl (f : XbSt → XbSt) : (onXb f s).tl = s.tl := rfl
@[simp] theorem onXb_feu (f : XbSt → XbSt) : (onXb f s).feu = s.feu := rfl
@[simp] theorem onXb_pair (f : XbSt → XbSt) : (onXb f s).pair = s.pair := rfl
@[simp] theorem onXb_nS (f : XbSt → XbSt) : (onXb f s).nS = s.nS := rfl
@[simp] theorem onXb_image (f : XbSt → XbSt) : (onXb f s).image = s.image := rfl
@[simp] theorem onXb_graph (f : XbSt → XbSt) : (onXb f s).graph = s.graph := rfl
@[simp] theorem onXb_mods (f : XbSt → XbSt) : (onXb f s).mods = s.mods := rfl
@[simp] theorem onXb_edge (f : XbSt → XbSt) : (onXb f s).edge = s.edge := rfl
@[simp] theorem onXb_sense (f : XbSt → XbSt) : (onXb f s).sense = s.sense := rfl
@[simp] theorem onXb_senseAt (f : XbSt → XbSt) : (onXb f s).senseAt = s.senseAt := rfl
@[simp] theorem onXb_rook (f : XbSt → XbSt) : (onXb f s).rook = s.rook := rfl
@[simp] theorem onXb_ks (f : XbSt → XbSt) : (onXb f s).ks = s.ks := rfl
@[simp] theorem onXb_time (f : XbSt → XbSt) : (onXb f s).time = s.time := rfl
@[simp] theorem onXb_halv (f : XbSt → XbSt) : (onXb f s).halv = s.halv := rfl
@[simp] theorem onXb_eth (f : XbSt → XbSt) : (onXb f s).eth = s.eth := rfl
@[simp] theorem onXb_fb (f : XbSt → XbSt) : (onXb f s).fb = s.fb := rfl
@[simp] theorem onXb_xb (f : XbSt → XbSt) : (onXb f s).xb = f s.xb := rfl
@[simp] theorem onXb_flash (f : XbSt → XbSt) : (onXb f s).flash = s.flash := rfl
@[simp] theorem onXb_pawn (f : XbSt → XbSt) : (onXb f s).pawn = s.pawn := rfl
@[simp] theorem onXb_lanes (f : XbSt → XbSt) : (onXb f s).lanes = s.lanes := rfl
@[simp] theorem onXb_freeCtr (f : XbSt → XbSt) : (onXb f s).freeCtr = s.freeCtr := rfl
@[simp] theorem onXb_pending (f : XbSt → XbSt) : (onXb f s).pending = s.pending := rfl
@[simp] theorem rdReg_onXb (f : XbSt → XbSt) (b : Nat) : rdReg b (onXb f s) = rdReg b s := rfl
@[simp] theorem rd_onXb (f : XbSt → XbSt) (g : FRef) : rd g (onXb f s) = rd g s := rfl
@[simp] theorem rdB_onXb (f : XbSt → XbSt) (g : FRef) : rdB g (onXb f s) = rdB g s := rfl
@[simp] theorem rdI_onXb (f : XbSt → XbSt) (g : FRef) : rdI g (onXb f s) = rdI g s := rfl
@[simp] theorem getPea_onXb (f : XbSt → XbSt) (k : Nat) : getPea k (onXb f s) = getPea k s := rfl
@[simp] theorem getRun_onXb (f : XbSt → XbSt) (k : Nat) : getRun k (onXb f s) = getRun k s := rfl
@[simp] theorem feuQueue_onXb (f : XbSt → XbSt) (k : Nat) : feuQueue k (onXb f s) = feuQueue k s := rfl
@[simp] theorem tlValid_onXb (f : XbSt → XbSt) : tlValid (onXb f s) = tlValid s := rfl
@[simp] theorem tlRun_onXb (f : XbSt → XbSt) : tlRun (onXb f s) = tlRun s := rfl

/-! ### `onEth` -/

@[simp] theorem onEth_regs (f : EthSt → EthSt) : (onEth f s).regs = s.regs := rfl
@[simp] theorem onEth_cores (f : EthSt → EthSt) : (onEth f s).cores = s.cores := rfl
@[simp] theorem onEth_mem (f : EthSt → EthSt) : (onEth f s).mem = s.mem := rfl
@[simp] theorem onEth_pods (f : EthSt → EthSt) : (onEth f s).pods = s.pods := rfl
@[simp] theorem onEth_ns (f : EthSt → EthSt) : (onEth f s).ns = s.ns := rfl
@[simp] theorem onEth_frac (f : EthSt → EthSt) : (onEth f s).frac = s.frac := rfl
@[simp] theorem onEth_tl (f : EthSt → EthSt) : (onEth f s).tl = s.tl := rfl
@[simp] theorem onEth_feu (f : EthSt → EthSt) : (onEth f s).feu = s.feu := rfl
@[simp] theorem onEth_pair (f : EthSt → EthSt) : (onEth f s).pair = s.pair := rfl
@[simp] theorem onEth_nS (f : EthSt → EthSt) : (onEth f s).nS = s.nS := rfl
@[simp] theorem onEth_image (f : EthSt → EthSt) : (onEth f s).image = s.image := rfl
@[simp] theorem onEth_graph (f : EthSt → EthSt) : (onEth f s).graph = s.graph := rfl
@[simp] theorem onEth_mods (f : EthSt → EthSt) : (onEth f s).mods = s.mods := rfl
@[simp] theorem onEth_edge (f : EthSt → EthSt) : (onEth f s).edge = s.edge := rfl
@[simp] theorem onEth_sense (f : EthSt → EthSt) : (onEth f s).sense = s.sense := rfl
@[simp] theorem onEth_senseAt (f : EthSt → EthSt) : (onEth f s).senseAt = s.senseAt := rfl
@[simp] theorem onEth_rook (f : EthSt → EthSt) : (onEth f s).rook = s.rook := rfl
@[simp] theorem onEth_ks (f : EthSt → EthSt) : (onEth f s).ks = s.ks := rfl
@[simp] theorem onEth_time (f : EthSt → EthSt) : (onEth f s).time = s.time := rfl
@[simp] theorem onEth_halv (f : EthSt → EthSt) : (onEth f s).halv = s.halv := rfl
@[simp] theorem onEth_eth (f : EthSt → EthSt) : (onEth f s).eth = f s.eth := rfl
@[simp] theorem onEth_fb (f : EthSt → EthSt) : (onEth f s).fb = s.fb := rfl
@[simp] theorem onEth_xb (f : EthSt → EthSt) : (onEth f s).xb = s.xb := rfl
@[simp] theorem onEth_flash (f : EthSt → EthSt) : (onEth f s).flash = s.flash := rfl
@[simp] theorem onEth_pawn (f : EthSt → EthSt) : (onEth f s).pawn = s.pawn := rfl
@[simp] theorem onEth_lanes (f : EthSt → EthSt) : (onEth f s).lanes = s.lanes := rfl
@[simp] theorem onEth_freeCtr (f : EthSt → EthSt) : (onEth f s).freeCtr = s.freeCtr := rfl
@[simp] theorem onEth_pending (f : EthSt → EthSt) : (onEth f s).pending = s.pending := rfl
@[simp] theorem rdReg_onEth (f : EthSt → EthSt) (b : Nat) : rdReg b (onEth f s) = rdReg b s := rfl
@[simp] theorem rd_onEth (f : EthSt → EthSt) (g : FRef) : rd g (onEth f s) = rd g s := rfl
@[simp] theorem rdB_onEth (f : EthSt → EthSt) (g : FRef) : rdB g (onEth f s) = rdB g s := rfl
@[simp] theorem rdI_onEth (f : EthSt → EthSt) (g : FRef) : rdI g (onEth f s) = rdI g s := rfl
@[simp] theorem getPea_onEth (f : EthSt → EthSt) (k : Nat) : getPea k (onEth f s) = getPea k s := rfl
@[simp] theorem getRun_onEth (f : EthSt → EthSt) (k : Nat) : getRun k (onEth f s) = getRun k s := rfl
@[simp] theorem feuQueue_onEth (f : EthSt → EthSt) (k : Nat) : feuQueue k (onEth f s) = feuQueue k s := rfl
@[simp] theorem tlValid_onEth (f : EthSt → EthSt) : tlValid (onEth f s) = tlValid s := rfl
@[simp] theorem tlRun_onEth (f : EthSt → EthSt) : tlRun (onEth f s) = tlRun s := rfl

/-! ### `onHalv` -/

@[simp] theorem onHalv_regs (f : HalvonSt → HalvonSt) : (onHalv f s).regs = s.regs := rfl
@[simp] theorem onHalv_cores (f : HalvonSt → HalvonSt) : (onHalv f s).cores = s.cores := rfl
@[simp] theorem onHalv_mem (f : HalvonSt → HalvonSt) : (onHalv f s).mem = s.mem := rfl
@[simp] theorem onHalv_pods (f : HalvonSt → HalvonSt) : (onHalv f s).pods = s.pods := rfl
@[simp] theorem onHalv_ns (f : HalvonSt → HalvonSt) : (onHalv f s).ns = s.ns := rfl
@[simp] theorem onHalv_frac (f : HalvonSt → HalvonSt) : (onHalv f s).frac = s.frac := rfl
@[simp] theorem onHalv_tl (f : HalvonSt → HalvonSt) : (onHalv f s).tl = s.tl := rfl
@[simp] theorem onHalv_feu (f : HalvonSt → HalvonSt) : (onHalv f s).feu = s.feu := rfl
@[simp] theorem onHalv_pair (f : HalvonSt → HalvonSt) : (onHalv f s).pair = s.pair := rfl
@[simp] theorem onHalv_nS (f : HalvonSt → HalvonSt) : (onHalv f s).nS = s.nS := rfl
@[simp] theorem onHalv_image (f : HalvonSt → HalvonSt) : (onHalv f s).image = s.image := rfl
@[simp] theorem onHalv_graph (f : HalvonSt → HalvonSt) : (onHalv f s).graph = s.graph := rfl
@[simp] theorem onHalv_mods (f : HalvonSt → HalvonSt) : (onHalv f s).mods = s.mods := rfl
@[simp] theorem onHalv_edge (f : HalvonSt → HalvonSt) : (onHalv f s).edge = s.edge := rfl
@[simp] theorem onHalv_sense (f : HalvonSt → HalvonSt) : (onHalv f s).sense = s.sense := rfl
@[simp] theorem onHalv_senseAt (f : HalvonSt → HalvonSt) : (onHalv f s).senseAt = s.senseAt := rfl
@[simp] theorem onHalv_rook (f : HalvonSt → HalvonSt) : (onHalv f s).rook = s.rook := rfl
@[simp] theorem onHalv_ks (f : HalvonSt → HalvonSt) : (onHalv f s).ks = s.ks := rfl
@[simp] theorem onHalv_time (f : HalvonSt → HalvonSt) : (onHalv f s).time = s.time := rfl
@[simp] theorem onHalv_halv (f : HalvonSt → HalvonSt) : (onHalv f s).halv = f s.halv := rfl
@[simp] theorem onHalv_eth (f : HalvonSt → HalvonSt) : (onHalv f s).eth = s.eth := rfl
@[simp] theorem onHalv_fb (f : HalvonSt → HalvonSt) : (onHalv f s).fb = s.fb := rfl
@[simp] theorem onHalv_xb (f : HalvonSt → HalvonSt) : (onHalv f s).xb = s.xb := rfl
@[simp] theorem onHalv_flash (f : HalvonSt → HalvonSt) : (onHalv f s).flash = s.flash := rfl
@[simp] theorem onHalv_pawn (f : HalvonSt → HalvonSt) : (onHalv f s).pawn = s.pawn := rfl
@[simp] theorem onHalv_lanes (f : HalvonSt → HalvonSt) : (onHalv f s).lanes = s.lanes := rfl
@[simp] theorem onHalv_freeCtr (f : HalvonSt → HalvonSt) : (onHalv f s).freeCtr = s.freeCtr := rfl
@[simp] theorem onHalv_pending (f : HalvonSt → HalvonSt) : (onHalv f s).pending = s.pending := rfl
@[simp] theorem rdReg_onHalv (f : HalvonSt → HalvonSt) (b : Nat) : rdReg b (onHalv f s) = rdReg b s := rfl
@[simp] theorem rd_onHalv (f : HalvonSt → HalvonSt) (g : FRef) : rd g (onHalv f s) = rd g s := rfl
@[simp] theorem rdB_onHalv (f : HalvonSt → HalvonSt) (g : FRef) : rdB g (onHalv f s) = rdB g s := rfl
@[simp] theorem rdI_onHalv (f : HalvonSt → HalvonSt) (g : FRef) : rdI g (onHalv f s) = rdI g s := rfl
@[simp] theorem getPea_onHalv (f : HalvonSt → HalvonSt) (k : Nat) : getPea k (onHalv f s) = getPea k s := rfl
@[simp] theorem getRun_onHalv (f : HalvonSt → HalvonSt) (k : Nat) : getRun k (onHalv f s) = getRun k s := rfl
@[simp] theorem feuQueue_onHalv (f : HalvonSt → HalvonSt) (k : Nat) : feuQueue k (onHalv f s) = feuQueue k s := rfl
@[simp] theorem tlValid_onHalv (f : HalvonSt → HalvonSt) : tlValid (onHalv f s) = tlValid s := rfl
@[simp] theorem tlRun_onHalv (f : HalvonSt → HalvonSt) : tlRun (onHalv f s) = tlRun s := rfl

/-! ### `onFb` -/

@[simp] theorem onFb_regs (f : FbSt → FbSt) : (onFb f s).regs = s.regs := rfl
@[simp] theorem onFb_cores (f : FbSt → FbSt) : (onFb f s).cores = s.cores := rfl
@[simp] theorem onFb_mem (f : FbSt → FbSt) : (onFb f s).mem = s.mem := rfl
@[simp] theorem onFb_pods (f : FbSt → FbSt) : (onFb f s).pods = s.pods := rfl
@[simp] theorem onFb_ns (f : FbSt → FbSt) : (onFb f s).ns = s.ns := rfl
@[simp] theorem onFb_frac (f : FbSt → FbSt) : (onFb f s).frac = s.frac := rfl
@[simp] theorem onFb_tl (f : FbSt → FbSt) : (onFb f s).tl = s.tl := rfl
@[simp] theorem onFb_feu (f : FbSt → FbSt) : (onFb f s).feu = s.feu := rfl
@[simp] theorem onFb_pair (f : FbSt → FbSt) : (onFb f s).pair = s.pair := rfl
@[simp] theorem onFb_nS (f : FbSt → FbSt) : (onFb f s).nS = s.nS := rfl
@[simp] theorem onFb_image (f : FbSt → FbSt) : (onFb f s).image = s.image := rfl
@[simp] theorem onFb_graph (f : FbSt → FbSt) : (onFb f s).graph = s.graph := rfl
@[simp] theorem onFb_mods (f : FbSt → FbSt) : (onFb f s).mods = s.mods := rfl
@[simp] theorem onFb_edge (f : FbSt → FbSt) : (onFb f s).edge = s.edge := rfl
@[simp] theorem onFb_sense (f : FbSt → FbSt) : (onFb f s).sense = s.sense := rfl
@[simp] theorem onFb_senseAt (f : FbSt → FbSt) : (onFb f s).senseAt = s.senseAt := rfl
@[simp] theorem onFb_rook (f : FbSt → FbSt) : (onFb f s).rook = s.rook := rfl
@[simp] theorem onFb_ks (f : FbSt → FbSt) : (onFb f s).ks = s.ks := rfl
@[simp] theorem onFb_time (f : FbSt → FbSt) : (onFb f s).time = s.time := rfl
@[simp] theorem onFb_halv (f : FbSt → FbSt) : (onFb f s).halv = s.halv := rfl
@[simp] theorem onFb_eth (f : FbSt → FbSt) : (onFb f s).eth = s.eth := rfl
@[simp] theorem onFb_fb (f : FbSt → FbSt) : (onFb f s).fb = f s.fb := rfl
@[simp] theorem onFb_xb (f : FbSt → FbSt) : (onFb f s).xb = s.xb := rfl
@[simp] theorem onFb_flash (f : FbSt → FbSt) : (onFb f s).flash = s.flash := rfl
@[simp] theorem onFb_pawn (f : FbSt → FbSt) : (onFb f s).pawn = s.pawn := rfl
@[simp] theorem onFb_lanes (f : FbSt → FbSt) : (onFb f s).lanes = s.lanes := rfl
@[simp] theorem onFb_freeCtr (f : FbSt → FbSt) : (onFb f s).freeCtr = s.freeCtr := rfl
@[simp] theorem onFb_pending (f : FbSt → FbSt) : (onFb f s).pending = s.pending := rfl
@[simp] theorem rdReg_onFb (f : FbSt → FbSt) (b : Nat) : rdReg b (onFb f s) = rdReg b s := rfl
@[simp] theorem rd_onFb (f : FbSt → FbSt) (g : FRef) : rd g (onFb f s) = rd g s := rfl
@[simp] theorem rdB_onFb (f : FbSt → FbSt) (g : FRef) : rdB g (onFb f s) = rdB g s := rfl
@[simp] theorem rdI_onFb (f : FbSt → FbSt) (g : FRef) : rdI g (onFb f s) = rdI g s := rfl
@[simp] theorem getPea_onFb (f : FbSt → FbSt) (k : Nat) : getPea k (onFb f s) = getPea k s := rfl
@[simp] theorem getRun_onFb (f : FbSt → FbSt) (k : Nat) : getRun k (onFb f s) = getRun k s := rfl
@[simp] theorem feuQueue_onFb (f : FbSt → FbSt) (k : Nat) : feuQueue k (onFb f s) = feuQueue k s := rfl
@[simp] theorem tlValid_onFb (f : FbSt → FbSt) : tlValid (onFb f s) = tlValid s := rfl
@[simp] theorem tlRun_onFb (f : FbSt → FbSt) : tlRun (onFb f s) = tlRun s := rfl

/-! ### `onFl` -/

@[simp] theorem onFl_regs (f : FlashSt → FlashSt) : (onFl f s).regs = s.regs := rfl
@[simp] theorem onFl_cores (f : FlashSt → FlashSt) : (onFl f s).cores = s.cores := rfl
@[simp] theorem onFl_mem (f : FlashSt → FlashSt) : (onFl f s).mem = s.mem := rfl
@[simp] theorem onFl_pods (f : FlashSt → FlashSt) : (onFl f s).pods = s.pods := rfl
@[simp] theorem onFl_ns (f : FlashSt → FlashSt) : (onFl f s).ns = s.ns := rfl
@[simp] theorem onFl_frac (f : FlashSt → FlashSt) : (onFl f s).frac = s.frac := rfl
@[simp] theorem onFl_tl (f : FlashSt → FlashSt) : (onFl f s).tl = s.tl := rfl
@[simp] theorem onFl_feu (f : FlashSt → FlashSt) : (onFl f s).feu = s.feu := rfl
@[simp] theorem onFl_pair (f : FlashSt → FlashSt) : (onFl f s).pair = s.pair := rfl
@[simp] theorem onFl_nS (f : FlashSt → FlashSt) : (onFl f s).nS = s.nS := rfl
@[simp] theorem onFl_image (f : FlashSt → FlashSt) : (onFl f s).image = s.image := rfl
@[simp] theorem onFl_graph (f : FlashSt → FlashSt) : (onFl f s).graph = s.graph := rfl
@[simp] theorem onFl_mods (f : FlashSt → FlashSt) : (onFl f s).mods = s.mods := rfl
@[simp] theorem onFl_edge (f : FlashSt → FlashSt) : (onFl f s).edge = s.edge := rfl
@[simp] theorem onFl_sense (f : FlashSt → FlashSt) : (onFl f s).sense = s.sense := rfl
@[simp] theorem onFl_senseAt (f : FlashSt → FlashSt) : (onFl f s).senseAt = s.senseAt := rfl
@[simp] theorem onFl_rook (f : FlashSt → FlashSt) : (onFl f s).rook = s.rook := rfl
@[simp] theorem onFl_ks (f : FlashSt → FlashSt) : (onFl f s).ks = s.ks := rfl
@[simp] theorem onFl_time (f : FlashSt → FlashSt) : (onFl f s).time = s.time := rfl
@[simp] theorem onFl_halv (f : FlashSt → FlashSt) : (onFl f s).halv = s.halv := rfl
@[simp] theorem onFl_eth (f : FlashSt → FlashSt) : (onFl f s).eth = s.eth := rfl
@[simp] theorem onFl_fb (f : FlashSt → FlashSt) : (onFl f s).fb = s.fb := rfl
@[simp] theorem onFl_xb (f : FlashSt → FlashSt) : (onFl f s).xb = s.xb := rfl
@[simp] theorem onFl_flash (f : FlashSt → FlashSt) : (onFl f s).flash = f s.flash := rfl
@[simp] theorem onFl_pawn (f : FlashSt → FlashSt) : (onFl f s).pawn = s.pawn := rfl
@[simp] theorem onFl_lanes (f : FlashSt → FlashSt) : (onFl f s).lanes = s.lanes := rfl
@[simp] theorem onFl_freeCtr (f : FlashSt → FlashSt) : (onFl f s).freeCtr = s.freeCtr := rfl
@[simp] theorem onFl_pending (f : FlashSt → FlashSt) : (onFl f s).pending = s.pending := rfl
@[simp] theorem rdReg_onFl (f : FlashSt → FlashSt) (b : Nat) : rdReg b (onFl f s) = rdReg b s := rfl
@[simp] theorem rd_onFl (f : FlashSt → FlashSt) (g : FRef) : rd g (onFl f s) = rd g s := rfl
@[simp] theorem rdB_onFl (f : FlashSt → FlashSt) (g : FRef) : rdB g (onFl f s) = rdB g s := rfl
@[simp] theorem rdI_onFl (f : FlashSt → FlashSt) (g : FRef) : rdI g (onFl f s) = rdI g s := rfl
@[simp] theorem getPea_onFl (f : FlashSt → FlashSt) (k : Nat) : getPea k (onFl f s) = getPea k s := rfl
@[simp] theorem getRun_onFl (f : FlashSt → FlashSt) (k : Nat) : getRun k (onFl f s) = getRun k s := rfl
@[simp] theorem feuQueue_onFl (f : FlashSt → FlashSt) (k : Nat) : feuQueue k (onFl f s) = feuQueue k s := rfl
@[simp] theorem tlValid_onFl (f : FlashSt → FlashSt) : tlValid (onFl f s) = tlValid s := rfl
@[simp] theorem tlRun_onFl (f : FlashSt → FlashSt) : tlRun (onFl f s) = tlRun s := rfl

/-! ### `onKs` -/

@[simp] theorem onKs_regs (f : KeySt → KeySt) : (onKs f s).regs = s.regs := rfl
@[simp] theorem onKs_cores (f : KeySt → KeySt) : (onKs f s).cores = s.cores := rfl
@[simp] theorem onKs_mem (f : KeySt → KeySt) : (onKs f s).mem = s.mem := rfl
@[simp] theorem onKs_pods (f : KeySt → KeySt) : (onKs f s).pods = s.pods := rfl
@[simp] theorem onKs_ns (f : KeySt → KeySt) : (onKs f s).ns = s.ns := rfl
@[simp] theorem onKs_frac (f : KeySt → KeySt) : (onKs f s).frac = s.frac := rfl
@[simp] theorem onKs_tl (f : KeySt → KeySt) : (onKs f s).tl = s.tl := rfl
@[simp] theorem onKs_feu (f : KeySt → KeySt) : (onKs f s).feu = s.feu := rfl
@[simp] theorem onKs_pair (f : KeySt → KeySt) : (onKs f s).pair = s.pair := rfl
@[simp] theorem onKs_nS (f : KeySt → KeySt) : (onKs f s).nS = s.nS := rfl
@[simp] theorem onKs_image (f : KeySt → KeySt) : (onKs f s).image = s.image := rfl
@[simp] theorem onKs_graph (f : KeySt → KeySt) : (onKs f s).graph = s.graph := rfl
@[simp] theorem onKs_mods (f : KeySt → KeySt) : (onKs f s).mods = s.mods := rfl
@[simp] theorem onKs_edge (f : KeySt → KeySt) : (onKs f s).edge = s.edge := rfl
@[simp] theorem onKs_sense (f : KeySt → KeySt) : (onKs f s).sense = s.sense := rfl
@[simp] theorem onKs_senseAt (f : KeySt → KeySt) : (onKs f s).senseAt = s.senseAt := rfl
@[simp] theorem onKs_rook (f : KeySt → KeySt) : (onKs f s).rook = s.rook := rfl
@[simp] theorem onKs_ks (f : KeySt → KeySt) : (onKs f s).ks = f s.ks := rfl
@[simp] theorem onKs_time (f : KeySt → KeySt) : (onKs f s).time = s.time := rfl
@[simp] theorem onKs_halv (f : KeySt → KeySt) : (onKs f s).halv = s.halv := rfl
@[simp] theorem onKs_eth (f : KeySt → KeySt) : (onKs f s).eth = s.eth := rfl
@[simp] theorem onKs_fb (f : KeySt → KeySt) : (onKs f s).fb = s.fb := rfl
@[simp] theorem onKs_xb (f : KeySt → KeySt) : (onKs f s).xb = s.xb := rfl
@[simp] theorem onKs_flash (f : KeySt → KeySt) : (onKs f s).flash = s.flash := rfl
@[simp] theorem onKs_pawn (f : KeySt → KeySt) : (onKs f s).pawn = s.pawn := rfl
@[simp] theorem onKs_lanes (f : KeySt → KeySt) : (onKs f s).lanes = s.lanes := rfl
@[simp] theorem onKs_freeCtr (f : KeySt → KeySt) : (onKs f s).freeCtr = s.freeCtr := rfl
@[simp] theorem onKs_pending (f : KeySt → KeySt) : (onKs f s).pending = s.pending := rfl
@[simp] theorem rdReg_onKs (f : KeySt → KeySt) (b : Nat) : rdReg b (onKs f s) = rdReg b s := rfl
@[simp] theorem rd_onKs (f : KeySt → KeySt) (g : FRef) : rd g (onKs f s) = rd g s := rfl
@[simp] theorem rdB_onKs (f : KeySt → KeySt) (g : FRef) : rdB g (onKs f s) = rdB g s := rfl
@[simp] theorem rdI_onKs (f : KeySt → KeySt) (g : FRef) : rdI g (onKs f s) = rdI g s := rfl
@[simp] theorem getPea_onKs (f : KeySt → KeySt) (k : Nat) : getPea k (onKs f s) = getPea k s := rfl
@[simp] theorem getRun_onKs (f : KeySt → KeySt) (k : Nat) : getRun k (onKs f s) = getRun k s := rfl
@[simp] theorem feuQueue_onKs (f : KeySt → KeySt) (k : Nat) : feuQueue k (onKs f s) = feuQueue k s := rfl
@[simp] theorem tlValid_onKs (f : KeySt → KeySt) : tlValid (onKs f s) = tlValid s := rfl
@[simp] theorem tlRun_onKs (f : KeySt → KeySt) : tlRun (onKs f s) = tlRun s := rfl

/-! ### `onMods` -/

@[simp] theorem onMods_regs (f : ModsSt → ModsSt) : (onMods f s).regs = s.regs := rfl
@[simp] theorem onMods_cores (f : ModsSt → ModsSt) : (onMods f s).cores = s.cores := rfl
@[simp] theorem onMods_mem (f : ModsSt → ModsSt) : (onMods f s).mem = s.mem := rfl
@[simp] theorem onMods_pods (f : ModsSt → ModsSt) : (onMods f s).pods = s.pods := rfl
@[simp] theorem onMods_ns (f : ModsSt → ModsSt) : (onMods f s).ns = s.ns := rfl
@[simp] theorem onMods_frac (f : ModsSt → ModsSt) : (onMods f s).frac = s.frac := rfl
@[simp] theorem onMods_tl (f : ModsSt → ModsSt) : (onMods f s).tl = s.tl := rfl
@[simp] theorem onMods_feu (f : ModsSt → ModsSt) : (onMods f s).feu = s.feu := rfl
@[simp] theorem onMods_pair (f : ModsSt → ModsSt) : (onMods f s).pair = s.pair := rfl
@[simp] theorem onMods_nS (f : ModsSt → ModsSt) : (onMods f s).nS = s.nS := rfl
@[simp] theorem onMods_image (f : ModsSt → ModsSt) : (onMods f s).image = s.image := rfl
@[simp] theorem onMods_graph (f : ModsSt → ModsSt) : (onMods f s).graph = s.graph := rfl
@[simp] theorem onMods_mods (f : ModsSt → ModsSt) : (onMods f s).mods = f s.mods := rfl
@[simp] theorem onMods_edge (f : ModsSt → ModsSt) : (onMods f s).edge = s.edge := rfl
@[simp] theorem onMods_sense (f : ModsSt → ModsSt) : (onMods f s).sense = s.sense := rfl
@[simp] theorem onMods_senseAt (f : ModsSt → ModsSt) : (onMods f s).senseAt = s.senseAt := rfl
@[simp] theorem onMods_rook (f : ModsSt → ModsSt) : (onMods f s).rook = s.rook := rfl
@[simp] theorem onMods_ks (f : ModsSt → ModsSt) : (onMods f s).ks = s.ks := rfl
@[simp] theorem onMods_time (f : ModsSt → ModsSt) : (onMods f s).time = s.time := rfl
@[simp] theorem onMods_halv (f : ModsSt → ModsSt) : (onMods f s).halv = s.halv := rfl
@[simp] theorem onMods_eth (f : ModsSt → ModsSt) : (onMods f s).eth = s.eth := rfl
@[simp] theorem onMods_fb (f : ModsSt → ModsSt) : (onMods f s).fb = s.fb := rfl
@[simp] theorem onMods_xb (f : ModsSt → ModsSt) : (onMods f s).xb = s.xb := rfl
@[simp] theorem onMods_flash (f : ModsSt → ModsSt) : (onMods f s).flash = s.flash := rfl
@[simp] theorem onMods_pawn (f : ModsSt → ModsSt) : (onMods f s).pawn = s.pawn := rfl
@[simp] theorem onMods_lanes (f : ModsSt → ModsSt) : (onMods f s).lanes = s.lanes := rfl
@[simp] theorem onMods_freeCtr (f : ModsSt → ModsSt) : (onMods f s).freeCtr = s.freeCtr := rfl
@[simp] theorem onMods_pending (f : ModsSt → ModsSt) : (onMods f s).pending = s.pending := rfl
@[simp] theorem rdReg_onMods (f : ModsSt → ModsSt) (b : Nat) : rdReg b (onMods f s) = rdReg b s := rfl
@[simp] theorem rd_onMods (f : ModsSt → ModsSt) (g : FRef) : rd g (onMods f s) = rd g s := rfl
@[simp] theorem rdB_onMods (f : ModsSt → ModsSt) (g : FRef) : rdB g (onMods f s) = rdB g s := rfl
@[simp] theorem rdI_onMods (f : ModsSt → ModsSt) (g : FRef) : rdI g (onMods f s) = rdI g s := rfl
@[simp] theorem getPea_onMods (f : ModsSt → ModsSt) (k : Nat) : getPea k (onMods f s) = getPea k s := rfl
@[simp] theorem getRun_onMods (f : ModsSt → ModsSt) (k : Nat) : getRun k (onMods f s) = getRun k s := rfl
@[simp] theorem feuQueue_onMods (f : ModsSt → ModsSt) (k : Nat) : feuQueue k (onMods f s) = feuQueue k s := rfl
@[simp] theorem tlValid_onMods (f : ModsSt → ModsSt) : tlValid (onMods f s) = tlValid s := rfl
@[simp] theorem tlRun_onMods (f : ModsSt → ModsSt) : tlRun (onMods f s) = tlRun s := rfl

/-! ### `onPair` -/

@[simp] theorem onPair_regs (f : PairSt → PairSt) : (onPair f s).regs = s.regs := rfl
@[simp] theorem onPair_cores (f : PairSt → PairSt) : (onPair f s).cores = s.cores := rfl
@[simp] theorem onPair_mem (f : PairSt → PairSt) : (onPair f s).mem = s.mem := rfl
@[simp] theorem onPair_pods (f : PairSt → PairSt) : (onPair f s).pods = s.pods := rfl
@[simp] theorem onPair_ns (f : PairSt → PairSt) : (onPair f s).ns = s.ns := rfl
@[simp] theorem onPair_frac (f : PairSt → PairSt) : (onPair f s).frac = s.frac := rfl
@[simp] theorem onPair_tl (f : PairSt → PairSt) : (onPair f s).tl = s.tl := rfl
@[simp] theorem onPair_feu (f : PairSt → PairSt) : (onPair f s).feu = s.feu := rfl
@[simp] theorem onPair_pair (f : PairSt → PairSt) : (onPair f s).pair = f s.pair := rfl
@[simp] theorem onPair_nS (f : PairSt → PairSt) : (onPair f s).nS = s.nS := rfl
@[simp] theorem onPair_image (f : PairSt → PairSt) : (onPair f s).image = s.image := rfl
@[simp] theorem onPair_graph (f : PairSt → PairSt) : (onPair f s).graph = s.graph := rfl
@[simp] theorem onPair_mods (f : PairSt → PairSt) : (onPair f s).mods = s.mods := rfl
@[simp] theorem onPair_edge (f : PairSt → PairSt) : (onPair f s).edge = s.edge := rfl
@[simp] theorem onPair_sense (f : PairSt → PairSt) : (onPair f s).sense = s.sense := rfl
@[simp] theorem onPair_senseAt (f : PairSt → PairSt) : (onPair f s).senseAt = s.senseAt := rfl
@[simp] theorem onPair_rook (f : PairSt → PairSt) : (onPair f s).rook = s.rook := rfl
@[simp] theorem onPair_ks (f : PairSt → PairSt) : (onPair f s).ks = s.ks := rfl
@[simp] theorem onPair_time (f : PairSt → PairSt) : (onPair f s).time = s.time := rfl
@[simp] theorem onPair_halv (f : PairSt → PairSt) : (onPair f s).halv = s.halv := rfl
@[simp] theorem onPair_eth (f : PairSt → PairSt) : (onPair f s).eth = s.eth := rfl
@[simp] theorem onPair_fb (f : PairSt → PairSt) : (onPair f s).fb = s.fb := rfl
@[simp] theorem onPair_xb (f : PairSt → PairSt) : (onPair f s).xb = s.xb := rfl
@[simp] theorem onPair_flash (f : PairSt → PairSt) : (onPair f s).flash = s.flash := rfl
@[simp] theorem onPair_pawn (f : PairSt → PairSt) : (onPair f s).pawn = s.pawn := rfl
@[simp] theorem onPair_lanes (f : PairSt → PairSt) : (onPair f s).lanes = s.lanes := rfl
@[simp] theorem onPair_freeCtr (f : PairSt → PairSt) : (onPair f s).freeCtr = s.freeCtr := rfl
@[simp] theorem onPair_pending (f : PairSt → PairSt) : (onPair f s).pending = s.pending := rfl
@[simp] theorem rdReg_onPair (f : PairSt → PairSt) (b : Nat) : rdReg b (onPair f s) = rdReg b s := rfl
@[simp] theorem rd_onPair (f : PairSt → PairSt) (g : FRef) : rd g (onPair f s) = rd g s := rfl
@[simp] theorem rdB_onPair (f : PairSt → PairSt) (g : FRef) : rdB g (onPair f s) = rdB g s := rfl
@[simp] theorem rdI_onPair (f : PairSt → PairSt) (g : FRef) : rdI g (onPair f s) = rdI g s := rfl
@[simp] theorem getPea_onPair (f : PairSt → PairSt) (k : Nat) : getPea k (onPair f s) = getPea k s := rfl
@[simp] theorem getRun_onPair (f : PairSt → PairSt) (k : Nat) : getRun k (onPair f s) = getRun k s := rfl
@[simp] theorem feuQueue_onPair (f : PairSt → PairSt) (k : Nat) : feuQueue k (onPair f s) = feuQueue k s := rfl
@[simp] theorem tlValid_onPair (f : PairSt → PairSt) : tlValid (onPair f s) = tlValid s := rfl
@[simp] theorem tlRun_onPair (f : PairSt → PairSt) : tlRun (onPair f s) = tlRun s := rfl

/-! ### `onPawn` -/

@[simp] theorem onPawn_regs (f : PawnSt → PawnSt) : (onPawn f s).regs = s.regs := rfl
@[simp] theorem onPawn_cores (f : PawnSt → PawnSt) : (onPawn f s).cores = s.cores := rfl
@[simp] theorem onPawn_mem (f : PawnSt → PawnSt) : (onPawn f s).mem = s.mem := rfl
@[simp] theorem onPawn_pods (f : PawnSt → PawnSt) : (onPawn f s).pods = s.pods := rfl
@[simp] theorem onPawn_ns (f : PawnSt → PawnSt) : (onPawn f s).ns = s.ns := rfl
@[simp] theorem onPawn_frac (f : PawnSt → PawnSt) : (onPawn f s).frac = s.frac := rfl
@[simp] theorem onPawn_tl (f : PawnSt → PawnSt) : (onPawn f s).tl = s.tl := rfl
@[simp] theorem onPawn_feu (f : PawnSt → PawnSt) : (onPawn f s).feu = s.feu := rfl
@[simp] theorem onPawn_pair (f : PawnSt → PawnSt) : (onPawn f s).pair = s.pair := rfl
@[simp] theorem onPawn_nS (f : PawnSt → PawnSt) : (onPawn f s).nS = s.nS := rfl
@[simp] theorem onPawn_image (f : PawnSt → PawnSt) : (onPawn f s).image = s.image := rfl
@[simp] theorem onPawn_graph (f : PawnSt → PawnSt) : (onPawn f s).graph = s.graph := rfl
@[simp] theorem onPawn_mods (f : PawnSt → PawnSt) : (onPawn f s).mods = s.mods := rfl
@[simp] theorem onPawn_edge (f : PawnSt → PawnSt) : (onPawn f s).edge = s.edge := rfl
@[simp] theorem onPawn_sense (f : PawnSt → PawnSt) : (onPawn f s).sense = s.sense := rfl
@[simp] theorem onPawn_senseAt (f : PawnSt → PawnSt) : (onPawn f s).senseAt = s.senseAt := rfl
@[simp] theorem onPawn_rook (f : PawnSt → PawnSt) : (onPawn f s).rook = s.rook := rfl
@[simp] theorem onPawn_ks (f : PawnSt → PawnSt) : (onPawn f s).ks = s.ks := rfl
@[simp] theorem onPawn_time (f : PawnSt → PawnSt) : (onPawn f s).time = s.time := rfl
@[simp] theorem onPawn_halv (f : PawnSt → PawnSt) : (onPawn f s).halv = s.halv := rfl
@[simp] theorem onPawn_eth (f : PawnSt → PawnSt) : (onPawn f s).eth = s.eth := rfl
@[simp] theorem onPawn_fb (f : PawnSt → PawnSt) : (onPawn f s).fb = s.fb := rfl
@[simp] theorem onPawn_xb (f : PawnSt → PawnSt) : (onPawn f s).xb = s.xb := rfl
@[simp] theorem onPawn_flash (f : PawnSt → PawnSt) : (onPawn f s).flash = s.flash := rfl
@[simp] theorem onPawn_pawn (f : PawnSt → PawnSt) : (onPawn f s).pawn = f s.pawn := rfl
@[simp] theorem onPawn_lanes (f : PawnSt → PawnSt) : (onPawn f s).lanes = s.lanes := rfl
@[simp] theorem onPawn_freeCtr (f : PawnSt → PawnSt) : (onPawn f s).freeCtr = s.freeCtr := rfl
@[simp] theorem onPawn_pending (f : PawnSt → PawnSt) : (onPawn f s).pending = s.pending := rfl
@[simp] theorem rdReg_onPawn (f : PawnSt → PawnSt) (b : Nat) : rdReg b (onPawn f s) = rdReg b s := rfl
@[simp] theorem rd_onPawn (f : PawnSt → PawnSt) (g : FRef) : rd g (onPawn f s) = rd g s := rfl
@[simp] theorem rdB_onPawn (f : PawnSt → PawnSt) (g : FRef) : rdB g (onPawn f s) = rdB g s := rfl
@[simp] theorem rdI_onPawn (f : PawnSt → PawnSt) (g : FRef) : rdI g (onPawn f s) = rdI g s := rfl
@[simp] theorem getPea_onPawn (f : PawnSt → PawnSt) (k : Nat) : getPea k (onPawn f s) = getPea k s := rfl
@[simp] theorem getRun_onPawn (f : PawnSt → PawnSt) (k : Nat) : getRun k (onPawn f s) = getRun k s := rfl
@[simp] theorem feuQueue_onPawn (f : PawnSt → PawnSt) (k : Nat) : feuQueue k (onPawn f s) = feuQueue k s := rfl
@[simp] theorem tlValid_onPawn (f : PawnSt → PawnSt) : tlValid (onPawn f s) = tlValid s := rfl
@[simp] theorem tlRun_onPawn (f : PawnSt → PawnSt) : tlRun (onPawn f s) = tlRun s := rfl

/-! ### `onRook` -/

@[simp] theorem onRook_regs (f : RookSt → RookSt) : (onRook f s).regs = s.regs := rfl
@[simp] theorem onRook_cores (f : RookSt → RookSt) : (onRook f s).cores = s.cores := rfl
@[simp] theorem onRook_mem (f : RookSt → RookSt) : (onRook f s).mem = s.mem := rfl
@[simp] theorem onRook_pods (f : RookSt → RookSt) : (onRook f s).pods = s.pods := rfl
@[simp] theorem onRook_ns (f : RookSt → RookSt) : (onRook f s).ns = s.ns := rfl
@[simp] theorem onRook_frac (f : RookSt → RookSt) : (onRook f s).frac = s.frac := rfl
@[simp] theorem onRook_tl (f : RookSt → RookSt) : (onRook f s).tl = s.tl := rfl
@[simp] theorem onRook_feu (f : RookSt → RookSt) : (onRook f s).feu = s.feu := rfl
@[simp] theorem onRook_pair (f : RookSt → RookSt) : (onRook f s).pair = s.pair := rfl
@[simp] theorem onRook_nS (f : RookSt → RookSt) : (onRook f s).nS = s.nS := rfl
@[simp] theorem onRook_image (f : RookSt → RookSt) : (onRook f s).image = s.image := rfl
@[simp] theorem onRook_graph (f : RookSt → RookSt) : (onRook f s).graph = s.graph := rfl
@[simp] theorem onRook_mods (f : RookSt → RookSt) : (onRook f s).mods = s.mods := rfl
@[simp] theorem onRook_edge (f : RookSt → RookSt) : (onRook f s).edge = s.edge := rfl
@[simp] theorem onRook_sense (f : RookSt → RookSt) : (onRook f s).sense = s.sense := rfl
@[simp] theorem onRook_senseAt (f : RookSt → RookSt) : (onRook f s).senseAt = s.senseAt := rfl
@[simp] theorem onRook_rook (f : RookSt → RookSt) : (onRook f s).rook = f s.rook := rfl
@[simp] theorem onRook_ks (f : RookSt → RookSt) : (onRook f s).ks = s.ks := rfl
@[simp] theorem onRook_time (f : RookSt → RookSt) : (onRook f s).time = s.time := rfl
@[simp] theorem onRook_halv (f : RookSt → RookSt) : (onRook f s).halv = s.halv := rfl
@[simp] theorem onRook_eth (f : RookSt → RookSt) : (onRook f s).eth = s.eth := rfl
@[simp] theorem onRook_fb (f : RookSt → RookSt) : (onRook f s).fb = s.fb := rfl
@[simp] theorem onRook_xb (f : RookSt → RookSt) : (onRook f s).xb = s.xb := rfl
@[simp] theorem onRook_flash (f : RookSt → RookSt) : (onRook f s).flash = s.flash := rfl
@[simp] theorem onRook_pawn (f : RookSt → RookSt) : (onRook f s).pawn = s.pawn := rfl
@[simp] theorem onRook_lanes (f : RookSt → RookSt) : (onRook f s).lanes = s.lanes := rfl
@[simp] theorem onRook_freeCtr (f : RookSt → RookSt) : (onRook f s).freeCtr = s.freeCtr := rfl
@[simp] theorem onRook_pending (f : RookSt → RookSt) : (onRook f s).pending = s.pending := rfl
@[simp] theorem rdReg_onRook (f : RookSt → RookSt) (b : Nat) : rdReg b (onRook f s) = rdReg b s := rfl
@[simp] theorem rd_onRook (f : RookSt → RookSt) (g : FRef) : rd g (onRook f s) = rd g s := rfl
@[simp] theorem rdB_onRook (f : RookSt → RookSt) (g : FRef) : rdB g (onRook f s) = rdB g s := rfl
@[simp] theorem rdI_onRook (f : RookSt → RookSt) (g : FRef) : rdI g (onRook f s) = rdI g s := rfl
@[simp] theorem getPea_onRook (f : RookSt → RookSt) (k : Nat) : getPea k (onRook f s) = getPea k s := rfl
@[simp] theorem getRun_onRook (f : RookSt → RookSt) (k : Nat) : getRun k (onRook f s) = getRun k s := rfl
@[simp] theorem feuQueue_onRook (f : RookSt → RookSt) (k : Nat) : feuQueue k (onRook f s) = feuQueue k s := rfl
@[simp] theorem tlValid_onRook (f : RookSt → RookSt) : tlValid (onRook f s) = tlValid s := rfl
@[simp] theorem tlRun_onRook (f : RookSt → RookSt) : tlRun (onRook f s) = tlRun s := rfl

/-! ### `onGraph` -/

@[simp] theorem onGraph_regs (f : GraphSt → GraphSt) : (onGraph f s).regs = s.regs := rfl
@[simp] theorem onGraph_cores (f : GraphSt → GraphSt) : (onGraph f s).cores = s.cores := rfl
@[simp] theorem onGraph_mem (f : GraphSt → GraphSt) : (onGraph f s).mem = s.mem := rfl
@[simp] theorem onGraph_pods (f : GraphSt → GraphSt) : (onGraph f s).pods = s.pods := rfl
@[simp] theorem onGraph_ns (f : GraphSt → GraphSt) : (onGraph f s).ns = s.ns := rfl
@[simp] theorem onGraph_frac (f : GraphSt → GraphSt) : (onGraph f s).frac = s.frac := rfl
@[simp] theorem onGraph_tl (f : GraphSt → GraphSt) : (onGraph f s).tl = s.tl := rfl
@[simp] theorem onGraph_feu (f : GraphSt → GraphSt) : (onGraph f s).feu = s.feu := rfl
@[simp] theorem onGraph_pair (f : GraphSt → GraphSt) : (onGraph f s).pair = s.pair := rfl
@[simp] theorem onGraph_nS (f : GraphSt → GraphSt) : (onGraph f s).nS = s.nS := rfl
@[simp] theorem onGraph_image (f : GraphSt → GraphSt) : (onGraph f s).image = s.image := rfl
@[simp] theorem onGraph_graph (f : GraphSt → GraphSt) : (onGraph f s).graph = f s.graph := rfl
@[simp] theorem onGraph_mods (f : GraphSt → GraphSt) : (onGraph f s).mods = s.mods := rfl
@[simp] theorem onGraph_edge (f : GraphSt → GraphSt) : (onGraph f s).edge = s.edge := rfl
@[simp] theorem onGraph_sense (f : GraphSt → GraphSt) : (onGraph f s).sense = s.sense := rfl
@[simp] theorem onGraph_senseAt (f : GraphSt → GraphSt) : (onGraph f s).senseAt = s.senseAt := rfl
@[simp] theorem onGraph_rook (f : GraphSt → GraphSt) : (onGraph f s).rook = s.rook := rfl
@[simp] theorem onGraph_ks (f : GraphSt → GraphSt) : (onGraph f s).ks = s.ks := rfl
@[simp] theorem onGraph_time (f : GraphSt → GraphSt) : (onGraph f s).time = s.time := rfl
@[simp] theorem onGraph_halv (f : GraphSt → GraphSt) : (onGraph f s).halv = s.halv := rfl
@[simp] theorem onGraph_eth (f : GraphSt → GraphSt) : (onGraph f s).eth = s.eth := rfl
@[simp] theorem onGraph_fb (f : GraphSt → GraphSt) : (onGraph f s).fb = s.fb := rfl
@[simp] theorem onGraph_xb (f : GraphSt → GraphSt) : (onGraph f s).xb = s.xb := rfl
@[simp] theorem onGraph_flash (f : GraphSt → GraphSt) : (onGraph f s).flash = s.flash := rfl
@[simp] theorem onGraph_pawn (f : GraphSt → GraphSt) : (onGraph f s).pawn = s.pawn := rfl
@[simp] theorem onGraph_lanes (f : GraphSt → GraphSt) : (onGraph f s).lanes = s.lanes := rfl
@[simp] theorem onGraph_freeCtr (f : GraphSt → GraphSt) : (onGraph f s).freeCtr = s.freeCtr := rfl
@[simp] theorem onGraph_pending (f : GraphSt → GraphSt) : (onGraph f s).pending = s.pending := rfl
@[simp] theorem rdReg_onGraph (f : GraphSt → GraphSt) (b : Nat) : rdReg b (onGraph f s) = rdReg b s := rfl
@[simp] theorem rd_onGraph (f : GraphSt → GraphSt) (g : FRef) : rd g (onGraph f s) = rd g s := rfl
@[simp] theorem rdB_onGraph (f : GraphSt → GraphSt) (g : FRef) : rdB g (onGraph f s) = rdB g s := rfl
@[simp] theorem rdI_onGraph (f : GraphSt → GraphSt) (g : FRef) : rdI g (onGraph f s) = rdI g s := rfl
@[simp] theorem getPea_onGraph (f : GraphSt → GraphSt) (k : Nat) : getPea k (onGraph f s) = getPea k s := rfl
@[simp] theorem getRun_onGraph (f : GraphSt → GraphSt) (k : Nat) : getRun k (onGraph f s) = getRun k s := rfl
@[simp] theorem feuQueue_onGraph (f : GraphSt → GraphSt) (k : Nat) : feuQueue k (onGraph f s) = feuQueue k s := rfl
@[simp] theorem tlValid_onGraph (f : GraphSt → GraphSt) : tlValid (onGraph f s) = tlValid s := rfl
@[simp] theorem tlRun_onGraph (f : GraphSt → GraphSt) : tlRun (onGraph f s) = tlRun s := rfl

/-! ### `onClock` -/

@[simp] theorem onClock_regs (f : TimeSt → TimeSt) : (onClock f s).regs = s.regs := rfl
@[simp] theorem onClock_cores (f : TimeSt → TimeSt) : (onClock f s).cores = s.cores := rfl
@[simp] theorem onClock_mem (f : TimeSt → TimeSt) : (onClock f s).mem = s.mem := rfl
@[simp] theorem onClock_pods (f : TimeSt → TimeSt) : (onClock f s).pods = s.pods := rfl
@[simp] theorem onClock_ns (f : TimeSt → TimeSt) : (onClock f s).ns = s.ns := rfl
@[simp] theorem onClock_frac (f : TimeSt → TimeSt) : (onClock f s).frac = s.frac := rfl
@[simp] theorem onClock_tl (f : TimeSt → TimeSt) : (onClock f s).tl = s.tl := rfl
@[simp] theorem onClock_feu (f : TimeSt → TimeSt) : (onClock f s).feu = s.feu := rfl
@[simp] theorem onClock_pair (f : TimeSt → TimeSt) : (onClock f s).pair = s.pair := rfl
@[simp] theorem onClock_nS (f : TimeSt → TimeSt) : (onClock f s).nS = s.nS := rfl
@[simp] theorem onClock_image (f : TimeSt → TimeSt) : (onClock f s).image = s.image := rfl
@[simp] theorem onClock_graph (f : TimeSt → TimeSt) : (onClock f s).graph = s.graph := rfl
@[simp] theorem onClock_mods (f : TimeSt → TimeSt) : (onClock f s).mods = s.mods := rfl
@[simp] theorem onClock_edge (f : TimeSt → TimeSt) : (onClock f s).edge = s.edge := rfl
@[simp] theorem onClock_sense (f : TimeSt → TimeSt) : (onClock f s).sense = s.sense := rfl
@[simp] theorem onClock_senseAt (f : TimeSt → TimeSt) : (onClock f s).senseAt = s.senseAt := rfl
@[simp] theorem onClock_rook (f : TimeSt → TimeSt) : (onClock f s).rook = s.rook := rfl
@[simp] theorem onClock_ks (f : TimeSt → TimeSt) : (onClock f s).ks = s.ks := rfl
@[simp] theorem onClock_time (f : TimeSt → TimeSt) : (onClock f s).time = f s.time := rfl
@[simp] theorem onClock_halv (f : TimeSt → TimeSt) : (onClock f s).halv = s.halv := rfl
@[simp] theorem onClock_eth (f : TimeSt → TimeSt) : (onClock f s).eth = s.eth := rfl
@[simp] theorem onClock_fb (f : TimeSt → TimeSt) : (onClock f s).fb = s.fb := rfl
@[simp] theorem onClock_xb (f : TimeSt → TimeSt) : (onClock f s).xb = s.xb := rfl
@[simp] theorem onClock_flash (f : TimeSt → TimeSt) : (onClock f s).flash = s.flash := rfl
@[simp] theorem onClock_pawn (f : TimeSt → TimeSt) : (onClock f s).pawn = s.pawn := rfl
@[simp] theorem onClock_lanes (f : TimeSt → TimeSt) : (onClock f s).lanes = s.lanes := rfl
@[simp] theorem onClock_freeCtr (f : TimeSt → TimeSt) : (onClock f s).freeCtr = s.freeCtr := rfl
@[simp] theorem onClock_pending (f : TimeSt → TimeSt) : (onClock f s).pending = s.pending := rfl
@[simp] theorem rdReg_onClock (f : TimeSt → TimeSt) (b : Nat) : rdReg b (onClock f s) = rdReg b s := rfl
@[simp] theorem rd_onClock (f : TimeSt → TimeSt) (g : FRef) : rd g (onClock f s) = rd g s := rfl
@[simp] theorem rdB_onClock (f : TimeSt → TimeSt) (g : FRef) : rdB g (onClock f s) = rdB g s := rfl
@[simp] theorem rdI_onClock (f : TimeSt → TimeSt) (g : FRef) : rdI g (onClock f s) = rdI g s := rfl
@[simp] theorem getPea_onClock (f : TimeSt → TimeSt) (k : Nat) : getPea k (onClock f s) = getPea k s := rfl
@[simp] theorem getRun_onClock (f : TimeSt → TimeSt) (k : Nat) : getRun k (onClock f s) = getRun k s := rfl
@[simp] theorem feuQueue_onClock (f : TimeSt → TimeSt) (k : Nat) : feuQueue k (onClock f s) = feuQueue k s := rfl
@[simp] theorem tlValid_onClock (f : TimeSt → TimeSt) : tlValid (onClock f s) = tlValid s := rfl
@[simp] theorem tlRun_onClock (f : TimeSt → TimeSt) : tlRun (onClock f s) = tlRun s := rfl

/-! ### `setLane` -/

@[simp] theorem setLane_regs (n : Nat) (x : LaneSt) : (setLane n x s).regs = s.regs := rfl
@[simp] theorem setLane_cores (n : Nat) (x : LaneSt) : (setLane n x s).cores = s.cores := rfl
@[simp] theorem setLane_mem (n : Nat) (x : LaneSt) : (setLane n x s).mem = s.mem := rfl
@[simp] theorem setLane_pods (n : Nat) (x : LaneSt) : (setLane n x s).pods = s.pods := rfl
@[simp] theorem setLane_ns (n : Nat) (x : LaneSt) : (setLane n x s).ns = s.ns := rfl
@[simp] theorem setLane_frac (n : Nat) (x : LaneSt) : (setLane n x s).frac = s.frac := rfl
@[simp] theorem setLane_tl (n : Nat) (x : LaneSt) : (setLane n x s).tl = s.tl := rfl
@[simp] theorem setLane_feu (n : Nat) (x : LaneSt) : (setLane n x s).feu = s.feu := rfl
@[simp] theorem setLane_pair (n : Nat) (x : LaneSt) : (setLane n x s).pair = s.pair := rfl
@[simp] theorem setLane_nS (n : Nat) (x : LaneSt) : (setLane n x s).nS = s.nS := rfl
@[simp] theorem setLane_image (n : Nat) (x : LaneSt) : (setLane n x s).image = s.image := rfl
@[simp] theorem setLane_graph (n : Nat) (x : LaneSt) : (setLane n x s).graph = s.graph := rfl
@[simp] theorem setLane_mods (n : Nat) (x : LaneSt) : (setLane n x s).mods = s.mods := rfl
@[simp] theorem setLane_edge (n : Nat) (x : LaneSt) : (setLane n x s).edge = s.edge := rfl
@[simp] theorem setLane_sense (n : Nat) (x : LaneSt) : (setLane n x s).sense = s.sense := rfl
@[simp] theorem setLane_senseAt (n : Nat) (x : LaneSt) : (setLane n x s).senseAt = s.senseAt := rfl
@[simp] theorem setLane_rook (n : Nat) (x : LaneSt) : (setLane n x s).rook = s.rook := rfl
@[simp] theorem setLane_ks (n : Nat) (x : LaneSt) : (setLane n x s).ks = s.ks := rfl
@[simp] theorem setLane_time (n : Nat) (x : LaneSt) : (setLane n x s).time = s.time := rfl
@[simp] theorem setLane_halv (n : Nat) (x : LaneSt) : (setLane n x s).halv = s.halv := rfl
@[simp] theorem setLane_eth (n : Nat) (x : LaneSt) : (setLane n x s).eth = s.eth := rfl
@[simp] theorem setLane_fb (n : Nat) (x : LaneSt) : (setLane n x s).fb = s.fb := rfl
@[simp] theorem setLane_xb (n : Nat) (x : LaneSt) : (setLane n x s).xb = s.xb := rfl
@[simp] theorem setLane_flash (n : Nat) (x : LaneSt) : (setLane n x s).flash = s.flash := rfl
@[simp] theorem setLane_pawn (n : Nat) (x : LaneSt) : (setLane n x s).pawn = s.pawn := rfl
@[simp] theorem setLane_lanes (n : Nat) (x : LaneSt) : (setLane n x s).lanes = mapSet (fun _ => LaneSt.reset) s.lanes n x := rfl
@[simp] theorem setLane_freeCtr (n : Nat) (x : LaneSt) : (setLane n x s).freeCtr = s.freeCtr := rfl
@[simp] theorem setLane_pending (n : Nat) (x : LaneSt) : (setLane n x s).pending = s.pending := rfl
@[simp] theorem rdReg_setLane (n : Nat) (x : LaneSt) (b : Nat) : rdReg b (setLane n x s) = rdReg b s := rfl
@[simp] theorem rd_setLane (n : Nat) (x : LaneSt) (g : FRef) : rd g (setLane n x s) = rd g s := rfl
@[simp] theorem rdB_setLane (n : Nat) (x : LaneSt) (g : FRef) : rdB g (setLane n x s) = rdB g s := rfl
@[simp] theorem rdI_setLane (n : Nat) (x : LaneSt) (g : FRef) : rdI g (setLane n x s) = rdI g s := rfl
@[simp] theorem getPea_setLane (n : Nat) (x : LaneSt) (k : Nat) : getPea k (setLane n x s) = getPea k s := rfl
@[simp] theorem getRun_setLane (n : Nat) (x : LaneSt) (k : Nat) : getRun k (setLane n x s) = getRun k s := rfl
@[simp] theorem feuQueue_setLane (n : Nat) (x : LaneSt) (k : Nat) : feuQueue k (setLane n x s) = feuQueue k s := rfl
@[simp] theorem tlValid_setLane (n : Nat) (x : LaneSt) : tlValid (setLane n x s) = tlValid s := rfl
@[simp] theorem tlRun_setLane (n : Nat) (x : LaneSt) : tlRun (setLane n x s) = tlRun s := rfl

/-! ### What an update leaves where it acts -/

@[simp] theorem getPea_setPea_same (c : Nat) (p : Pea) : getPea c (setPea c p s) = p := mapGet_mapSet_same _ _ _ _

theorem getPea_setPea_ne (c k : Nat) (p : Pea) (h : k ≠ c) : getPea k (setPea c p s) = getPea k s := mapGet_mapSet_ne _ _ _ _ _ h

@[simp] theorem getPea_onPea_same (c : Nat) (f : Pea → Pea) : getPea c (onPea c f s) = f (getPea c s) := getPea_setPea_same _ _ _

theorem getPea_onPea_ne (c k : Nat) (f : Pea → Pea) (h : k ≠ c) : getPea k (onPea c f s) = getPea k s := getPea_setPea_ne _ _ _ _ h

@[simp] theorem getRun_setRun_same (q : Nat) (r : PeaRun) : getRun q (setRun q r s) = r := mapGet_mapSet_same _ _ _ _

theorem getRun_setRun_ne (q k : Nat) (r : PeaRun) (h : k ≠ q) : getRun k (setRun q r s) = getRun k s := mapGet_mapSet_ne _ _ _ _ _ h

@[simp] theorem feuQueue_setFeuQueue_same (n : Nat) (q : List FaultRec) : feuQueue n (setFeuQueue n q s) = q := mapGet_mapSet_same _ _ _ _

theorem feuQueue_setFeuQueue_ne (n k : Nat) (q : List FaultRec) (h : k ≠ n) : feuQueue k (setFeuQueue n q s) = feuQueue k s :=
  mapGet_mapSet_ne _ _ _ _ _ h

@[simp] theorem getLane_setLane_same (n : Nat) (x : LaneSt) : getLane n (setLane n x s) = x := mapGet_mapSet_same _ _ _ _

theorem getLane_setLane_ne (n k : Nat) (x : LaneSt) (h : k ≠ n) : getLane k (setLane n x s) = getLane k s := mapGet_mapSet_ne _ _ _ _ _ h

theorem rdB_wrB_same (f : FRef) (b : Bool) (h : f.lo + f.w ≤ 32) (hw : f.w = 1) : rdB f (wrB f b s) = b := by
  unfold rdB wrB; rw [rd_wr_same _ _ _ h, hw]; cases b <;> rfl

theorem rd_wrB_same (f : FRef) (b : Bool) (h : f.lo + f.w ≤ 32) (hw : f.w = 1) : rd f (wrB f b s) = if b then 1 else 0 := by
  unfold wrB; rw [rd_wr_same _ _ _ h, hw]; cases b <;> rfl

theorem rd_wrB_addr (f g : FRef) (b : Bool) (h : f.addr ≠ g.addr) : rd f (wrB g b s) = rd f s := rd_wr_addr _ _ _ _ h

theorem rd_wrI_addr (f g : FRef) (i : Int) (h : f.addr ≠ g.addr) : rd f (wrI g i s) = rd f s := rd_wr_addr _ _ _ _ h

end Sys2Proof.Machine
end

