-- ==== Sys2Proof/Laws/Issue.lean ====
section
/-! SUPPORT. What issuing a bundle does, said once: a bundle that nothing stops has its slots' effect and moves the program
counter on; and what is left alone by the program counter's move, the cycle count and the bank history. -/

namespace Sys2Proof.Machine

/-- A bundle that nothing stops. -/
theorem issue_runs {c : Nat} {ck : State → Checks} {body : State → State} {jump : State → Option (BitVec 14)} {s : State}
    (h : issues c ck s = true) :
    issue c ck body jump s =
      bundleEnd c (jump (atIssue c s)) (ck (atIssue c s)).banks (atIssue c s) (body (atIssue c s)) := by
  unfold issues at h
  unfold issue bundleEnd
  simp only [Bool.and_eq_true] at h
  obtain ⟨h1, h2⟩ := h
  simp only [h1, Bool.not_true, Bool.false_eq_true, if_false]
  split
  · next hc =>
    simp only [hc, if_true, Bool.and_eq_true, Bool.not_eq_true', Option.isNone_iff_eq_none] at h2
    obtain ⟨⟨⟨⟨⟨⟨h3, h4⟩, h5⟩, h6⟩, h7⟩, h8⟩, h9⟩ := h2
    have h8' : (ck (atIssue c s)).accesses.find? (fun a => !mpuAllows c a.1 a.2.1 (if a.2.2 then .write else .read) (atIssue c s)) = none := by
      rw [List.find?_eq_none]
      intro a ha
      simpa using List.all_eq_true.1 h8 a ha
    have h6' : ((ck (atIssue c s)).priv && !isSuper c (atIssue c s)) = false := by
      cases hp : (ck (atIssue c s)).priv <;> simp_all
    have hn : (rdCsr c 0x104 (atIssue c s) != 0) = false := by
      cases hn : rdCsr c 0x104 (atIssue c s) != 0 with
      | false => rfl
      | true => unfold takePending at h3; rw [if_pos hn] at h3; cases h3
    simp only [h3, h4, h5, h6', h7, h8', h9, hn, Bool.not_true, Bool.false_eq_true, if_false]
  · next hc =>
    have hc' : isCtl c = false := by simpa using hc
    simp only [hc', Bool.false_eq_true, if_false, Bool.and_eq_true, Bool.not_eq_true'] at h2
    simp only [h2.1, h2.2, Bool.not_true, Bool.false_eq_true, if_false]

variable (c : Nat) (s : State)

@[simp] theorem tickBcyc_cores : (tickBcyc c s).cores = s.cores := by unfold tickBcyc; split <;> rfl
@[simp] theorem tickBcyc_mem : (tickBcyc c s).mem = s.mem := by unfold tickBcyc; split <;> rfl
@[simp] theorem tickBcyc_feu : (tickBcyc c s).feu = s.feu := by unfold tickBcyc; split <;> rfl
@[simp] theorem tickBcyc_pods : (tickBcyc c s).pods = s.pods := by unfold tickBcyc; split <;> rfl
@[simp] theorem freeBundle_cores : (freeBundle c s).cores = s.cores := by unfold freeBundle; split <;> rfl
@[simp] theorem freeBundle_mem : (freeBundle c s).mem = s.mem := by unfold freeBundle; split <;> rfl
@[simp] theorem freeBundle_regs : (freeBundle c s).regs = s.regs := by unfold freeBundle; split <;> rfl
@[simp] theorem freeBundle_feu : (freeBundle c s).feu = s.feu := by unfold freeBundle; split <;> rfl
@[simp] theorem freeBundle_pods : (freeBundle c s).pods = s.pods := by unfold freeBundle; split <;> rfl

theorem getPea_congr {s t : State} (h : t.cores = s.cores) (k : Nat) : getPea k t = getPea k s := by simp [getPea, h]

@[simp] theorem getPea_tickBcyc (k : Nat) : getPea k (tickBcyc c s) = getPea k s := getPea_congr (tickBcyc_cores c s) k
@[simp] theorem getPea_freeBundle (k : Nat) : getPea k (freeBundle c s) = getPea k s := getPea_congr (freeBundle_cores c s) k

variable (j : Option (BitVec 14)) (b : Option (BitVec 14 × Nat))

@[simp] theorem stepPc_mem : (stepPc c b j s).mem = s.mem := rfl
@[simp] theorem stepPc_regs : (stepPc c b j s).regs = s.regs := rfl
@[simp] theorem stepPc_feu : (stepPc c b j s).feu = s.feu := rfl
@[simp] theorem stepPc_pods : (stepPc c b j s).pods = s.pods := rfl
@[simp] theorem noteBanks_mem (bs : List Nat) : (noteBanks c bs s).mem = s.mem := rfl
@[simp] theorem noteBanks_regs (bs : List Nat) : (noteBanks c bs s).regs = s.regs := rfl

/-- The end of a loop leaves the writes in flight alone. -/
@[simp] theorem endLoop_flight (p : Pea) : (endLoop p).flight = p.flight := by
  unfold endLoop; cases p.loop with
  | none => rfl
  | some l => dsimp only; split <;> rfl

/-- The loop test leaves the writes in flight alone. -/
@[simp] theorem loopTest_flight (p : Pea) (l : LoopSt) : (loopTest p l).1.flight = p.flight := by
  unfold loopTest rotate
  split <;> (dsimp only; split <;> simp)

/-- The program counter's move leaves the writes in flight alone. -/
@[simp] theorem movePc_flight (p : Pea) : (movePc b j p).flight = p.flight := by
  unfold movePc
  split
  · split <;> rfl
  · split
    · rfl
    · split
      · split
        · simp
        · rfl
      · rfl

/-- A bundle's end leaves the writes in flight alone. -/
@[simp] theorem stepPc_flight : (getPea c (stepPc c b j s)).flight = (getPea c s).flight := by
  unfold stepPc
  rw [getPea_onPea_same, movePc_flight]

@[simp] theorem noteBanks_flight (bs : List Nat) : (getPea c (noteBanks c bs s)).flight = (getPea c s).flight := by
  unfold noteBanks; rw [getPea_onPea_same]

/-- What is in flight after a bundle is what its slots left in flight. -/
@[simp] theorem bundleEnd_flight (bs : List Nat) (r : State) :
    (getPea c (bundleEnd c j bs r s)).flight = (getPea c s).flight := by
  unfold bundleEnd; split <;> simp

@[simp] theorem bundleEnd_mem (bs : List Nat) (r : State) : (bundleEnd c j bs r s).mem = s.mem := by
  unfold bundleEnd; split <;> simp

theorem getPea_bundleEnd_ne (k : Nat) (h : k ≠ c) (bs : List Nat) (r : State) :
    getPea k (bundleEnd c j bs r s) = getPea k s := by
  unfold bundleEnd; split <;> simp [stepPc, noteBanks, getPea_onPea_ne _ _ _ _ h]

end Sys2Proof.Machine
end

