-- ==== Sys2Proof/Laws/Flight.lean ====
section
/-! SUPPORT. Writes in flight: a slot of a bundle only adds to them, so what one slot put in flight is still there when the
bundle has ended. -/

namespace Sys2Proof.Machine

variable {c : Nat} {s : State}

@[simp] theorem getPea_fly (k : Nat) (g : Tgt) (v : BitVec 56) :
    getPea c (fly c k g v s) = { getPea c s with flight := (getPea c s).flight ++ [⟨k, g, v, false⟩] } := getPea_onPea_same _ _ _

@[simp] theorem getPea_flyMac (i : Nat) (v : Acc56) :
    getPea c (flyMac c i v s) = { getPea c s with flight := (getPea c s).flight ++ [⟨2, .a i, v, true⟩] } := getPea_onPea_same _ _ _

@[simp] theorem getPea_flySticky (m : BitVec 24) :
    getPea c (flySticky c m s) = { getPea c s with flight := (getPea c s).flight ++ [⟨1, .sticky, m.setWidth 56, false⟩] } :=
  getPea_fly _ _ _

/-- Only additions to a core's writes in flight lie between two states. -/
def Grows (c : Nat) (s t : State) : Prop := ∀ f ∈ (getPea c s).flight, f ∈ (getPea c t).flight

theorem Grows.self : Grows c s s := fun _ h => h
theorem Grows.trans {t u : State} (h : Grows c s t) (g : Grows c t u) : Grows c s u := fun f hf => g f (h f hf)

theorem Grows.of_eq {t : State} (h : (getPea c t).flight = (getPea c s).flight) : Grows c s t := fun f hf => h ▸ hf

theorem grows_fly (k : Nat) (g : Tgt) (v : BitVec 56) : Grows c s (fly c k g v s) := fun f hf => by simp [hf]
theorem grows_flyMac (i : Nat) (v : Acc56) : Grows c s (flyMac c i v s) := fun f hf => by simp [hf]
theorem grows_flySticky (m : BitVec 24) : Grows c s (flySticky c m s) := grows_fly _ _ _

theorem grows_onlyIf {b : Bool} {g : State → State} (h : ∀ t, Grows c t (g t)) : Grows c s (onlyIf b g s) := by
  unfold onlyIf; split
  · exact h s
  · exact Grows.self

theorem grows_onPea {g : Pea → Pea} (h : ∀ p, (g p).flight = p.flight) : Grows c s (onPea c g s) :=
  Grows.of_eq (by rw [getPea_onPea_same, h])

theorem grows_storeWord (sp : Space) (a : Nat) (v : DWord) : Grows c s (storeWord c sp a v s) := by
  unfold storeWord; split
  · exact grows_fly _ _ _
  · exact grows_fly _ _ _
  · exact Grows.of_eq rfl
  · exact Grows.self

theorem grows_doMove (k : LKind) (m : MoveArgs) (r : State) : Grows c s (doMove c k m r s) := by
  unfold doMove
  split
  · exact Grows.self
  · dsimp only
    have h1 : ∀ (u : Option (BitVec 20)), Grows c s (match u with | some p => fly c 1 (.p m.ptr.val) (p.setWidth 56) s | none => s) := by
      intro u; cases u
      · exact Grows.self
      · exact grows_fly _ _ _
    have h2 : ∀ (b : Bool) (t : State), Grows c t (onlyIf b (flySticky c stMODV) t) := fun b t => grows_onlyIf fun _ => grows_flySticky _
    have h3 := fun u b => Grows.trans (h1 u) (h2 b _)
    split
    · exact h3 _ _
    · split
      · exact (h3 _ _).trans (grows_onPea fun _ => rfl)
      · exact (h3 _ _).trans (grows_fly _ _ _)
    · exact (h3 _ _).trans (Grows.trans (grows_fly _ _ _) (grows_fly _ _ _))
    · split
      · exact (h3 _ _).trans (grows_onPea fun _ => rfl)
      · exact (h3 _ _).trans (grows_storeWord _ _ _)
    · exact (h3 _ _).trans (Grows.trans (grows_storeWord _ _ _) (grows_storeWord _ _ _))
    · exact (h3 _ _).trans (Grows.trans (grows_storeWord _ _ _) (grows_onlyIf fun _ => grows_flySticky _))
    · exact (h3 _ _).trans (Grows.trans (Grows.trans (grows_storeWord _ _ _) (grows_storeWord _ _ _)) (grows_onlyIf fun _ => grows_flySticky _))
    · exact (h3 _ _).trans (grows_fly _ _ _)

theorem grows_flyRes (t : Option Tgt) (w : Nat) (x : AluRes w) : Grows c s (flyRes c t w x s) := by
  unfold flyRes
  dsimp only
  have h1 : Grows c s (match t with | some d => fly c 1 d (x.val.setWidth 56) s | none => s) := by
    cases t
    · exact Grows.self
    · exact grows_fly _ _ _
  exact Grows.trans h1 (Grows.trans (grows_onlyIf fun _ => grows_fly _ _ _) (grows_onlyIf fun _ => grows_flySticky _))

theorem grows_flyCtl (i : Nat) (v : DWord) : Grows c s (flyCtl c i v s) := by
  unfold flyCtl
  dsimp only
  repeat (split; exact grows_fly _ _ _)
  exact Grows.self

/-- What a core has in flight stays in flight while slots only add. -/
theorem Puts.mono {t : State} {k : Nat} {g : Tgt} {v : BitVec 56} (h : Puts c s k g v) (hg : Grows c s t) : Puts c t k g v := by
  obtain ⟨f, hf, h1⟩ := h
  exact ⟨f, hg f hf, h1⟩

theorem puts_fly (k : Nat) (g : Tgt) (v : BitVec 56) : Puts c (fly c k g v s) k g v := ⟨⟨k, g, v, false⟩, by simp, rfl, rfl, rfl⟩

theorem puts_flyMac (i : Nat) (v : Acc56) : Puts c (flyMac c i v s) 2 (.a i) v := ⟨⟨2, .a i, v, true⟩, by simp, rfl, rfl, rfl⟩

theorem puts_flySticky (m : BitVec 24) : Puts c (flySticky c m s) 1 .sticky (m.setWidth 56) := puts_fly _ _ _

theorem puts_bundleEnd {k : Nat} {g : Tgt} {v : BitVec 56} {j : Option (BitVec 14)} {bs : List Nat} {r : State} (h : Puts c s k g v) :
    Puts c (bundleEnd c j bs r s) k g v := h.mono (Grows.of_eq (bundleEnd_flight _ _ _ _ _))

/-- The value of an operation's result is in flight. -/
theorem puts_flyRes_val (d : Tgt) (w : Nat) (x : AluRes w) : Puts c (flyRes c (some d) w x s) 1 d (x.val.setWidth 56) :=
  (puts_fly _ _ _).mono (Grows.trans (grows_onlyIf fun _ => grows_fly _ _ _) (grows_onlyIf fun _ => grows_flySticky _))

/-- So are its flags. -/
theorem puts_flyRes_flags (d : Option Tgt) (w : Nat) (x : AluRes w) (h : (x.mask != 0) = true) :
    Puts c (flyRes c d w x s) 1 (.flags x.mask) (x.flags.setWidth 56) := by
  unfold flyRes
  simp only [onlyIf, h, if_true]
  cases hs : (x.sticky != 0)
  · simp only [Bool.false_eq_true, if_false]; exact puts_fly _ _ _
  · simp only [if_true]; exact (puts_fly _ _ _).mono (grows_flySticky _)

/-- So are its sticky flags. -/
theorem puts_flyRes_sticky (d : Option Tgt) (w : Nat) (x : AluRes w) (h : (x.sticky != 0) = true) :
    Puts c (flyRes c d w x s) 1 .sticky (x.sticky.setWidth 56) := by
  unfold flyRes
  simp only [onlyIf, h, if_true]
  exact puts_flySticky _

/-- A bundle of the ALU format that nothing stops, with its predicate 1: what its operation puts in flight is in flight. -/
theorem aluBundle_goes {legal priv : Bool} {a : AluSlots} {op : State → State → State}
    (h : issues c (fun r => moveChecks c legal priv a.move.kind a.move.args r) s = true)
    (hq : rdQ c a.astg.val (atIssue c s) = true) :
    ∃ t, aluBundle c legal priv a op s = .next t ∧ Grows c (op (atIssue c s) (atIssue c s)) t := by
  refine ⟨_, rfl, ?_⟩
  rw [issue_runs h]
  simp only [hq, if_true]
  exact Grows.trans (grows_doMove _ _ _) (Grows.of_eq (bundleEnd_flight _ _ _ _ _))

end Sys2Proof.Machine
end

