-- ==== Sys2Proof/Laws/Keeps.lean ====
section
/-! SUPPORT. What every command keeps, said once. `Closed P` says that a property of states depends on the registers, the
memories, the queue, the block number and the timebase alone, and survives each primitive change of registers and memories; the lemmas `<f>_keeps` then carry any
such property over every function of the model. The canonical form of registers and memories, and the queue, are two instances. -/

namespace Sys2Proof.Machine

/-- A property of states that every primitive change keeps. -/
structure Closed (P : State → Prop) : Prop where
  /-- It depends on registers, memories, queue, block number and timebase alone. -/
  frame : ∀ s t : State, t.regs = s.regs → t.mem = s.mem → t.pending = s.pending → t.tl.k = s.tl.k → t.ns = s.ns → P s → P t
  /-- It survives a register write. -/
  reg : ∀ (a : Nat) (v : Word) (s : State), P s → P (wrReg a v s)
  /-- It survives registers going back to their reset values. -/
  drop : ∀ (p : Nat × Word → Bool) (s : State), P s → P { s with regs := s.regs.filter p }
  /-- It survives a change of memories that keeps their canonical form. -/
  mem : ∀ (m : MemSt) (s : State), (s.mem.wf = true → m.wf = true) → P s → P { s with mem := m }

/-- A property of states that every primitive change keeps, those of the block number and the timebase among them. -/
structure Timed (P : State → Prop) : Prop extends Closed P where
  /-- It depends on registers, memories and queue alone. -/
  time : ∀ s t : State, t.regs = s.regs → t.mem = s.mem → t.pending = s.pending → P s → P t

/-- An outcome whose next state, if there is one, has a property. -/
structure OutKeeps (P : State → Prop) (o : Out) : Prop where
  /-- What the outcome says. -/
  out : ∀ t, o = .next t → P t

variable {P : State → Prop}

theorem outKeeps_next {t : State} (h : P t) : OutKeeps P (.next t) := ⟨fun _ e => by cases e; exact h⟩

theorem outKeeps_fault (f : Fault) : OutKeeps P (.fault f) := ⟨fun _ e => by cases e⟩

theorem OutKeeps.ite {c : Prop} [Decidable c] {a b : Out} (ha : c → OutKeeps P a) (hb : ¬c → OutKeeps P b) :
    OutKeeps P (if c then a else b) := by
  split
  · exact ha ‹_›
  · exact hb ‹_›

theorem keeps_ite {c : Prop} [Decidable c] {a b : State} (ha : c → P a) (hb : ¬c → P b) : P (if c then a else b) := by
  split
  · exact ha ‹_›
  · exact hb ‹_›

theorem keeps_ite_snd {α : Type} {c : Prop} [Decidable c] {a b : α × State} (ha : c → P a.2) (hb : ¬c → P b.2) :
    P (if c then a else b).2 := by
  split
  · exact ha ‹_›
  · exact hb ‹_›

theorem keeps_ite_snd_snd {α β : Type} {c : Prop} [Decidable c] {a b : α × β × State} (ha : c → P a.2.2) (hb : ¬c → P b.2.2) :
    P (if c then a else b).2.2 := by
  split
  · exact ha ‹_›
  · exact hb ‹_›

theorem onlyIf_keeps {c : Bool} {f : State → State} {s : State} (hf : ∀ t, P t → P (f t)) (h : P s) : P (onlyIf c f s) := by
  unfold onlyIf; split
  · exact hf s h
  · exact h

theorem forEach_keeps {α : Type} {l : List α} {f : α → State → State} {s : State} (hf : ∀ a t, P t → P (f a t)) (h : P s) :
    P (forEach l f s) := by
  unfold forEach
  induction l generalizing s with
  | nil => exact h
  | cons a r ih => exact ih (hf a s h)

theorem foldl_keeps {α : Type} {l : List α} {f : State → α → State} {s : State} (hf : ∀ t a, P t → P (f t a)) (h : P s) :
    P (l.foldl f s) := by
  induction l generalizing s with
  | nil => exact h
  | cons a r ih => exact ih (hf s a h)

theorem foldl_snd_keeps {α β : Type} {l : List α} {f : β × State → α → β × State} {q : β × State}
    (hf : ∀ (t : β × State) (a : α), P t.2 → P (f t a).2) (h : P q.2) : P (l.foldl f q).2 := by
  induction l generalizing q with
  | nil => exact h
  | cons a r ih => exact ih (hf q a h)

theorem getD_keeps {o : Option State} {s : State} (ho : ∀ t, o = some t → P t) (h : P s) : P (o.getD s) := by
  cases o with
  | none => exact h
  | some t => exact ho t rfl

/-- The canonical form of memories, part by part. -/
theorem MemSt.wf_iff (m : MemSt) : m.wf = true ↔
    mapWf (fun _ => 0) m.x = true ∧ mapWf (fun _ => 0) m.y = true ∧ mapWf (fun _ => 0) m.prog = true ∧
    mapWf (fun _ => 0) m.shared = true ∧ mapWf (fun _ => 0) m.goldX = true ∧ mapWf (fun _ => 0) m.goldY = true ∧
    mapWf (fun _ => 0) m.goldProg = true ∧ mapWf (fun _ => 0) m.dram = true := by
  simp only [MemSt.wf, Bool.and_eq_true, and_assoc]

theorem MemSt.wf_setX (m : MemSt) (k : Nat) (v : DWord) (h : m.wf = true) :
    MemSt.wf { m with x := mapSet (fun _ => 0) m.x k v } = true := by
  rw [MemSt.wf_iff] at h ⊢
  simp only [mapWf_mapSet _ _ _ _ (h.1), h, and_self]

theorem MemSt.wf_setY (m : MemSt) (k : Nat) (v : DWord) (h : m.wf = true) :
    MemSt.wf { m with y := mapSet (fun _ => 0) m.y k v } = true := by
  rw [MemSt.wf_iff] at h ⊢
  simp only [mapWf_mapSet _ _ _ _ (h.2.1), h, and_self]

theorem MemSt.wf_setProg (m : MemSt) (k : Nat) (v : Bundle64) (h : m.wf = true) :
    MemSt.wf { m with prog := mapSet (fun _ => 0) m.prog k v } = true := by
  rw [MemSt.wf_iff] at h ⊢
  simp only [mapWf_mapSet _ _ _ _ (h.2.2.1), h, and_self]

theorem MemSt.wf_setShared (m : MemSt) (k : Nat) (v : Word) (h : m.wf = true) :
    MemSt.wf { m with shared := mapSet (fun _ => 0) m.shared k v } = true := by
  rw [MemSt.wf_iff] at h ⊢
  simp only [mapWf_mapSet _ _ _ _ (h.2.2.2.1), h, and_self]

theorem MemSt.wf_setDram (m : MemSt) (k : Nat) (v : Byte) (h : m.wf = true) :
    MemSt.wf { m with dram := mapSet (fun _ => 0) m.dram k v } = true := by
  rw [MemSt.wf_iff] at h ⊢
  simp only [mapWf_mapSet _ _ _ _ (h.2.2.2.2.2.2.2), h, and_self]

theorem out_keeps {o : Out} {t : State} (e : o = .next t) (h : OutKeeps P o) : P t := h.out t e

theorem pair_keeps {α : Type} {q : α × State} {a : α} {t : State} (e : q = (a, t)) (h : P q.2) : P t := by
  subst e; exact h

theorem triple_keeps {α β : Type} {q : α × β × State} {a : α} {b : β} {t : State} (e : q = (a, b, t)) (h : P q.2.2) : P t := by
  subst e; exact h

/-- A change of anything but registers, memories, queue, timebase and timeline. -/
theorem Closed.other (hP : Closed P) {s : State}
    {cores : List (Nat × Pea)} {pods : PodSt} {frac : BitVec 32} {feu : FeuSt} {pair : PairSt} {nS : Nat} {image :
    ImageSt} {graph : GraphSt} {mods : ModsSt} {edge : EdgeSt} {sense : List (Nat × StreamSt)} {senseAt : BitVec 64}
    {rook : RookSt} {ks : KeySt} {time : TimeSt} {halv : HalvonSt} {eth : EthSt} {fb : FbSt} {xb : XbSt} {flash :
    FlashSt} {pawn : PawnSt} {lanes : List (Nat × LaneSt)} {freeCtr : Nat} :
    P (State.mk s.regs cores s.mem pods s.ns frac s.tl feu pair nS image graph mods edge sense senseAt rook ks time halv eth fb xb flash pawn lanes freeCtr s.pending) ↔ P s := ⟨hP.frame _ s rfl rfl rfl rfl rfl, hP.frame s _ rfl rfl rfl rfl rfl⟩

/-- The same with the timeline's changes and GENs. -/
theorem Closed.otherTl (hP : Closed P) {s : State}
    {cores : List (Nat × Pea)} {pods : PodSt} {frac : BitVec 32} {feu : FeuSt} {pair : PairSt} {nS : Nat} {image :
    ImageSt} {graph : GraphSt} {mods : ModsSt} {edge : EdgeSt} {sense : List (Nat × StreamSt)} {senseAt : BitVec 64}
    {rook : RookSt} {ks : KeySt} {time : TimeSt} {halv : HalvonSt} {eth : EthSt} {fb : FbSt} {xb : XbSt} {flash :
    FlashSt} {pawn : PawnSt} {lanes : List (Nat × LaneSt)} {freeCtr : Nat} {pend : List Change} {gens : List (Nat ×
    BitVec 16)} :
    P (State.mk s.regs cores s.mem pods s.ns frac ⟨s.tl.k, pend, gens⟩ feu pair nS image graph mods edge sense senseAt rook ks time halv eth fb xb flash pawn lanes freeCtr s.pending) ↔ P s := ⟨hP.frame _ s rfl rfl rfl rfl rfl, hP.frame s _ rfl rfl rfl rfl rfl⟩

/-- A change of anything but registers, memories and queue. -/
theorem Timed.other (hT : Timed P) {s : State}
    {cores : List (Nat × Pea)} {pods : PodSt} {ns : BitVec 64} {frac : BitVec 32} {tl : TimelineSt} {feu : FeuSt} {pair
    : PairSt} {nS : Nat} {image : ImageSt} {graph : GraphSt} {mods : ModsSt} {edge : EdgeSt} {sense : List (Nat ×
    StreamSt)} {senseAt : BitVec 64} {rook : RookSt} {ks : KeySt} {time : TimeSt} {halv : HalvonSt} {eth : EthSt} {fb :
    FbSt} {xb : XbSt} {flash : FlashSt} {pawn : PawnSt} {lanes : List (Nat × LaneSt)} {freeCtr : Nat} :
    P (State.mk s.regs cores s.mem pods ns frac tl feu pair nS image graph mods edge sense senseAt rook ks time halv eth fb xb flash pawn lanes freeCtr s.pending) ↔ P s := ⟨hT.time _ s rfl rfl rfl, hT.time s _ rfl rfl rfl⟩

end Sys2Proof.Machine
end

