-- ==== Sys2Proof/Laws/Keeps/Ops.lean ====
section
/-! SUPPORT. Every function of Machine/Ops.lean keeps a closed property. -/

namespace Sys2Proof.Machine

variable {P : State → Prop}

theorem wrReg_keeps (hP : Closed P) (a : Nat) (v : Word) (s : State) (h : P s) : P (wrReg a v s) := hP.reg a v s h

theorem wr_keeps (hP : Closed P) (f : FRef) (v : Nat) (s : State) (hkeep : P s) : P (wr f v s) := by
  unfold wr
  with_reducible repeat' (first | intro _ | assumption | apply wrReg_keeps hP | dsimp only)

theorem satEvent_keeps (hP : Closed P) (isl : Nat) (s : State) (hkeep : P s) : P (satEvent isl s) := by
  unfold satEvent
  with_reducible repeat' (first | intro _ | assumption | apply wr_keeps hP | dsimp only)

theorem count_keeps (hP : Closed P) (cnt : FRef) (sat : FRef) (isl : Nat) (s : State) (hkeep : P s) : P (count cnt sat isl s) := by
  unfold count
  with_reducible repeat' (first | intro _ | assumption | apply satEvent_keeps hP | apply wr_keeps hP | apply keeps_ite (P := P) | split | dsimp only)

theorem countN_keeps (hP : Closed P) (n : Nat) (cnt : FRef) (sat : FRef) (isl : Nat) (s : State) (hkeep : P s) : P (countN n cnt sat isl s) := by
  unfold countN
  with_reducible repeat' (first | intro _ | assumption | apply satEvent_keeps hP | apply wr_keeps hP | apply keeps_ite (P := P) | split | dsimp only)

theorem freeNext_keeps (hP : Closed P) (s : State) (hkeep : P s) : P (freeNext s) := by
  unfold freeNext
  with_reducible repeat' (first | intro _ | assumption | simp only [Closed.other hP, Closed.otherTl hP] | dsimp only)

theorem setFeuQueue_keeps (hP : Closed P) (isl : Nat) (q : List FaultRec) (s : State) (hkeep : P s) : P (setFeuQueue isl q s) := by
  unfold setFeuQueue
  with_reducible repeat' (first | intro _ | assumption | simp only [Closed.other hP, Closed.otherTl hP] | dsimp only)

theorem raiseOn_keeps (hP : Closed P) (isl : Nat) (r : FaultRec) (s : State) (hkeep : P s) : P (raiseOn isl r s) := by
  unfold raiseOn
  with_reducible repeat' (first | intro _ | assumption | apply count_keeps hP | apply setFeuQueue_keeps hP | apply keeps_ite (P := P) | simp only [Closed.other hP, Closed.otherTl hP] | split | dsimp only)

theorem raiseRec_keeps (hP : Closed P) (r : FaultRec) (s : State) (hkeep : P s) : P (raiseRec r s) := by
  unfold raiseRec
  with_reducible repeat' (first | intro _ | assumption | apply raiseOn_keeps hP | dsimp only)

theorem raise_keeps (hP : Closed P) (isl : Nat) (code : Nat) (arg : Nat) (s : State) (hkeep : P s) : P (raise isl code arg s) := by
  unfold raise
  with_reducible repeat' (first | intro _ | assumption | apply raiseRec_keeps hP | dsimp only)

theorem raiseAccess_keeps (hP : Closed P) (isl : Nat) (detail : Nat) (master : Nat) (write : Bool) (user : Bool) (addr : Nat) (s : State) (hkeep : P s) : P (raiseAccess isl detail master write user addr s) := by
  unfold raiseAccess
  with_reducible repeat' (first | intro _ | assumption | apply raiseRec_keeps hP | dsimp only)

theorem seqNext_keeps (hP : Closed P) (f : FRef) (s : State) (hkeep : P s) : P (seqNext f s) := by
  unfold seqNext
  with_reducible repeat' (first | intro _ | assumption | apply wr_keeps hP | dsimp only)

theorem wrB_keeps (hP : Closed P) (f : FRef) (b : Bool) (s : State) (hkeep : P s) : P (wrB f b s) := by
  unfold wrB
  with_reducible repeat' (first | intro _ | assumption | apply wr_keeps hP | apply keeps_ite (P := P) | split | dsimp only)

theorem wrDram_keeps (hP : Closed P) (a : Nat) (v : Byte) (s : State) (h : P s) : P (wrDram a v s) :=
  hP.mem _ s (MemSt.wf_setDram _ _ _) h

theorem wrDramW_keeps (hP : Closed P) (a : Nat) (v : Word) (s : State) (hkeep : P s) : P (wrDramW a v s) := by
  unfold wrDramW
  with_reducible repeat' (first | intro _ | assumption | apply wrDram_keeps hP | dsimp only)

theorem wrI_keeps (hP : Closed P) (f : FRef) (i : Int) (s : State) (hkeep : P s) : P (wrI f i s) := by
  unfold wrI
  with_reducible repeat' (first | intro _ | assumption | apply wr_keeps hP | dsimp only)

theorem wrProg_keeps (hP : Closed P) (c : Nat) (a : Nat) (v : Bundle64) (s : State) (h : P s) : P (wrProg c a v s) :=
  hP.mem _ s (MemSt.wf_setProg _ _ _) h

theorem wrSat_keeps (hP : Closed P) (f : FRef) (v : Nat) (s : State) (hkeep : P s) : P (wrSat f v s) := by
  unfold wrSat
  with_reducible repeat' (first | intro _ | assumption | apply wr_keeps hP | dsimp only)

theorem wrShared_keeps (hP : Closed P) (n : Nat) (a : Nat) (v : Word) (s : State) (h : P s) : P (wrShared n a v s) :=
  hP.mem _ s (MemSt.wf_setShared _ _ _) h

theorem wrX_keeps (hP : Closed P) (c : Nat) (a : Nat) (v : DWord) (s : State) (h : P s) : P (wrX c a v s) :=
  hP.mem _ s (MemSt.wf_setX _ _ _) h

theorem wrY_keeps (hP : Closed P) (c : Nat) (a : Nat) (v : DWord) (s : State) (h : P s) : P (wrY c a v s) :=
  hP.mem _ s (MemSt.wf_setY _ _ _) h

end Sys2Proof.Machine
end

