-- ==== Sys2Proof/Laws/Keeps/Events.lean ====
section
/-! SUPPORT. Every function of Machine/Events.lean keeps a closed property. -/

namespace Sys2Proof.Machine

variable {P : State → Prop}

theorem onHalv_keeps (hP : Closed P) (f : HalvonSt → HalvonSt) (s : State) (hkeep : P s) : P (onHalv f s) := by
  unfold onHalv
  with_reducible repeat' (first | intro _ | assumption | simp only [Closed.other hP, Closed.otherTl hP] | dsimp only)

theorem setSession_keeps (hP : Closed P) (num : Nat) (f : Session → Session) (s : State) (hkeep : P s) : P (setSession num f s) := by
  unfold setSession
  with_reducible repeat' (first | intro _ | assumption | apply onHalv_keeps hP | apply keeps_ite (P := P) | split | dsimp only)

theorem endSession_keeps (hP : Closed P) (num : Nat) (s : State) (hkeep : P s) : P (endSession num s) := by
  unfold endSession
  with_reducible repeat' (first | intro _ | assumption | apply onHalv_keeps hP | dsimp only)

theorem sendReply_keeps (hP : Closed P) (num : Nat) (typ : Nat) (seq : Nat) (old : Bool) (r : Reply) (s : State) (hkeep : P s) : P (sendReply num typ seq old r s) := by
  unfold sendReply
  with_reducible repeat' (first | intro _ | assumption | apply endSession_keeps hP | apply onHalv_keeps hP | apply setSession_keeps hP | apply keeps_ite (P := P) | apply keeps_ite_snd (P := P) | refine pair_keeps (P := P) (by assumption) ?_ | split | dsimp only)

theorem answerCastle_keeps (hP : Closed P) (c : Nat) (s : State) (hkeep : P s) : P (answerCastle c s) := by
  unfold answerCastle
  with_reducible repeat' (first | intro _ | assumption | apply onHalv_keeps hP | apply sendReply_keeps hP | apply forEach_keeps (P := P) | dsimp only)

theorem queueFault_keeps (hP : Closed P) (cls : Nat) (ws : List Word) (s : State) (hkeep : P s) : P (queueFault cls ws s) := by
  unfold queueFault
  with_reducible repeat' (first | intro _ | assumption | apply onHalv_keeps hP | apply keeps_ite (P := P) | apply keeps_ite_snd (P := P) | split | dsimp only)

theorem queueMeter_keeps (hP : Closed P) (m : Nat) (ws : List Word) (s : State) (hkeep : P s) : P (queueMeter m ws s) := by
  unfold queueMeter
  with_reducible repeat' (first | intro _ | assumption | apply onHalv_keeps hP | apply keeps_ite (P := P) | apply keeps_ite_snd (P := P) | split | dsimp only)

end Sys2Proof.Machine
end

