-- ==== Sys2Proof/Laws/Keeps/Timeline.lean ====
section
/-! SUPPORT. Every function of Machine/Timeline.lean keeps a closed property. -/

namespace Sys2Proof.Machine

variable {P : State → Prop}

theorem countFar_keeps (hP : Closed P) (s : State) (hkeep : P s) : P (countFar s) := by
  unfold countFar
  with_reducible repeat' (first | intro _ | assumption | apply count_keeps hP | dsimp only)

theorem countFull_keeps (hP : Closed P) (s : State) (hkeep : P s) : P (countFull s) := by
  unfold countFull
  with_reducible repeat' (first | intro _ | assumption | apply count_keeps hP | dsimp only)

theorem countWindow_keeps (hP : Closed P) (w : WindowRes) (s : State) (hkeep : P s) : P (countWindow w s) := by
  unfold countWindow
  with_reducible repeat' (first | intro _ | assumption | apply countFar_keeps hP | apply count_keeps hP | refine pair_keeps (P := P) (by assumption) ?_ | split | dsimp only)

theorem setPend_keeps (hP : Closed P) (p : List Change) (s : State) (hkeep : P s) : P (setPend p s) := by
  unfold setPend
  with_reducible repeat' (first | intro _ | assumption | apply wr_keeps hP | simp only [Closed.other hP, Closed.otherTl hP] | dsimp only)

theorem enterChanges_keeps (hP : Closed P) (cs : List Change) (late : Bool) (s : State) (hkeep : P s) : P (enterChanges cs late s) := by
  unfold enterChanges
  with_reducible repeat' (first | intro _ | assumption | apply countN_keeps hP | apply setPend_keeps hP | apply onlyIf_keeps (P := P) | dsimp only)

theorem execGlbBsnRead_keeps (hP : Closed P) (s : State) (hkeep : P s) : OutKeeps P (execGlbBsnRead s) := by
  unfold execGlbBsnRead
  with_reducible repeat' (first | intro _ | assumption | apply wr_keeps hP | apply keeps_ite (P := P) | apply outKeeps_next (P := P) | apply OutKeeps.ite (P := P) | split | dsimp only)

end Sys2Proof.Machine
end

