-- ==== Sys2Proof/Laws/Keeps/Pair.lean ====
section
/-! SUPPORT. Every function of Machine/Pair.lean keeps a closed property. -/

namespace Sys2Proof.Machine

variable {P : State → Prop}

theorem alignDerive_keeps (hP : Closed P) (s : State) (hkeep : P s) : P (alignDerive s) := by
  unfold alignDerive
  with_reducible repeat' (first | intro _ | assumption | apply wrB_keeps hP | apply keeps_ite (P := P) | split | dsimp only)

theorem onPair_keeps (hP : Closed P) (f : PairSt → PairSt) (s : State) (hkeep : P s) : P (onPair f s) := by
  unfold onPair
  with_reducible repeat' (first | intro _ | assumption | simp only [Closed.other hP, Closed.otherTl hP] | dsimp only)

theorem sendKing_keeps (hP : Closed P) (c : KingCode) (blk : Nat) (s : State) (hkeep : P s) : P (sendKing c blk s) := by
  unfold sendKing
  with_reducible repeat' (first | intro _ | assumption | apply onPair_keeps hP | dsimp only)

theorem endCastling_keeps (hP : Closed P) (s : State) (hkeep : P s) : P (endCastling s) := by
  unfold endCastling
  with_reducible repeat' (first | intro _ | assumption | apply onPair_keeps hP | apply wr_keeps hP | apply keeps_ite (P := P) | split | dsimp only)

theorem cancelCastling_keeps (hP : Closed P) (c : Nat) (s : State) (hkeep : P s) : P (cancelCastling c s) := by
  unfold cancelCastling
  with_reducible repeat' (first | intro _ | assumption | apply count_keeps hP | apply endCastling_keeps hP | apply sendKing_keeps hP | dsimp only)

theorem refuseCastle_keeps (hP : Closed P) (s : State) (hkeep : P s) : P (refuseCastle s) := by
  unfold refuseCastle
  with_reducible repeat' (first | intro _ | assumption | apply raise_keeps hP | apply wrB_keeps hP | dsimp only)

theorem castleRequest_keeps (hP : Closed P) (s : State) (hkeep : P s) : P (castleRequest s).2 := by
  unfold castleRequest
  with_reducible repeat' (first | intro _ | assumption | apply onPair_keeps hP | apply refuseCastle_keeps hP | apply sendKing_keeps hP | apply wr_keeps hP | apply keeps_ite (P := P) | apply keeps_ite_snd (P := P) | refine pair_keeps (P := P) (by assumption) ?_ | split | dsimp only)

theorem setDrLane_keeps (hP : Closed P) (l : Nat) (n : Nat) (s : State) (hkeep : P s) : P (setDrLane l n s) := by
  unfold setDrLane
  with_reducible repeat' (first | intro _ | assumption | apply wr_keeps hP | apply keeps_ite (P := P) | split | dsimp only)

theorem claimLane_keeps (hP : Closed P) (n : Nat) (s : State) (hkeep : P s) : P (claimLane n s) := by
  unfold claimLane
  with_reducible repeat' (first | intro _ | assumption | apply setDrLane_keeps hP | apply wr_keeps hP | apply keeps_ite (P := P) | split | dsimp only)

theorem countLateMirror_keeps (hP : Closed P) (n : Nat) (s : State) (hkeep : P s) : P (countLateMirror n s) := by
  unfold countLateMirror
  with_reducible repeat' (first | intro _ | assumption | apply countN_keeps hP | apply onlyIf_keeps (P := P) | dsimp only)

theorem closeMirror_keeps (hP : Closed P) (a : Nat) (s : State) (hkeep : P s) : P (closeMirror a s) := by
  unfold closeMirror
  with_reducible repeat' (first | intro _ | assumption | apply countLateMirror_keeps hP | apply enterChanges_keeps hP | apply onPair_keeps hP | apply keeps_ite (P := P) | split | dsimp only)

theorem closeResync_keeps (hP : Closed P) (a : Nat) (gen : BitVec 16) (cs : List Change) (s : State) (hkeep : P s) : P (closeResync a gen cs s) := by
  unfold closeResync
  with_reducible repeat' (first | intro _ | assumption | apply countLateMirror_keeps hP | apply onPair_keeps hP | apply keeps_ite (P := P) | apply keeps_ite_snd (P := P) | split | dsimp only)

theorem compareFeeds_keeps (hP : Closed P) (k : Nat) (s : State) (hkeep : P s) : P (compareFeeds k s) := by
  unfold compareFeeds
  with_reducible repeat' (first | intro _ | assumption | apply count_keeps hP | apply onPair_keeps hP | apply wrB_keeps hP | apply onlyIf_keeps (P := P) | apply keeps_ite (P := P) | refine pair_keeps (P := P) (by assumption) ?_ | split | dsimp only)

theorem countCastled_keeps (hP : Closed P) (s : State) (hkeep : P s) : P (countCastled s) := by
  unfold countCastled
  with_reducible repeat' (first | intro _ | assumption | apply count_keeps hP | dsimp only)

theorem pairDerive_keeps (hP : Closed P) (s : State) (hkeep : P s) : P (pairDerive s) := by
  unfold pairDerive
  with_reducible repeat' (first | intro _ | assumption | apply onPair_keeps hP | apply wrB_keeps hP | apply keeps_ite (P := P) | split | dsimp only)

theorem execCastlingAcceptDeadline_keeps (hP : Closed P) (s : State) (hkeep : P s) : OutKeeps P (execCastlingAcceptDeadline s) := by
  unfold execCastlingAcceptDeadline
  with_reducible repeat' (first | intro _ | assumption | apply cancelCastling_keeps hP | apply pairDerive_keeps hP | apply keeps_ite (P := P) | apply outKeeps_next (P := P) | apply OutKeeps.ite (P := P) | refine pair_keeps (P := P) (by assumption) ?_ | split | dsimp only)

theorem kingPorts_keeps (hP : Closed P) (gain : Bool) (s : State) (hkeep : P s) : P (kingPorts gain s) := by
  unfold kingPorts
  with_reducible repeat' (first | intro _ | assumption | apply wr_keeps hP | apply onlyIf_keeps (P := P) | apply forEach_keeps (P := P) | apply keeps_ite (P := P) | split | dsimp only)

theorem loseKing_keeps (hP : Closed P) (cause : Nat) (first : Nat) (s : State) (hkeep : P s) : P (loseKing cause first s) := by
  unfold loseKing
  with_reducible repeat' (first | intro _ | assumption | apply kingPorts_keeps hP | apply onPair_keeps hP | apply wr_keeps hP | dsimp only)

theorem gainKing_keeps (hP : Closed P) (cause : Nat) (first : Nat) (s : State) (hkeep : P s) : P (gainKing cause first s) := by
  unfold gainKing
  with_reducible repeat' (first | intro _ | assumption | apply kingPorts_keeps hP | apply onPair_keeps hP | apply seqNext_keeps hP | apply wr_keeps hP | dsimp only)

theorem execCastlingBlock_keeps (hP : Closed P) (s : State) (hkeep : P s) : OutKeeps P (execCastlingBlock s) := by
  unfold execCastlingBlock
  with_reducible repeat' (first | intro _ | assumption | apply cancelCastling_keeps hP | apply countCastled_keeps hP | apply endCastling_keeps hP | apply gainKing_keeps hP | apply loseKing_keeps hP | apply pairDerive_keeps hP | apply keeps_ite (P := P) | apply outKeeps_next (P := P) | apply OutKeeps.ite (P := P) | refine pair_keeps (P := P) (by assumption) ?_ | split | dsimp only)

theorem setFramer_keeps (hP : Closed P) (n : Nat) (f : Framer) (s : State) (hkeep : P s) : P (setFramer n f s) := by
  unfold setFramer
  with_reducible repeat' (first | intro _ | assumption | apply onPair_keeps hP | dsimp only)

theorem execDrananMarker_keeps (hP : Closed P) (lane : Fin 16) (payload : BitVec 64) (inPlace : Bool) (ns : BitVec 64) (s : State) (hkeep : P s) : OutKeeps P (execDrananMarker lane payload inPlace ns s) := by
  unfold execDrananMarker
  with_reducible repeat' (first | intro _ | assumption | apply alignDerive_keeps hP | apply claimLane_keeps hP | apply count_keeps hP | apply pairDerive_keeps hP | apply setFramer_keeps hP | apply wrB_keeps hP | apply onlyIf_keeps (P := P) | apply keeps_ite (P := P) | apply keeps_ite_snd (P := P) | apply outKeeps_next (P := P) | apply OutKeeps.ite (P := P) | split | dsimp only)

theorem execDrnCastle_keeps (hP : Closed P) (s : State) (hkeep : P s) : OutKeeps P (execDrnCastle s) := by
  unfold execDrnCastle
  with_reducible repeat' (first | intro _ | assumption | apply castleRequest_keeps hP | apply pairDerive_keeps hP | apply outKeeps_next (P := P) | dsimp only)

theorem sendMirror_keeps (hP : Closed P) (e : MirrorEntry) (s : State) (hkeep : P s) : P (sendMirror e s) := by
  unfold sendMirror
  with_reducible repeat' (first | intro _ | assumption | apply onPair_keeps hP | dsimp only)

theorem sendResync_keeps (hP : Closed P) (s : State) (hkeep : P s) : P (sendResync s) := by
  unfold sendResync
  with_reducible repeat' (first | intro _ | assumption | apply freeNext_keeps hP | apply onPair_keeps hP | apply sendMirror_keeps hP | dsimp only)

theorem execDrnResync_keeps (hP : Closed P) (s : State) (hkeep : P s) : OutKeeps P (execDrnResync s) := by
  unfold execDrnResync
  with_reducible repeat' (first | intro _ | assumption | apply onPair_keeps hP | apply sendResync_keeps hP | apply keeps_ite (P := P) | apply outKeeps_next (P := P) | apply OutKeeps.ite (P := P) | split | dsimp only)

theorem execKingTake_keeps (hP : Closed P) (s : State) (hkeep : P s) : OutKeeps P (execKingTake s) := by
  unfold execKingTake
  with_reducible repeat' (first | intro _ | assumption | apply count_keeps hP | apply gainKing_keeps hP | apply pairDerive_keeps hP | apply keeps_ite (P := P) | apply outKeeps_next (P := P) | apply OutKeeps.ite (P := P) | refine pair_keeps (P := P) (by assumption) ?_ | split | dsimp only)

theorem followFrame_keeps (hP : Closed P) (f : StatusFrame) (sent : Nat) (s : State) (hkeep : P s) : P (followFrame f sent s) := by
  unfold followFrame
  with_reducible repeat' (first | intro _ | assumption | apply onPair_keeps hP | apply wr_keeps hP | apply onlyIf_keeps (P := P) | apply keeps_ite (P := P) | split | dsimp only)

theorem splitSeen_keeps (hP : Closed P) (f : StatusFrame) (fin : Nat) (s : State) (hkeep : P s) : P (splitSeen f fin s) := by
  unfold splitSeen
  with_reducible repeat' (first | intro _ | assumption | apply count_keeps hP | apply onPair_keeps hP | apply onlyIf_keeps (P := P) | apply keeps_ite (P := P) | split | dsimp only)

theorem heardFrame_keeps (hP : Closed P) (ch : Nat) (sent : Nat) (f : StatusFrame) (s : State) (hkeep : P s) : P (heardFrame ch sent f s) := by
  unfold heardFrame
  with_reducible repeat' (first | intro _ | assumption | apply followFrame_keeps hP | apply onPair_keeps hP | apply pairDerive_keeps hP | apply splitSeen_keeps hP | apply wr_keeps hP | apply onlyIf_keeps (P := P) | apply keeps_ite (P := P) | refine pair_keeps (P := P) (by assumption) ?_ | split | dsimp only)

theorem execLeaseLineFrame_keeps (hP : Closed P) (w : BitVec 128) (s : State) (hkeep : P s) : OutKeeps P (execLeaseLineFrame w s) := by
  unfold execLeaseLineFrame
  with_reducible repeat' (first | intro _ | assumption | apply heardFrame_keeps hP | apply keeps_ite (P := P) | apply outKeeps_next (P := P) | apply OutKeeps.ite (P := P) | split | dsimp only)

theorem execMirrorExpiry_keeps (hP : Closed P) (s : State) (hkeep : P s) : OutKeeps P (execMirrorExpiry s) := by
  unfold execMirrorExpiry
  with_reducible repeat' (first | intro _ | assumption | apply onPair_keeps hP | apply sendResync_keeps hP | apply keeps_ite (P := P) | apply keeps_ite_snd (P := P) | apply outKeeps_next (P := P) | apply OutKeeps.ite (P := P) | split | dsimp only)

theorem netHeartbeat_keeps (hP : Closed P) (w : BitVec 128) (k : BitVec 64) (tagOk : Bool) (s : State) (hkeep : P s) : P (netHeartbeat w k tagOk s) := by
  unfold netHeartbeat
  with_reducible repeat' (first | intro _ | assumption | apply heardFrame_keeps hP | apply keeps_ite (P := P) | split | dsimp only)

theorem execNetworkHeartbeat_keeps (hP : Closed P) (w : BitVec 128) (k : BitVec 64) (tagOk : Bool) (s : State) (hkeep : P s) : OutKeeps P (execNetworkHeartbeat w k tagOk s) := by
  unfold execNetworkHeartbeat
  with_reducible repeat' (first | intro _ | assumption | apply netHeartbeat_keeps hP | apply outKeeps_next (P := P) | dsimp only)

theorem onRecord_keeps (hP : Closed P) (ok : Bool) (f : State → State) (s : State) (h_f : ∀  t, P t → P (f t)) (hkeep : P s) : P (onRecord ok f s) := by
  unfold onRecord
  with_reducible repeat' (first | intro _ | assumption | apply count_keeps hP | apply pairDerive_keeps hP | apply h_f | apply keeps_ite (P := P) | split | dsimp only)

theorem sharedDerive_keeps (hP : Closed P) (s : State) (hkeep : P s) : P (sharedDerive s) := by
  unfold sharedDerive
  with_reducible repeat' (first | intro _ | assumption | apply wrB_keeps hP | refine pair_keeps (P := P) (by assumption) ?_ | split | dsimp only)

theorem execRecordHeartbeat_keeps (hP : Closed P) (crcOk : Bool) (dblk : BitVec 24) (h : Heartbeat) (s : State) (hkeep : P s) : OutKeeps P (execRecordHeartbeat crcOk dblk h s) := by
  unfold execRecordHeartbeat
  with_reducible repeat' (first | intro _ | assumption | apply heardFrame_keeps hP | apply onPair_keeps hP | apply onRecord_keeps hP | apply sharedDerive_keeps hP | apply wrB_keeps hP | apply outKeeps_next (P := P) | dsimp only)

theorem execRecordKing_keeps (hP : Closed P) (crcOk : Bool) (code : KingCode) (dblk : BitVec 24) (s : State) (hkeep : P s) : OutKeeps P (execRecordKing crcOk code dblk s) := by
  unfold execRecordKing
  with_reducible repeat' (first | intro _ | assumption | apply answerCastle_keeps hP | apply castleRequest_keeps hP | apply endCastling_keeps hP | apply onPair_keeps hP | apply onRecord_keeps hP | apply sendKing_keeps hP | apply wr_keeps hP | apply onlyIf_keeps (P := P) | apply keeps_ite (P := P) | apply outKeeps_next (P := P) | apply OutKeeps.ite (P := P) | refine pair_keeps (P := P) (by assumption) ?_ | split | dsimp only)

theorem execRecordModfeed_keeps (hP : Closed P) (crcOk : Bool) (tagOk : Bool) (dblk : BitVec 24) (feeds : List (BitVec 32)) (s : State) (hkeep : P s) : OutKeeps P (execRecordModfeed crcOk tagOk dblk feeds s) := by
  unfold execRecordModfeed
  with_reducible repeat' (first | intro _ | assumption | apply compareFeeds_keeps hP | apply onPair_keeps hP | apply onRecord_keeps hP | apply outKeeps_next (P := P) | dsimp only)

theorem execRecordSlot_keeps (hP : Closed P) (crcOk : Bool) (tagOk : Bool) (dblk : BitVec 24) (pod : Fin 16) (first : Fin 512) (samples : List (BitVec 32)) (s : State) (hkeep : P s) : OutKeeps P (execRecordSlot crcOk tagOk dblk pod first samples s) := by
  unfold execRecordSlot
  with_reducible repeat' (first | intro _ | assumption | apply onPair_keeps hP | apply onRecord_keeps hP | apply forEach_keeps (P := P) | apply outKeeps_next (P := P) | dsimp only)

theorem execRecordTime_keeps (hP : Closed P) (crcOk : Bool) (sent : BitVec 64) (got : BitVec 64) (arrived : BitVec 64) (s : State) (hkeep : P s) : OutKeeps P (execRecordTime crcOk sent got arrived s) := by
  unfold execRecordTime
  with_reducible repeat' (first | intro _ | assumption | apply onRecord_keeps hP | apply sharedDerive_keeps hP | apply wrI_keeps hP | apply wrSat_keeps hP | apply outKeeps_next (P := P) | dsimp only)

theorem execRevertExpiry_keeps (hP : Closed P) (s : State) (hkeep : P s) : OutKeeps P (execRevertExpiry s) := by
  unfold execRevertExpiry
  with_reducible repeat' (first | intro _ | assumption | apply castleRequest_keeps hP | apply onPair_keeps hP | apply pairDerive_keeps hP | apply keeps_ite (P := P) | apply outKeeps_next (P := P) | apply OutKeeps.ite (P := P) | refine pair_keeps (P := P) (by assumption) ?_ | split | dsimp only)

theorem framerLost_keeps (hP : Closed P) (n : Nat) (s : State) (hkeep : P s) : P (framerLost n s) := by
  unfold framerLost
  with_reducible repeat' (first | intro _ | assumption | apply alignDerive_keeps hP | apply count_keeps hP | apply setFramer_keeps hP | apply onlyIf_keeps (P := P) | dsimp only)

theorem pairKout_keeps (hP : Closed P) (s : State) (hkeep : P s) : P (pairKout s) := by
  unfold pairKout
  with_reducible repeat' (first | intro _ | assumption | apply onPair_keeps hP | apply forEach_keeps (P := P) | dsimp only)

theorem pairStatus_keeps (hP : Closed P) (s : State) (hkeep : P s) : P (pairStatus s) := by
  unfold pairStatus
  with_reducible repeat' (first | intro _ | assumption | apply onPair_keeps hP | apply keeps_ite (P := P) | apply keeps_ite_snd (P := P) | refine pair_keeps (P := P) (by assumption) ?_ | split | dsimp only)

theorem pairYield_keeps (hP : Closed P) (s : State) (hkeep : P s) : P (pairYield s) := by
  unfold pairYield
  with_reducible repeat' (first | intro _ | assumption | apply loseKing_keeps hP | apply keeps_ite (P := P) | split | dsimp only)

theorem pairTick_keeps (hP : Closed P) (s : State) (hkeep : P s) : P (pairTick s) := by
  unfold pairTick
  with_reducible repeat' (first | intro _ | assumption | apply onPair_keeps hP | apply pairDerive_keeps hP | apply pairKout_keeps hP | apply pairStatus_keeps hP | apply pairYield_keeps hP | apply sendResync_keeps hP | apply wr_keeps hP | apply onlyIf_keeps (P := P) | apply keeps_ite (P := P) | split | dsimp only)

theorem sendChanges_keeps (hP : Closed P) (cs : List Change) (s : State) (hkeep : P s) : P (sendChanges cs s) := by
  unfold sendChanges
  with_reducible repeat' (first | intro _ | assumption | apply sendMirror_keeps hP | apply forEach_keeps (P := P) | refine pair_keeps (P := P) (by assumption) ?_ | split | dsimp only)

theorem takeMirror_keeps (hP : Closed P) (e : MirrorEntry) (s : State) (hkeep : P s) : P (takeMirror e s) := by
  unfold takeMirror
  with_reducible repeat' (first | intro _ | assumption | apply closeMirror_keeps hP | apply closeResync_keeps hP | apply onPair_keeps hP | apply raiseRec_keeps hP | apply onlyIf_keeps (P := P) | apply keeps_ite (P := P) | apply keeps_ite_snd (P := P) | refine pair_keeps (P := P) (by assumption) ?_ | split | dsimp only)

end Sys2Proof.Machine
end

