-- ==== Sys2Proof/Laws/Keeps/Samples.lean ====
section
/-! SUPPORT. Every function of Machine/Samples.lean keeps a closed property. -/

namespace Sys2Proof.Machine

variable {P : State → Prop}

theorem onGraph_keeps (hP : Closed P) (f : GraphSt → GraphSt) (s : State) (hkeep : P s) : P (onGraph f s) := by
  unfold onGraph
  with_reducible repeat' (first | intro _ | assumption | simp only [Closed.other hP, Closed.otherTl hP] | dsimp only)

theorem gainChange_keeps (hP : Closed P) (addr : Nat) (before : Nat) (target : Nat) (ramp : Nat) (shape : Bool) (s : State) (hkeep : P s) : P (gainChange addr before target ramp shape s) := by
  unfold gainChange
  with_reducible repeat' (first | intro _ | assumption | apply onGraph_keeps hP | apply keeps_ite (P := P) | apply keeps_ite_snd (P := P) | split | dsimp only)

theorem pickNat_keeps (hP : Closed P) (lo : Nat) (hi : Nat) (s : State) (hkeep : P s) : P (pickNat lo hi s).2 := by
  unfold pickNat
  with_reducible repeat' (first | intro _ | assumption | apply freeNext_keeps hP | dsimp only)

theorem rampSample_keeps (hP : Closed P) (g : GainSt) (s : State) (hkeep : P s) : P (rampSample g s).2 := by
  unfold rampSample
  with_reducible repeat' (first | intro _ | assumption | apply pickNat_keeps hP | apply keeps_ite_snd (P := P) | dsimp only)

theorem rampMoved_keeps (hP : Closed P) (addr : Nat) (g : GainSt) (s : State) (hkeep : P s) : P (rampMoved addr g s) := by
  unfold rampMoved
  with_reducible repeat' (first | intro _ | assumption | apply onGraph_keeps hP)

theorem gainSkip_keeps (hP : Closed P) (addr : Nat) (n : Nat) (s : State) (hkeep : P s) : P (gainSkip addr n s) := by
  unfold gainSkip
  with_reducible repeat' (first | intro _ | assumption | apply rampMoved_keeps hP | apply rampSample_keeps hP | split | dsimp only)

theorem gainStep_keeps (hP : Closed P) (addr : Nat) (target : Nat) (s : State) (hkeep : P s) : P (gainStep addr target s).2 := by
  unfold gainStep
  with_reducible repeat' (first | intro _ | assumption | apply rampMoved_keeps hP | apply rampSample_keeps hP | split | dsimp only)

theorem markDone_keeps (hP : Closed P) (k : Nat) (kind : Nat) (idx : Nat) (s : State) (hkeep : P s) : P (markDone k kind idx s) := by
  unfold markDone
  with_reducible repeat' (first | intro _ | assumption | apply onGraph_keeps hP | dsimp only)

theorem pickSamp_keeps (hP : Closed P) (s : State) (hkeep : P s) : P (pickSamp s).2 := by
  unfold pickSamp
  with_reducible repeat' (first | intro _ | assumption | apply freeNext_keeps hP | dsimp only)

theorem setSamp_keeps (hP : Closed P) (k : Nat) (kind : Nat) (idx : Nat) (i : Nat) (v : DWord) (s : State) (hkeep : P s) : P (setSamp k kind idx i v s) := by
  unfold setSamp
  with_reducible repeat' (first | intro _ | assumption | apply onGraph_keeps hP | dsimp only)

theorem setSamps_keeps (hP : Closed P) (k : Nat) (kind : Nat) (idx : Nat) (vs : List DWord) (s : State) (hkeep : P s) : P (setSamps k kind idx vs s) := by
  unfold setSamps
  with_reducible repeat' (first | intro _ | assumption | apply onGraph_keeps hP | apply setSamp_keeps hP | apply forEach_keeps (P := P) | dsimp only)

end Sys2Proof.Machine
end

