-- ==== Sys2Proof/Laws/Keeps/Modulators.lean ====
section
/-! SUPPORT. Every function of Machine/Modulators.lean keeps a closed property. -/

namespace Sys2Proof.Machine

variable {P : State → Prop}

theorem setCh_keeps (hP : Closed P) (c : Nat) (st : Nat) (s : State) (hkeep : P s) : P (setCh c st s) := by
  unfold setCh
  with_reducible repeat' (first | intro _ | assumption | apply wr_keeps hP | dsimp only)

theorem setGr_keeps (hP : Closed P) (g : Nat) (st : Nat) (s : State) (hkeep : P s) : P (setGr g st s) := by
  unfold setGr
  with_reducible repeat' (first | intro _ | assumption | apply wr_keeps hP | dsimp only)

theorem onMods_keeps (hP : Closed P) (f : ModsSt → ModsSt) (s : State) (hkeep : P s) : P (onMods f s) := by
  unfold onMods
  with_reducible repeat' (first | intro _ | assumption | simp only [Closed.other hP, Closed.otherTl hP] | dsimp only)

theorem setMod_keeps (hP : Closed P) (c : Nat) (m : ModSt) (s : State) (hkeep : P s) : P (setMod c m s) := by
  unfold setMod
  with_reducible repeat' (first | intro _ | assumption | apply onMods_keeps hP | dsimp only)

theorem wakeOver_keeps (hP : Closed P) (late : Bool) (c : Nat) (s : State) (hkeep : P s) : P (wakeOver late c s) := by
  unfold wakeOver
  with_reducible repeat' (first | intro _ | assumption | apply setCh_keeps hP | apply setMod_keeps hP | apply onlyIf_keeps (P := P) | apply keeps_ite (P := P) | split | dsimp only)

theorem stopLegs_keeps (hP : Closed P) (c : Nat) (s : State) (hkeep : P s) : P (stopLegs c s) := by
  unfold stopLegs
  with_reducible repeat' (first | intro _ | assumption | apply setCh_keeps hP | apply setMod_keeps hP | dsimp only)

theorem driveLine_keeps (hP : Closed P) (g : Nat) (s : State) (hkeep : P s) : P (driveLine g s) := by
  unfold driveLine
  with_reducible repeat' (first | intro _ | assumption | apply stopLegs_keeps hP | apply wrB_keeps hP | apply forEach_keeps (P := P) | apply onlyIf_keeps (P := P) | dsimp only)

theorem abandonEntry_keeps (hP : Closed P) (g : Nat) (s : State) (hkeep : P s) : P (abandonEntry g s) := by
  unfold abandonEntry
  with_reducible repeat' (first | intro _ | assumption | apply setCh_keeps hP | apply setGr_keeps hP | apply setMod_keeps hP | apply forEach_keeps (P := P) | apply onlyIf_keeps (P := P) | apply keeps_ite (P := P) | split | dsimp only)

theorem clearStop_keeps (hP : Closed P) (c : Nat) (s : State) (hkeep : P s) : P (clearStop c s) := by
  unfold clearStop
  with_reducible repeat' (first | intro _ | assumption | apply setMod_keeps hP | dsimp only)

theorem execCarrierGridStart_keeps (hP : Closed P) (s : State) (hkeep : P s) : OutKeeps P (execCarrierGridStart s) := by
  unfold execCarrierGridStart
  with_reducible repeat' (first | intro _ | assumption | apply wrB_keeps hP | apply wr_keeps hP | apply forEach_keeps (P := P) | apply outKeeps_next (P := P) | dsimp only)

theorem setReq_keeps (hP : Closed P) (g : Nat) (on : Bool) (s : State) (hkeep : P s) : P (setReq g on s) := by
  unfold setReq
  with_reducible repeat' (first | intro _ | assumption | apply wrB_keeps hP | dsimp only)

theorem finishEntry_keeps (hP : Closed P) (g : Nat) (s : State) (hkeep : P s) : P (finishEntry g s) := by
  unfold finishEntry
  with_reducible repeat' (first | intro _ | assumption | apply count_keeps hP | apply driveLine_keeps hP | apply setGr_keeps hP | apply setReq_keeps hP | apply keeps_ite (P := P) | split | dsimp only)

theorem setLegs_keeps (hP : Closed P) (c : Nat) (num : Int) (den : Nat) (s : State) (hkeep : P s) : P (setLegs c num den s) := by
  unfold setLegs
  with_reducible repeat' (first | intro _ | assumption | apply pickNat_keeps hP | apply setMod_keeps hP | apply wrI_keeps hP | apply keeps_ite (P := P) | apply keeps_ite_snd (P := P) | split | dsimp only)

theorem interpolated_keeps (hP : Closed P) (c : Nat) (s : State) (hkeep : P s) : P (interpolated c s).2 := by
  unfold interpolated
  with_reducible repeat' (first | intro _ | assumption | apply freeNext_keeps hP | apply keeps_ite (P := P) | apply keeps_ite_snd (P := P) | split | dsimp only)

theorem playPeriod_keeps (hP : Closed P) (c : Nat) (s : State) (hkeep : P s) : P (playPeriod c s) := by
  unfold playPeriod
  with_reducible repeat' (first | intro _ | assumption | apply count_keeps hP | apply interpolated_keeps hP | apply setLegs_keeps hP | apply onlyIf_keeps (P := P) | apply keeps_ite (P := P) | apply keeps_ite_snd (P := P) | split | dsimp only)

theorem execCarrierPeriod_keeps (hP : Closed P) (c : Fin 72) (s : State) (hkeep : P s) : OutKeeps P (execCarrierPeriod c s) := by
  unfold execCarrierPeriod
  with_reducible repeat' (first | intro _ | assumption | apply finishEntry_keeps hP | apply playPeriod_keeps hP | apply setCh_keeps hP | apply setLegs_keeps hP | apply setMod_keeps hP | apply keeps_ite (P := P) | apply outKeeps_next (P := P) | apply OutKeeps.ite (P := P) | split | dsimp only)

theorem execGroupActive_keeps (hP : Closed P) (g : Fin 18) (ns : BitVec 64) (s : State) (hkeep : P s) : OutKeeps P (execGroupActive g ns s) := by
  unfold execGroupActive
  with_reducible repeat' (first | intro _ | assumption | apply count_keeps hP | apply wakeOver_keeps hP | apply forEach_keeps (P := P) | apply onlyIf_keeps (P := P) | apply onMods_keeps hP | apply setGr_keeps hP | apply keeps_ite (P := P) | apply outKeeps_next (P := P) | apply OutKeeps.ite (P := P) | refine pair_keeps (P := P) (by assumption) ?_ | split | dsimp only)

theorem execGroupLineReleased_keeps (hP : Closed P) (g : Fin 18) (s : State) (hkeep : P s) : OutKeeps P (execGroupLineReleased g s) := by
  unfold execGroupLineReleased
  with_reducible repeat' (first | intro _ | assumption | apply setCh_keeps hP | apply onMods_keeps hP | apply setGr_keeps hP | apply onlyIf_keeps (P := P) | apply forEach_keeps (P := P) | apply keeps_ite (P := P) | apply outKeeps_next (P := P) | apply OutKeeps.ite (P := P) | split | dsimp only)

theorem startEntry_keeps (hP : Closed P) (g : Nat) (s : State) (hkeep : P s) : P (startEntry g s) := by
  unfold startEntry
  with_reducible repeat' (first | intro _ | assumption | apply setCh_keeps hP | apply setGr_keeps hP | apply onlyIf_keeps (P := P) | apply forEach_keeps (P := P) | dsimp only)

theorem execIdleEntry_keeps (hP : Closed P) (g : Fin 18) (s : State) (hkeep : P s) : OutKeeps P (execIdleEntry g s) := by
  unfold execIdleEntry
  with_reducible repeat' (first | intro _ | assumption | apply startEntry_keeps hP | apply keeps_ite (P := P) | apply outKeeps_next (P := P) | apply OutKeeps.ite (P := P) | split | dsimp only)

theorem muteFollow_keeps (hP : Closed P) (c : Nat) (s : State) (hkeep : P s) : P (muteFollow c s) := by
  unfold muteFollow
  with_reducible repeat' (first | intro _ | assumption | apply setCh_keeps hP | apply onlyIf_keeps (P := P) | apply keeps_ite (P := P) | split | dsimp only)

theorem muteRequest_keeps (hP : Closed P) (c : Nat) (bit : Nat) (on : Bool) (s : State) (hkeep : P s) : P (muteRequest c bit on s) := by
  unfold muteRequest
  with_reducible repeat' (first | intro _ | assumption | apply muteFollow_keeps hP | apply wrB_keeps hP | apply onlyIf_keeps (P := P) | dsimp only)

theorem execMRange_keeps (hP : Closed P) (err : BitVec 24) (s : State) (hkeep : P s) : OutKeeps P (execMRange err s) := by
  unfold execMRange
  with_reducible repeat' (first | intro _ | assumption | apply count_keeps hP | apply muteRequest_keeps hP | apply wrB_keeps hP | apply wr_keeps hP | apply onlyIf_keeps (P := P) | apply forEach_keeps (P := P) | apply keeps_ite (P := P) | apply outKeeps_next (P := P) | apply OutKeeps.ite (P := P) | split | dsimp only)

theorem execMRangeClear_keeps (hP : Closed P) (s : State) (hkeep : P s) : OutKeeps P (execMRangeClear s) := by
  unfold execMRangeClear
  with_reducible repeat' (first | intro _ | assumption | apply muteRequest_keeps hP | apply forEach_keeps (P := P) | apply keeps_ite (P := P) | apply outKeeps_next (P := P) | apply OutKeeps.ite (P := P) | split | dsimp only)

theorem keepFrom_keeps (hP : Closed P) (k : Nat) (a : Nat) (old : Word) (s : State) (hkeep : P s) : P (keepFrom k a old s) := by
  unfold keepFrom
  with_reducible repeat' (first | intro _ | assumption | apply onMods_keeps hP | apply onlyIf_keeps (P := P) | dsimp only)

theorem keepWord_keeps (hP : Closed P) (a : Nat) (old : Word) (s : State) (hkeep : P s) : P (keepWord a old s) := by
  unfold keepWord
  exact keepFrom_keeps hP _ a old s hkeep

theorem execModMuteWrite_keeps (hP : Closed P) (c : Fin 72) (mute : Bool) (s : State) (hkeep : P s) : OutKeeps P (execModMuteWrite c mute s) := by
  unfold execModMuteWrite
  with_reducible repeat' (first | intro _ | assumption | apply keepWord_keeps hP | apply wrB_keeps hP | apply outKeeps_next (P := P) | dsimp only)

theorem execPrechgEnd_keeps (hP : Closed P) (c : Fin 72) (s : State) (hkeep : P s) : OutKeeps P (execPrechgEnd c s) := by
  unfold execPrechgEnd
  with_reducible repeat' (first | intro _ | assumption | apply setCh_keeps hP | apply setMod_keeps hP | apply keeps_ite (P := P) | apply outKeeps_next (P := P) | apply OutKeeps.ite (P := P) | split | dsimp only)

theorem railCommand_keeps (hP : Closed P) (r : Nat) (s : State) (hkeep : P s) : P (railCommand r s) := by
  unfold railCommand
  with_reducible repeat' (first | intro _ | assumption | apply wrB_keeps hP | apply wr_keeps hP | dsimp only)

theorem execRailFrame_keeps (hP : Closed P) (r : Fin 8) (s : State) (hkeep : P s) : OutKeeps P (execRailFrame r s) := by
  unfold execRailFrame
  with_reducible repeat' (first | intro _ | assumption | apply railCommand_keeps hP | apply seqNext_keeps hP | apply keeps_ite (P := P) | apply outKeeps_next (P := P) | apply OutKeeps.ite (P := P) | split | dsimp only)

theorem setRail_keeps (hP : Closed P) (r : Nat) (m : RailSt) (s : State) (hkeep : P s) : P (setRail r m s) := by
  unfold setRail
  with_reducible repeat' (first | intro _ | assumption | apply onMods_keeps hP | dsimp only)

theorem execRailPlan_keeps (hP : Closed P) (r : Fin 8) (s : State) (hkeep : P s) : OutKeeps P (execRailPlan r s) := by
  unfold execRailPlan
  with_reducible repeat' (first | intro _ | assumption | apply count_keeps hP | apply railCommand_keeps hP | apply setRail_keeps hP | apply onlyIf_keeps (P := P) | apply keeps_ite (P := P) | apply keeps_ite_snd (P := P) | apply outKeeps_next (P := P) | apply OutKeeps.ite (P := P) | apply foldl_keeps (P := P) | apply foldl_snd_keeps (P := P) | split | dsimp only)

theorem execRampEnd_keeps (hP : Closed P) (c : Fin 72) (s : State) (hkeep : P s) : OutKeeps P (execRampEnd c s) := by
  unfold execRampEnd
  with_reducible repeat' (first | intro _ | assumption | apply setCh_keeps hP | apply keeps_ite (P := P) | apply outKeeps_next (P := P) | apply OutKeeps.ite (P := P) | split | dsimp only)

theorem execZeroEnd_keeps (hP : Closed P) (c : Fin 72) (s : State) (hkeep : P s) : OutKeeps P (execZeroEnd c s) := by
  unfold execZeroEnd
  with_reducible repeat' (first | intro _ | assumption | apply setCh_keeps hP | apply setMod_keeps hP | apply keeps_ite (P := P) | apply outKeeps_next (P := P) | apply OutKeeps.ite (P := P) | split | dsimp only)

theorem freeLine_keeps (hP : Closed P) (g : Nat) (s : State) (hkeep : P s) : P (freeLine g s) := by
  unfold freeLine
  with_reducible repeat' (first | intro _ | assumption | apply wrB_keeps hP | dsimp only)

theorem hardStop_keeps (hP : Closed P) (c : Nat) (s : State) (hkeep : P s) : P (hardStop c s) := by
  unfold hardStop
  with_reducible repeat' (first | intro _ | assumption | apply finishEntry_keeps hP | apply stopLegs_keeps hP | apply setMod_keeps hP | apply keeps_ite (P := P) | split | dsimp only)

theorem modTick_keeps (hP : Closed P) (s : State) (hkeep : P s) : P (modTick s) := by
  unfold modTick
  with_reducible repeat' (first | intro _ | assumption | apply onMods_keeps hP | apply muteRequest_keeps hP | apply forEach_keeps (P := P) | dsimp only)

theorem playHeld_keeps (hP : Closed P) (c : Nat) (s : State) (hkeep : P s) : P (playHeld c s).2 := by
  unfold playHeld
  with_reducible repeat' (first | intro _ | assumption | apply count_keeps hP | apply setMod_keeps hP | apply wr_keeps hP | apply keeps_ite (P := P) | apply keeps_ite_snd (P := P) | split | dsimp only)

theorem playSource_keeps (hP : Closed P) (c : Nat) (which : Nat) (xs : List Int) (s : State) (hkeep : P s) : P (playSource c which xs s).2 := by
  unfold playSource
  with_reducible repeat' (first | intro _ | assumption | apply count_keeps hP | apply setMod_keeps hP | apply wr_keeps hP | apply onlyIf_keeps (P := P) | apply keeps_ite (P := P) | apply keeps_ite_snd (P := P) | split | dsimp only)

theorem quietGroups_keeps (hP : Closed P) (s : State) (hkeep : P s) : P (quietGroups s) := by
  unfold quietGroups
  with_reducible repeat' (first | intro _ | assumption | apply onMods_keeps hP | apply startEntry_keeps hP | apply onlyIf_keeps (P := P) | apply forEach_keeps (P := P) | dsimp only)

theorem requestEnable_keeps (hP : Closed P) (g : Nat) (s : State) (hkeep : P s) : P (requestEnable g s) := by
  unfold requestEnable
  with_reducible repeat' (first | intro _ | assumption | apply setGr_keeps hP | apply setReq_keeps hP | apply onlyIf_keeps (P := P) | apply keeps_ite (P := P) | split | dsimp only)

theorem restartGroup_keeps (hP : Closed P) (g : Nat) (s : State) (hkeep : P s) : P (restartGroup g s) := by
  unfold restartGroup
  with_reducible repeat' (first | intro _ | assumption | apply requestEnable_keeps hP | apply keeps_ite (P := P) | split | dsimp only)

theorem selectChan_keeps (hP : Closed P) (k : Nat) (c : Nat) (s : State) (hkeep : P s) : P (selectChan k c s) := by
  unfold selectChan
  with_reducible repeat' (first | intro _ | assumption | apply playHeld_keeps hP | apply playSource_keeps hP | apply setMod_keeps hP | apply setSamp_keeps hP | apply onlyIf_keeps (P := P) | apply forEach_keeps (P := P) | apply keeps_ite (P := P) | apply keeps_ite_snd (P := P) | refine pair_keeps (P := P) (by assumption) ?_ | split | dsimp only)

theorem startGroups_keeps (hP : Closed P) (s : State) (hkeep : P s) : P (startGroups s) := by
  unfold startGroups
  with_reducible repeat' (first | intro _ | assumption | apply abandonEntry_keeps hP | apply onMods_keeps hP | apply requestEnable_keeps hP | apply forEach_keeps (P := P) | apply keeps_ite (P := P) | split | dsimp only)

theorem wakeGroups_keeps (hP : Closed P) (ag : Nat) (s : State) (hkeep : P s) : P (wakeGroups ag s) := by
  unfold wakeGroups
  with_reducible repeat' (first | intro _ | assumption | apply abandonEntry_keeps hP | apply count_keeps hP | apply onMods_keeps hP | apply requestEnable_keeps hP | apply setMod_keeps hP | apply forEach_keeps (P := P) | apply keeps_ite (P := P) | split | dsimp only)

theorem wakeRails_keeps (hP : Closed P) (ag : Nat) (s : State) (hkeep : P s) : P (wakeRails ag s) := by
  unfold wakeRails
  with_reducible repeat' (first | intro _ | assumption | apply railCommand_keeps hP | apply setRail_keeps hP | apply onlyIf_keeps (P := P) | apply forEach_keeps (P := P) | apply keeps_ite (P := P) | split | dsimp only)

end Sys2Proof.Machine
end

