-- ==== Sys2Proof/Laws/Keeps/PeaCore.lean ====
section
/-! SUPPORT. Every function of Machine/PeaCore.lean keeps a closed property. -/

namespace Sys2Proof.Machine

variable {P : State → Prop}

theorem setRun_keeps (hP : Closed P) (q : Nat) (r : PeaRun) (s : State) (hkeep : P s) : P (setRun q r s) := by
  unfold setRun
  with_reducible repeat' (first | intro _ | assumption | simp only [Closed.other hP, Closed.otherTl hP] | dsimp only)

theorem abandon_keeps (hP : Closed P) (c : Nat) (st : EndStatus) (s : State) (hkeep : P s) : P (abandon c st s) := by
  unfold abandon
  with_reducible repeat' (first | intro _ | assumption | apply setRun_keeps hP | apply keeps_ite (P := P) | refine pair_keeps (P := P) (by assumption) ?_ | split | dsimp only)

theorem setPea_keeps (hP : Closed P) (c : Nat) (p : Pea) (s : State) (hkeep : P s) : P (setPea c p s) := by
  unfold setPea
  with_reducible repeat' (first | intro _ | assumption | simp only [Closed.other hP, Closed.otherTl hP] | dsimp only)

theorem onPea_keeps (hP : Closed P) (c : Nat) (f : Pea → Pea) (s : State) (hkeep : P s) : P (onPea c f s) := by
  unfold onPea
  with_reducible repeat' (first | intro _ | assumption | apply setPea_keeps hP | dsimp only)

theorem setSticky_keeps (hP : Closed P) (c : Nat) (m : BitVec 24) (s : State) (hkeep : P s) : P (setSticky c m s) := by
  unfold setSticky
  with_reducible repeat' (first | intro _ | assumption | apply onPea_keeps hP | dsimp only)

theorem landFlight_keeps (hP : Closed P) (c : Nat) (f : Flight) (s : State) (hkeep : P s) : P (landFlight c f s) := by
  unfold landFlight
  with_reducible repeat' (first | intro _ | assumption | apply onPea_keeps hP | apply setSticky_keeps hP | apply wrX_keeps hP | apply wrY_keeps hP | refine pair_keeps (P := P) (by assumption) ?_ | split | dsimp only)

theorem landAll_keeps (hP : Closed P) (c : Nat) (fs : List Flight) (s : State) (hkeep : P s) : P (landAll c fs s) := by
  unfold landAll
  with_reducible repeat' (first | intro _ | assumption | apply landFlight_keeps hP | apply setSticky_keeps hP | apply onlyIf_keeps (P := P) | apply forEach_keeps (P := P) | dsimp only)

theorem land_keeps (hP : Closed P) (c : Nat) (s : State) (hkeep : P s) : P (land c s) := by
  unfold land
  with_reducible repeat' (first | intro _ | assumption | apply landAll_keeps hP | apply onPea_keeps hP | dsimp only)

theorem atIssue_keeps (hP : Closed P) (c : Nat) (s : State) (hkeep : P s) : P (atIssue c s) := by
  unfold atIssue
  with_reducible repeat' (first | intro _ | assumption | apply land_keeps hP | apply onPea_keeps hP | apply onlyIf_keeps (P := P) | dsimp only)

theorem bankBreach_keeps (hP : Closed P) (c : Nat) (s : State) (hkeep : P s) : P (bankBreach c s) := by
  unfold bankBreach
  with_reducible repeat' (first | intro _ | assumption | apply abandon_keeps hP | apply count_keeps hP | dsimp only)

theorem wrCsr_keeps (hP : Closed P) (c : Nat) (i : Nat) (v : Word) (s : State) (hkeep : P s) : P (wrCsr c i v s) := by
  unfold wrCsr
  with_reducible repeat' (first | intro _ | assumption | apply onPea_keeps hP | dsimp only)

theorem wrCsrField_keeps (hP : Closed P) (c : Nat) (i : Nat) (lo : Nat) (w : Nat) (v : Nat) (s : State) (hkeep : P s) : P (wrCsrField c i lo w v s) := by
  unfold wrCsrField
  with_reducible repeat' (first | intro _ | assumption | apply wrCsr_keeps hP | dsimp only)

theorem clearIrq_keeps (hP : Closed P) (c : Nat) (code : Nat) (s : State) (hkeep : P s) : P (clearIrq c code s) := by
  unfold clearIrq
  with_reducible repeat' (first | intro _ | assumption | apply wrCsrField_keeps hP | apply wrCsr_keeps hP | apply keeps_ite (P := P) | split | dsimp only)

theorem drain_keeps (hP : Closed P) (c : Nat) (s : State) (hkeep : P s) : P (drain c s) := by
  unfold drain
  with_reducible repeat' (first | intro _ | assumption | apply land_keeps hP | apply forEach_keeps (P := P) | dsimp only)

theorem enterException_keeps (hP : Closed P) (c : Nat) (code : Nat) (tval : Word) (imprecise : Bool) (nmi : Bool) (s : State) (hkeep : P s) : P (enterException c code tval imprecise nmi s) := by
  unfold enterException
  with_reducible repeat' (first | intro _ | assumption | apply drain_keeps hP | apply onPea_keeps hP | apply wrCsrField_keeps hP | apply wrCsr_keeps hP | apply onlyIf_keeps (P := P) | apply keeps_ite (P := P) | apply keeps_ite_snd (P := P) | refine pair_keeps (P := P) (by assumption) ?_ | split | dsimp only)

theorem fly_keeps (hP : Closed P) (c : Nat) (k : Nat) (t : Tgt) (v : BitVec 56) (s : State) (hkeep : P s) : P (fly c k t v s) := by
  unfold fly
  with_reducible repeat' (first | intro _ | assumption | apply onPea_keeps hP | dsimp only)

theorem flyCtl_keeps (hP : Closed P) (c : Nat) (i : Nat) (v : DWord) (s : State) (hkeep : P s) : P (flyCtl c i v s) := by
  unfold flyCtl
  with_reducible repeat' (first | intro _ | assumption | apply fly_keeps hP | apply keeps_ite (P := P) | split | dsimp only)

theorem flyMac_keeps (hP : Closed P) (c : Nat) (i : Nat) (v : Acc56) (s : State) (hkeep : P s) : P (flyMac c i v s) := by
  unfold flyMac
  with_reducible repeat' (first | intro _ | assumption | apply onPea_keeps hP | dsimp only)

theorem flySticky_keeps (hP : Closed P) (c : Nat) (m : BitVec 24) (s : State) (hkeep : P s) : P (flySticky c m s) := by
  unfold flySticky
  with_reducible repeat' (first | intro _ | assumption | apply fly_keeps hP | dsimp only)

theorem freeBundle_keeps (hP : Closed P) (c : Nat) (s : State) (hkeep : P s) : P (freeBundle c s) := by
  unfold freeBundle
  with_reducible repeat' (first | intro _ | assumption | apply keeps_ite (P := P) | simp only [Closed.other hP, Closed.otherTl hP] | split | dsimp only)

theorem illegalBundle_keeps (hP : Closed P) (c : Nat) (s : State) (hkeep : P s) : P (illegalBundle c s) := by
  unfold illegalBundle
  with_reducible repeat' (first | intro _ | assumption | apply abandon_keeps hP | apply count_keeps hP | apply enterException_keeps hP | apply keeps_ite (P := P) | split | dsimp only)

theorem takePending_keeps (hP : Closed P) (c : Nat) (s : State) (hkeep : P s) (t : State) (ht : takePending c s = some t) : P t := by
  unfold takePending at ht
  repeat' (split at ht)
  all_goals (try cases ht)
  · exact enterException_keeps hP _ _ _ _ _ _ (wrCsr_keeps hP _ _ _ _ hkeep)
  · exact enterException_keeps hP _ _ _ _ _ _ (wrCsr_keeps hP _ _ _ _ hkeep)
  · exact enterException_keeps hP _ _ _ _ _ _ (clearIrq_keeps hP _ _ _ hkeep)

theorem stepPc_keeps (hP : Closed P) (c : Nat) (before : Option (BitVec 14 × Nat)) (jump : Option (BitVec 14)) (s : State) (hkeep : P s) : P (stepPc c before jump s) := by
  unfold stepPc
  with_reducible repeat' (first | intro _ | assumption | apply onPea_keeps hP | apply keeps_ite (P := P) | apply keeps_ite_snd (P := P) | refine pair_keeps (P := P) (by assumption) ?_ | split | dsimp only)

theorem tickBcyc_keeps (hP : Closed P) (c : Nat) (s : State) (hkeep : P s) : P (tickBcyc c s) := by
  unfold tickBcyc
  with_reducible repeat' (first | intro _ | assumption | apply wrSat_keeps hP | apply keeps_ite (P := P) | split | dsimp only)

theorem noteBanks_keeps (hP : Closed P) (c : Nat) (bs : List Nat) (s : State) (hkeep : P s) : P (noteBanks c bs s) := by
  unfold noteBanks
  with_reducible repeat' (first | intro _ | assumption | apply onPea_keeps hP | dsimp only)

theorem issue_keeps (hP : Closed P) (c : Nat) (ck : State → Checks) (body : State → State) (jump : State → Option (BitVec 14)) (s : State)
    (h_body : ∀ t, P t → P (body t)) (hkeep : P s) : P (issue c ck body jump s) := by
  have h1 : P (atIssue c s) := atIssue_keeps hP c s hkeep
  have e := fun code v i n t ht => enterException_keeps hP c code v i n t ht
  unfold issue
  dsimp only
  split
  · exact hkeep
  · split
    · split
      · exact e _ _ _ _ _ (wrCsr_keeps hP _ _ _ _ h1)
      · split
        · exact e _ _ _ _ _ h1
        · split
          · exact e _ _ _ _ _ h1
          · split
            · exact e _ _ _ _ _ h1
            · split
              · exact e _ _ _ _ _ h1
              · split
                · exact e _ _ _ _ _ h1
                · split
                  · exact e _ _ _ _ _ h1
                  · split
                    · exact takePending_keeps hP _ _ h1 _ (by assumption)
                    · exact freeBundle_keeps hP _ _ (stepPc_keeps hP _ _ _ _ (h_body _ h1))
    · split
      · exact illegalBundle_keeps hP _ _ h1
      · split
        · exact bankBreach_keeps hP _ _ h1
        · exact tickBcyc_keeps hP _ _ (stepPc_keeps hP _ _ _ _ (noteBanks_keeps hP _ _ _ (h_body _ h1)))

end Sys2Proof.Machine
end

