-- ==== Sys2Proof/Laws/Keeps/Operands.lean ====
section
/-! SUPPORT. Every function of Machine/Operands.lean keeps a closed property. -/

namespace Sys2Proof.Machine

variable {P : State → Prop}

theorem storeWord_keeps (hP : Closed P) (c : Nat) (sp : Space) (a : Nat) (v : DWord) (s : State) (hkeep : P s) : P (storeWord c sp a v s) := by
  unfold storeWord
  with_reducible repeat' (first | intro _ | assumption | apply fly_keeps hP | apply wrShared_keeps hP | refine pair_keeps (P := P) (by assumption) ?_ | split | dsimp only)

theorem doMove_keeps (hP : Closed P) (c : Nat) (k : LKind) (m : MoveArgs) (r : State) (s : State) (hkeep : P s) : P (doMove c k m r s) := by
  unfold doMove
  with_reducible repeat' (first | intro _ | assumption | apply flySticky_keeps hP | apply fly_keeps hP | apply onPea_keeps hP | apply storeWord_keeps hP | apply onlyIf_keeps (P := P) | apply keeps_ite (P := P) | apply keeps_ite_snd (P := P) | refine pair_keeps (P := P) (by assumption) ?_ | split | dsimp only)

end Sys2Proof.Machine
end

