-- ==== Sys2Proof/Laws/Keeps/CtlRows.lean ====
section
/-! SUPPORT. Every function of Machine/CtlRows.lean keeps a closed property. -/

namespace Sys2Proof.Machine

variable {P : State → Prop}

theorem branchTo_keeps (hP : Closed P) (c : Nat) (t : BitVec 14) (s : State) (hkeep : P s) : P (branchTo c t s) := by
  unfold branchTo
  with_reducible repeat' (first | intro _ | assumption | apply onPea_keeps hP | dsimp only)

theorem branchPast_keeps (hP : Closed P) (c : Nat) (s : State) (hkeep : P s) : P (branchPast c s) := by
  unfold branchPast
  with_reducible repeat' (first | intro _ | assumption | apply onPea_keeps hP | dsimp only)

theorem ctlBundle_keeps (hP : Closed P) (c : Nat) (ck : State → Checks) (body : State → State) (jump : State → Option (BitVec 14)) (s : State) (h_body : ∀  t, P t → P (body t)) (hkeep : P s) : OutKeeps P (ctlBundle c ck body jump s) := by
  unfold ctlBundle
  with_reducible repeat' (first | intro _ | assumption | apply issue_keeps hP | apply h_body | apply outKeeps_next (P := P) | dsimp only)

theorem dropEvent_keeps (hP : Closed P) (n : Nat) (p : Nat) (s : State) (hkeep : P s) : P (dropEvent n p s) := by
  unfold dropEvent
  with_reducible repeat' (first | intro _ | assumption | apply count_keeps hP | dsimp only)

theorem endTask_keeps (hP : Closed P) (c : Nat) (s : State) (hkeep : P s) : P (endTask c s) := by
  unfold endTask
  with_reducible repeat' (first | intro _ | assumption | apply abandon_keeps hP | apply keeps_ite (P := P) | split | dsimp only)

theorem eretBody_keeps (hP : Closed P) (c : Nat) (r : State) (hkeep : P r) : P (eretBody c r) := by
  unfold eretBody
  with_reducible repeat' (first | intro _ | assumption | apply onPea_keeps hP | apply wrCsrField_keeps hP | apply keeps_ite (P := P) | apply keeps_ite_snd (P := P) | split | dsimp only)

theorem execBr_keeps (hP : Closed P) (c : CoreId) (cond : BitVec 4) (tgt : BitVec 14) (s : State) (hkeep : P s) : OutKeeps P (execBr c cond tgt s) := by
  unfold execBr
  with_reducible repeat' (first | intro _ | assumption | apply branchTo_keeps hP | apply branchPast_keeps hP | apply ctlBundle_keeps hP | apply keeps_ite (P := P) | apply OutKeeps.ite (P := P) | split | dsimp only)

theorem pushReturn_keeps (hP : Closed P) (c : Nat) (s : State) (hkeep : P s) : P (pushReturn c s) := by
  unfold pushReturn
  with_reducible repeat' (first | intro _ | assumption | apply flySticky_keeps hP | apply onPea_keeps hP | apply onlyIf_keeps (P := P) | dsimp only)

theorem execCall_keeps (hP : Closed P) (c : CoreId) (cond : BitVec 4) (tgt : BitVec 14) (s : State) (hkeep : P s) : OutKeeps P (execCall c cond tgt s) := by
  unfold execCall
  with_reducible repeat' (first | intro _ | assumption | apply branchTo_keeps hP | apply branchPast_keeps hP | apply ctlBundle_keeps hP | apply pushReturn_keeps hP | apply keeps_ite (P := P) | apply OutKeeps.ite (P := P) | split | dsimp only)

theorem settle_keeps (hP : Closed P) (c : Nat) (s : State) (hkeep : P s) : P (settle c s) := by
  have h1 : P (onlyIf (pendingIrq c s).isSome (onPea c (fun p => { p with stall := .none })) s) :=
    onlyIf_keeps (P := P) (fun t ht => onPea_keeps hP _ _ _ ht) hkeep
  unfold settle
  dsimp only
  split
  · exact getD_keeps (P := P) (fun t ht => takePending_keeps hP c _ h1 t ht) h1
  · exact hkeep

theorem execCrossbarLoadResponse_keeps (hP : Closed P) (c : CoreId) (data : BitVec 32) (error : Bool) (s : State) (hkeep : P s) : OutKeeps P (execCrossbarLoadResponse c data error s) := by
  unfold execCrossbarLoadResponse
  with_reducible repeat' (first | intro _ | assumption | apply enterException_keeps hP | apply fly_keeps hP | apply onPea_keeps hP | apply settle_keeps hP | apply keeps_ite (P := P) | apply outKeeps_next (P := P) | apply OutKeeps.ite (P := P) | refine pair_keeps (P := P) (by assumption) ?_ | split | dsimp only)

theorem execCrossbarStoreResponse_keeps (hP : Closed P) (c : CoreId) (error : Bool) (s : State) (hkeep : P s) : OutKeeps P (execCrossbarStoreResponse c error s) := by
  unfold execCrossbarStoreResponse
  with_reducible repeat' (first | intro _ | assumption | apply onPea_keeps hP | apply settle_keeps hP | apply wrCsr_keeps hP | apply keeps_ite (P := P) | apply keeps_ite_snd (P := P) | apply outKeeps_next (P := P) | apply OutKeeps.ite (P := P) | refine pair_keeps (P := P) (by assumption) ?_ | split | dsimp only)

theorem execCsrr_keeps (hP : Closed P) (c : CoreId) (reg : Fin 32) (idx : BitVec 8) (s : State) (hkeep : P s) : OutKeeps P (execCsrr c reg idx s) := by
  unfold execCsrr
  with_reducible repeat' (first | intro _ | assumption | apply ctlBundle_keeps hP | apply fly_keeps hP | dsimp only)

theorem writeCsr_keeps (hP : Closed P) (c : Nat) (i : Nat) (v : Word) (s : State) (hkeep : P s) : P (writeCsr c i v s) := by
  unfold writeCsr
  with_reducible repeat' (first | intro _ | assumption | apply fly_keeps hP | apply wrCsr_keeps hP | apply keeps_ite (P := P) | split | dsimp only)

theorem execCsrw_keeps (hP : Closed P) (c : CoreId) (reg : Fin 32) (idx : BitVec 8) (s : State) (hkeep : P s) : OutKeeps P (execCsrw c reg idx s) := by
  unfold execCsrw
  with_reducible repeat' (first | intro _ | assumption | apply ctlBundle_keeps hP | apply writeCsr_keeps hP | dsimp only)

theorem execCtlNop_keeps (hP : Closed P) (c : CoreId) (s : State) (hkeep : P s) : OutKeeps P (execCtlNop c s) := by
  unfold execCtlNop
  with_reducible repeat' (first | intro _ | assumption | apply ctlBundle_keeps hP | dsimp only)

theorem execEret_keeps (hP : Closed P) (c : CoreId) (s : State) (hkeep : P s) : OutKeeps P (execEret c s) := by
  unfold execEret
  with_reducible repeat' (first | intro _ | assumption | apply ctlBundle_keeps hP | apply eretBody_keeps hP | dsimp only)

theorem postEvent_keeps (hP : Closed P) (n : Nat) (p : Nat) (e : Nat) (x : Nat) (s : State) (hkeep : P s) : P (postEvent n p e x s) := by
  unfold postEvent
  with_reducible repeat' (first | intro _ | assumption | simp only [Closed.other hP, Closed.otherTl hP] | dsimp only)

theorem postMapped_keeps (hP : Closed P) (c : Nat) (v : Nat) (s : State) (hkeep : P s) : P (postMapped c v s) := by
  unfold postMapped
  with_reducible repeat' (first | intro _ | assumption | apply dropEvent_keeps hP | apply postEvent_keeps hP | apply keeps_ite (P := P) | split | dsimp only)

theorem execEvt_keeps (hP : Closed P) (c : CoreId) (v : Fin 64) (s : State) (hkeep : P s) : OutKeeps P (execEvt c v s) := by
  unfold execEvt
  with_reducible repeat' (first | intro _ | assumption | apply ctlBundle_keeps hP | apply postMapped_keeps hP | apply keeps_ite (P := P) | apply OutKeeps.ite (P := P) | split | dsimp only)

theorem execFence_keeps (hP : Closed P) (c : CoreId) (s : State) (hkeep : P s) : OutKeeps P (execFence c s) := by
  unfold execFence
  with_reducible repeat' (first | intro _ | assumption | apply ctlBundle_keeps hP | apply onPea_keeps hP | apply keeps_ite (P := P) | apply keeps_ite_snd (P := P) | apply OutKeeps.ite (P := P) | split | dsimp only)

theorem execIllegalBundle_keeps (hP : Closed P) (c : CoreId) (w : BitVec 64) (s : State) (hkeep : P s) : OutKeeps P (execIllegalBundle c w s) := by
  unfold execIllegalBundle
  with_reducible repeat' (first | intro _ | assumption | apply atIssue_keeps hP | apply issue_keeps hP | apply keeps_ite (P := P) | apply outKeeps_next (P := P) | apply OutKeeps.ite (P := P) | split | dsimp only)

theorem execInterruptEntry_keeps (hP : Closed P) (c : CoreId) (line : Fin 64) (s : State) (hkeep : P s) : OutKeeps P (execInterruptEntry c line s) := by
  unfold execInterruptEntry
  with_reducible repeat' (first | intro _ | assumption | apply settle_keeps hP | apply wrCsrField_keeps hP | apply keeps_ite (P := P) | apply outKeeps_next (P := P) | apply OutKeeps.ite (P := P) | split | dsimp only)

theorem twoCycles_keeps (hP : Closed P) (c : Nat) (s : State) (hkeep : P s) : P (twoCycles c s) := by
  unfold twoCycles
  with_reducible repeat' (first | intro _ | assumption | apply tickBcyc_keeps hP | apply land_keeps hP | dsimp only)

theorem startLoop_keeps (hP : Closed P) (c : Nat) (tgt : BitVec 14) (cnt : Nat) (stages : Option Nat) (s : State) (hkeep : P s) : P (startLoop c tgt cnt stages s) := by
  unfold startLoop
  with_reducible repeat' (first | intro _ | assumption | apply flySticky_keeps hP | apply onPea_keeps hP | apply twoCycles_keeps hP | apply onlyIf_keeps (P := P) | apply keeps_ite (P := P) | refine pair_keeps (P := P) (by assumption) ?_ | split | dsimp only)

theorem loopBundle_keeps (hP : Closed P) (c : Nat) (tgt : BitVec 14) (cnt : State → Nat) (stages : Option Nat) (s : State) (hkeep : P s) : OutKeeps P (loopBundle c tgt cnt stages s) := by
  unfold loopBundle
  with_reducible repeat' (first | intro _ | assumption | apply ctlBundle_keeps hP | apply startLoop_keeps hP | dsimp only)

theorem execLoop_keeps (hP : Closed P) (c : CoreId) (tgt : BitVec 14) (cnt : BitVec 16) (s : State) (hkeep : P s) : OutKeeps P (execLoop c tgt cnt s) := by
  unfold execLoop
  with_reducible repeat' (first | intro _ | assumption | apply loopBundle_keeps hP | dsimp only)

theorem execLoopRot_keeps (hP : Closed P) (c : CoreId) (tgt : BitVec 14) (cnt : BitVec 16) (stgs : Fin 8) (s : State) (hkeep : P s) : OutKeeps P (execLoopRot c tgt cnt stgs s) := by
  unfold execLoopRot
  with_reducible repeat' (first | intro _ | assumption | apply loopBundle_keeps hP | dsimp only)

theorem execLoopRotd_keeps (hP : Closed P) (c : CoreId) (tgt : BitVec 14) (rsel : Fin 32) (stgs : Fin 8) (s : State) (hkeep : P s) : OutKeeps P (execLoopRotd c tgt rsel stgs s) := by
  unfold execLoopRotd
  with_reducible repeat' (first | intro _ | assumption | apply loopBundle_keeps hP | dsimp only)

theorem execLoopd_keeps (hP : Closed P) (c : CoreId) (tgt : BitVec 14) (rsel : Fin 32) (s : State) (hkeep : P s) : OutKeeps P (execLoopd c tgt rsel s) := by
  unfold execLoopd
  with_reducible repeat' (first | intro _ | assumption | apply loopBundle_keeps hP | dsimp only)

theorem execNmi_keeps (hP : Closed P) (c : CoreId) (s : State) (hkeep : P s) : OutKeeps P (execNmi c s) := by
  unfold execNmi
  with_reducible repeat' (first | intro _ | assumption | apply settle_keeps hP | apply wrCsr_keeps hP | apply keeps_ite (P := P) | apply outKeeps_next (P := P) | apply OutKeeps.ite (P := P) | split | dsimp only)

theorem execRet_keeps (hP : Closed P) (c : CoreId) (cond : BitVec 4) (s : State) (hkeep : P s) : OutKeeps P (execRet c cond s) := by
  unfold execRet
  with_reducible repeat' (first | intro _ | assumption | apply branchTo_keeps hP | apply branchPast_keeps hP | apply ctlBundle_keeps hP | apply onPea_keeps hP | apply keeps_ite (P := P) | apply OutKeeps.ite (P := P) | refine pair_keeps (P := P) (by assumption) ?_ | refine out_keeps (P := P) (by assumption) ?_ | split | dsimp only)

theorem execTend_keeps (hP : Closed P) (c : CoreId) (s : State) (hkeep : P s) : OutKeeps P (execTend c s) := by
  unfold execTend
  with_reducible repeat' (first | intro _ | assumption | apply ctlBundle_keeps hP | apply endTask_keeps hP | dsimp only)

theorem execTimerZero_keeps (hP : Closed P) (c : CoreId) (t : Fin 2) (s : State) (hkeep : P s) : OutKeeps P (execTimerZero c t s) := by
  unfold execTimerZero
  with_reducible repeat' (first | intro _ | assumption | apply settle_keeps hP | apply wrCsr_keeps hP | apply keeps_ite (P := P) | apply outKeeps_next (P := P) | apply OutKeeps.ite (P := P) | split | dsimp only)

theorem execTrap_keeps (hP : Closed P) (c : CoreId) (cond : BitVec 4) (code : BitVec 8) (s : State) (hkeep : P s) : OutKeeps P (execTrap c cond code s) := by
  unfold execTrap
  with_reducible repeat' (first | intro _ | assumption | apply ctlBundle_keeps hP | apply keeps_ite (P := P) | apply OutKeeps.ite (P := P) | split | dsimp only)

theorem execWfi_keeps (hP : Closed P) (c : CoreId) (s : State) (hkeep : P s) : OutKeeps P (execWfi c s) := by
  unfold execWfi
  with_reducible repeat' (first | intro _ | assumption | apply ctlBundle_keeps hP | apply onPea_keeps hP | apply keeps_ite (P := P) | apply OutKeeps.ite (P := P) | split | dsimp only)

end Sys2Proof.Machine
end

