-- ==== Sys2Proof/Laws/Keeps/Pods.lean ====
section
/-! SUPPORT. Every function of Machine/Pods.lean keeps a closed property. -/

namespace Sys2Proof.Machine

variable {P : State → Prop}

theorem mapWf_clearWindow {α : Type} [DecidableEq α] (d : Nat → α) (lo len : Nat) (m : List (Nat × α)) (h : mapWf d m = true) :
    mapWf d (clearWindow lo len m) = true := mapWf_mapDrop d m _ h

theorem mapWf_fillWindow {α : Type} [DecidableEq α] (d : Nat → α) (src lo len dst : Nat) (g m : List (Nat × α)) (h : mapWf d m = true) :
    mapWf d (fillWindow d src lo len dst g m) = true := by
  unfold fillWindow forEach
  generalize g.filter (fun e => Nat.ble (src + lo) e.1 && Nat.blt e.1 (src + lo + len)) = l
  have h1 := mapWf_mapDrop d m (fun k => Nat.ble (dst + lo) k && Nat.blt k (dst + lo + len)) h
  revert h1
  show mapWf d (clearWindow (dst + lo) len m) = true → _
  generalize clearWindow (dst + lo) len m = x
  intro h1
  induction l generalizing x with
  | nil => exact h1
  | cons a r ih => exact ih _ (mapWf_mapSet d x _ _ h1)

theorem freePea_keeps (hP : Closed P) (n : Nat) (p : Nat) (e : Nat) (s : State) (hkeep : P s) : P (freePea n p e s) := by
  unfold freePea
  with_reducible repeat' (first | intro _ | assumption | apply onPea_keeps hP | apply setRun_keeps hP | apply wr_keeps hP | apply onlyIf_keeps (P := P) | dsimp only)

theorem abortTask_keeps (hP : Closed P) (n : Nat) (p : Nat) (e : Nat) (s : State) (hkeep : P s) : P (abortTask n p e s) := by
  unfold abortTask
  with_reducible repeat' (first | intro _ | assumption | apply drain_keeps hP | apply freePea_keeps hP | apply setRun_keeps hP | refine pair_keeps (P := P) (by assumption) ?_ | split | dsimp only)

theorem cancelTask_keeps (hP : Closed P) (n : Nat) (p : Nat) (e : Nat) (s : State) (hkeep : P s) : P (cancelTask n p e s) := by
  unfold cancelTask
  with_reducible repeat' (first | intro _ | assumption | apply count_keeps hP | apply wr_keeps hP | apply forEach_keeps (P := P) | apply keeps_ite (P := P) | split | dsimp only)

theorem setTask_keeps (hP : Closed P) (n : Nat) (p : Nat) (e : Nat) (t : TaskDyn) (s : State) (hkeep : P s) : P (setTask n p e t s) := by
  unfold setTask
  with_reducible repeat' (first | intro _ | assumption | simp only [Closed.other hP, Closed.otherTl hP] | dsimp only)

theorem makeReady_keeps (hP : Closed P) (n : Nat) (p : Nat) (e : Nat) (s : State) (hkeep : P s) : P (makeReady n p e s) := by
  unfold makeReady
  with_reducible repeat' (first | intro _ | assumption | apply setTask_keeps hP | apply wr_keeps hP | apply keeps_ite (P := P) | split | dsimp only)

theorem consumeEvents_keeps (hP : Closed P) (n : Nat) (p : Nat) (e : Nat) (s : State) (hkeep : P s) : P (consumeEvents n p e s) := by
  unfold consumeEvents
  with_reducible repeat' (first | intro _ | assumption | apply makeReady_keeps hP | apply wr_keeps hP | apply forEach_keeps (P := P) | dsimp only)

theorem copyEntry_keeps (hP : Closed P) (n : Nat) (p : Nat) (e : Nat) (x : Nat) (s : State) (hkeep : P s) : P (copyEntry n p e x s) := by
  unfold copyEntry
  with_reducible repeat' (first | intro _ | assumption | apply wrB_keeps hP | apply wrReg_keeps hP | apply wr_keeps hP | apply forEach_keeps (P := P) | dsimp only)

theorem countBad_keeps (hP : Closed P) (n : Nat) (p : Nat) (s : State) (hkeep : P s) : P (countBad n p s) := by
  unfold countBad
  with_reducible repeat' (first | intro _ | assumption | apply setRun_keeps hP | dsimp only)

theorem countEvent_keeps (hP : Closed P) (n : Nat) (p : Nat) (e : Nat) (x : Nat) (s : State) (hkeep : P s) : P (countEvent n p e x s) := by
  unfold countEvent
  with_reducible repeat' (first | intro _ | assumption | apply makeReady_keeps hP | apply wr_keeps hP | apply keeps_ite (P := P) | split | dsimp only)

theorem moveEntry_keeps (hP : Closed P) (n : Nat) (p : Nat) (e : Nat) (x : Nat) (s : State) (hkeep : P s) : P (moveEntry n p e x s) := by
  unfold moveEntry
  with_reducible repeat' (first | intro _ | assumption | apply cancelTask_keeps hP | apply setTask_keeps hP | apply wrB_keeps hP | dsimp only)

theorem coverHot_keeps (hP : Closed P) (n : Nat) (p : Nat) (e : Nat) (s : State) (hkeep : P s) : P (coverHot n p e s) := by
  unfold coverHot
  with_reducible repeat' (first | intro _ | assumption | apply cancelTask_keeps hP | apply moveEntry_keeps hP | apply wrB_keeps hP | refine pair_keeps (P := P) (by assumption) ?_ | split | dsimp only)

theorem setFifo_keeps (hP : Closed P) (n : Nat) (q : List Completion) (s : State) (hkeep : P s) : P (setFifo n q s) := by
  unfold setFifo
  with_reducible repeat' (first | intro _ | assumption | simp only [Closed.other hP, Closed.otherTl hP] | dsimp only)

theorem setMarks_keeps (hP : Closed P) (n : Nat) (p : Nat) (e : Nat) (dk : Nat) (ok : Bool) (s : State) (hkeep : P s) : P (setMarks n p e dk ok s) := by
  unfold setMarks
  with_reducible repeat' (first | intro _ | assumption | apply forEach_keeps (P := P) | apply keeps_ite (P := P) | simp only [Closed.other hP, Closed.otherTl hP] | split | dsimp only)

theorem stopPea_keeps (hP : Closed P) (n : Nat) (p : Nat) (s : State) (hkeep : P s) : P (stopPea n p s) := by
  unfold stopPea
  with_reducible repeat' (first | intro _ | assumption | apply onPea_keeps hP | apply setFifo_keeps hP | apply setMarks_keeps hP | apply setRun_keeps hP | apply setTask_keeps hP | apply wr_keeps hP | apply forEach_keeps (P := P) | apply keeps_ite (P := P) | split | dsimp only)

theorem showMrec_keeps (hP : Closed P) (s : State) (hkeep : P s) : P (showMrec s) := by
  unfold showMrec
  with_reducible repeat' (first | intro _ | assumption | apply wrReg_keeps hP | apply wr_keeps hP | dsimp only)

theorem pushMrec_keeps (hP : Closed P) (r : List Word) (s : State) (hkeep : P s) : P (pushMrec r s) := by
  unfold pushMrec
  with_reducible repeat' (first | intro _ | assumption | apply showMrec_keeps hP | apply wrB_keeps hP | apply keeps_ite (P := P) | simp only [Closed.other hP, Closed.otherTl hP] | split | dsimp only)

theorem recordMiss_keeps (hP : Closed P) (n : Nat) (p : Nat) (e : Nat) (reason : Nat) (action : Nat) (overrun : Nat) (stamp : Nat) (blk : Nat) (s : State) (hkeep : P s) : P (recordMiss n p e reason action overrun stamp blk s) := by
  unfold recordMiss
  with_reducible repeat' (first | intro _ | assumption | apply count_keeps hP | apply pushMrec_keeps hP | apply raise_keeps hP | apply onlyIf_keeps (P := P) | dsimp only)

theorem zeroSealWindows_keeps (hP : Closed P) (q : Nat) (s : State) (hkeep : P s) : P (zeroSealWindows q s) := by
  refine hP.mem _ s (fun h => ?_) hkeep
  rw [MemSt.wf_iff] at h ⊢
  obtain ⟨h1, h2, h3, h4, h5, h6, h7, h8⟩ := h
  exact ⟨mapWf_clearWindow _ _ _ _ h1, mapWf_clearWindow _ _ _ _ h2, mapWf_clearWindow _ _ _ _ h3, h4, h5, h6, h7, h8⟩

theorem zeroisePeas_keeps (hP : Closed P) (qs : List Nat) (s : State) (hkeep : P s) : P (zeroisePeas qs s) := by
  unfold zeroisePeas
  with_reducible repeat' (first | intro _ | assumption | apply wrB_keeps hP | apply zeroSealWindows_keeps hP | apply forEach_keeps (P := P) | simp only [Closed.other hP, Closed.otherTl hP] | dsimp only)

theorem podCastle_keeps (hP : Closed P) (s : State) (hkeep : P s) : P (podCastle s) := by
  unfold podCastle
  with_reducible repeat' (first | intro _ | assumption | apply castleRequest_keeps hP | apply onPair_keeps hP | apply keeps_ite (P := P) | apply keeps_ite_snd (P := P) | refine pair_keeps (P := P) (by assumption) ?_ | split | dsimp only)

theorem degrade_keeps (hP : Closed P) (n : Nat) (s : State) (hkeep : P s) : P (degrade n s) := by
  unfold degrade
  with_reducible repeat' (first | intro _ | assumption | apply podCastle_keeps hP | apply raise_keeps hP | apply wrB_keeps hP | apply keeps_ite (P := P) | split | dsimp only)

theorem setRepairs_keeps (hP : Closed P) (n : Nat) (q : List Repair) (s : State) (hkeep : P s) : P (setRepairs n q s) := by
  unfold setRepairs
  with_reducible repeat' (first | intro _ | assumption | simp only [Closed.other hP, Closed.otherTl hP] | dsimp only)

theorem startRepair_keeps (hP : Closed P) (n : Nat) (p : Nat) (es : List Nat) (s : State) (hkeep : P s) : P (startRepair n p es s) := by
  unfold startRepair
  with_reducible repeat' (first | intro _ | assumption | apply copyEntry_keeps hP | apply moveEntry_keeps hP | apply setRepairs_keeps hP | apply wr_keeps hP | apply forEach_keeps (P := P) | dsimp only)

theorem repairWarm_keeps (hP : Closed P) (n : Nat) (p : Nat) (s : State) (hkeep : P s) : P (repairWarm n p s) := by
  unfold repairWarm
  with_reducible repeat' (first | intro _ | assumption | apply cancelTask_keeps hP | apply degrade_keeps hP | apply startRepair_keeps hP | apply wrB_keeps hP | apply forEach_keeps (P := P) | apply keeps_ite (P := P) | split | dsimp only)

theorem declareFailed_keeps (hP : Closed P) (n : Nat) (p : Nat) (s : State) (hkeep : P s) : P (declareFailed n p s) := by
  unfold declareFailed
  with_reducible repeat' (first | intro _ | assumption | apply coverHot_keeps hP | apply degrade_keeps hP | apply recordMiss_keeps hP | apply repairWarm_keeps hP | apply stopPea_keeps hP | apply wrB_keeps hP | apply zeroisePeas_keeps hP | apply forEach_keeps (P := P) | apply keeps_ite (P := P) | split | dsimp only)

theorem deliverEvent_keeps (hP : Closed P) (n : Nat) (p : Nat) (e : Nat) (x : Nat) (s : State) (hkeep : P s) : P (deliverEvent n p e x s) := by
  unfold deliverEvent
  with_reducible repeat' (first | intro _ | assumption | apply countEvent_keeps hP | apply dropEvent_keeps hP | apply forEach_keeps (P := P) | simp only [Closed.other hP, Closed.otherTl hP] | refine pair_keeps (P := P) (by assumption) ?_ | split | dsimp only)

theorem dispatchTask_keeps (hP : Closed P) (n : Nat) (p : Nat) (e : Nat) (bcyc : Nat) (s : State) (hkeep : P s) : P (dispatchTask n p e bcyc s) := by
  unfold dispatchTask
  with_reducible repeat' (first | intro _ | assumption | apply consumeEvents_keeps hP | apply onPea_keeps hP | apply setRun_keeps hP | apply setTask_keeps hP | apply wr_keeps hP | apply onlyIf_keeps (P := P) | dsimp only)

theorem execBudgetAbandon_keeps (hP : Closed P) (n : Fin 16) (p : Fin 9) (s : State) (hkeep : P s) : OutKeeps P (execBudgetAbandon n p s) := by
  unfold execBudgetAbandon
  with_reducible repeat' (first | intro _ | assumption | apply abandon_keeps hP | apply wr_keeps hP | apply keeps_ite (P := P) | apply outKeeps_next (P := P) | apply OutKeeps.ite (P := P) | refine pair_keeps (P := P) (by assumption) ?_ | split | dsimp only)

theorem execCompletionPost_keeps (hP : Closed P) (n : Fin 16) (p : Fin 9) (s : State) (hkeep : P s) : OutKeeps P (execCompletionPost n p s) := by
  unfold execCompletionPost
  with_reducible repeat' (first | intro _ | assumption | apply drain_keeps hP | apply freePea_keeps hP | apply setFifo_keeps hP | apply setRun_keeps hP | apply wr_keeps hP | apply onlyIf_keeps (P := P) | apply keeps_ite (P := P) | apply outKeeps_next (P := P) | apply OutKeeps.ite (P := P) | refine pair_keeps (P := P) (by assumption) ?_ | split | dsimp only)

theorem execDispatch_keeps (hP : Closed P) (n : Fin 16) (p : Fin 9) (bcyc : BitVec 16) (s : State) (hkeep : P s) : OutKeeps P (execDispatch n p bcyc s) := by
  unfold execDispatch
  with_reducible repeat' (first | intro _ | assumption | apply dispatchTask_keeps hP | apply keeps_ite (P := P) | apply outKeeps_next (P := P) | apply OutKeeps.ite (P := P) | refine pair_keeps (P := P) (by assumption) ?_ | split | dsimp only)

theorem execEventArrival_keeps (hP : Closed P) (n : Fin 16) (p : Fin 9) (e : Fin 64) (x : Fin 4) (s : State) (hkeep : P s) : OutKeeps P (execEventArrival n p e x s) := by
  unfold execEventArrival
  with_reducible repeat' (first | intro _ | assumption | apply deliverEvent_keeps hP | apply outKeeps_next (P := P) | dsimp only)

theorem migrateTask_keeps (hP : Closed P) (n : Nat) (p : Nat) (e : Nat) (s : State) (hkeep : P s) : P (migrateTask n p e s) := by
  unfold migrateTask
  with_reducible repeat' (first | intro _ | assumption | apply degrade_keeps hP | apply moveEntry_keeps hP | apply startRepair_keeps hP | apply keeps_ite (P := P) | refine pair_keeps (P := P) (by assumption) ?_ | split | dsimp only)

theorem missTask_keeps (hP : Closed P) (n : Nat) (p : Nat) (e : Nat) (reason : Nat) (overrun : Nat) (stamp : Nat) (blk : Nat) (s : State) (hkeep : P s) : P (missTask n p e reason overrun stamp blk s) := by
  unfold missTask
  with_reducible repeat' (first | intro _ | assumption | apply migrateTask_keeps hP | apply podCastle_keeps hP | apply recordMiss_keeps hP | apply setMarks_keeps hP | apply setTask_keeps hP | apply keeps_ite (P := P) | split | dsimp only)

theorem execHorizon_keeps (hP : Closed P) (n : Fin 16) (p : Fin 9) (e : Fin 64) (s : State) (hkeep : P s) : OutKeeps P (execHorizon n p e s) := by
  unfold execHorizon
  with_reducible repeat' (first | intro _ | assumption | apply abortTask_keeps hP | apply consumeEvents_keeps hP | apply countBad_keeps hP | apply missTask_keeps hP | apply wrSat_keeps hP | apply keeps_ite (P := P) | apply outKeeps_next (P := P) | apply OutKeeps.ite (P := P) | refine pair_keeps (P := P) (by assumption) ?_ | split | dsimp only)

theorem execPeaMemoryError_keeps (hP : Closed P) (n : Fin 16) (p : Fin 9) (s : State) (hkeep : P s) : OutKeeps P (execPeaMemoryError n p s) := by
  unfold execPeaMemoryError
  with_reducible repeat' (first | intro _ | assumption | apply declareFailed_keeps hP | apply outKeeps_next (P := P) | dsimp only)

theorem execPodRepairFail_keeps (hP : Closed P) (n : Fin 16) (p : BitVec 4) (s : State) (hkeep : P s) : OutKeeps P (execPodRepairFail n p s) := by
  unfold execPodRepairFail
  with_reducible repeat' (first | intro _ | assumption | apply declareFailed_keeps hP | apply wrB_keeps hP | apply wr_keeps hP | apply keeps_ite (P := P) | apply outKeeps_next (P := P) | apply OutKeeps.ite (P := P) | split | dsimp only)

theorem loadGolden_keeps (hP : Closed P) (n src : Nat) (s : State) (hkeep : P s) : P (loadGolden n src s) := by
  refine hP.mem _ s (fun h => ?_) hkeep
  rw [MemSt.wf_iff] at h ⊢
  obtain ⟨h1, h2, h3, h4, h5, h6, h7, h8⟩ := h
  exact ⟨mapWf_fillWindow _ _ _ _ _ _ _ h1, mapWf_fillWindow _ _ _ _ _ _ _ h2, mapWf_fillWindow _ _ _ _ _ _ _ h3, h4, h5, h6, h7, h8⟩

theorem execRepairLoadComplete_keeps (hP : Closed P) (n : Fin 16) (s : State) (hkeep : P s) : OutKeeps P (execRepairLoadComplete n s) := by
  unfold execRepairLoadComplete
  with_reducible repeat' (first | intro _ | assumption | apply loadGolden_keeps hP | apply setRepairs_keeps hP | apply outKeeps_next (P := P) | refine pair_keeps (P := P) (by assumption) ?_ | split | dsimp only)

theorem execTaskCancel_keeps (hP : Closed P) (n : Fin 16) (p : Fin 9) (e : Fin 64) (s : State) (hkeep : P s) : OutKeeps P (execTaskCancel n p e s) := by
  unfold execTaskCancel
  with_reducible repeat' (first | intro _ | assumption | apply cancelTask_keeps hP | apply outKeeps_next (P := P) | dsimp only)

theorem onTime_keeps (hP : Closed P) (n : Nat) (p : Nat) (e : Nat) (blk : Nat) (s : State) (hkeep : P s) : P (onTime n p e blk s) := by
  unfold onTime
  with_reducible repeat' (first | intro _ | assumption | apply setMarks_keeps hP | apply setTask_keeps hP | dsimp only)

theorem judge_keeps (hP : Closed P) (n : Nat) (c : Completion) (s : State) (hkeep : P s) : P (judge n c s) := by
  unfold judge
  with_reducible repeat' (first | intro _ | assumption | apply missTask_keeps hP | apply onTime_keeps hP | apply keeps_ite (P := P) | refine pair_keeps (P := P) (by assumption) ?_ | split | dsimp only)

theorem execTempoIntake_keeps (hP : Closed P) (n : Fin 16) (wait : BitVec 8) (s : State) (hkeep : P s) : OutKeeps P (execTempoIntake n wait s) := by
  unfold execTempoIntake
  with_reducible repeat' (first | intro _ | assumption | apply count_keeps hP | apply judge_keeps hP | apply setFifo_keeps hP | apply wr_keeps hP | apply keeps_ite (P := P) | apply outKeeps_next (P := P) | apply OutKeeps.ite (P := P) | refine pair_keeps (P := P) (by assumption) ?_ | split | dsimp only)

theorem execTempoPop_keeps (hP : Closed P) (s : State) (hkeep : P s) : OutKeeps P (execTempoPop s) := by
  unfold execTempoPop
  with_reducible repeat' (first | intro _ | assumption | apply showMrec_keeps hP | apply outKeeps_next (P := P) | simp only [Closed.other hP, Closed.otherTl hP] | dsimp only)

theorem hangTick_keeps (hP : Closed P) (n : Nat) (p : Nat) (s : State) (hkeep : P s) : P (hangTick n p s) := by
  unfold hangTick
  with_reducible repeat' (first | intro _ | assumption | apply declareFailed_keeps hP | apply setRun_keeps hP | apply keeps_ite (P := P) | split | dsimp only)

theorem podsEnd_keeps (hP : Closed P) (s : State) (hkeep : P s) : P (podsEnd s) := by
  unfold podsEnd
  with_reducible repeat' (first | intro _ | assumption | apply hangTick_keeps hP | apply forEach_keeps (P := P) | apply keeps_ite (P := P) | split | dsimp only)

theorem resetBcyc_keeps (hP : Closed P) (s : State) (hkeep : P s) : P (resetBcyc s) := by
  unfold resetBcyc
  with_reducible repeat' (first | intro _ | assumption | apply wr_keeps hP | apply forEach_keeps (P := P) | dsimp only)

theorem repairTick_keeps (hP : Closed P) (n : Nat) (s : State) (hkeep : P s) : P (repairTick n s) := by
  unfold repairTick
  with_reducible repeat' (first | intro _ | assumption | apply setRepairs_keeps hP | apply wrB_keeps hP | apply forEach_keeps (P := P) | dsimp only)

theorem podsTick_keeps (hP : Closed P) (s : State) (hkeep : P s) : P (podsTick s) := by
  unfold podsTick
  with_reducible repeat' (first | intro _ | assumption | apply repairTick_keeps hP | apply resetBcyc_keeps hP | apply forEach_keeps (P := P) | dsimp only)

end Sys2Proof.Machine
end

