-- ==== Sys2Proof/Laws/Keeps/PodRing.lean ====
section
/-! SUPPORT. Every function of Machine/PodRing.lean keeps a closed property. -/

namespace Sys2Proof.Machine

variable {P : State → Prop}

theorem dmaStop_keeps (hP : Closed P) (n : Nat) (s : State) (hkeep : P s) : P (dmaStop n s) := by
  unfold dmaStop
  with_reducible repeat' (first | intro _ | assumption | apply raise_keeps hP | apply wr_keeps hP | dsimp only)

theorem sealFailure_keeps (hP : Closed P) (n : Nat) (d : DmaDesc) (s : State) (hkeep : P s) : P (sealFailure n d s) := by
  unfold sealFailure
  dsimp only
  split
  · refine forEach_keeps (P := P) (fun e t ht => wr_keeps hP _ _ _ ht) (hP.mem _ s (fun h => ?_) hkeep)
    rw [MemSt.wf_iff] at h
    obtain ⟨h1, h2, h3, h4, h5, h6, h7, h8⟩ := h
    split
    · exact (MemSt.wf_iff _).2 ⟨mapWf_clearWindow _ _ _ _ h1, h2, h3, h4, h5, h6, h7, h8⟩
    · split
      · exact (MemSt.wf_iff _).2 ⟨h1, mapWf_clearWindow _ _ _ _ h2, h3, h4, h5, h6, h7, h8⟩
      · exact (MemSt.wf_iff _).2 ⟨h1, h2, mapWf_clearWindow _ _ _ _ h3, h4, h5, h6, h7, h8⟩
  · exact hkeep

theorem logSealRead_keeps (hP : Closed P) (n : Nat) (d : DmaDesc) (s : State) (hkeep : P s) : P (logSealRead n d s) := by
  unfold logSealRead
  with_reducible repeat' (first | intro _ | assumption | apply raiseAccess_keeps hP | apply onlyIf_keeps (P := P) | dsimp only)

theorem dmaKick_keeps (hP : Closed P) (n : Nat) (s : State) (hkeep : P s) : P (dmaKick n s) := by
  unfold dmaKick
  with_reducible repeat' (first | intro _ | assumption | apply dmaStop_keeps hP | apply logSealRead_keeps hP | apply sealFailure_keeps hP | apply wr_keeps hP | apply onlyIf_keeps (P := P) | apply keeps_ite (P := P) | split | dsimp only)

theorem execPodDmaErrClear_keeps (hP : Closed P) (n : Fin 16) (s : State) (hkeep : P s) : OutKeeps P (execPodDmaErrClear n s) := by
  unfold execPodDmaErrClear
  with_reducible repeat' (first | intro _ | assumption | apply dmaKick_keeps hP | apply wr_keeps hP | apply keeps_ite (P := P) | apply outKeeps_next (P := P) | apply OutKeeps.ite (P := P) | split | dsimp only)

theorem execPodDmaQtail_keeps (hP : Closed P) (n : Fin 16) (tail : BitVec 10) (s : State) (hkeep : P s) : OutKeeps P (execPodDmaQtail n tail s) := by
  unfold execPodDmaQtail
  with_reducible repeat' (first | intro _ | assumption | apply dmaKick_keeps hP | apply wr_keeps hP | apply outKeeps_next (P := P) | dsimp only)

end Sys2Proof.Machine
end

