-- ==== Sys2Proof/Laws/Keeps/RegMap.lean ====
section
/-! SUPPORT. Every function of Machine/RegMap.lean keeps a closed property. -/

namespace Sys2Proof.Machine

variable {P : State → Prop}

theorem requestReset_keeps (hP : Closed P) (isl : Nat) (s : State) (hkeep : P s) : P (requestReset isl s) := by
  unfold requestReset
  with_reducible repeat' (first | intro _ | assumption | apply count_keeps hP | apply raise_keeps hP | apply wr_keeps hP | apply keeps_ite (P := P) | split | dsimp only)

theorem resetRegs_keeps (hP : Closed P) (isl : Nat) (s : State) (h : P s) : P (resetRegs isl s) := hP.drop _ s h

theorem softWrite_keeps (hP : Closed P) (a : Nat) (v : Word) (s : State) (hkeep : P s) : P (softWrite a v s) := by
  unfold softWrite
  with_reducible repeat' (first | intro _ | assumption | apply wrReg_keeps hP | dsimp only)

end Sys2Proof.Machine
end

