-- ==== Sys2Proof/Laws/Keeps/FieldBus.lean ====
section
/-! SUPPORT. Every function of Machine/FieldBus.lean keeps a closed property. -/

namespace Sys2Proof.Machine

variable {P : State → Prop}

theorem badReport_keeps (hP : Closed P) (p : Nat) (s : State) (hkeep : P s) : P (badReport p s) := by
  unfold badReport
  with_reducible repeat' (first | intro _ | assumption | apply count_keeps hP | dsimp only)

theorem onFb_keeps (hP : Closed P) (f : FbSt → FbSt) (s : State) (hkeep : P s) : P (onFb f s) := by
  unfold onFb
  with_reducible repeat' (first | intro _ | assumption | simp only [Closed.other hP, Closed.otherTl hP] | dsimp only)

theorem execCabAgeLapse_keeps (hP : Closed P) (c : Fin 63) (s : State) (hkeep : P s) : OutKeeps P (execCabAgeLapse c s) := by
  unfold execCabAgeLapse
  with_reducible repeat' (first | intro _ | assumption | apply onFb_keeps hP | apply raise_keeps hP | apply wr_keeps hP | apply keeps_ite (P := P) | apply outKeeps_next (P := P) | apply OutKeeps.ite (P := P) | split | dsimp only)

theorem useReport_keeps (hP : Closed P) (c : Nat) (bs : List (BitVec 8)) (s : State) (hkeep : P s) : P (useReport c bs s) := by
  unfold useReport
  with_reducible repeat' (first | intro _ | assumption | apply onFb_keeps hP | apply wr_keeps hP | apply keeps_ite (P := P) | simp only [Closed.other hP, Closed.otherTl hP] | split | dsimp only)

theorem takeReport_keeps (hP : Closed P) (p : Nat) (c : Nat) (bs : List (BitVec 8)) (s : State) (hkeep : P s) : P (takeReport p c bs s) := by
  unfold takeReport
  with_reducible repeat' (first | intro _ | assumption | apply onFb_keeps hP | apply seqNext_keeps hP | apply useReport_keeps hP | apply wr_keeps hP | dsimp only)

theorem execCabinetReport_keeps (hP : Closed P) (p : Fin 4) (dst : BitVec 48) (bytes : List (BitVec 8)) (ns : BitVec 64) (s : State) (hkeep : P s) : OutKeeps P (execCabinetReport p dst bytes ns s) := by
  unfold execCabinetReport
  with_reducible repeat' (first | intro _ | assumption | apply badReport_keeps hP | apply onFb_keeps hP | apply takeReport_keeps hP | apply keeps_ite (P := P) | apply outKeeps_next (P := P) | apply OutKeeps.ite (P := P) | refine pair_keeps (P := P) (by assumption) ?_ | split | dsimp only)

theorem fbDone_keeps (hP : Closed P) (p : Nat) (sent : Bool) (s : State) (hkeep : P s) : P (fbDone p sent s) := by
  unfold fbDone
  with_reducible repeat' (first | intro _ | assumption | apply onFb_keeps hP | apply wrB_keeps hP | apply keeps_ite (P := P) | apply keeps_ite_snd (P := P) | split | dsimp only)

theorem execFbBackoffEnd_keeps (hP : Closed P) (p : Fin 4) (sent : Bool) (s : State) (hkeep : P s) : OutKeeps P (execFbBackoffEnd p sent s) := by
  unfold execFbBackoffEnd
  with_reducible repeat' (first | intro _ | assumption | apply fbDone_keeps hP | apply onFb_keeps hP | apply keeps_ite (P := P) | apply outKeeps_next (P := P) | apply OutKeeps.ite (P := P) | split | dsimp only)

theorem execFbCollision_keeps (hP : Closed P) (p : Fin 4) (s : State) (hkeep : P s) : OutKeeps P (execFbCollision p s) := by
  unfold execFbCollision
  with_reducible repeat' (first | intro _ | assumption | apply count_keeps hP | apply fbDone_keeps hP | apply freeNext_keeps hP | apply onFb_keeps hP | apply keeps_ite (P := P) | apply outKeeps_next (P := P) | apply OutKeeps.ite (P := P) | split | dsimp only)

theorem execFbFrameReceive_keeps (hP : Closed P) (p : Fin 4) (dst : BitVec 48) (bytes : List (BitVec 8)) (waiting : BitVec 12) (s : State) (hkeep : P s) : OutKeeps P (execFbFrameReceive p dst bytes waiting s) := by
  unfold execFbFrameReceive
  with_reducible repeat' (first | intro _ | assumption | apply count_keeps hP | apply onFb_keeps hP | apply keeps_ite (P := P) | apply outKeeps_next (P := P) | apply OutKeeps.ite (P := P) | split | dsimp only)

theorem execFbTxGo_keeps (hP : Closed P) (p : Fin 4) (len : BitVec 11) (sent : Bool) (s : State) (hkeep : P s) : OutKeeps P (execFbTxGo p len sent s) := by
  unfold execFbTxGo
  with_reducible repeat' (first | intro _ | assumption | apply fbDone_keeps hP | apply wrB_keeps hP | apply wr_keeps hP | apply keeps_ite (P := P) | apply outKeeps_next (P := P) | apply OutKeeps.ite (P := P) | split | dsimp only)

theorem execPlcaBeacon_keeps (hP : Closed P) (p : Fin 4) (s : State) (hkeep : P s) : OutKeeps P (execPlcaBeacon p s) := by
  unfold execPlcaBeacon
  with_reducible repeat' (first | intro _ | assumption | apply wrB_keeps hP | apply keeps_ite (P := P) | apply outKeeps_next (P := P) | apply OutKeeps.ite (P := P) | split | dsimp only)

theorem execPlcaBeaconTimeout_keeps (hP : Closed P) (p : Fin 4) (s : State) (hkeep : P s) : OutKeeps P (execPlcaBeaconTimeout p s) := by
  unfold execPlcaBeaconTimeout
  with_reducible repeat' (first | intro _ | assumption | apply wrB_keeps hP | apply keeps_ite (P := P) | apply outKeeps_next (P := P) | apply OutKeeps.ite (P := P) | split | dsimp only)

theorem fbTick_keeps (hP : Closed P) (s : State) (hkeep : P s) : P (fbTick s) := by
  unfold fbTick
  with_reducible repeat' (first | intro _ | assumption | apply wrSat_keeps hP | apply forEach_keeps (P := P) | apply keeps_ite (P := P) | split | dsimp only)

end Sys2Proof.Machine
end

