-- ==== Sys2Proof/Laws/Keeps/Graph.lean ====
section
/-! SUPPORT. Every function of Machine/Graph.lean keeps a closed property. -/

namespace Sys2Proof.Machine

variable {P : State → Prop}

theorem refuseTaint_keeps (hP : Closed P) (s : State) (hkeep : P s) : P (refuseTaint s) := by
  unfold refuseTaint
  with_reducible repeat' (first | intro _ | assumption | apply count_keeps hP | apply wrB_keeps hP | dsimp only)

theorem takeChanges_keeps (hP : Closed P) (x : Nat) (late : Bool) (ds : List Change) (s : State) (hkeep : P s) : P (takeChanges x late ds s).2 := by
  unfold takeChanges
  with_reducible repeat' (first | intro _ | assumption | apply countFull_keeps hP | apply enterChanges_keeps hP | apply sendChanges_keeps hP | apply onlyIf_keeps (P := P) | apply keeps_ite (P := P) | apply keeps_ite_snd (P := P) | split | dsimp only)

theorem acceptChanges_keeps (hP : Closed P) (cs : List Change) (a : Nat) (words : List (Nat × Word)) (s : State) (hkeep : P s) :
    P (acceptChanges cs a words s).2 := by
  unfold acceptChanges
  generalize judgeApply (judgeBlock s) a = j
  generalize changesBreach words s = b
  cases b
  · cases j
    · exact takeChanges_keeps hP _ _ _ _ hkeep
    · exact takeChanges_keeps hP _ _ _ _ hkeep
    · exact countFar_keeps hP _ hkeep
  · exact refuseTaint_keeps hP _ hkeep

theorem feChange_keeps (hP : Closed P) (a : Nat) (old : Word) (new : Word) (s : State) (hkeep : P s) : P (feChange a old new s) := by
  unfold feChange
  with_reducible repeat' (first | intro _ | assumption | apply gainChange_keeps hP | apply onGraph_keeps hP | apply onlyIf_keeps (P := P) | apply keeps_ite (P := P) | split | dsimp only)

theorem aheadWord_keeps (hP : Closed P) (a : Nat) (new : Word) (s : State) (hkeep : P s) : P (aheadWord a new s) := by
  unfold aheadWord
  with_reducible repeat' (first | intro _ | assumption | apply onGraph_keeps hP | apply onlyIf_keeps (P := P))

theorem busIdle_keeps (hP : Closed P) (b : Nat) (s : State) (hkeep : P s) : P (busIdle b s) := by
  unfold busIdle
  with_reducible repeat' (first | intro _ | assumption | apply gainSkip_keeps hP | apply forEach_keeps (P := P) | dsimp only)

theorem busSamples_keeps (hP : Closed P) (b : Nat) (xs : List Int) (c : GainSt) (s : State) (hkeep : P s) : P (busSamples b xs c s).2.2 := by
  induction xs generalizing c s with
  | nil => exact hkeep
  | cons x r ih =>
    unfold busSamples
    exact ih _ _ (onlyIf_keeps (P := P) (fun t ht => count_keeps hP _ _ _ _ ht)
      (rampSample_keeps hP _ _ (gainStep_keeps hP (BUS_GAIN_GAIN b).addr (busTarget b s) s hkeep)))

theorem closeGate_keeps (hP : Closed P) (c : Nat) (s : State) (hkeep : P s) : P (closeGate c s) := by
  unfold closeGate
  with_reducible repeat' (first | intro _ | assumption | apply onGraph_keeps hP | apply wrB_keeps hP | dsimp only)

theorem setGuard_keeps (hP : Closed P) (key : Nat) (g : GuardSt) (s : State) (hkeep : P s) : P (setGuard key g s) := by
  unfold setGuard
  with_reducible repeat' (first | intro _ | assumption | apply onGraph_keeps hP | dsimp only)

theorem guardRead_keeps (hP : Closed P) (n : Nat) (slot : Nat) (k : Nat) (s : State) (hkeep : P s) : P (guardRead n slot k s).2 := by
  unfold guardRead
  with_reducible repeat' (first | intro _ | assumption | apply setGuard_keeps hP | apply setSamps_keeps hP | apply keeps_ite (P := P) | apply keeps_ite_snd (P := P) | split | dsimp only)

theorem sourceSamples_keeps (hP : Closed P) (i : Nat) (k : Nat) (s : State) (hkeep : P s) : P (sourceSamples i k s).2 := by
  unfold sourceSamples
  with_reducible repeat' (first | intro _ | assumption | apply guardRead_keeps hP | refine pair_keeps (P := P) (by assumption) ?_ | split | dsimp only)

theorem crossDest_keeps (hP : Closed P) (d : Nat) (k : Nat) (s : State) (hkeep : P s) : P (crossDest d k s).2 := by
  unfold crossDest
  with_reducible repeat' (first | intro _ | assumption | apply onGraph_keeps hP | apply sourceSamples_keeps hP | apply keeps_ite (P := P) | apply keeps_ite_snd (P := P) | refine pair_keeps (P := P) (by assumption) ?_ | split | dsimp only)

theorem destIdle_keeps (hP : Closed P) (d : Nat) (s : State) (hkeep : P s) : P (destIdle d s) := by
  unfold destIdle
  with_reducible repeat' (first | intro _ | assumption | apply gainSkip_keeps hP | apply onGraph_keeps hP | apply keeps_ite (P := P) | apply keeps_ite_snd (P := P) | refine pair_keeps (P := P) (by assumption) ?_ | split | dsimp only)

theorem setDet_keeps (hP : Closed P) (c : Nat) (d : DetSt) (s : State) (hkeep : P s) : P (setDet c d s) := by
  unfold setDet
  with_reducible repeat' (first | intro _ | assumption | apply onGraph_keeps hP | dsimp only)

theorem openGate_keeps (hP : Closed P) (c : Nat) (s : State) (hkeep : P s) : P (openGate c s) := by
  unfold openGate
  with_reducible repeat' (first | intro _ | assumption | apply onGraph_keeps hP | apply wakeGroups_keeps hP | apply wakeRails_keeps hP | apply wrB_keeps hP | apply forEach_keeps (P := P) | apply keeps_ite (P := P) | split | dsimp only)

theorem detect_keeps (hP : Closed P) (c : Nat) (k : Nat) (x : DWord) (s : State) (hkeep : P s) : P (detect c k x s) := by
  unfold detect
  with_reducible repeat' (first | intro _ | assumption | apply closeGate_keeps hP | apply markDone_keeps hP | apply openGate_keeps hP | apply pickSamp_keeps hP | apply setDet_keeps hP | apply onlyIf_keeps (P := P) | apply keeps_ite (P := P) | apply keeps_ite_snd (P := P) | split | dsimp only)

theorem groupWritten_keeps (hP : Closed P) (d : Nat) (k : Nat) (s : State) (hkeep : P s) : P (groupWritten d k s) := by
  unfold groupWritten
  with_reducible repeat' (first | intro _ | assumption | apply markDone_keeps hP | apply onGraph_keeps hP | apply postEvent_keeps hP | apply keeps_ite (P := P) | split | dsimp only)

theorem writeSlot_keeps (hP : Closed P) (idx : Nat) (k : Nat) (xs : List DWord) (s : State) (hkeep : P s) : P (writeSlot idx k xs s) := by
  unfold writeSlot
  with_reducible repeat' (first | intro _ | assumption | apply wrShared_keeps hP | apply forEach_keeps (P := P) | dsimp only)

theorem transferIn_keeps (hP : Closed P) (d : Nat) (k : Nat) (s : State) (hkeep : P s) : P (transferIn d k s) := by
  unfold transferIn
  with_reducible repeat' (first | intro _ | assumption | apply groupWritten_keeps hP | apply sourceSamples_keeps hP | apply writeSlot_keeps hP | dsimp only)

theorem execBusDelivery_keeps (hP : Closed P) (d : Fin 4096) (crossed : Bool) (s : State) (hkeep : P s) : OutKeeps P (execBusDelivery d crossed s) := by
  unfold execBusDelivery
  with_reducible repeat' (first | intro _ | assumption | apply transferIn_keeps hP | apply onlyIf_keeps (P := P) | apply keeps_ite (P := P) | apply outKeeps_next (P := P) | apply OutKeeps.ite (P := P) | split | dsimp only)

theorem execBusPhaseOverrun_keeps (hP : Closed P) (p : Fin 4) (s : State) (hkeep : P s) : OutKeeps P (execBusPhaseOverrun p s) := by
  unfold execBusPhaseOverrun
  with_reducible repeat' (first | intro _ | assumption | apply busIdle_keeps hP | apply raise_keeps hP | apply setGuard_keeps hP | apply setSamps_keeps hP | apply wr_keeps hP | apply forEach_keeps (P := P) | apply keeps_ite (P := P) | apply keeps_ite_snd (P := P) | apply outKeeps_next (P := P) | apply OutKeeps.ite (P := P) | split | dsimp only)

theorem sumSends_keeps (hP : Closed P) (k : Nat) (xs : List Nat) (acc : List Int) (s : State) (hkeep : P s) : P (sumSends k xs acc s).2 := by
  induction xs generalizing acc s with
  | nil => exact hkeep
  | cons x r ih =>
    unfold sumSends
    split
    · exact ih _ _ (foldl_snd_keeps (P := P) (fun t a ht => gainStep_keeps hP _ _ _ ht) (sourceSamples_keeps hP _ _ _ hkeep))
    · exact ih _ _ (gainSkip_keeps hP _ _ _ hkeep)

theorem nearRoot_keeps (hP : Closed P) (n : Nat) (d : Nat) (r : Nat) (s : State) (hkeep : P s) : P (nearRoot n d r s).2 := by
  unfold nearRoot
  with_reducible repeat' (first | intro _ | assumption | apply pickNat_keeps hP | apply keeps_ite (P := P) | apply keeps_ite_snd (P := P) | split | dsimp only)

theorem scaleTarget_keeps (hP : Closed P) (mode n : Nat) (s : State) (hkeep : P s) : P (scaleTarget mode n s).2 := by
  unfold scaleTarget
  with_reducible repeat' (first | intro _ | assumption | apply nearRoot_keeps hP | apply pickNat_keeps hP | apply keeps_ite_snd (P := P) | split | dsimp only)

theorem scaleStep_keeps (hP : Closed P) (b n : Nat) (s : State) (hkeep : P s) : P (scaleStep b n s).2 := by
  unfold scaleStep
  with_reducible repeat' (first | intro _ | assumption | apply scaleTarget_keeps hP | apply keeps_ite_snd (P := P) | split | dsimp only)

theorem formBus_keeps (hP : Closed P) (b : Nat) (k : Nat) (s : State) (hkeep : P s) : P (formBus b k s) := by
  unfold formBus
  with_reducible repeat' (first | intro _ | assumption | apply scaleStep_keeps hP | apply busSamples_keeps hP | apply onGraph_keeps hP | apply setGuard_keeps hP | apply setSamps_keeps hP | apply sumSends_keeps hP | apply wr_keeps hP | dsimp only)

theorem execBusPhaseStart_keeps (hP : Closed P) (p : Fin 4) (s : State) (hkeep : P s) : OutKeeps P (execBusPhaseStart p s) := by
  unfold execBusPhaseStart
  with_reducible repeat' (first | intro _ | assumption | apply formBus_keeps hP | apply forEach_keeps (P := P) | apply keeps_ite (P := P) | apply outKeeps_next (P := P) | apply OutKeeps.ite (P := P) | split | dsimp only)

theorem execGateHoldExpiry_keeps (hP : Closed P) (c : Fin 3072) (s : State) (hkeep : P s) : OutKeeps P (execGateHoldExpiry c s) := by
  unfold execGateHoldExpiry
  with_reducible repeat' (first | intro _ | assumption | apply closeGate_keeps hP | apply keeps_ite (P := P) | apply outKeeps_next (P := P) | apply OutKeeps.ite (P := P) | split | dsimp only)

theorem execMeterPublish_keeps (hP : Closed P) (m : Fin 1024) (s : State) (hkeep : P s) : OutKeeps P (execMeterPublish m s) := by
  unfold execMeterPublish
  with_reducible repeat' (first | intro _ | assumption | apply onGraph_keeps hP | apply queueMeter_keeps hP | apply wr_keeps hP | apply forEach_keeps (P := P) | apply outKeeps_next (P := P) | refine pair_keeps (P := P) (by assumption) ?_ | split | dsimp only)

theorem rmsOf_keeps (hP : Closed P) (q : MeterSt) (s : State) (hkeep : P s) : P (rmsOf q s).2 := by
  unfold rmsOf
  with_reducible repeat' (first | intro _ | assumption | apply nearRoot_keeps hP | apply keeps_ite (P := P) | apply keeps_ite_snd (P := P) | split | dsimp only)

theorem reductionShown_keeps (hP : Closed P) (up : Nat) (s : State) (hkeep : P s) : P (reductionShown up s).2 := by
  unfold reductionShown
  with_reducible repeat' (first | intro _ | assumption | apply pickNat_keeps hP | apply keeps_ite_snd (P := P) | dsimp only)

theorem meterWords_keeps (hP : Closed P) (m : Nat) (q : MeterSt) (s : State) (hkeep : P s) : P (meterWords m q s).2 := by
  unfold meterWords
  with_reducible repeat' (first | intro _ | assumption | apply reductionShown_keeps hP | apply rmsOf_keeps hP | apply keeps_ite (P := P) | apply keeps_ite_snd (P := P) | split | dsimp only)

theorem execMeterWindowEnd_keeps (hP : Closed P) (m : Fin 1024) (s : State) (hkeep : P s) : OutKeeps P (execMeterWindowEnd m s) := by
  unfold execMeterWindowEnd
  with_reducible repeat' (first | intro _ | assumption | apply meterWords_keeps hP | apply onGraph_keeps hP | apply keeps_ite (P := P) | apply keeps_ite_snd (P := P) | apply outKeeps_next (P := P) | apply OutKeeps.ite (P := P) | refine pair_keeps (P := P) (by assumption) ?_ | split | dsimp only)

theorem execRouterAssembly_keeps (hP : Closed P) (d : Fin 4096) (s : State) (hkeep : P s) : OutKeeps P (execRouterAssembly d s) := by
  unfold execRouterAssembly
  with_reducible repeat' (first | intro _ | assumption | apply transferIn_keeps hP | apply onlyIf_keeps (P := P) | apply outKeeps_next (P := P) | dsimp only)

theorem execRouterForwarding_keeps (hP : Closed P) (d : Fin 4096) (crossed : Bool) (s : State) (hkeep : P s) : OutKeeps P (execRouterForwarding d crossed s) := by
  unfold execRouterForwarding
  with_reducible repeat' (first | intro _ | assumption | apply transferIn_keeps hP | apply onlyIf_keeps (P := P) | apply keeps_ite (P := P) | apply outKeeps_next (P := P) | apply OutKeeps.ite (P := P) | split | dsimp only)

theorem gainSamples_keeps (hP : Closed P) (addr target : Nat) (xs : List Int) (s : State) (hkeep : P s) : P (gainSamples addr target xs s).2 := by
  induction xs generalizing s with
  | nil => exact hkeep
  | cons x r ih => exact ih _ (gainStep_keeps hP _ _ _ hkeep)

theorem meterTake_keeps (hP : Closed P) (m : Nat) (k : Nat) (xs : List DWord) (tainted : Bool) (s : State) (hkeep : P s) : P (meterTake m k xs tainted s) := by
  unfold meterTake
  with_reducible repeat' (first | intro _ | assumption | apply onGraph_keeps hP | apply keeps_ite (P := P) | apply keeps_ite_snd (P := P) | apply foldl_keeps (P := P) | apply foldl_snd_keeps (P := P) | refine pair_keeps (P := P) (by assumption) ?_ | split | dsimp only)

theorem execRouterOutput_keeps (hP : Closed P) (d : Fin 4096) (s : State) (hkeep : P s) : OutKeeps P (execRouterOutput d s) := by
  unfold execRouterOutput
  with_reducible repeat' (first | intro _ | assumption | apply crossDest_keeps hP | apply destIdle_keeps hP | apply gainSamples_keeps hP | apply meterTake_keeps hP | apply onPair_keeps hP | apply setSamps_keeps hP | apply sourceSamples_keeps hP | apply onlyIf_keeps (P := P) | apply keeps_ite (P := P) | apply keeps_ite_snd (P := P) | apply outKeeps_next (P := P) | apply OutKeeps.ite (P := P) | split | dsimp only)

theorem execSgWapplyCommit_keeps (hP : Closed P) (s : State) (hkeep : P s) : OutKeeps P (execSgWapplyCommit s) := by
  unfold execSgWapplyCommit
  with_reducible repeat' (first | intro _ | assumption | apply acceptChanges_keeps hP | apply onGraph_keeps hP | apply wr_keeps hP | apply outKeeps_next (P := P) | refine pair_keeps (P := P) (by assumption) ?_ | split | dsimp only)

theorem feTake_keeps (hP : Closed P) (c k i : Nat) (x : DWord) (s : State) (hkeep : P s) : P (feTake c k i x s) := by
  unfold feTake
  with_reducible repeat' (first | intro _ | assumption | apply setSamp_keeps hP | apply markDone_keeps hP)

theorem feIntake_keeps (hP : Closed P) (c : Nat) (k : Nat) (i : Nat) (x : DWord) (s : State) (hkeep : P s) : P (feIntake c k i x s) := by
  unfold feIntake
  with_reducible repeat' (first | intro _ | assumption | apply detect_keeps hP | apply feTake_keeps hP | dsimp only)

theorem feSample_keeps (hP : Closed P) (c k i : Nat) (s : State) (hkeep : P s) : P (feSample c k i s) := by
  unfold feSample
  with_reducible repeat' (first | intro _ | assumption | apply gainStep_keeps hP | apply onGraph_keeps hP | apply pickSamp_keeps hP | apply setSamp_keeps hP | apply keeps_ite (P := P) | apply keeps_ite_snd (P := P) | split | dsimp only)

theorem feBlock_keeps (hP : Closed P) (k c : Nat) (s : State) (hkeep : P s) : P (feBlock k c s) := by
  unfold feBlock
  with_reducible repeat' (first | intro _ | assumption | apply wr_keeps hP | apply forEach_keeps (P := P) | apply feSample_keeps hP | dsimp only)

theorem feProcess_keeps (hP : Closed P) (k : Nat) (s : State) (hkeep : P s) : P (feProcess k s) := by
  unfold feProcess
  with_reducible repeat' (first | intro _ | assumption | apply wr_keeps hP | apply forEach_keeps (P := P) | apply feBlock_keeps hP | apply keeps_ite (P := P) | dsimp only)

theorem gateTick_keeps (hP : Closed P) (k : Nat) (s : State) (hkeep : P s) : P (gateTick k s) := by
  unfold gateTick
  with_reducible repeat' (first | intro _ | assumption | apply onGraph_keeps hP | apply wrB_keeps hP | apply wrReg_keeps hP | apply wr_keeps hP | apply forEach_keeps (P := P) | apply keeps_ite (P := P) | apply keeps_ite_snd (P := P) | split | dsimp only)

theorem guardSweep_keeps (hP : Closed P) (s : State) (hkeep : P s) : P (guardSweep s) := by
  unfold guardSweep
  with_reducible repeat' (first | intro _ | assumption | apply guardRead_keeps hP | apply forEach_keeps (P := P) | apply keeps_ite (P := P) | split | dsimp only)

theorem graphEnd_keeps (hP : Closed P) (s : State) (hkeep : P s) : P (graphEnd s) := by
  unfold graphEnd
  with_reducible repeat' (first | intro _ | assumption | apply guardSweep_keeps hP | apply keeps_ite (P := P) | split | dsimp only)

theorem graphTick_keeps (hP : Closed P) (s : State) (hkeep : P s) : P (graphTick s) := by
  unfold graphTick
  with_reducible repeat' (first | intro _ | assumption | apply gateTick_keeps hP | apply onGraph_keeps hP | apply keeps_ite (P := P) | split | dsimp only)

theorem midChange_keeps (hP : Closed P) (a : Nat) (old : Word) (new : Word) (s : State) (hkeep : P s) : P (midChange a old new s) := by
  unfold midChange
  with_reducible repeat' (first | intro _ | assumption | apply gainChange_keeps hP | apply onlyIf_keeps (P := P) | apply keeps_ite (P := P) | split | dsimp only)

theorem landWord_keeps (hP : Closed P) (a : Nat) (new : Word) (s : State) (hkeep : P s) : P (landWord a new s) := by
  unfold landWord
  with_reducible repeat' (first | intro _ | assumption | apply feChange_keeps hP | apply keepFrom_keeps hP | apply midChange_keeps hP | apply onGraph_keeps hP | apply wrReg_keeps hP | apply keeps_ite (P := P) | apply keeps_ite_snd (P := P) | split | dsimp only)

theorem outChange_keeps (hP : Closed P) (a : Nat) (old : Word) (new : Word) (s : State) (hkeep : P s) : P (outChange a old new s) := by
  unfold outChange
  with_reducible repeat' (first | intro _ | assumption | apply gainChange_keeps hP | apply onGraph_keeps hP | apply onlyIf_keeps (P := P) | apply keeps_ite (P := P) | apply keeps_ite_snd (P := P) | split | dsimp only)

theorem laterChanges_keeps (hP : Closed P) (s : State) (hkeep : P s) : P (laterChanges s) := by
  unfold laterChanges
  with_reducible repeat' (first | intro _ | assumption | apply onGraph_keeps hP | apply outChange_keeps hP | apply forEach_keeps (P := P) | dsimp only)

theorem refuseTable_keeps (hP : Closed P) (s : State) (hkeep : P s) : P (refuseTable s) := by
  unfold refuseTable
  with_reducible repeat' (first | intro _ | assumption | apply count_keeps hP | apply wrB_keeps hP | dsimp only)

end Sys2Proof.Machine
end

