-- ==== Sys2Proof/Laws/Keeps/Sense.lean ====
section
/-! SUPPORT. Every function of Machine/Sense.lean keeps a closed property. -/

namespace Sys2Proof.Machine

variable {P : State → Prop}

theorem senseEvent_keeps (hP : Closed P) (x : Nat) (s : State) (hkeep : P s) : P (senseEvent x s) := by
  unfold senseEvent
  with_reducible repeat' (first | intro _ | assumption | apply count_keeps hP | apply freeNext_keeps hP | apply raise_keeps hP | apply wrB_keeps hP | dsimp only)

theorem moveCmp_keeps (hP : Closed P) (f : FRef) (x : Nat) (on : Bool) (off : Bool) (s : State) (hkeep : P s) : P (moveCmp f x on off s) := by
  unfold moveCmp
  with_reducible repeat' (first | intro _ | assumption | apply senseEvent_keeps hP | apply wrB_keeps hP | apply keeps_ite (P := P) | split | dsimp only)

theorem compare2_keeps (hP : Closed P) (hiF : FRef) (loF : FRef) (hi : Nat) (lo : Nat) (hy : Nat) (x : Nat) (v : Int) (s : State) (hkeep : P s) : P (compare2 hiF loF hi lo hy x v s) := by
  unfold compare2
  with_reducible repeat' (first | intro _ | assumption | apply moveCmp_keeps hP | apply keeps_ite (P := P) | split | dsimp only)

theorem computeGd_keeps (hP : Closed P) (t : Nat) (s : State) (hkeep : P s) : P (computeGd t s) := by
  unfold computeGd
  with_reducible repeat' (first | intro _ | assumption | apply wr_keeps hP | apply keeps_ite (P := P) | split | dsimp only)

theorem setStream_keeps (hP : Closed P) (x : Nat) (d : StreamSt) (s : State) (hkeep : P s) : P (setStream x d s) := by
  unfold setStream
  with_reducible repeat' (first | intro _ | assumption | simp only [Closed.other hP, Closed.otherTl hP] | dsimp only)

theorem dipValue_keeps (hP : Closed P) (x : Nat) (bits : BitVec 4) (s : State) (hkeep : P s) : P (dipValue x bits s).2.2 := by
  unfold dipValue
  with_reducible repeat' (first | intro _ | assumption | apply setStream_keeps hP | apply foldl_keeps (P := P) | apply foldl_snd_keeps (P := P) | dsimp only)

theorem senseRun_keeps (hP : Closed P) (s : State) (hkeep : P s) : P (senseRun s) := by
  unfold senseRun
  with_reducible repeat' (first | intro _ | assumption | apply wrB_keeps hP | apply wr_keeps hP | apply onlyIf_keeps (P := P) | apply forEach_keeps (P := P) | apply keeps_ite (P := P) | apply keeps_ite_snd (P := P) | simp only [Closed.other hP, Closed.otherTl hP] | split | dsimp only)

theorem execSenseRun_keeps (hP : Closed P) (s : State) (hkeep : P s) : OutKeeps P (execSenseRun s) := by
  unfold execSenseRun
  with_reducible repeat' (first | intro _ | assumption | apply senseRun_keeps hP | apply keeps_ite (P := P) | apply outKeeps_next (P := P) | apply OutKeeps.ite (P := P) | split | dsimp only)

theorem execSnsOutidxRead_keeps (hP : Closed P) (s : State) (hkeep : P s) : OutKeeps P (execSnsOutidxRead s) := by
  unfold execSnsOutidxRead
  with_reducible repeat' (first | intro _ | assumption | apply wr_keeps hP | apply outKeeps_next (P := P) | dsimp only)

theorem senseSat_keeps (hP : Closed P) (flag : FRef) (x : Nat) (v : Int) (s : State) (hkeep : P s) : P (senseSat flag x v s).2 := by
  unfold senseSat
  with_reducible repeat' (first | intro _ | assumption | apply count_keeps hP | apply wrB_keeps hP | apply onlyIf_keeps (P := P) | dsimp only)

theorem fastValue_keeps (hP : Closed P) (x : Nat) (bits : List Bool) (s : State) (hkeep : P s) : P (fastValue x bits s).2.2 := by
  unfold fastValue
  with_reducible repeat' (first | intro _ | assumption | apply senseSat_keeps hP | apply setStream_keeps hP | apply wrI_keeps hP | apply keeps_ite (P := P) | apply keeps_ite_snd (P := P) | apply keeps_ite_snd_snd (P := P) | apply foldl_keeps (P := P) | apply foldl_snd_keeps (P := P) | split | dsimp only)

theorem firAcc_keeps (hP : Closed P) (x : Nat) (s : State) (hkeep : P s) : P (firAcc x s).2 := by
  unfold firAcc
  with_reducible repeat' (first | intro _ | assumption | apply freeNext_keeps hP | apply keeps_ite (P := P) | apply keeps_ite_snd (P := P) | split | dsimp only)

theorem slowValue_keeps (hP : Closed P) (x : Nat) (s : State) (hkeep : P s) : P (slowValue x s).2 := by
  unfold slowValue
  with_reducible repeat' (first | intro _ | assumption | apply firAcc_keeps hP | apply senseSat_keeps hP | apply wrI_keeps hP | apply keeps_ite (P := P) | apply keeps_ite_snd (P := P) | split | dsimp only)

end Sys2Proof.Machine
end

