-- ==== Sys2Proof/Laws/Keeps/Rook.lean ====
section
/-! SUPPORT. Every function of Machine/Rook.lean keeps a closed property. -/

namespace Sys2Proof.Machine

variable {P : State → Prop}

theorem lineIfMuted_keeps (hP : Closed P) (g : Nat) (s : State) (hkeep : P s) : P (lineIfMuted g s) := by
  unfold lineIfMuted
  with_reducible repeat' (first | intro _ | assumption | apply driveLine_keeps hP | apply onlyIf_keeps (P := P) | dsimp only)

theorem onRook_keeps (hP : Closed P) (f : RookSt → RookSt) (s : State) (hkeep : P s) : P (onRook f s) := by
  unfold onRook
  with_reducible repeat' (first | intro _ | assumption | simp only [Closed.other hP, Closed.otherTl hP] | dsimp only)

theorem setRc_keeps (hP : Closed P) (c : Nat) (r : RookCh) (s : State) (hkeep : P s) : P (setRc c r s) := by
  unfold setRc
  with_reducible repeat' (first | intro _ | assumption | apply onRook_keeps hP | dsimp only)

theorem safeMuteNow_keeps (hP : Closed P) (c : Nat) (s : State) (hkeep : P s) : P (safeMuteNow c s) := by
  unfold safeMuteNow
  with_reducible repeat' (first | intro _ | assumption | apply hardStop_keeps hP | apply setRc_keeps hP | apply wrB_keeps hP | dsimp only)

theorem addCause_keeps (hP : Closed P) (c : Nat) (bit : Nat) (s : State) (hkeep : P s) : P (addCause c bit s) := by
  unfold addCause
  with_reducible repeat' (first | intro _ | assumption | apply lineIfMuted_keeps hP | apply safeMuteNow_keeps hP | apply setRc_keeps hP | apply keeps_ite (P := P) | split | dsimp only)

theorem loadRecords_keeps (hP : Closed P) (rs : List (BitVec 32 × BitVec 32)) (s : State) (hkeep : P s) : P (loadRecords rs s) := by
  unfold loadRecords
  with_reducible repeat' (first | intro _ | assumption | apply computeGd_keeps hP | apply softWrite_keeps hP | apply forEach_keeps (P := P) | apply keeps_ite (P := P) | apply keeps_ite_snd (P := P) | split | dsimp only)

theorem showLatches_keeps (hP : Closed P) (s : State) (hkeep : P s) : P (showLatches s) := by
  unfold showLatches
  with_reducible repeat' (first | intro _ | assumption | apply addCause_keeps hP | apply wrB_keeps hP | apply forEach_keeps (P := P) | dsimp only)

theorem outputsFollow_keeps (hP : Closed P) (s : State) (hkeep : P s) : P (outputsFollow s) := by
  unfold outputsFollow
  with_reducible repeat' (first | intro _ | assumption | apply wrB_keeps hP | dsimp only)

theorem mfFollow_keeps (hP : Closed P) (c : Nat) (s : State) (hkeep : P s) : P (mfFollow c s) := by
  unfold mfFollow
  with_reducible repeat' (first | intro _ | assumption | apply setRc_keeps hP | apply keeps_ite (P := P) | apply keeps_ite_snd (P := P) | split | dsimp only)

theorem releaseMute_keeps (hP : Closed P) (c : Nat) (s : State) (hkeep : P s) : P (releaseMute c s) := by
  unfold releaseMute
  with_reducible repeat' (first | intro _ | assumption | apply clearStop_keeps hP | apply mfFollow_keeps hP | apply restartGroup_keeps hP | apply setCh_keeps hP | apply wrB_keeps hP | apply keeps_ite (P := P) | split | dsimp only)

theorem leaveHwSafe_keeps (hP : Closed P) (s : State) (hkeep : P s) : P (leaveHwSafe s) := by
  unfold leaveHwSafe
  with_reducible repeat' (first | intro _ | assumption | apply onRook_keeps hP | apply outputsFollow_keeps hP | apply releaseMute_keeps hP | apply forEach_keeps (P := P) | apply keeps_ite (P := P) | split | dsimp only)

theorem startSense_keeps (hP : Closed P) (s : State) (hkeep : P s) : P (startSense s) := by
  unfold startSense
  with_reducible repeat' (first | intro _ | assumption | apply senseRun_keeps hP | apply keeps_ite (P := P) | split | dsimp only)

theorem arm_keeps (hP : Closed P) (sec : SafetySection) (s : State) (hkeep : P s) : P (arm sec s) := by
  unfold arm
  with_reducible repeat' (first | intro _ | assumption | apply leaveHwSafe_keeps hP | apply loadRecords_keeps hP | apply onRook_keeps hP | apply startSense_keeps hP | apply showLatches_keeps hP | apply wrB_keeps hP | apply wr_keeps hP | apply keeps_ite (P := P) | apply keeps_ite_snd (P := P) | apply foldl_keeps (P := P) | apply foldl_snd_keeps (P := P) | split | dsimp only)

theorem checkLine_keeps (hP : Closed P) (g : Nat) (s : State) (hkeep : P s) : P (checkLine g s) := by
  unfold checkLine
  with_reducible repeat' (first | intro _ | assumption | apply driveLine_keeps hP | apply onlyIf_keeps (P := P) | dsimp only)

theorem checkLines_keeps (hP : Closed P) (s : State) (hkeep : P s) : P (checkLines s) := by
  unfold checkLines
  with_reducible repeat' (first | intro _ | assumption | apply checkLine_keeps hP | apply forEach_keeps (P := P) | dsimp only)

theorem dropCause_keeps (hP : Closed P) (c : Nat) (bit : Nat) (s : State) (hkeep : P s) : P (dropCause c bit s) := by
  unfold dropCause
  with_reducible repeat' (first | intro _ | assumption | apply releaseMute_keeps hP | apply setRc_keeps hP | apply keeps_ite (P := P) | split | dsimp only)

theorem stuckCause_keeps (hP : Closed P) (x : Nat) (on : Bool) (s : State) (hkeep : P s) : P (stuckCause x on s) := by
  unfold stuckCause
  with_reducible repeat' (first | intro _ | assumption | apply addCause_keeps hP | apply dropCause_keeps hP | apply wrB_keeps hP | apply forEach_keeps (P := P) | apply keeps_ite (P := P) | split | dsimp only)

theorem clearStuck_keeps (hP : Closed P) (x : Nat) (s : State) (hkeep : P s) : P (clearStuck x s) := by
  unfold clearStuck
  with_reducible repeat' (first | intro _ | assumption | apply stuckCause_keeps hP | apply wrB_keeps hP | apply keeps_ite (P := P) | split | dsimp only)

theorem enterHwSafe_keeps (hP : Closed P) (s : State) (hkeep : P s) : P (enterHwSafe s) := by
  unfold enterHwSafe
  with_reducible repeat' (first | intro _ | assumption | apply driveLine_keeps hP | apply onRook_keeps hP | apply outputsFollow_keeps hP | apply safeMuteNow_keeps hP | apply wrB_keeps hP | apply forEach_keeps (P := P) | dsimp only)

theorem clockBad_keeps (hP : Closed P) (rook : Bool) (s : State) (hkeep : P s) : P (clockBad rook s) := by
  unfold clockBad
  with_reducible repeat' (first | intro _ | assumption | apply enterHwSafe_keeps hP | apply onRook_keeps hP | apply raise_keeps hP | apply settle_keeps hP | apply wrB_keeps hP | apply wrCsr_keeps hP | apply wr_keeps hP | apply onlyIf_keeps (P := P) | apply keeps_ite (P := P) | split | dsimp only)

theorem displacement_keeps (hP : Closed P) (k : Nat) (c : Nat) (s : State) (hkeep : P s) : P (displacement k c s).2 := by
  unfold displacement
  with_reducible repeat' (first | intro _ | assumption | apply freeNext_keeps hP | apply keeps_ite (P := P) | apply keeps_ite_snd (P := P) | refine pair_keeps (P := P) (by assumption) ?_ | split | dsimp only)

theorem execCcWatchdogRead_keeps (hP : Closed P) (n : Fin 4) (word : BitVec 32) (s : State) (hkeep : P s) : OutKeeps P (execCcWatchdogRead n word s) := by
  unfold execCcWatchdogRead
  with_reducible repeat' (first | intro _ | assumption | apply count_keeps hP | apply onPea_keeps hP | apply onRook_keeps hP | apply raise_keeps hP | apply requestReset_keeps hP | apply settle_keeps hP | apply wrB_keeps hP | apply wrCsr_keeps hP | apply keeps_ite (P := P) | apply keeps_ite_snd (P := P) | apply outKeeps_next (P := P) | apply OutKeeps.ite (P := P) | refine pair_keeps (P := P) (by assumption) ?_ | split | dsimp only)

theorem execClockMonitorWindow_keeps (hP : Closed P) (rook : Bool) (pods : Bool) (sense : Bool) (s : State) (hkeep : P s) : OutKeeps P (execClockMonitorWindow rook pods sense s) := by
  unfold execClockMonitorWindow
  with_reducible repeat' (first | intro _ | assumption | apply clockBad_keeps hP | apply wrB_keeps hP | apply keeps_ite (P := P) | apply outKeeps_next (P := P) | apply OutKeeps.ite (P := P) | split | dsimp only)

theorem execClockRecovered_keeps (hP : Closed P) (s : State) (hkeep : P s) : OutKeeps P (execClockRecovered s) := by
  unfold execClockRecovered
  with_reducible repeat' (first | intro _ | assumption | apply leaveHwSafe_keeps hP | apply onRook_keeps hP | apply wr_keeps hP | apply keeps_ite (P := P) | apply outKeeps_next (P := P) | apply OutKeeps.ite (P := P) | split | dsimp only)

theorem tripLog_keeps (hP : Closed P) (cs : List Nat) (code : Nat) (s : State) (hkeep : P s) : P (tripLog cs code s) := by
  unfold tripLog
  with_reducible repeat' (first | intro _ | assumption | apply count_keeps hP | apply raise_keeps hP | apply wr_keeps hP | apply forEach_keeps (P := P) | dsimp only)

theorem latchChannel_keeps (hP : Closed P) (c : Nat) (s : State) (hkeep : P s) : P (latchChannel c s) := by
  unfold latchChannel
  with_reducible repeat' (first | intro _ | assumption | apply onRook_keeps hP | apply wrB_keeps hP | apply keeps_ite (P := P) | split | dsimp only)

theorem openRelay_keeps (hP : Closed P) (s : State) (hkeep : P s) : P (openRelay s) := by
  unfold openRelay
  with_reducible repeat' (first | intro _ | assumption | apply addCause_keeps hP | apply onRook_keeps hP | apply wrB_keeps hP | apply forEach_keeps (P := P) | apply keeps_ite (P := P) | split | dsimp only)

theorem execDcTrip_keeps (hP : Closed P) (c : Fin 72) (output : Bool) (s : State) (hkeep : P s) : OutKeeps P (execDcTrip c output s) := by
  unfold execDcTrip
  with_reducible repeat' (first | intro _ | assumption | apply addCause_keeps hP | apply checkLines_keeps hP | apply driveLine_keeps hP | apply latchChannel_keeps hP | apply onRook_keeps hP | apply openRelay_keeps hP | apply tripLog_keeps hP | apply wrB_keeps hP | apply keeps_ite (P := P) | apply outKeeps_next (P := P) | apply OutKeeps.ite (P := P) | split | dsimp only)

theorem execExcursionGain_keeps (hP : Closed P) (c : Fin 72) (written : Bool) (s : State) (hkeep : P s) : OutKeeps P (execExcursionGain c written s) := by
  unfold execExcursionGain
  with_reducible repeat' (first | intro _ | assumption | apply count_keeps hP | apply displacement_keeps hP | apply pickNat_keeps hP | apply setRc_keeps hP | apply wrB_keeps hP | apply onlyIf_keeps (P := P) | apply keeps_ite (P := P) | apply keeps_ite_snd (P := P) | apply outKeeps_next (P := P) | apply OutKeeps.ite (P := P) | split | dsimp only)

theorem execFltholdEnd_keeps (hP : Closed P) (g : Fin 18) (s : State) (hkeep : P s) : OutKeeps P (execFltholdEnd g s) := by
  unfold execFltholdEnd
  with_reducible repeat' (first | intro _ | assumption | apply clearStop_keeps hP | apply restartGroup_keeps hP | apply wrB_keeps hP | apply wr_keeps hP | apply onlyIf_keeps (P := P) | apply forEach_keeps (P := P) | apply keeps_ite (P := P) | apply outKeeps_next (P := P) | apply OutKeeps.ite (P := P) | split | dsimp only)

theorem setTemp_keeps (hP : Closed P) (c : Nat) (tc : Int) (tm : Int) (s : State) (hkeep : P s) : P (setTemp c tc tm s) := by
  unfold setTemp
  with_reducible repeat' (first | intro _ | assumption | apply setRc_keeps hP | apply wrI_keeps hP | dsimp only)

theorem useRmeas_keeps (hP : Closed P) (c : Nat) (rm : Nat) (s : State) (hkeep : P s) : P (useRmeas c rm s) := by
  unfold useRmeas
  with_reducible repeat' (first | intro _ | assumption | apply setTemp_keeps hP | apply keeps_ite (P := P) | apply keeps_ite_snd (P := P) | refine pair_keeps (P := P) (by assumption) ?_ | split | dsimp only)

theorem execImpedanceMeasure_keeps (hP : Closed P) (c : Fin 72) (s : State) (hkeep : P s) : OutKeeps P (execImpedanceMeasure c s) := by
  unfold execImpedanceMeasure
  with_reducible repeat' (first | intro _ | assumption | apply freeNext_keeps hP | apply useRmeas_keeps hP | apply wr_keeps hP | apply keeps_ite (P := P) | apply outKeeps_next (P := P) | apply OutKeeps.ite (P := P) | split | dsimp only)

theorem execLineRelease_keeps (hP : Closed P) (g : Fin 18) (s : State) (hkeep : P s) : OutKeeps P (execLineRelease g s) := by
  unfold execLineRelease
  with_reducible repeat' (first | intro _ | assumption | apply freeLine_keeps hP | apply keeps_ite (P := P) | apply outKeeps_next (P := P) | apply OutKeeps.ite (P := P) | split | dsimp only)

theorem rookEvent_keeps (hP : Closed P) (code : Nat) (s : State) (hkeep : P s) : P (rookEvent code s) := by
  unfold rookEvent
  with_reducible repeat' (first | intro _ | assumption | apply enterHwSafe_keeps hP | apply onRook_keeps hP | apply outputsFollow_keeps hP | apply raise_keeps hP | apply requestReset_keeps hP | apply wr_keeps hP | apply keeps_ite (P := P) | refine pair_keeps (P := P) (by assumption) ?_ | split | dsimp only)

theorem execLockstepMismatch_keeps (hP : Closed P) (s : State) (hkeep : P s) : OutKeeps P (execLockstepMismatch s) := by
  unfold execLockstepMismatch
  with_reducible repeat' (first | intro _ | assumption | apply rookEvent_keeps hP | apply wrB_keeps hP | apply outKeeps_next (P := P) | dsimp only)

theorem execOcholdEnd_keeps (hP : Closed P) (c : Fin 72) (s : State) (hkeep : P s) : OutKeeps P (execOcholdEnd c s) := by
  unfold execOcholdEnd
  with_reducible repeat' (first | intro _ | assumption | apply dropCause_keeps hP | apply setRc_keeps hP | apply wrB_keeps hP | apply wr_keeps hP | apply onlyIf_keeps (P := P) | apply keeps_ite (P := P) | apply outKeeps_next (P := P) | apply OutKeeps.ite (P := P) | split | dsimp only)

theorem lineFlags_keeps (hP : Closed P) (c : Nat) (opn : Bool) (sht : Bool) (s : State) (hkeep : P s) : P (lineFlags c opn sht s) := by
  unfold lineFlags
  with_reducible repeat' (first | intro _ | assumption | apply addCause_keeps hP | apply dropCause_keeps hP | apply raise_keeps hP | apply tripLog_keeps hP | apply wrB_keeps hP | apply keeps_ite (P := P) | split | dsimp only)

theorem execPilotWindow_keeps (hP : Closed P) (c : Fin 72) (s : State) (hkeep : P s) : OutKeeps P (execPilotWindow c s) := by
  unfold execPilotWindow
  with_reducible repeat' (first | intro _ | assumption | apply freeNext_keeps hP | apply lineFlags_keeps hP | apply setRc_keeps hP | apply useRmeas_keeps hP | apply wr_keeps hP | apply keeps_ite (P := P) | apply outKeeps_next (P := P) | apply OutKeeps.ite (P := P) | split | dsimp only)

theorem execPowerStageFault_keeps (hP : Closed P) (g : Fin 18) (s : State) (hkeep : P s) : OutKeeps P (execPowerStageFault g s) := by
  unfold execPowerStageFault
  with_reducible repeat' (first | intro _ | assumption | apply count_keeps hP | apply driveLine_keeps hP | apply hardStop_keeps hP | apply onRook_keeps hP | apply setGr_keeps hP | apply tripLog_keeps hP | apply wrB_keeps hP | apply wr_keeps hP | apply forEach_keeps (P := P) | apply keeps_ite (P := P) | apply outKeeps_next (P := P) | apply OutKeeps.ite (P := P) | split | dsimp only)

theorem execRdclrEnd_keeps (hP : Closed P) (r : Fin 8) (s : State) (hkeep : P s) : OutKeeps P (execRdclrEnd r s) := by
  unfold execRdclrEnd
  with_reducible repeat' (first | intro _ | assumption | apply dropCause_keeps hP | apply wrB_keeps hP | apply forEach_keeps (P := P) | apply keeps_ite (P := P) | apply outKeeps_next (P := P) | apply OutKeeps.ite (P := P) | split | dsimp only)

theorem execRelayClose_keeps (hP : Closed P) (s : State) (hkeep : P s) : OutKeeps P (execRelayClose s) := by
  unfold execRelayClose
  with_reducible repeat' (first | intro _ | assumption | apply onRook_keeps hP | apply wrB_keeps hP | apply keeps_ite (P := P) | apply outKeeps_next (P := P) | apply OutKeeps.ite (P := P) | split | dsimp only)

theorem execRlyonEnd_keeps (hP : Closed P) (s : State) (hkeep : P s) : OutKeeps P (execRlyonEnd s) := by
  unfold execRlyonEnd
  with_reducible repeat' (first | intro _ | assumption | apply dropCause_keeps hP | apply onRook_keeps hP | apply forEach_keeps (P := P) | apply keeps_ite (P := P) | apply outKeeps_next (P := P) | apply OutKeeps.ite (P := P) | split | dsimp only)

theorem execRookLoad_keeps (hP : Closed P) (sec : SafetySection) (s : State) (hkeep : P s) : OutKeeps P (execRookLoad sec s) := by
  unfold execRookLoad
  with_reducible repeat' (first | intro _ | assumption | apply arm_keeps hP | apply wrB_keeps hP | apply keeps_ite (P := P) | apply outKeeps_next (P := P) | apply OutKeeps.ite (P := P) | split | dsimp only)

theorem execRookSramError_keeps (hP : Closed P) (s : State) (hkeep : P s) : OutKeeps P (execRookSramError s) := by
  unfold execRookSramError
  with_reducible repeat' (first | intro _ | assumption | apply rookEvent_keeps hP | apply outKeeps_next (P := P) | dsimp only)

theorem execSelfWatchdogExpiry_keeps (hP : Closed P) (s : State) (hkeep : P s) : OutKeeps P (execSelfWatchdogExpiry s) := by
  unfold execSelfWatchdogExpiry
  with_reducible repeat' (first | intro _ | assumption | apply count_keeps hP | apply keeps_ite (P := P) | split | apply rookEvent_keeps hP | apply outKeeps_next (P := P) | dsimp only)

theorem railDip_keeps (hP : Closed P) (r : Nat) (s : State) (hkeep : P s) : P (railDip r s) := by
  unfold railDip
  with_reducible repeat' (first | intro _ | assumption | apply addCause_keeps hP | apply tripLog_keeps hP | apply wrB_keeps hP | apply forEach_keeps (P := P) | apply keeps_ite (P := P) | split | dsimp only)

theorem execSenseDipValue_keeps (hP : Closed P) (r : Fin 8) (bits : BitVec 4) (s : State) (hkeep : P s) : OutKeeps P (execSenseDipValue r bits s) := by
  unfold execSenseDipValue
  with_reducible repeat' (first | intro _ | assumption | apply dipValue_keeps hP | apply railDip_keeps hP | apply setStream_keeps hP | apply keeps_ite (P := P) | apply keeps_ite_snd (P := P) | apply outKeeps_next (P := P) | apply OutKeeps.ite (P := P) | split | dsimp only)

theorem railMeas_keeps (hP : Closed P) (x : Nat) (v : Int) (ok : Bool) (s : State) (hkeep : P s) : P (railMeas x v ok s) := by
  unfold railMeas
  with_reducible repeat' (first | intro _ | assumption | apply wrSat_keeps hP | apply keeps_ite (P := P) | split | dsimp only)

theorem ocTrip_keeps (hP : Closed P) (c : Nat) (s : State) (hkeep : P s) : P (ocTrip c s) := by
  unfold ocTrip
  with_reducible repeat' (first | intro _ | assumption | apply addCause_keeps hP | apply checkLine_keeps hP | apply latchChannel_keeps hP | apply setRc_keeps hP | apply tripLog_keeps hP | apply wrB_keeps hP | apply wr_keeps hP | apply onlyIf_keeps (P := P) | dsimp only)

theorem fastToRook_keeps (hP : Closed P) (x : Nat) (v : Int) (s : State) (hkeep : P s) : P (fastToRook x v s) := by
  unfold fastToRook
  with_reducible repeat' (first | intro _ | assumption | apply ocTrip_keeps hP | apply setStream_keeps hP | apply keeps_ite (P := P) | split | dsimp only)

theorem execSenseFastValue_keeps (hP : Closed P) (x : Fin 152) (bits : List Bool) (s : State) (hkeep : P s) : OutKeeps P (execSenseFastValue x bits s) := by
  unfold execSenseFastValue
  with_reducible repeat' (first | intro _ | assumption | apply clearStuck_keeps hP | apply compare2_keeps hP | apply fastToRook_keeps hP | apply fastValue_keeps hP | apply railMeas_keeps hP | apply keeps_ite (P := P) | apply keeps_ite_snd (P := P) | apply outKeeps_next (P := P) | apply OutKeeps.ite (P := P) | split | dsimp only)

theorem slowToRook_keeps (hP : Closed P) (x : Nat) (v : Int) (s : State) (hkeep : P s) : P (slowToRook x v s) := by
  unfold slowToRook
  with_reducible repeat' (first | intro _ | assumption | apply setRc_keeps hP | apply keeps_ite (P := P) | split | dsimp only)

theorem execSenseSlowValue_keeps (hP : Closed P) (x : Fin 152) (ns : BitVec 64) (s : State) (hkeep : P s) : OutKeeps P (execSenseSlowValue x ns s) := by
  unfold execSenseSlowValue
  with_reducible repeat' (first | intro _ | assumption | apply compare2_keeps hP | apply slowToRook_keeps hP | apply slowValue_keeps hP | apply wrB_keeps hP | apply wr_keeps hP | apply keeps_ite (P := P) | apply keeps_ite_snd (P := P) | apply outKeeps_next (P := P) | apply OutKeeps.ite (P := P) | simp only [Closed.other hP, Closed.otherTl hP] | split | dsimp only)

theorem senseStuck_keeps (hP : Closed P) (x : Nat) (s : State) (hkeep : P s) : P (senseStuck x s) := by
  unfold senseStuck
  with_reducible repeat' (first | intro _ | assumption | apply checkLines_keeps hP | apply setStream_keeps hP | apply stuckCause_keeps hP | apply tripLog_keeps hP | apply wrB_keeps hP | apply keeps_ite (P := P) | split | dsimp only)

theorem execSenseStuck_keeps (hP : Closed P) (x : Fin 152) (s : State) (hkeep : P s) : OutKeeps P (execSenseStuck x s) := by
  unfold execSenseStuck
  with_reducible repeat' (first | intro _ | assumption | apply senseStuck_keeps hP | apply outKeeps_next (P := P) | dsimp only)

theorem inputsFollow_keeps (hP : Closed P) (s : State) (hkeep : P s) : P (inputsFollow s) := by
  unfold inputsFollow
  with_reducible repeat' (first | intro _ | assumption | apply checkLines_keeps hP | apply mfFollow_keeps hP | apply openRelay_keeps hP | apply outputsFollow_keeps hP | apply setRc_keeps hP | apply wrB_keeps hP | apply onlyIf_keeps (P := P) | apply forEach_keeps (P := P) | apply keeps_ite (P := P) | split | dsimp only)

theorem execSfinHoldEnd_keeps (hP : Closed P) (n : Fin 4) (s : State) (hkeep : P s) : OutKeeps P (execSfinHoldEnd n s) := by
  unfold execSfinHoldEnd
  with_reducible repeat' (first | intro _ | assumption | apply inputsFollow_keeps hP | apply wrB_keeps hP | apply keeps_ite (P := P) | apply outKeeps_next (P := P) | apply OutKeeps.ite (P := P) | split | dsimp only)

theorem paWake_keeps (hP : Closed P) (s : State) (hkeep : P s) : P (paWake s) := by
  unfold paWake
  with_reducible repeat' (first | intro _ | assumption | apply wakeGroups_keeps hP | apply forEach_keeps (P := P) | apply keeps_ite (P := P) | split | dsimp only)

theorem sfRise_keeps (hP : Closed P) (n : Nat) (s : State) (hkeep : P s) : P (sfRise n s) := by
  unfold sfRise
  with_reducible repeat' (first | intro _ | assumption | apply freeNext_keeps hP | apply paWake_keeps hP | apply raise_keeps hP | apply wrB_keeps hP | apply onlyIf_keeps (P := P) | dsimp only)

theorem sfFall_keeps (hP : Closed P) (n : Nat) (s : State) (hkeep : P s) : P (sfFall n s) := by
  unfold sfFall
  with_reducible repeat' (first | intro _ | assumption | apply wrB_keeps hP | dsimp only)

theorem sfSample_keeps (hP : Closed P) (n : Nat) (level : Bool) (s : State) (hkeep : P s) : P (sfSample n level s) := by
  unfold sfSample
  with_reducible repeat' (first | intro _ | assumption | apply onRook_keeps hP | apply sfFall_keeps hP | apply sfRise_keeps hP | apply wrB_keeps hP | apply keeps_ite (P := P) | split | dsimp only)

theorem execSfinSample_keeps (hP : Closed P) (levels : BitVec 4) (s : State) (hkeep : P s) : OutKeeps P (execSfinSample levels s) := by
  unfold execSfinSample
  with_reducible repeat' (first | intro _ | assumption | apply inputsFollow_keeps hP | apply sfSample_keeps hP | apply forEach_keeps (P := P) | apply keeps_ite (P := P) | apply outKeeps_next (P := P) | apply OutKeeps.ite (P := P) | split | dsimp only)

theorem execSfinStuck_keeps (hP : Closed P) (n : Fin 4) (s : State) (hkeep : P s) : OutKeeps P (execSfinStuck n s) := by
  unfold execSfinStuck
  with_reducible repeat' (first | intro _ | assumption | apply raise_keeps hP | apply wrB_keeps hP | apply keeps_ite (P := P) | apply outKeeps_next (P := P) | apply OutKeeps.ite (P := P) | split | dsimp only)

theorem rookStage_keeps (hP : Closed P) (k : Nat) (c : Nat) (s : State) (hkeep : P s) : P (rookStage k c s) := by
  unfold rookStage
  with_reducible repeat' (first | intro _ | assumption | apply setMod_keeps hP | apply setRc_keeps hP | apply setSamp_keeps hP | apply wr_keeps hP | apply onlyIf_keeps (P := P) | apply forEach_keeps (P := P) | apply keeps_ite (P := P) | apply keeps_ite_snd (P := P) | split | dsimp only)

theorem execSourceSelect_keeps (hP : Closed P) (s : State) (hkeep : P s) : OutKeeps P (execSourceSelect s) := by
  unfold execSourceSelect
  with_reducible repeat' (first | intro _ | assumption | apply rookStage_keeps hP | apply selectChan_keeps hP | apply forEach_keeps (P := P) | apply keeps_ite (P := P) | apply outKeeps_next (P := P) | apply OutKeeps.ite (P := P) | split | dsimp only)

theorem nearTemp_keeps (hP : Closed P) (t : Int) (s : State) (hkeep : P s) : P (nearTemp t s).2 := by
  unfold nearTemp
  with_reducible repeat' (first | intro _ | assumption | apply pickNat_keeps hP | dsimp only)

theorem thermalGain_keeps (hP : Closed P) (c : Nat) (tc : Int) (s : State) (hkeep : P s) : P (thermalGain c tc s) := by
  unfold thermalGain
  with_reducible repeat' (first | intro _ | assumption | apply raise_keeps hP | apply setRc_keeps hP | apply wrB_keeps hP | apply keeps_ite (P := P) | refine pair_keeps (P := P) (by assumption) ?_ | split | dsimp only)

theorem execThermalUpdate_keeps (hP : Closed P) (c : Fin 72) (s : State) (hkeep : P s) : OutKeeps P (execThermalUpdate c s) := by
  unfold execThermalUpdate
  with_reducible repeat' (first | intro _ | assumption | apply nearTemp_keeps hP | apply setRc_keeps hP | apply setTemp_keeps hP | apply thermalGain_keeps hP | apply keeps_ite (P := P) | apply keeps_ite_snd (P := P) | apply outKeeps_next (P := P) | apply OutKeeps.ite (P := P) | refine pair_keeps (P := P) (by assumption) ?_ | split | dsimp only)

theorem rookMuteAll_keeps (hP : Closed P) (s : State) (hkeep : P s) : P (rookMuteAll s) := by
  unfold rookMuteAll
  with_reducible repeat' (first | intro _ | assumption | apply addCause_keeps hP | apply forEach_keeps (P := P) | dsimp only)

theorem rookMuteOpen_keeps (hP : Closed P) (s : State) (hkeep : P s) : P (rookMuteOpen s) := by
  unfold rookMuteOpen
  with_reducible repeat' (first | intro _ | assumption | apply onRook_keeps hP | apply openRelay_keeps hP | apply rookMuteAll_keeps hP | dsimp only)

theorem rookTick_keeps (hP : Closed P) (s : State) (hkeep : P s) : P (rookTick s) := by
  unfold rookTick
  with_reducible repeat' (first | intro _ | assumption | apply count_keeps hP | apply mfFollow_keeps hP | apply onRook_keeps hP | apply raise_keeps hP | apply requestReset_keeps hP | apply wrB_keeps hP | apply forEach_keeps (P := P) | apply keeps_ite (P := P) | split | dsimp only)

end Sys2Proof.Machine
end

