-- ==== Sys2Proof/Laws/Keeps/KeyStore.lean ====
section
/-! SUPPORT. Every function of Machine/KeyStore.lean keeps a closed property. -/

namespace Sys2Proof.Machine

variable {P : State → Prop}

theorem onKs_keeps (hP : Closed P) (f : KeySt → KeySt) (s : State) (hkeep : P s) : P (onKs f s) := by
  unfold onKs
  with_reducible repeat' (first | intro _ | assumption | simp only [Closed.other hP, Closed.otherTl hP] | dsimp only)

theorem blowEpoch_keeps (hP : Closed P) (l : List Bool) (goal : Nat) (s : State) (hkeep : P s) : P (blowEpoch l goal s) := by
  induction l generalizing s with
  | nil => exact hkeep
  | cons ok r ih =>
    unfold blowEpoch
    dsimp only
    split
    · exact hkeep
    · split
      · exact ih _ (onKs_keeps hP _ _ hkeep)
      · exact wrB_keeps hP _ _ _ hkeep

theorem showSec_keeps (hP : Closed P) (m : Nat) (s : State) (hkeep : P s) : P (showSec m s) := by
  unfold showSec
  with_reducible repeat' (first | intro _ | assumption | apply wrB_keeps hP | apply wr_keeps hP | refine pair_keeps (P := P) (by assumption) ?_ | split | dsimp only)

theorem clearSlot_keeps (hP : Closed P) (i : Nat) (s : State) (hkeep : P s) : P (clearSlot i s) := by
  unfold clearSlot
  with_reducible repeat' (first | intro _ | assumption | apply onKs_keeps hP | apply showSec_keeps hP | apply wrB_keeps hP | apply keeps_ite (P := P) | split | dsimp only)

theorem endAllSessions_keeps (hP : Closed P) (s : State) (hkeep : P s) : P (endAllSessions s) := by
  unfold endAllSessions
  with_reducible repeat' (first | intro _ | assumption | apply raise_keeps hP | apply keeps_ite (P := P) | apply keeps_ite_snd (P := P) | simp only [Closed.other hP, Closed.otherTl hP] | split | dsimp only)

theorem execJtagBypass_keeps (hP : Closed P) (s : State) (hkeep : P s) : OutKeeps P (execJtagBypass s) := by
  unfold execJtagBypass
  with_reducible repeat' (first | intro _ | assumption | apply onKs_keeps hP | apply outKeeps_next (P := P) | dsimp only)

theorem execJtagIdcode_keeps (hP : Closed P) (s : State) (hkeep : P s) : OutKeeps P (execJtagIdcode s) := by
  unfold execJtagIdcode
  with_reducible repeat' (first | intro _ | assumption | apply freeNext_keeps hP | apply onKs_keeps hP | apply outKeeps_next (P := P) | dsimp only)

theorem ksResult_keeps (hP : Closed P) (err : Nat) (s : State) (hkeep : P s) : P (ksResult err s) := by
  unfold ksResult
  with_reducible repeat' (first | intro _ | assumption | apply wrB_keeps hP | apply wr_keeps hP | dsimp only)

theorem execKsBadOp_keeps (hP : Closed P) (op : BitVec 8) (s : State) (hkeep : P s) : OutKeeps P (execKsBadOp op s) := by
  unfold execKsBadOp
  with_reducible repeat' (first | intro _ | assumption | apply ksResult_keeps hP | apply wr_keeps hP | apply keeps_ite (P := P) | apply outKeeps_next (P := P) | apply OutKeeps.ite (P := P) | split | dsimp only)

theorem ksGo_keeps (hP : Closed P) (op : Nat) (slot : Nat) (job : KsJob) (s : State) (hkeep : P s) : P (ksGo op slot job s) := by
  unfold ksGo
  with_reducible repeat' (first | intro _ | assumption | apply ksResult_keeps hP | apply onKs_keeps hP | apply wr_keeps hP | apply keeps_ite (P := P) | split | dsimp only)

theorem execKsBuildGolden_keeps (hP : Closed P) (slot : Fin 64) (tagOk : Bool) (dst : BitVec 40) (words : List (BitVec 32)) (s : State) (hkeep : P s) : OutKeeps P (execKsBuildGolden slot tagOk dst words s) := by
  unfold execKsBuildGolden
  with_reducible repeat' (first | intro _ | assumption | apply ksGo_keeps hP | apply outKeeps_next (P := P) | dsimp only)

theorem fillSlot_keeps (hP : Closed P) (i : Nat) (key : BitVec 256) (s : State) (hkeep : P s) : P (fillSlot i key s) := by
  unfold fillSlot
  with_reducible repeat' (first | intro _ | assumption | apply onKs_keeps hP | apply wrB_keeps hP | dsimp only)

theorem wrDramBytes_keeps (hP : Closed P) (l : List Byte) (a : Nat) (s : State) (hkeep : P s) : P (wrDramBytes l a s) := by
  induction l generalizing a s with
  | nil => exact hkeep
  | cons b r ih => exact ih _ _ (wrDram_keeps hP _ _ _ hkeep)

theorem setSec_keeps (hP : Closed P) (m : Nat) (x : SecSt) (s : State) (hkeep : P s) : P (setSec m x s) := by
  unfold setSec
  with_reducible repeat' (first | intro _ | assumption | apply onKs_keeps hP | dsimp only)

theorem retireOld_keeps (hP : Closed P) (m : Nat) (s : State) (hkeep : P s) : P (retireOld m s) := by
  unfold retireOld
  with_reducible repeat' (first | intro _ | assumption | apply clearSlot_keeps hP | apply setSec_keeps hP | refine pair_keeps (P := P) (by assumption) ?_ | split | dsimp only)

theorem moveTx_keeps (hP : Closed P) (m : Nat) (a : Nat) (s : State) (hkeep : P s) : P (moveTx m a s) := by
  unfold moveTx
  with_reducible repeat' (first | intro _ | assumption | apply setSec_keeps hP | apply showSec_keeps hP | apply wrB_keeps hP | apply wr_keeps hP | apply keeps_ite (P := P) | apply keeps_ite_snd (P := P) | split | dsimp only)

theorem installSak_keeps (hP : Closed P) (r : SakRecord) (apply : BitVec 32) (s : State) (hkeep : P s) : P (installSak r apply s) := by
  unfold installSak
  with_reducible repeat' (first | intro _ | assumption | apply fillSlot_keeps hP | apply moveTx_keeps hP | apply onKs_keeps hP | apply retireOld_keeps hP | apply setSec_keeps hP | apply showSec_keeps hP | apply keeps_ite (P := P) | apply keeps_ite_snd (P := P) | split | dsimp only)

theorem showPend_keeps (hP : Closed P) (s : State) (hkeep : P s) : P (showPend s) := by
  unfold showPend
  with_reducible repeat' (first | intro _ | assumption | apply wrB_keeps hP | dsimp only)

theorem showFuses_keeps (hP : Closed P) (s : State) (hkeep : P s) : P (showFuses s) := by
  unfold showFuses
  with_reducible repeat' (first | intro _ | assumption | apply wr_keeps hP | apply keeps_ite (P := P) | split | dsimp only)

theorem putHash_keeps (hP : Closed P) (f : Nat → FRef) (h : BitVec 384) (s : State) (hkeep : P s) : P (putHash f h s) := by
  unfold putHash
  with_reducible repeat' (first | intro _ | assumption | apply wr_keeps hP | apply forEach_keeps (P := P) | dsimp only)

theorem randomBytes_keeps (hP : Closed P) (a : Nat) (n : Nat) (s : State) (hkeep : P s) : P (randomBytes a n s) := by
  unfold randomBytes
  with_reducible repeat' (first | intro _ | assumption | apply freeNext_keeps hP | apply wrDram_keeps hP | apply forEach_keeps (P := P) | dsimp only)

theorem runJob_keeps (hP : Closed P) (j : KsJob) (s : State) (hkeep : P s) : P (runJob j s).2 := by
  cases j with
  | unwrap slot record tagOk key =>
    refine keeps_ite_snd (P := P) (fun _ => hkeep) fun _ => keeps_ite_snd (P := P) (fun _ => hkeep) fun _ =>
      keeps_ite_snd (P := P) (fun _ => count_keeps hP _ _ _ _ hkeep) fun _ => keeps_ite_snd (P := P) (fun _ => count_keeps hP _ _ _ _ hkeep) fun _ => ?_
    exact fillSlot_keeps hP _ _ _ hkeep
  | decrypt slot tagOk dst plain =>
    refine keeps_ite_snd (P := P) (fun _ => hkeep) fun _ => ?_
    generalize dramOffset dst plain.length s = o
    cases o with
    | none => exact hkeep
    | some a => exact keeps_ite_snd (P := P) (fun _ => wrDramBytes_keeps hP _ _ _ hkeep) fun _ => hkeep
  | golden slot tagOk dst words =>
    refine keeps_ite_snd (P := P) (fun _ => hkeep) fun _ => keeps_ite_snd (P := P) (fun _ => hkeep) fun _ =>
      keeps_ite_snd (P := P) (fun _ => hkeep) fun _ => keeps_ite_snd (P := P) (fun _ => hkeep) fun _ => ?_
    exact onKs_keeps hP (fun q => { q with gck := true, golden := goldChunks (words.length / 1024) (dst / 4096) words q.golden }) s hkeep
  | session num key =>
    exact keeps_ite_snd (P := P) (fun _ => hkeep) fun _ => keeps_ite_snd (P := P) (fun _ => hkeep) fun _ =>
      keeps_ite_snd (P := P) (fun _ => hkeep) fun _ => hkeep
  | sak slot r apply =>
    exact keeps_ite_snd (P := P) (fun _ => hkeep) fun _ => keeps_ite_snd (P := P) (fun _ => installSak_keeps hP _ _ _ hkeep) fun _ => hkeep
  | clear slot => exact clearSlot_keeps hP _ _ hkeep
  | zeroise => exact hkeep
  | epoch verify =>
    exact keeps_ite_snd (P := P) (fun _ => showPend_keeps hP _ (showFuses_keeps hP _ (blowEpoch_keeps hP _ _ _ hkeep))) fun _ => hkeep
  | provision production owner safety =>
    exact keeps_ite_snd (P := P) (fun _ => showFuses_keeps hP _ (onKs_keeps hP _ _ (putHash_keeps hP _ _ _ (putHash_keeps hP _ _ _ hkeep)))) fun _ => hkeep
  | random =>
    refine keeps_ite_snd (P := P) (fun _ => hkeep) fun _ => ?_
    generalize dramOffset (rd KS_ARG1_ADDR_HI s * 2 ^ 32 + rd KS_ARG0_ADDR s) (rd KS_ARG2_LEN s) s = o
    cases o with
    | none => exact hkeep
    | some a => exact randomBytes_keeps hP _ _ _ hkeep
  | killJtag owner => exact keeps_ite_snd (P := P) (fun _ => wrB_keeps hP _ _ _ hkeep) fun _ => hkeep

theorem execKsCommandDone_keeps (hP : Closed P) (s : State) (hkeep : P s) : OutKeeps P (execKsCommandDone s) := by
  unfold execKsCommandDone
  with_reducible repeat' (first | intro _ | assumption | apply ksResult_keeps hP | apply onKs_keeps hP | apply runJob_keeps hP | apply wr_keeps hP | apply outKeeps_next (P := P) | refine pair_keeps (P := P) (by assumption) ?_ | split | dsimp only)

theorem execKsDecrypt_keeps (hP : Closed P) (slot : Fin 64) (tagOk : Bool) (dst : BitVec 40) (plain : List Byte) (s : State) (hkeep : P s) : OutKeeps P (execKsDecrypt slot tagOk dst plain s) := by
  unfold execKsDecrypt
  with_reducible repeat' (first | intro _ | assumption | apply ksGo_keeps hP | apply outKeeps_next (P := P) | dsimp only)

theorem execKsEpochAdvance_keeps (hP : Closed P) (verify : List Bool) (s : State) (hkeep : P s) : OutKeeps P (execKsEpochAdvance verify s) := by
  unfold execKsEpochAdvance
  with_reducible repeat' (first | intro _ | assumption | apply ksGo_keeps hP | apply outKeeps_next (P := P) | dsimp only)

theorem execKsKillJtag_keeps (hP : Closed P) (owner : Bool) (s : State) (hkeep : P s) : OutKeeps P (execKsKillJtag owner s) := by
  unfold execKsKillJtag
  with_reducible repeat' (first | intro _ | assumption | apply ksGo_keeps hP | apply outKeeps_next (P := P) | dsimp only)

theorem execKsProvision_keeps (hP : Closed P) (production : Bool) (owner : BitVec 384) (safety : BitVec 384) (s : State) (hkeep : P s) : OutKeeps P (execKsProvision production owner safety s) := by
  unfold execKsProvision
  with_reducible repeat' (first | intro _ | assumption | apply ksGo_keeps hP | apply outKeeps_next (P := P) | dsimp only)

theorem execKsRandom_keeps (hP : Closed P) (s : State) (hkeep : P s) : OutKeeps P (execKsRandom s) := by
  unfold execKsRandom
  with_reducible repeat' (first | intro _ | assumption | apply ksGo_keeps hP | apply outKeeps_next (P := P) | dsimp only)

theorem execKsSakInstall_keeps (hP : Closed P) (slot : Fin 64) (r : SakRecord) (apply : BitVec 32) (s : State) (hkeep : P s) : OutKeeps P (execKsSakInstall slot r apply s) := by
  unfold execKsSakInstall
  with_reducible repeat' (first | intro _ | assumption | apply ksGo_keeps hP | apply outKeeps_next (P := P) | dsimp only)

theorem execKsSession_keeps (hP : Closed P) (num : BitVec 32) (key : BitVec 256) (s : State) (hkeep : P s) : OutKeeps P (execKsSession num key s) := by
  unfold execKsSession
  with_reducible repeat' (first | intro _ | assumption | apply ksGo_keeps hP | apply outKeeps_next (P := P) | dsimp only)

theorem execKsSlotClear_keeps (hP : Closed P) (slot : Fin 64) (s : State) (hkeep : P s) : OutKeeps P (execKsSlotClear slot s) := by
  unfold execKsSlotClear
  with_reducible repeat' (first | intro _ | assumption | apply ksGo_keeps hP | apply outKeeps_next (P := P) | dsimp only)

theorem execKsUnwrap_keeps (hP : Closed P) (slot : Fin 64) (record : Bool) (tagOk : Bool) (key : BitVec 256) (s : State) (hkeep : P s) : OutKeeps P (execKsUnwrap slot record tagOk key s) := by
  unfold execKsUnwrap
  with_reducible repeat' (first | intro _ | assumption | apply ksGo_keeps hP | apply outKeeps_next (P := P) | dsimp only)

theorem zeroiseAll_keeps (hP : Closed P) (s : State) (hkeep : P s) : P (zeroiseAll s) := by
  unfold zeroiseAll
  with_reducible repeat' (first | intro _ | assumption | apply clearSlot_keeps hP | apply endAllSessions_keeps hP | apply onKs_keeps hP | apply zeroisePeas_keeps hP | apply forEach_keeps (P := P) | dsimp only)

theorem zeroiseNow_keeps (hP : Closed P) (s : State) (hkeep : P s) : P (zeroiseNow s) := by
  unfold zeroiseNow
  with_reducible repeat' (first | intro _ | assumption | apply rookMuteAll_keeps hP | apply wrB_keeps hP | apply zeroiseAll_keeps hP | apply onlyIf_keeps (P := P) | apply forEach_keeps (P := P) | dsimp only)

theorem execKsZeroise_keeps (hP : Closed P) (s : State) (hkeep : P s) : OutKeeps P (execKsZeroise s) := by
  unfold execKsZeroise
  with_reducible repeat' (first | intro _ | assumption | apply ksGo_keeps hP | apply ksResult_keeps hP | apply zeroiseNow_keeps hP | apply keeps_ite (P := P) | apply outKeeps_next (P := P) | apply OutKeeps.ite (P := P) | split | dsimp only)

theorem execSakRetire_keeps (hP : Closed P) (m : Fin 12) (s : State) (hkeep : P s) : OutKeeps P (execSakRetire m s) := by
  unfold execSakRetire
  with_reducible repeat' (first | intro _ | assumption | apply retireOld_keeps hP | apply outKeeps_next (P := P) | dsimp only)

theorem showSealPod_keeps (hP : Closed P) (n : Nat) (s : State) (hkeep : P s) : P (showSealPod n s) := by
  unfold showSealPod
  with_reducible repeat' (first | intro _ | assumption | apply wrB_keeps hP | dsimp only)

theorem execSealLock_keeps (hP : Closed P) (q : Fin 144) (s : State) (hkeep : P s) : OutKeeps P (execSealLock q s) := by
  unfold execSealLock
  with_reducible repeat' (first | intro _ | assumption | apply showSealPod_keeps hP | apply wrB_keeps hP | apply outKeeps_next (P := P) | dsimp only)

theorem execTrngHealthFail_keeps (hP : Closed P) (s : State) (hkeep : P s) : OutKeeps P (execTrngHealthFail s) := by
  unfold execTrngHealthFail
  with_reducible repeat' (first | intro _ | assumption | apply wrB_keeps hP | apply outKeeps_next (P := P) | dsimp only)

theorem execUnlockChal_keeps (hP : Closed P) (s : State) (hkeep : P s) : OutKeeps P (execUnlockChal s) := by
  unfold execUnlockChal
  with_reducible repeat' (first | intro _ | assumption | apply freeNext_keeps hP | apply onKs_keeps hP | apply keeps_ite (P := P) | apply keeps_ite_snd (P := P) | apply outKeeps_next (P := P) | apply OutKeeps.ite (P := P) | split | dsimp only)

theorem execUnlockResp_keeps (hP : Closed P) (r : UnlockResponse) (s : State) (hkeep : P s) : OutKeeps P (execUnlockResp r s) := by
  unfold execUnlockResp
  with_reducible repeat' (first | intro _ | assumption | apply count_keeps hP | apply onKs_keeps hP | apply rookMuteOpen_keeps hP | apply wrB_keeps hP | apply zeroiseAll_keeps hP | apply keeps_ite (P := P) | apply outKeeps_next (P := P) | apply OutKeeps.ite (P := P) | split | dsimp only)

theorem zeroisedPea_keeps (hP : Closed P) (q : Nat) (s : State) (hkeep : P s) : P (zeroisedPea q s) := by
  unfold zeroisedPea
  with_reducible repeat' (first | intro _ | assumption | apply wrB_keeps hP | apply zeroSealWindows_keeps hP | apply onlyIf_keeps (P := P) | apply forEach_keeps (P := P) | dsimp only)

theorem openJtag_keeps (hP : Closed P) (s : State) (hkeep : P s) : P (openJtag s) := by
  unfold openJtag
  with_reducible repeat' (first | intro _ | assumption | apply onKs_keeps hP | apply showFuses_keeps hP | apply wr_keeps hP | apply keeps_ite (P := P) | split | dsimp only)

theorem execZeroisationDone_keeps (hP : Closed P) (s : State) (hkeep : P s) : OutKeeps P (execZeroisationDone s) := by
  unfold execZeroisationDone
  with_reducible repeat' (first | intro _ | assumption | apply onKs_keeps hP | apply openJtag_keeps hP | apply showSealPod_keeps hP | apply wrB_keeps hP | apply zeroisedPea_keeps hP | apply forEach_keeps (P := P) | apply keeps_ite (P := P) | apply outKeeps_next (P := P) | apply OutKeeps.ite (P := P) | split | dsimp only)

theorem secTick_keeps (hP : Closed P) (m : Nat) (s : State) (hkeep : P s) : P (secTick m s) := by
  unfold secTick
  with_reducible repeat' (first | intro _ | assumption | apply moveTx_keeps hP | apply keeps_ite (P := P) | apply keeps_ite_snd (P := P) | refine pair_keeps (P := P) (by assumption) ?_ | split | dsimp only)

end Sys2Proof.Machine
end

