-- ==== Sys2Proof/Laws/Keeps/Flash.lean ====
section
/-! SUPPORT. Every function of Machine/Flash.lean keeps a closed property. -/

namespace Sys2Proof.Machine

variable {P : State → Prop}

theorem onFl_keeps (hP : Closed P) (f : FlashSt → FlashSt) (s : State) (hkeep : P s) : P (onFl f s) := by
  unfold onFl
  with_reducible repeat' (first | intro _ | assumption | simp only [Closed.other hP, Closed.otherTl hP] | dsimp only)

theorem showCapture_keeps (hP : Closed P) (s : State) (hkeep : P s) : P (showCapture s) := by
  unfold showCapture
  with_reducible repeat' (first | intro _ | assumption | apply wrSat_keeps hP | apply wr_keeps hP | apply foldl_keeps (P := P) | apply foldl_snd_keeps (P := P) | dsimp only)

theorem endCapture_keeps (hP : Closed P) (s : State) (hkeep : P s) : P (endCapture s) := by
  unfold endCapture
  with_reducible repeat' (first | intro _ | assumption | apply onFl_keeps hP | apply showCapture_keeps hP | apply wr_keeps hP | apply keeps_ite (P := P) | refine pair_keeps (P := P) (by assumption) ?_ | split | dsimp only)

theorem countDrop_keeps (hP : Closed P) (recorder : Bool) (first : Bool) (s : State) (hkeep : P s) : P (countDrop recorder first s) := by
  unfold countDrop
  with_reducible repeat' (first | intro _ | assumption | apply count_keeps hP | apply raise_keeps hP | apply onlyIf_keeps (P := P) | apply keeps_ite (P := P) | split | dsimp only)

theorem captureBlock_keeps (hP : Closed P) (d : Nat) (s : State) (hkeep : P s) : P (captureBlock d s) := by
  unfold captureBlock
  with_reducible repeat' (first | intro _ | assumption | apply countDrop_keeps hP | apply endCapture_keeps hP | apply onFl_keeps hP | apply showCapture_keeps hP | apply wr_keeps hP | apply onlyIf_keeps (P := P) | apply keeps_ite (P := P) | apply keeps_ite_snd (P := P) | refine pair_keeps (P := P) (by assumption) ?_ | split | dsimp only)

theorem changeStop_keeps (hP : Closed P) (w : CapWindow) (stop : Nat) (s : State) (hkeep : P s) : P (changeStop w stop s).2 := by
  unfold changeStop
  with_reducible repeat' (first | intro _ | assumption | apply onFl_keeps hP | apply raise_keeps hP | apply keeps_ite (P := P) | apply keeps_ite_snd (P := P) | split | dsimp only)

theorem enqueue_keeps (hP : Closed P) (op : NandOp) (s : State) (hkeep : P s) : P (enqueue op s) := by
  unfold enqueue
  with_reducible repeat' (first | intro _ | assumption | apply onFl_keeps hP | apply keeps_ite (P := P) | split | dsimp only)

theorem showLife_keeps (hP : Closed P) (s : State) (hkeep : P s) : P (showLife s) := by
  unfold showLife
  with_reducible repeat' (first | intro _ | assumption | apply onFl_keeps hP | apply raise_keeps hP | apply wrB_keeps hP | apply wr_keeps hP | apply onlyIf_keeps (P := P) | apply keeps_ite (P := P) | split | dsimp only)

theorem growBad_keeps (hP : Closed P) (die : Nat) (block : Nat) (s : State) (hkeep : P s) : P (growBad die block s) := by
  unfold growBad
  with_reducible repeat' (first | intro _ | assumption | apply count_keeps hP | apply onFl_keeps hP | apply raise_keeps hP | apply showLife_keeps hP | apply keeps_ite (P := P) | apply keeps_ite_snd (P := P) | split | dsimp only)

theorem showBusy_keeps (hP : Closed P) (s : State) (hkeep : P s) : P (showBusy s) := by
  unfold showBusy
  with_reducible repeat' (first | intro _ | assumption | apply wrB_keeps hP | apply forEach_keeps (P := P) | dsimp only)

theorem queueJob_keeps (hP : Closed P) (kind : Nat) (die : Nat) (block : Nat) (deadline : Nat) (tlc : Bool) (s : State) (hkeep : P s) : P (queueJob kind die block deadline tlc s) := by
  unfold queueJob
  with_reducible repeat' (first | intro _ | assumption | apply enqueue_keeps hP | apply onFl_keeps hP | apply showBusy_keeps hP | apply keeps_ite (P := P) | refine pair_keeps (P := P) (by assumption) ?_ | split | dsimp only)

theorem eraseDone_keeps (hP : Closed P) (op : NandOp) (s : State) (hkeep : P s) : P (eraseDone op s) := by
  unfold eraseDone
  with_reducible repeat' (first | intro _ | assumption | apply count_keeps hP | apply growBad_keeps hP | apply onFl_keeps hP | apply queueJob_keeps hP | apply onlyIf_keeps (P := P) | apply keeps_ite (P := P) | refine pair_keeps (P := P) (by assumption) ?_ | split | dsimp only)

theorem jobResult_keeps (hP : Closed P) (err : Nat) (s : State) (hkeep : P s) : P (jobResult err s) := by
  unfold jobResult
  with_reducible repeat' (first | intro _ | assumption | apply wrB_keeps hP | apply wr_keeps hP | dsimp only)

theorem startJob_keeps (hP : Closed P) (op : Nat) (arg : Nat) (err : Nat) (j : FlashJob) (s : State) (hkeep : P s) : P (startJob op arg err j s) := by
  unfold startJob
  with_reducible repeat' (first | intro _ | assumption | apply jobResult_keeps hP | apply onFl_keeps hP | apply wrB_keeps hP | apply wr_keeps hP | apply keeps_ite (P := P) | split | dsimp only)

theorem execCapDelete_keeps (hP : Closed P) (s : State) (hkeep : P s) : OutKeeps P (execCapDelete s) := by
  unfold execCapDelete
  with_reducible repeat' (first | intro _ | assumption | apply startJob_keeps hP | apply keeps_ite (P := P) | apply outKeeps_next (P := P) | apply OutKeeps.ite (P := P) | split | dsimp only)

theorem execCapProtect_keeps (hP : Closed P) (on : Bool) (s : State) (hkeep : P s) : OutKeeps P (execCapProtect on s) := by
  unfold execCapProtect
  with_reducible repeat' (first | intro _ | assumption | apply startJob_keeps hP | apply outKeeps_next (P := P) | dsimp only)

theorem makeRoom_keeps (hP : Closed P) (n i : Nat) (s : State) (hkeep : P s) : P (makeRoom n i s) := by
  induction i generalizing s with
  | zero => exact hkeep
  | succ i ih =>
    unfold makeRoom
    split
    · exact hkeep
    · split
      · exact ih _ (onFl_keeps hP _ _ hkeep)
      · exact hkeep

theorem execCaptureChunkProgram_keeps (hP : Closed P) (recorder : Bool) (s : State) (hkeep : P s) : OutKeeps P (execCaptureChunkProgram recorder s) := by
  unfold execCaptureChunkProgram
  with_reducible repeat' (first | intro _ | assumption | apply makeRoom_keeps hP | apply onFl_keeps hP | apply showCapture_keeps hP | apply onlyIf_keeps (P := P) | apply keeps_ite (P := P) | apply keeps_ite_snd (P := P) | apply outKeeps_next (P := P) | apply OutKeeps.ite (P := P) | refine pair_keeps (P := P) (by assumption) ?_ | split | dsimp only)

theorem execCaptureDeliveryTimeout_keeps (hP : Closed P) (recorder : Bool) (blk : BitVec 32) (s : State) (hkeep : P s) : OutKeeps P (execCaptureDeliveryTimeout recorder blk s) := by
  unfold execCaptureDeliveryTimeout
  with_reducible repeat' (first | intro _ | assumption | apply countDrop_keeps hP | apply onFl_keeps hP | apply keeps_ite (P := P) | apply keeps_ite_snd (P := P) | apply outKeeps_next (P := P) | apply OutKeeps.ite (P := P) | refine pair_keeps (P := P) (by assumption) ?_ | split | dsimp only)

theorem execCheckpoint_keeps (hP : Closed P) (s : State) (hkeep : P s) : OutKeeps P (execCheckpoint s) := by
  unfold execCheckpoint
  with_reducible repeat' (first | intro _ | assumption | apply onFl_keeps hP | apply keeps_ite (P := P) | apply keeps_ite_snd (P := P) | apply outKeeps_next (P := P) | apply OutKeeps.ite (P := P) | refine pair_keeps (P := P) (by assumption) ?_ | split | dsimp only)

theorem execFlBadOp_keeps (hP : Closed P) (op : BitVec 8) (s : State) (hkeep : P s) : OutKeeps P (execFlBadOp op s) := by
  unfold execFlBadOp
  with_reducible repeat' (first | intro _ | assumption | apply jobResult_keeps hP | apply wr_keeps hP | apply keeps_ite (P := P) | apply outKeeps_next (P := P) | apply OutKeeps.ite (P := P) | split | dsimp only)

theorem execFlLife_keeps (hP : Closed P) (s : State) (hkeep : P s) : OutKeeps P (execFlLife s) := by
  unfold execFlLife
  with_reducible repeat' (first | intro _ | assumption | apply startJob_keeps hP | apply outKeeps_next (P := P) | dsimp only)

theorem execFlLogRead_keeps (hP : Closed P) (s : State) (hkeep : P s) : OutKeeps P (execFlLogRead s) := by
  unfold execFlLogRead
  with_reducible repeat' (first | intro _ | assumption | apply startJob_keeps hP | apply outKeeps_next (P := P) | dsimp only)

theorem setSlot_keeps (hP : Closed P) (i : Nat) (x : SlotSt) (s : State) (hkeep : P s) : P (setSlot i x s) := by
  unfold setSlot
  with_reducible repeat' (first | intro _ | assumption | apply onFl_keeps hP | apply wrB_keeps hP | apply wr_keeps hP | apply keeps_ite (P := P) | split | dsimp only)

theorem putDram_keeps (hP : Closed P) (a : Nat) (bs : List (BitVec 8)) (s : State) (hkeep : P s) : P (putDram a bs s) := by
  unfold putDram
  with_reducible repeat' (first | intro _ | assumption | apply wrDramBytes_keeps hP | refine pair_keeps (P := P) (by assumption) ?_ | split | dsimp only)

theorem showGeometry_keeps (hP : Closed P) (s : State) (hkeep : P s) : P (showGeometry s) := by
  unfold showGeometry
  with_reducible repeat' (first | intro _ | assumption | apply wrB_keeps hP | apply wr_keeps hP | apply forEach_keeps (P := P) | apply foldl_keeps (P := P) | apply foldl_snd_keeps (P := P) | refine pair_keeps (P := P) (by assumption) ?_ | split | dsimp only)

theorem jobEffect_keeps (hP : Closed P) (j : FlashJob) (s : State) (hkeep : P s) : P (jobEffect j s) := by
  unfold jobEffect
  with_reducible repeat' (first | intro _ | assumption | apply onFl_keeps hP | apply putDram_keeps hP | apply randomBytes_keeps hP | apply setSlot_keeps hP | apply showCapture_keeps hP | apply showGeometry_keeps hP | apply wr_keeps hP | apply keeps_ite (P := P) | apply keeps_ite_snd (P := P) | refine pair_keeps (P := P) (by assumption) ?_ | split | dsimp only)

theorem execFlashJobDone_keeps (hP : Closed P) (ok : Bool) (s : State) (hkeep : P s) : OutKeeps P (execFlashJobDone ok s) := by
  unfold execFlashJobDone
  with_reducible repeat' (first | intro _ | assumption | apply jobEffect_keeps hP | apply jobResult_keeps hP | apply onFl_keeps hP | apply raise_keeps hP | apply wrB_keeps hP | apply keeps_ite (P := P) | apply outKeeps_next (P := P) | apply OutKeeps.ite (P := P) | refine pair_keeps (P := P) (by assumption) ?_ | split | dsimp only)

theorem execFormat_keeps (hP : Closed P) (d : FlashDesc) (bad : List (Fin 64 × BitVec 16)) (s : State) (hkeep : P s) : OutKeeps P (execFormat d bad s) := by
  unfold execFormat
  with_reducible repeat' (first | intro _ | assumption | apply startJob_keeps hP | apply keeps_ite (P := P) | apply keeps_ite_snd (P := P) | apply outKeeps_next (P := P) | apply OutKeeps.ite (P := P) | split | dsimp only)

theorem execImgRead_keeps (hP : Closed P) (slot : Fin 2) (s : State) (hkeep : P s) : OutKeeps P (execImgRead slot s) := by
  unfold execImgRead
  with_reducible repeat' (first | intro _ | assumption | apply startJob_keeps hP | apply keeps_ite (P := P) | apply outKeeps_next (P := P) | apply OutKeeps.ite (P := P) | split | dsimp only)

theorem execImgWrite_keeps (hP : Closed P) (slot : Fin 2) (s : State) (hkeep : P s) : OutKeeps P (execImgWrite slot s) := by
  unfold execImgWrite
  with_reducible repeat' (first | intro _ | assumption | apply setSlot_keeps hP | apply startJob_keeps hP | apply wrB_keeps hP | apply keeps_ite (P := P) | apply outKeeps_next (P := P) | apply OutKeeps.ite (P := P) | split | dsimp only)

theorem execJobUrgent_keeps (hP : Closed P) (index : BitVec 16) (s : State) (hkeep : P s) : OutKeeps P (execJobUrgent index s) := by
  unfold execJobUrgent
  with_reducible repeat' (first | intro _ | assumption | apply count_keeps hP | apply onFl_keeps hP | apply raise_keeps hP | apply keeps_ite (P := P) | apply outKeeps_next (P := P) | apply OutKeeps.ite (P := P) | refine pair_keeps (P := P) (by assumption) ?_ | split | dsimp only)

theorem execLogPageFlush_keeps (hP : Closed P) (s : State) (hkeep : P s) : OutKeeps P (execLogPageFlush s) := by
  unfold execLogPageFlush
  with_reducible repeat' (first | intro _ | assumption | apply onFl_keeps hP | apply raiseRec_keeps hP | apply wr_keeps hP | apply keeps_ite (P := P) | apply keeps_ite_snd (P := P) | apply outKeeps_next (P := P) | apply OutKeeps.ite (P := P) | refine pair_keeps (P := P) (by assumption) ?_ | split | dsimp only)

theorem queueRefresh_keeps (hP : Closed P) (die : Nat) (block : Nat) (within : Nat) (tlc : Bool) (s : State) (hkeep : P s) : P (queueRefresh die block within tlc s) := by
  unfold queueRefresh
  with_reducible repeat' (first | intro _ | assumption | apply queueJob_keeps hP | dsimp only)

theorem finding_keeps (hP : Closed P) (die : Nat) (block : Nat) (share : Nat) (tlc : Bool) (s : State) (hkeep : P s) : P (finding die block share tlc s) := by
  unfold finding
  with_reducible repeat' (first | intro _ | assumption | apply queueRefresh_keeps hP | apply keeps_ite (P := P) | split | dsimp only)

theorem readDone_keeps (hP : Closed P) (op : NandOp) (r : NandResult) (s : State) (hkeep : P s) : P (readDone op r s) := by
  unfold readDone
  with_reducible repeat' (first | intro _ | assumption | apply count_keeps hP | apply finding_keeps hP | apply freeNext_keeps hP | apply growBad_keeps hP | apply onFl_keeps hP | apply queueRefresh_keeps hP | apply raise_keeps hP | apply onlyIf_keeps (P := P) | apply keeps_ite (P := P) | split | dsimp only)

theorem execNandOperationDone_keeps (hP : Closed P) (op : NandOp) (r : NandResult) (s : State) (hkeep : P s) : OutKeeps P (execNandOperationDone op r s) := by
  unfold execNandOperationDone
  with_reducible repeat' (first | intro _ | assumption | apply count_keeps hP | apply eraseDone_keeps hP | apply growBad_keeps hP | apply onFl_keeps hP | apply readDone_keeps hP | apply showBusy_keeps hP | apply keeps_ite (P := P) | apply outKeeps_next (P := P) | apply OutKeeps.ite (P := P) | refine pair_keeps (P := P) (by assumption) ?_ | split | dsimp only)

theorem execRetentionScan_keeps (hP : Closed P) (findings : List (Fin 64 × BitVec 16 × BitVec 8)) (s : State) (hkeep : P s) : OutKeeps P (execRetentionScan findings s) := by
  unfold execRetentionScan
  with_reducible repeat' (first | intro _ | assumption | apply finding_keeps hP | apply onFl_keeps hP | apply forEach_keeps (P := P) | apply keeps_ite (P := P) | apply keeps_ite_snd (P := P) | apply outKeeps_next (P := P) | apply OutKeeps.ite (P := P) | split | dsimp only)

theorem execScanNow_keeps (hP : Closed P) (s : State) (hkeep : P s) : OutKeeps P (execScanNow s) := by
  unfold execScanNow
  with_reducible repeat' (first | intro _ | assumption | apply startJob_keeps hP | apply outKeeps_next (P := P) | dsimp only)

theorem flashPowerLoss_keeps (hP : Closed P) (s : State) (hkeep : P s) : P (flashPowerLoss s) := by
  unfold flashPowerLoss
  with_reducible repeat' (first | intro _ | assumption | apply onFl_keeps hP | dsimp only)

theorem flashStart_keeps (hP : Closed P) (s : State) (hkeep : P s) : P (flashStart s) := by
  unfold flashStart
  with_reducible repeat' (first | intro _ | assumption | apply onFl_keeps hP | apply raise_keeps hP | apply setSlot_keeps hP | apply showCapture_keeps hP | apply showGeometry_keeps hP | apply showLife_keeps hP | apply wr_keeps hP | apply onlyIf_keeps (P := P) | apply keeps_ite (P := P) | apply keeps_ite_snd (P := P) | refine pair_keeps (P := P) (by assumption) ?_ | split | dsimp only)

theorem logArrive_keeps (hP : Closed P) (seq : Nat) (r : FaultRec) (s : State) (hkeep : P s) : P (logArrive seq r s) := by
  unfold logArrive
  with_reducible repeat' (first | intro _ | assumption | apply count_keeps hP | apply onFl_keeps hP | apply keeps_ite (P := P) | apply keeps_ite_snd (P := P) | split | dsimp only)

theorem newSession_keeps (hP : Closed P) (s : State) (hkeep : P s) : P (newSession s) := by
  unfold newSession
  with_reducible repeat' (first | intro _ | assumption | apply onFl_keeps hP | apply keeps_ite (P := P) | apply keeps_ite_snd (P := P) | split | dsimp only)

theorem openCapture_keeps (hP : Closed P) (start : Nat) (stop : Nat) (protect : Bool) (s : State) (hkeep : P s) : P (openCapture start stop protect s).2 := by
  unfold openCapture
  with_reducible repeat' (first | intro _ | assumption | apply onFl_keeps hP | apply raise_keeps hP | apply wr_keeps hP | apply keeps_ite (P := P) | apply keeps_ite_snd (P := P) | split | dsimp only)

theorem recorderBlock_keeps (hP : Closed P) (d : Nat) (s : State) (hkeep : P s) : P (recorderBlock d s) := by
  unfold recorderBlock
  with_reducible repeat' (first | intro _ | assumption | apply countDrop_keeps hP | apply onFl_keeps hP | apply showCapture_keeps hP | apply wrB_keeps hP | apply onlyIf_keeps (P := P) | apply forEach_keeps (P := P) | apply keeps_ite (P := P) | apply keeps_ite_snd (P := P) | split | dsimp only)

end Sys2Proof.Machine
end

