-- ==== Sys2Proof/Laws/Keeps/Feu.lean ====
section
/-! SUPPORT. Every function of Machine/Feu.lean keeps a closed property. -/

namespace Sys2Proof.Machine

variable {P : State → Prop}

theorem dropSummary_keeps (hP : Closed P) (s : State) (hkeep : P s) : P (dropSummary s) := by
  unfold dropSummary
  with_reducible repeat' (first | intro _ | assumption | apply raiseRec_keeps hP | apply keeps_ite (P := P) | apply keeps_ite_snd (P := P) | simp only [Closed.other hP, Closed.otherTl hP] | split | dsimp only)

theorem pawnRecord_keeps (hP : Closed P) (code : Nat) (s : State) (hkeep : P s) : P (pawnRecord code s) := by
  unfold pawnRecord
  with_reducible repeat' (first | intro _ | assumption | apply wr_keeps hP | apply forEach_keeps (P := P) | simp only [Closed.other hP, Closed.otherTl hP] | dsimp only)

theorem takeIn_keeps (hP : Closed P) (r : FaultRec) (s : State) (hkeep : P s) : P (takeIn r s) := by
  unfold takeIn
  with_reducible repeat' (first | intro _ | assumption | apply count_keeps hP | apply logArrive_keeps hP | apply pawnRecord_keeps hP | apply queueFault_keeps hP | apply seqNext_keeps hP | apply settle_keeps hP | apply wr_keeps hP | apply onlyIf_keeps (P := P) | apply forEach_keeps (P := P) | dsimp only)

theorem execFeuIntake_keeps (hP : Closed P) (s : State) (hkeep : P s) : OutKeeps P (execFeuIntake s) := by
  unfold execFeuIntake
  with_reducible repeat' (first | intro _ | assumption | apply dropSummary_keeps hP | apply setFeuQueue_keeps hP | apply takeIn_keeps hP | apply outKeeps_next (P := P) | simp only [Closed.other hP, Closed.otherTl hP] | refine pair_keeps (P := P) (by assumption) ?_ | split | dsimp only)

theorem feuRaise_keeps (hP : Closed P) (code : Nat) (master : Nat) (user : Bool) (s : State) (hkeep : P s) : P (feuRaise code master user s).2 := by
  unfold feuRaise
  with_reducible repeat' (first | intro _ | assumption | apply raiseOn_keeps hP | apply raiseRec_keeps hP | apply keeps_ite (P := P) | apply keeps_ite_snd (P := P) | split | dsimp only)

theorem execFeuRaise_keeps (hP : Closed P) (code : BitVec 16) (master : BitVec 6) (user : Bool) (s : State) (hkeep : P s) : OutKeeps P (execFeuRaise code master user s) := by
  unfold execFeuRaise
  with_reducible repeat' (first | intro _ | assumption | apply feuRaise_keeps hP | apply outKeeps_next (P := P) | dsimp only)

end Sys2Proof.Machine
end

