-- ==== Sys2Proof/Laws/Keeps/Time.lean ====
section
/-! SUPPORT. Every function of Machine/Time.lean keeps a closed property. -/

namespace Sys2Proof.Machine

variable {P : State → Prop}

theorem showFar_keeps (hP : Closed P) (s : State) (hkeep : P s) : P (showFar s) := by
  unfold showFar
  with_reducible repeat' (first | intro _ | assumption | apply raise_keeps hP | apply wrB_keeps hP | apply onlyIf_keeps (P := P) | dsimp only)

theorem setRate_keeps (hP : Closed P) (f : Int) (p : Int) (s : State) (hkeep : P s) : P (setRate f p s) := by
  unfold setRate
  with_reducible repeat' (first | intro _ | assumption | apply wrI_keeps hP | dsimp only)

theorem holdover_keeps (hP : Closed P) (s : State) (hkeep : P s) : P (holdover s) := by
  unfold holdover
  with_reducible repeat' (first | intro _ | assumption | apply pickNat_keeps hP | apply setRate_keeps hP | apply wr_keeps hP | apply keeps_ite (P := P) | apply keeps_ite_snd (P := P) | split | dsimp only)

theorem switchDom_keeps (hP : Closed P) (d : Nat) (s : State) (hkeep : P s) : P (switchDom d s) := by
  unfold switchDom
  with_reducible repeat' (first | intro _ | assumption | apply count_keeps hP | apply raise_keeps hP | apply wr_keeps hP | apply keeps_ite (P := P) | split | dsimp only)

theorem selectDom_keeps (hP : Closed P) (s : State) (hkeep : P s) : P (selectDom s) := by
  unfold selectDom
  with_reducible repeat' (first | intro _ | assumption | apply switchDom_keeps hP | apply keeps_ite (P := P) | refine pair_keeps (P := P) (by assumption) ?_ | split | dsimp only)

theorem servoChanged_keeps (hP : Closed P) (s : State) (hkeep : P s) : P (servoChanged s) := by
  unfold servoChanged
  with_reducible repeat' (first | intro _ | assumption | apply holdover_keeps hP | apply selectDom_keeps hP | apply showFar_keeps hP | dsimp only)

theorem setDomState_keeps (hP : Closed P) (d : Nat) (st : Nat) (s : State) (hkeep : P s) : P (setDomState d st s) := by
  unfold setDomState
  with_reducible repeat' (first | intro _ | assumption | apply raise_keeps hP | apply wr_keeps hP | apply onlyIf_keeps (P := P) | dsimp only)

theorem onClock_keeps (hP : Closed P) (f : TimeSt → TimeSt) (s : State) (hkeep : P s) : P (onClock f s) := by
  unfold onClock
  with_reducible repeat' (first | intro _ | assumption | simp only [Closed.other hP, Closed.otherTl hP] | dsimp only)

theorem setDom_keeps (hP : Closed P) (d : Nat) (x : DomSt) (s : State) (hkeep : P s) : P (setDom d x s) := by
  unfold setDom
  with_reducible repeat' (first | intro _ | assumption | apply onClock_keeps hP | dsimp only)

theorem portsChanged_keeps (hP : Closed P) (d : Nat) (s : State) (hkeep : P s) : P (portsChanged d s) := by
  unfold portsChanged
  with_reducible repeat' (first | intro _ | assumption | apply servoChanged_keeps hP | apply setDomState_keeps hP | apply setDom_keeps hP | apply keeps_ite (P := P) | split | dsimp only)

theorem setPort_keeps (hP : Closed P) (p : Nat) (d : Nat) (st : Nat) (s : State) (hkeep : P s) : P (setPort p d st s) := by
  unfold setPort
  with_reducible repeat' (first | intro _ | assumption | apply wr_keeps hP | apply keeps_ite (P := P) | split | dsimp only)

theorem execAnnounceTimeout_keeps (hP : Closed P) (d : Fin 2) (s : State) (hkeep : P s) : OutKeeps P (execAnnounceTimeout d s) := by
  unfold execAnnounceTimeout
  with_reducible repeat' (first | intro _ | assumption | apply portsChanged_keeps hP | apply setPort_keeps hP | apply onlyIf_keeps (P := P) | apply forEach_keeps (P := P) | apply keeps_ite (P := P) | apply outKeeps_next (P := P) | apply OutKeeps.ite (P := P) | split | dsimp only)

theorem setCap_keeps (hP : Closed P) (u : Nat) (c : CapSt) (s : State) (hkeep : P s) : P (setCap u c s) := by
  unfold setCap
  with_reducible repeat' (first | intro _ | assumption | apply onClock_keeps hP | apply wr_keeps hP | refine pair_keeps (P := P) (by assumption) ?_ | split | dsimp only)

theorem execCapPop_keeps (hP : Closed P) (u : Fin 32) (s : State) (hkeep : P s) : OutKeeps P (execCapPop u s) := by
  unfold execCapPop
  with_reducible repeat' (first | intro _ | assumption | apply setCap_keeps hP | apply outKeeps_next (P := P) | dsimp only)

theorem execCaptureEdge_keeps (hP : Closed P) (u : Fin 32) (rising : Bool) (ns : BitVec 64) (sub : BitVec 8) (s : State) (hkeep : P s) : OutKeeps P (execCaptureEdge u rising ns sub s) := by
  unfold execCaptureEdge
  with_reducible repeat' (first | intro _ | assumption | apply count_keeps hP | apply raise_keeps hP | apply seqNext_keeps hP | apply setCap_keeps hP | apply onlyIf_keeps (P := P) | apply keeps_ite (P := P) | apply keeps_ite_snd (P := P) | apply outKeeps_next (P := P) | apply OutKeeps.ite (P := P) | split | dsimp only)

theorem execDomainWtrExpiry_keeps (hP : Closed P) (s : State) (hkeep : P s) : OutKeeps P (execDomainWtrExpiry s) := by
  unfold execDomainWtrExpiry
  with_reducible repeat' (first | intro _ | assumption | apply switchDom_keeps hP | apply keeps_ite (P := P) | apply outKeeps_next (P := P) | apply OutKeeps.ite (P := P) | split | dsimp only)

theorem setTimebase_keeps (hT : Timed P) (t : Nat) (s : State) (hkeep : P s) : P (setTimebase t s) := by
  have hP := hT.toClosed
  unfold setTimebase
  with_reducible repeat' (first | intro _ | assumption | apply wrB_keeps hP | apply keeps_ite (P := P) | simp only [Timed.other hT] | split | dsimp only)

theorem execFreestartTimeout_keeps (hT : Timed P) (s : State) (hkeep : P s) : OutKeeps P (execFreestartTimeout s) := by
  have hP := hT.toClosed
  unfold execFreestartTimeout
  with_reducible repeat' (first | intro _ | assumption | apply setTimebase_keeps hT | apply wr_keeps hP | apply keeps_ite (P := P) | apply outKeeps_next (P := P) | apply OutKeeps.ite (P := P) | split | dsimp only)

theorem freePhase_keeps (hP : Closed P) (s : State) (hkeep : P s) : P (freePhase s).2 := by
  unfold freePhase
  with_reducible repeat' (first | intro _ | assumption | apply pickNat_keeps hP | dsimp only)

theorem ppsEdge_keeps (hP : Closed P) (t : Nat) (s : State) (hkeep : P s) : P (ppsEdge t s) := by
  unfold ppsEdge
  with_reducible repeat' (first | intro _ | assumption | apply freePhase_keeps hP | apply onClock_keeps hP | apply setRate_keeps hP | apply wr_keeps hP | apply keeps_ite (P := P) | apply keeps_ite_snd (P := P) | split | dsimp only)

theorem runTo_keeps (hT : Timed P) (t : Nat) (s : State) (hkeep : P s) : P (runTo t s) := by
  have hP := hT.toClosed
  unfold runTo
  with_reducible repeat' (first | intro _ | assumption | apply keeps_ite (P := P) | simp only [Timed.other hT] | split | dsimp only)

theorem execPpsEdge_keeps (hT : Timed P) (r : Fin 6) (stamp : BitVec 64) (s : State) (hkeep : P s) : OutKeeps P (execPpsEdge r stamp s) := by
  have hP := hT.toClosed
  unfold execPpsEdge
  with_reducible repeat' (first | intro _ | assumption | apply ppsEdge_keeps hP | apply runTo_keeps hT | apply keeps_ite (P := P) | apply outKeeps_next (P := P) | apply OutKeeps.ite (P := P) | split | dsimp only)

theorem execPtpEventMessage_keeps (hP : Closed P) (p : Fin 8) (d : Fin 2) (egress : Bool) (latch : BitVec 66) (waiting : Fin 33) (bad : Bool) (verdict : Fin 9) (s : State) (hkeep : P s) : OutKeeps P (execPtpEventMessage p d egress latch waiting bad verdict s) := by
  unfold execPtpEventMessage
  with_reducible repeat' (first | intro _ | assumption | apply count_keeps hP | apply onClock_keeps hP | apply portsChanged_keeps hP | apply setPort_keeps hP | apply keeps_ite (P := P) | apply keeps_ite_snd (P := P) | apply outKeeps_next (P := P) | apply OutKeeps.ite (P := P) | split | dsimp only)

theorem showOffset_keeps (hP : Closed P) (d : Nat) (s : State) (hkeep : P s) : P (showOffset d s) := by
  unfold showOffset
  with_reducible repeat' (first | intro _ | assumption | apply wrI_keeps hP | dsimp only)

theorem stepTimebase_keeps (hT : Timed P) (d : Nat) (s : State) (hkeep : P s) : P (stepTimebase d s) := by
  have hP := hT.toClosed
  unfold stepTimebase
  with_reducible repeat' (first | intro _ | assumption | apply count_keeps hP | apply raise_keeps hP | apply setDom_keeps hP | apply setTimebase_keeps hT | apply showOffset_keeps hP | apply forEach_keeps (P := P) | dsimp only)

theorem steer_keeps (hT : Timed P) (s : State) (hkeep : P s) : P (steer s) := by
  have hP := hT.toClosed
  unfold steer
  with_reducible repeat' (first | intro _ | assumption | apply freePhase_keeps hP | apply setRate_keeps hP | apply showFar_keeps hP | apply stepTimebase_keeps hT | apply wr_keeps hP | apply keeps_ite (P := P) | apply keeps_ite_snd (P := P) | split | dsimp only)

theorem execPtpSync_keeps (hT : Timed P) (p : Fin 8) (d : Fin 2) (offset : BitVec 64) (residual : BitVec 32) (freq : BitVec 24) (mpd : BitVec 24) (gm : BitVec 64) (s : State) (hkeep : P s) : OutKeeps P (execPtpSync p d offset residual freq mpd gm s) := by
  have hP := hT.toClosed
  unfold execPtpSync
  with_reducible repeat' (first | intro _ | assumption | apply holdover_keeps hP | apply selectDom_keeps hP | apply setDomState_keeps hP | apply setDom_keeps hP | apply showFar_keeps hP | apply showOffset_keeps hP | apply steer_keeps hT | apply wr_keeps hP | apply keeps_ite (P := P) | apply outKeeps_next (P := P) | apply OutKeeps.ite (P := P) | split | dsimp only)

theorem execTbNsLoRead_keeps (hT : Timed P) (ns : BitVec 64) (frac : BitVec 32) (s : State) (hkeep : P s) : OutKeeps P (execTbNsLoRead ns frac s) := by
  have hP := hT.toClosed
  unfold execTbNsLoRead
  with_reducible repeat' (first | intro _ | assumption | apply runTo_keeps hT | apply wr_keeps hP | apply outKeeps_next (P := P) | simp only [Closed.other hP, Closed.otherTl hP] | dsimp only)

theorem execTbSetGo_keeps (hT : Timed P) (s : State) (hkeep : P s) : OutKeeps P (execTbSetGo s) := by
  have hP := hT.toClosed
  unfold execTbSetGo
  with_reducible repeat' (first | intro _ | assumption | apply setTimebase_keeps hT | apply wrB_keeps hP | apply wr_keeps hP | apply keeps_ite (P := P) | apply outKeeps_next (P := P) | apply OutKeeps.ite (P := P) | split | dsimp only)

theorem setTrg_keeps (hP : Closed P) (t : Nat) (x : TrgSt) (s : State) (hkeep : P s) : P (setTrg t x s) := by
  unfold setTrg
  with_reducible repeat' (first | intro _ | assumption | apply onClock_keeps hP | dsimp only)

theorem trgActions_keeps (hP : Closed P) (t : Nat) (s : State) (hkeep : P s) : P (trgActions t s) := by
  unfold trgActions
  with_reducible repeat' (first | intro _ | assumption | apply onClock_keeps hP | apply wrB_keeps hP | apply wr_keeps hP | apply onlyIf_keeps (P := P) | dsimp only)

theorem trgAdvance_keeps (hP : Closed P) (t : Nat) (n : Nat) (s : State) (hkeep : P s) : P (trgAdvance t n s) := by
  unfold trgAdvance
  with_reducible repeat' (first | intro _ | assumption | apply setTrg_keeps hP | apply wr_keeps hP | dsimp only)

theorem trgFire_keeps (hP : Closed P) (t : Nat) (now : Nat) (late : Bool) (s : State) (hkeep : P s) : P (trgFire t now late s) := by
  unfold trgFire
  with_reducible repeat' (first | intro _ | assumption | apply countN_keeps hP | apply count_keeps hP | apply raise_keeps hP | apply setTrg_keeps hP | apply trgActions_keeps hP | apply trgAdvance_keeps hP | apply wrB_keeps hP | apply onlyIf_keeps (P := P) | apply keeps_ite (P := P) | split | dsimp only)

theorem execTriggerArm_keeps (hP : Closed P) (t : Fin 32) (s : State) (hkeep : P s) : OutKeeps P (execTriggerArm t s) := by
  unfold execTriggerArm
  with_reducible repeat' (first | intro _ | assumption | apply setTrg_keeps hP | apply trgFire_keeps hP | apply wrB_keeps hP | apply keeps_ite (P := P) | apply outKeeps_next (P := P) | apply OutKeeps.ite (P := P) | split | dsimp only)

theorem execTriggerFire_keeps (hT : Timed P) (t : Fin 32) (ns : BitVec 64) (s : State) (hkeep : P s) : OutKeeps P (execTriggerFire t ns s) := by
  have hP := hT.toClosed
  unfold execTriggerFire
  with_reducible repeat' (first | intro _ | assumption | apply runTo_keeps hT | apply trgFire_keeps hP | apply keeps_ite (P := P) | apply outKeeps_next (P := P) | apply OutKeeps.ite (P := P) | split | dsimp only)

end Sys2Proof.Machine
end

