-- ==== Sys2Proof/Laws/Keeps/Ether.lean ====
section
/-! SUPPORT. Every function of Machine/Ether.lean keeps a closed property. -/

namespace Sys2Proof.Machine

variable {P : State → Prop}

theorem countNosa_keeps (hP : Closed P) (m : Nat) (s : State) (hkeep : P s) : P (countNosa m s) := by
  unfold countNosa
  with_reducible repeat' (first | intro _ | assumption | apply count_keeps hP | dsimp only)

theorem endLpi_keeps (hP : Closed P) (m : Nat) (s : State) (hkeep : P s) : P (endLpi m s) := by
  unfold endLpi
  with_reducible repeat' (first | intro _ | assumption | apply wrB_keeps hP | dsimp only)

theorem onEth_keeps (hP : Closed P) (f : EthSt → EthSt) (s : State) (hkeep : P s) : P (onEth f s) := by
  unfold onEth
  with_reducible repeat' (first | intro _ | assumption | simp only [Closed.other hP, Closed.otherTl hP] | dsimp only)

theorem setMac_keeps (hP : Closed P) (m : Nat) (x : MacSt) (s : State) (hkeep : P s) : P (setMac m x s) := by
  unfold setMac
  with_reducible repeat' (first | intro _ | assumption | apply onEth_keeps hP | dsimp only)

theorem pnNext_keeps (hP : Closed P) (m : Nat) (s : State) (hkeep : P s) : P (pnNext m s) := by
  unfold pnNext
  with_reducible repeat' (first | intro _ | assumption | apply raise_keeps hP | apply showSec_keeps hP | apply wrB_keeps hP | apply wr_keeps hP | apply onlyIf_keeps (P := P) | apply keeps_ite (P := P) | split | dsimp only)

theorem secSend_keeps (hP : Closed P) (m : Nat) (s : State) (hkeep : P s) : P (secSend m s).2 := by
  unfold secSend
  with_reducible repeat' (first | intro _ | assumption | apply count_keeps hP | apply pnNext_keeps hP | apply secTick_keeps hP | apply onlyIf_keeps (P := P) | apply keeps_ite (P := P) | apply keeps_ite_snd (P := P) | split | dsimp only)

theorem execControlFrameSend_keeps (hP : Closed P) (m : Fin 13) (frame : Option CtlFrame) (credit : BitVec 8) (ns : BitVec 64) (s : State) (hkeep : P s) : OutKeeps P (execControlFrameSend m frame credit ns s) := by
  unfold execControlFrameSend
  with_reducible repeat' (first | intro _ | assumption | apply endLpi_keeps hP | apply secSend_keeps hP | apply seqNext_keeps hP | apply setMac_keeps hP | apply onlyIf_keeps (P := P) | apply keeps_ite (P := P) | apply keeps_ite_snd (P := P) | apply outKeeps_next (P := P) | apply OutKeeps.ite (P := P) | refine pair_keeps (P := P) (by assumption) ?_ | split | dsimp only)

theorem execControlFrameTimeout_keeps (hP : Closed P) (m : Fin 13) (ns : BitVec 64) (s : State) (hkeep : P s) : OutKeeps P (execControlFrameTimeout m ns s) := by
  unfold execControlFrameTimeout
  with_reducible repeat' (first | intro _ | assumption | apply countN_keeps hP | apply setMac_keeps hP | apply keeps_ite (P := P) | apply keeps_ite_snd (P := P) | apply outKeeps_next (P := P) | apply OutKeeps.ite (P := P) | split | dsimp only)

theorem execFrameLaunch_keeps (hP : Closed P) (m : Fin 13) (ns : BitVec 64) (s : State) (hkeep : P s) : OutKeeps P (execFrameLaunch m ns s) := by
  unfold execFrameLaunch
  with_reducible repeat' (first | intro _ | assumption | apply endLpi_keeps hP | apply secSend_keeps hP | apply seqNext_keeps hP | apply setMac_keeps hP | apply onlyIf_keeps (P := P) | apply keeps_ite (P := P) | apply keeps_ite_snd (P := P) | apply outKeeps_next (P := P) | apply OutKeeps.ite (P := P) | refine pair_keeps (P := P) (by assumption) ?_ | split | dsimp only)

theorem execLaunchDeadlineDrop_keeps (hP : Closed P) (m : Fin 13) (ns : BitVec 64) (s : State) (hkeep : P s) : OutKeeps P (execLaunchDeadlineDrop m ns s) := by
  unfold execLaunchDeadlineDrop
  with_reducible repeat' (first | intro _ | assumption | apply count_keeps hP | apply setMac_keeps hP | apply onlyIf_keeps (P := P) | apply forEach_keeps (P := P) | apply outKeeps_next (P := P) | dsimp only)

theorem showPaused_keeps (hP : Closed P) (m : Nat) (s : State) (hkeep : P s) : P (showPaused m s) := by
  unfold showPaused
  with_reducible repeat' (first | intro _ | assumption | apply wrB_keeps hP | apply forEach_keeps (P := P) | dsimp only)

theorem macPorts_keeps (hP : Closed P) (m : Nat) (st : Nat) (s : State) (hkeep : P s) : P (macPorts m st s) := by
  unfold macPorts
  with_reducible repeat' (first | intro _ | assumption | apply portsChanged_keeps hP | apply setPort_keeps hP | apply onlyIf_keeps (P := P) | apply forEach_keeps (P := P) | dsimp only)

theorem macDown_keeps (hP : Closed P) (m : Nat) (s : State) (hkeep : P s) : P (macDown m s) := by
  unfold macDown
  with_reducible repeat' (first | intro _ | assumption | apply countN_keeps hP | apply endLpi_keeps hP | apply macPorts_keeps hP | apply raise_keeps hP | apply setMac_keeps hP | apply showPaused_keeps hP | apply showSec_keeps hP | apply wrB_keeps hP | apply onlyIf_keeps (P := P) | apply keeps_ite (P := P) | split | dsimp only)

theorem execLinkDown_keeps (hP : Closed P) (m : Fin 13) (s : State) (hkeep : P s) : OutKeeps P (execLinkDown m s) := by
  unfold execLinkDown
  with_reducible repeat' (first | intro _ | assumption | apply macDown_keeps hP | apply wrB_keeps hP | apply onlyIf_keeps (P := P) | apply outKeeps_next (P := P) | dsimp only)

theorem macUp_keeps (hP : Closed P) (m : Nat) (s : State) (hkeep : P s) : P (macUp m s) := by
  unfold macUp
  with_reducible repeat' (first | intro _ | assumption | apply raise_keeps hP | apply showSec_keeps hP | apply wrB_keeps hP | apply onlyIf_keeps (P := P) | apply keeps_ite (P := P) | split | dsimp only)

theorem execLinkUp_keeps (hP : Closed P) (m : Fin 13) (speed : Fin 3) (half : Bool) (s : State) (hkeep : P s) : OutKeeps P (execLinkUp m speed half s) := by
  unfold execLinkUp
  with_reducible repeat' (first | intro _ | assumption | apply macDown_keeps hP | apply macUp_keeps hP | apply wrB_keeps hP | apply wr_keeps hP | apply keeps_ite (P := P) | apply outKeeps_next (P := P) | apply OutKeeps.ite (P := P) | split | dsimp only)

theorem execLpiEnter_keeps (hP : Closed P) (m : Fin 13) (s : State) (hkeep : P s) : OutKeeps P (execLpiEnter m s) := by
  unfold execLpiEnter
  with_reducible repeat' (first | intro _ | assumption | apply wrB_keeps hP | apply keeps_ite (P := P) | apply keeps_ite_snd (P := P) | apply outKeeps_next (P := P) | apply OutKeeps.ite (P := P) | split | dsimp only)

theorem execPauseExpiry_keeps (hP : Closed P) (m : Fin 13) (priority : Option (Fin 8)) (s : State) (hkeep : P s) : OutKeeps P (execPauseExpiry m priority s) := by
  unfold execPauseExpiry
  with_reducible repeat' (first | intro _ | assumption | apply setMac_keeps hP | apply showPaused_keeps hP | apply outKeeps_next (P := P) | refine pair_keeps (P := P) (by assumption) ?_ | split | dsimp only)

theorem fcActed_keeps (hP : Closed P) (m : Nat) (s : State) (hkeep : P s) : P (fcActed m s) := by
  unfold fcActed
  with_reducible repeat' (first | intro _ | assumption | apply raise_keeps hP | apply setMac_keeps hP | apply keeps_ite (P := P) | split | dsimp only)

theorem queueAudio_keeps (hP : Closed P) (m : Nat) (f : TxFrame) (s : State) (hkeep : P s) : P (queueAudio m f s) := by
  unfold queueAudio
  with_reducible repeat' (first | intro _ | assumption | apply count_keeps hP | apply endLpi_keeps hP | apply setMac_keeps hP | apply keeps_ite (P := P) | split | dsimp only)

theorem rxReplay_keeps (hP : Closed P) (m : Nat) (i : Nat) (t : RxSec) (s : State) (hkeep : P s) : P (rxReplay m i t s).2 := by
  unfold rxReplay
  with_reducible repeat' (first | intro _ | assumption | apply count_keeps hP | apply setMac_keeps hP | apply onlyIf_keeps (P := P) | apply keeps_ite (P := P) | apply keeps_ite_snd (P := P) | split | dsimp only)

theorem secReceive_keeps (hP : Closed P) (m : Nat) (f : RxFrame) (s : State) (hkeep : P s) : P (secReceive m f s).2 := by
  unfold secReceive
  with_reducible repeat' (first | intro _ | assumption | apply countNosa_keeps hP | apply count_keeps hP | apply rxReplay_keeps hP | apply keeps_ite (P := P) | apply keeps_ite_snd (P := P) | refine pair_keeps (P := P) (by assumption) ?_ | split | dsimp only)

theorem takePause_keeps (hP : Closed P) (m : Nat) (time : Nat) (s : State) (hkeep : P s) : P (takePause m time s) := by
  unfold takePause
  with_reducible repeat' (first | intro _ | assumption | apply count_keeps hP | apply fcActed_keeps hP | apply setMac_keeps hP | apply showPaused_keeps hP | apply keeps_ite (P := P) | split | dsimp only)

theorem takePfc_keeps (hP : Closed P) (m : Nat) (vector : Nat) (times : List Nat) (s : State) (hkeep : P s) : P (takePfc m vector times s) := by
  unfold takePfc
  with_reducible repeat' (first | intro _ | assumption | apply count_keeps hP | apply fcActed_keeps hP | apply setMac_keeps hP | apply showPaused_keeps hP | apply keeps_ite (P := P) | split | dsimp only)

end Sys2Proof.Machine
end

