-- ==== Sys2Proof/Laws/Keeps/Lanes.lean ====
section
/-! SUPPORT. Every function of Machine/Lanes.lean keeps a closed property. -/

namespace Sys2Proof.Machine

variable {P : State → Prop}

theorem abortScan_keeps (hP : Closed P) (n : Nat) (s : State) (hkeep : P s) : P (abortScan n s) := by
  unfold abortScan
  with_reducible repeat' (first | intro _ | assumption | apply wrB_keeps hP | apply wr_keeps hP | apply keeps_ite (P := P) | split | dsimp only)

theorem setLn_keeps (hP : Closed P) (n : Nat) (st : Nat) (s : State) (hkeep : P s) : P (setLn n st s) := by
  unfold setLn
  with_reducible repeat' (first | intro _ | assumption | apply abortScan_keeps hP | apply wr_keeps hP | apply keeps_ite (P := P) | split | dsimp only)

theorem lnDown_keeps (hP : Closed P) (n : Nat) (s : State) (hkeep : P s) : P (lnDown n s) := by
  unfold lnDown
  with_reducible repeat' (first | intro _ | assumption | apply framerLost_keeps hP | apply macDown_keeps hP | apply wrB_keeps hP | apply onlyIf_keeps (P := P) | apply keeps_ite (P := P) | split | dsimp only)

theorem setLane_keeps (hP : Closed P) (n : Nat) (x : LaneSt) (s : State) (hkeep : P s) : P (setLane n x s) := by
  unfold setLane
  with_reducible repeat' (first | intro _ | assumption | simp only [Closed.other hP, Closed.otherTl hP] | dsimp only)

theorem lnPreset_keeps (hP : Closed P) (n : Nat) (s : State) (hkeep : P s) : P (lnPreset n s) := by
  unfold lnPreset
  with_reducible repeat' (first | intro _ | assumption | apply wr_keeps hP | apply forEach_keeps (P := P) | apply keeps_ite (P := P) | split | dsimp only)

theorem startTrain_keeps (hP : Closed P) (n : Nat) (s : State) (hkeep : P s) : P (startTrain n s) := by
  unfold startTrain
  with_reducible repeat' (first | intro _ | assumption | apply lnPreset_keeps hP | apply setLane_keeps hP | apply setLn_keeps hP | apply onlyIf_keeps (P := P) | dsimp only)

theorem settleLane_keeps (hP : Closed P) (n : Nat) (s : State) (hkeep : P s) : P (settleLane n s) := by
  unfold settleLane
  with_reducible repeat' (first | intro _ | assumption | apply freeNext_keeps hP | apply wr_keeps hP | apply forEach_keeps (P := P) | apply keeps_ite (P := P) | split | dsimp only)

theorem startLock_keeps (hP : Closed P) (n : Nat) (s : State) (hkeep : P s) : P (startLock n s) := by
  unfold startLock
  with_reducible repeat' (first | intro _ | assumption | apply lnPreset_keeps hP | apply setLane_keeps hP | apply setLn_keeps hP | apply settleLane_keeps hP | apply onlyIf_keeps (P := P) | dsimp only)

theorem ethNext_keeps (hP : Closed P) (n : Nat) (s : State) (hkeep : P s) : P (ethNext n s) := by
  unfold ethNext
  with_reducible repeat' (first | intro _ | assumption | apply setLn_keeps hP | apply startLock_keeps hP | apply startTrain_keeps hP | apply keeps_ite (P := P) | split | dsimp only)

theorem bringUp_keeps (hP : Closed P) (n : Nat) (s : State) (hkeep : P s) : P (bringUp n s) := by
  unfold bringUp
  with_reducible repeat' (first | intro _ | assumption | apply ethNext_keeps hP | apply lnDown_keeps hP | apply setLane_keeps hP | apply setLn_keeps hP | apply keeps_ite (P := P) | split | dsimp only)

theorem substituted_keeps (hP : Closed P) (n : Nat) (m : Nat) (s : State) (hkeep : P s) : P (substituted n m s) := by
  unfold substituted
  with_reducible repeat' (first | intro _ | assumption | apply count_keeps hP | apply raise_keeps hP | dsimp only)

theorem moveEth_keeps (hP : Closed P) (n : Nat) (m : Nat) (s : State) (hkeep : P s) : P (moveEth n m s) := by
  unfold moveEth
  with_reducible repeat' (first | intro _ | assumption | apply bringUp_keeps hP | apply setLane_keeps hP | apply substituted_keeps hP | apply wrReg_keeps hP | apply wr_keeps hP | dsimp only)

theorem seekSpare_keeps (hP : Closed P) (n : Nat) (lo : Nat) (f : Nat) (s : State) (hkeep : P s) : P (seekSpare n lo f s) := by
  unfold seekSpare
  with_reducible repeat' (first | intro _ | assumption | apply moveEth_keeps hP | apply raise_keeps hP | apply setLane_keeps hP | apply keeps_ite (P := P) | refine pair_keeps (P := P) (by assumption) ?_ | split | dsimp only)

theorem failLane_keeps (hP : Closed P) (n : Nat) (f : Nat) (s : State) (hkeep : P s) : P (failLane n f s) := by
  unfold failLane
  with_reducible repeat' (first | intro _ | assumption | apply lnDown_keeps hP | apply raise_keeps hP | apply seekSpare_keeps hP | apply setLane_keeps hP | apply setLn_keeps hP | apply wrB_keeps hP | apply keeps_ite (P := P) | split | dsimp only)

theorem autoFail_keeps (hP : Closed P) (n : Nat) (s : State) (hkeep : P s) : P (autoFail n s) := by
  unfold autoFail
  with_reducible repeat' (first | intro _ | assumption | apply failLane_keeps hP | dsimp only)

theorem capsAgree_keeps (hP : Closed P) (s : State) (hkeep : P s) : P (capsAgree s) := by
  unfold capsAgree
  with_reducible repeat' (first | intro _ | assumption | apply pairDerive_keeps hP | apply setLane_keeps hP | apply setLn_keeps hP | apply wrB_keeps hP | apply wr_keeps hP | apply forEach_keeps (P := P) | apply keeps_ite (P := P) | apply keeps_ite_snd (P := P) | split | dsimp only)

theorem lnActive_keeps (hP : Closed P) (n : Nat) (s : State) (hkeep : P s) : P (lnActive n s) := by
  unfold lnActive
  with_reducible repeat' (first | intro _ | assumption | apply setLane_keeps hP | apply setLn_keeps hP | apply wrB_keeps hP | dsimp only)

theorem execBlockLockAcquired_keeps (hP : Closed P) (n : Fin 16) (s : State) (hkeep : P s) : OutKeeps P (execBlockLockAcquired n s) := by
  unfold execBlockLockAcquired
  with_reducible repeat' (first | intro _ | assumption | apply lnActive_keeps hP | apply macUp_keeps hP | apply setLane_keeps hP | apply setLn_keeps hP | apply wrB_keeps hP | apply onlyIf_keeps (P := P) | apply keeps_ite (P := P) | apply outKeeps_next (P := P) | apply OutKeeps.ite (P := P) | split | dsimp only)

theorem lockLoss_keeps (hP : Closed P) (n : Nat) (ns : Nat) (s : State) (hkeep : P s) : P (lockLoss n ns s) := by
  unfold lockLoss
  with_reducible repeat' (first | intro _ | assumption | apply autoFail_keeps hP | apply count_keeps hP | apply lnDown_keeps hP | apply setLane_keeps hP | apply keeps_ite (P := P) | split | dsimp only)

theorem execBlockLockLoss_keeps (hP : Closed P) (n : Fin 16) (ns : BitVec 64) (s : State) (hkeep : P s) : OutKeeps P (execBlockLockLoss n ns s) := by
  unfold execBlockLockLoss
  with_reducible repeat' (first | intro _ | assumption | apply lockLoss_keeps hP | apply outKeeps_next (P := P) | dsimp only)

theorem execCapabilitySend_keeps (hP : Closed P) (n : Fin 16) (s : State) (hkeep : P s) : OutKeeps P (execCapabilitySend n s) := by
  unfold execCapabilitySend
  with_reducible repeat' (first | intro _ | assumption | apply setLane_keeps hP | apply keeps_ite (P := P) | apply outKeeps_next (P := P) | apply OutKeeps.ite (P := P) | split | dsimp only)

theorem execCapabilityWord_keeps (hP : Closed P) (n : Fin 16) (words : List (BitVec 64)) (s : State) (hkeep : P s) : OutKeeps P (execCapabilityWord n words s) := by
  unfold execCapabilityWord
  with_reducible repeat' (first | intro _ | assumption | apply capsAgree_keeps hP | apply lnActive_keeps hP | apply raise_keeps hP | apply setLane_keeps hP | apply setLn_keeps hP | apply wrB_keeps hP | apply keeps_ite (P := P) | apply outKeeps_next (P := P) | apply OutKeeps.ite (P := P) | split | dsimp only)

theorem execDetectProbe_keeps (hP : Closed P) (n : Fin 16) (found : Bool) (s : State) (hkeep : P s) : OutKeeps P (execDetectProbe n found s) := by
  unfold execDetectProbe
  with_reducible repeat' (first | intro _ | assumption | apply setLane_keeps hP | apply startTrain_keeps hP | apply keeps_ite (P := P) | apply outKeeps_next (P := P) | apply OutKeeps.ite (P := P) | split | dsimp only)

theorem execDetectTimeout_keeps (hP : Closed P) (n : Fin 16) (s : State) (hkeep : P s) : OutKeeps P (execDetectTimeout n s) := by
  unfold execDetectTimeout
  with_reducible repeat' (first | intro _ | assumption | apply raise_keeps hP | apply setLane_keeps hP | apply keeps_ite (P := P) | apply outKeeps_next (P := P) | apply OutKeeps.ite (P := P) | split | dsimp only)

theorem execDfeAdapt_keeps (hP : Closed P) (n : Fin 16) (up : BitVec 5) (errors : BitVec 11) (s : State) (hkeep : P s) : OutKeeps P (execDfeAdapt n up errors s) := by
  unfold execDfeAdapt
  with_reducible repeat' (first | intro _ | assumption | apply wrSat_keeps hP | apply wr_keeps hP | apply onlyIf_keeps (P := P) | apply forEach_keeps (P := P) | apply keeps_ite (P := P) | apply outKeeps_next (P := P) | apply OutKeeps.ite (P := P) | split | dsimp only)

theorem execExchangeTimeout_keeps (hP : Closed P) (n : Fin 16) (s : State) (hkeep : P s) : OutKeeps P (execExchangeTimeout n s) := by
  unfold execExchangeTimeout
  with_reducible repeat' (first | intro _ | assumption | apply setLn_keeps hP | apply wrB_keeps hP | apply keeps_ite (P := P) | apply outKeeps_next (P := P) | apply OutKeeps.ite (P := P) | split | dsimp only)

theorem execEyeScanDone_keeps (hP : Closed P) (n : Fin 16) (errs : BitVec 64) (s : State) (hkeep : P s) : OutKeeps P (execEyeScanDone n errs s) := by
  unfold execEyeScanDone
  with_reducible repeat' (first | intro _ | assumption | apply wrB_keeps hP | apply wrSat_keeps hP | apply keeps_ite (P := P) | apply outKeeps_next (P := P) | apply OutKeeps.ite (P := P) | split | dsimp only)

theorem execEyeScanGo_keeps (hP : Closed P) (n : Fin 16) (phase : BitVec 6) (voff : BitVec 7) (dwell : BitVec 4) (s : State) (hkeep : P s) : OutKeeps P (execEyeScanGo n phase voff dwell s) := by
  unfold execEyeScanGo
  with_reducible repeat' (first | intro _ | assumption | apply wrB_keeps hP | apply wr_keeps hP | apply keeps_ite (P := P) | apply outKeeps_next (P := P) | apply OutKeeps.ite (P := P) | split | dsimp only)

theorem execHiberWindow_keeps (hP : Closed P) (n : Fin 16) (invalid : BitVec 32) (s : State) (hkeep : P s) : OutKeeps P (execHiberWindow n invalid s) := by
  unfold execHiberWindow
  with_reducible repeat' (first | intro _ | assumption | apply autoFail_keeps hP | apply count_keeps hP | apply setLane_keeps hP | apply wrB_keeps hP | apply onlyIf_keeps (P := P) | apply keeps_ite (P := P) | apply outKeeps_next (P := P) | apply OutKeeps.ite (P := P) | split | dsimp only)

theorem trainFailed_keeps (hP : Closed P) (n : Nat) (next : State → State) (s : State) (h_next : ∀  t, P t → P (next t)) (hkeep : P s) : P (trainFailed n next s) := by
  unfold trainFailed
  with_reducible repeat' (first | intro _ | assumption | apply autoFail_keeps hP | apply count_keeps hP | apply setLane_keeps hP | apply h_next | apply keeps_ite (P := P) | split | dsimp only)

theorem execKrAutoneg_keeps (hP : Closed P) (n : Fin 16) (ok : Bool) (s : State) (hkeep : P s) : OutKeeps P (execKrAutoneg n ok s) := by
  unfold execKrAutoneg
  with_reducible repeat' (first | intro _ | assumption | apply ethNext_keeps hP | apply setLn_keeps hP | apply settleLane_keeps hP | apply startTrain_keeps hP | apply trainFailed_keeps hP | apply keeps_ite (P := P) | apply outKeeps_next (P := P) | apply OutKeeps.ite (P := P) | split | dsimp only)

theorem lnRetry_keeps (hP : Closed P) (n : Nat) (s : State) (hkeep : P s) : P (lnRetry n s) := by
  unfold lnRetry
  with_reducible repeat' (first | intro _ | assumption | apply bringUp_keeps hP | apply keeps_ite (P := P) | split | dsimp only)

theorem execLaneRetryBringup_keeps (hP : Closed P) (n : Fin 16) (s : State) (hkeep : P s) : OutKeeps P (execLaneRetryBringup n s) := by
  unfold execLaneRetryBringup
  with_reducible repeat' (first | intro _ | assumption | apply lnRetry_keeps hP | apply outKeeps_next (P := P) | dsimp only)

theorem execLaneSignalLoss_keeps (hP : Closed P) (n : Fin 16) (s : State) (hkeep : P s) : OutKeeps P (execLaneSignalLoss n s) := by
  unfold execLaneSignalLoss
  with_reducible repeat' (first | intro _ | assumption | apply bringUp_keeps hP | apply wrB_keeps hP | apply keeps_ite (P := P) | apply outKeeps_next (P := P) | apply OutKeeps.ite (P := P) | split | dsimp only)

theorem execLaneSignalSet_keeps (hP : Closed P) (n : Fin 16) (s : State) (hkeep : P s) : OutKeeps P (execLaneSignalSet n s) := by
  unfold execLaneSignalSet
  with_reducible repeat' (first | intro _ | assumption | apply bringUp_keeps hP | apply wrB_keeps hP | apply keeps_ite (P := P) | apply outKeeps_next (P := P) | apply OutKeeps.ite (P := P) | split | dsimp only)

theorem execLnCtlClear_keeps (hP : Closed P) (n : Fin 16) (s : State) (hkeep : P s) : OutKeeps P (execLnCtlClear n s) := by
  unfold execLnCtlClear
  with_reducible repeat' (first | intro _ | assumption | apply bringUp_keeps hP | apply lnRetry_keeps hP | apply setLane_keeps hP | apply wrB_keeps hP | apply wr_keeps hP | apply keeps_ite (P := P) | apply outKeeps_next (P := P) | apply OutKeeps.ite (P := P) | refine pair_keeps (P := P) (by assumption) ?_ | split | dsimp only)

theorem execLnCtlFail_keeps (hP : Closed P) (n : Fin 16) (s : State) (hkeep : P s) : OutKeeps P (execLnCtlFail n s) := by
  unfold execLnCtlFail
  with_reducible repeat' (first | intro _ | assumption | apply autoFail_keeps hP | apply outKeeps_next (P := P) | dsimp only)

theorem execLnCtlPreset_keeps (hP : Closed P) (n : Fin 16) (s : State) (hkeep : P s) : OutKeeps P (execLnCtlPreset n s) := by
  unfold execLnCtlPreset
  with_reducible repeat' (first | intro _ | assumption | apply setLane_keeps hP | apply outKeeps_next (P := P) | dsimp only)

theorem execLnCtlRestart_keeps (hP : Closed P) (n : Fin 16) (s : State) (hkeep : P s) : OutKeeps P (execLnCtlRestart n s) := by
  unfold execLnCtlRestart
  with_reducible repeat' (first | intro _ | assumption | apply bringUp_keeps hP | apply lnRetry_keeps hP | apply keeps_ite (P := P) | apply outKeeps_next (P := P) | apply OutKeeps.ite (P := P) | split | dsimp only)

theorem execLockTimeout_keeps (hP : Closed P) (n : Fin 16) (s : State) (hkeep : P s) : OutKeeps P (execLockTimeout n s) := by
  unfold execLockTimeout
  with_reducible repeat' (first | intro _ | assumption | apply ethNext_keeps hP | apply startLock_keeps hP | apply startTrain_keeps hP | apply keeps_ite (P := P) | apply outKeeps_next (P := P) | apply OutKeeps.ite (P := P) | split | dsimp only)

theorem execRelockTimeout_keeps (hP : Closed P) (n : Fin 16) (s : State) (hkeep : P s) : OutKeeps P (execRelockTimeout n s) := by
  unfold execRelockTimeout
  with_reducible repeat' (first | intro _ | assumption | apply ethNext_keeps hP | apply setLane_keeps hP | apply startTrain_keeps hP | apply keeps_ite (P := P) | apply outKeeps_next (P := P) | apply OutKeeps.ite (P := P) | split | dsimp only)

theorem takeSwap_keeps (hP : Closed P) (n : Nat) (blk : Nat) (ll : Nat) (src : Nat) (ack : Bool) (s : State) (hkeep : P s) : P (takeSwap n blk ll src ack s) := by
  unfold takeSwap
  with_reducible repeat' (first | intro _ | assumption | apply seekSpare_keeps hP | apply setLane_keeps hP | apply keeps_ite (P := P) | refine pair_keeps (P := P) (by assumption) ?_ | split | dsimp only)

theorem execSwapBlock_keeps (hP : Closed P) (n : Fin 16) (payload : BitVec 64) (s : State) (hkeep : P s) : OutKeeps P (execSwapBlock n payload s) := by
  unfold execSwapBlock
  with_reducible repeat' (first | intro _ | assumption | apply takeSwap_keeps hP | apply keeps_ite (P := P) | apply outKeeps_next (P := P) | apply OutKeeps.ite (P := P) | split | dsimp only)

theorem execSwapBlockDue_keeps (hP : Closed P) (n : Fin 16) (s : State) (hkeep : P s) : OutKeeps P (execSwapBlockDue n s) := by
  unfold execSwapBlockDue
  with_reducible repeat' (first | intro _ | assumption | apply framerLost_keeps hP | apply seekSpare_keeps hP | apply setLane_keeps hP | apply setLn_keeps hP | apply substituted_keeps hP | apply wr_keeps hP | apply keeps_ite (P := P) | apply outKeeps_next (P := P) | apply OutKeeps.ite (P := P) | refine pair_keeps (P := P) (by assumption) ?_ | split | dsimp only)

theorem execTrainTimeout_keeps (hP : Closed P) (n : Fin 16) (s : State) (hkeep : P s) : OutKeeps P (execTrainTimeout n s) := by
  unfold execTrainTimeout
  with_reducible repeat' (first | intro _ | assumption | apply ethNext_keeps hP | apply setLane_keeps hP | apply setLn_keeps hP | apply trainFailed_keeps hP | apply keeps_ite (P := P) | apply outKeeps_next (P := P) | apply OutKeeps.ite (P := P) | split | dsimp only)

theorem takeRequests_keeps (hP : Closed P) (n : Nat) (w : Nat) (s : State) (hkeep : P s) : P (takeRequests n w s) := by
  unfold takeRequests
  with_reducible repeat' (first | intro _ | assumption | apply setLane_keeps hP | apply wr_keeps hP | apply keeps_ite (P := P) | apply keeps_ite_snd (P := P) | split | dsimp only)

theorem execTrainingFrame_keeps (hP : Closed P) (n : Fin 16) (word : BitVec 32) (settled : Bool) (s : State) (hkeep : P s) : OutKeeps P (execTrainingFrame n word settled s) := by
  unfold execTrainingFrame
  with_reducible repeat' (first | intro _ | assumption | apply setLane_keeps hP | apply setLn_keeps hP | apply settleLane_keeps hP | apply takeRequests_keeps hP | apply onlyIf_keeps (P := P) | apply keeps_ite (P := P) | apply outKeeps_next (P := P) | apply OutKeeps.ite (P := P) | split | dsimp only)

theorem laneTick_keeps (hP : Closed P) (s : State) (hkeep : P s) : P (laneTick s) := by
  unfold laneTick
  with_reducible repeat' (first | intro _ | assumption | apply failLane_keeps hP | apply forEach_keeps (P := P) | apply keeps_ite (P := P) | refine pair_keeps (P := P) (by assumption) ?_ | split | dsimp only)

theorem lanesQuiet_keeps (hP : Closed P) (s : State) (hkeep : P s) : P (lanesQuiet s) := by
  unfold lanesQuiet
  with_reducible repeat' (first | intro _ | assumption | apply setLn_keeps hP | apply onlyIf_keeps (P := P) | apply forEach_keeps (P := P) | dsimp only)

theorem lanesRun_keeps (hP : Closed P) (s : State) (hkeep : P s) : P (lanesRun s) := by
  unfold lanesRun
  with_reducible repeat' (first | intro _ | assumption | apply bringUp_keeps hP | apply onlyIf_keeps (P := P) | apply forEach_keeps (P := P) | dsimp only)

end Sys2Proof.Machine
end

