-- ==== Sys2Proof/Laws/Keeps/Streams.lean ====
section
/-! SUPPORT. Every function of Machine/Streams.lean keeps a closed property. -/

namespace Sys2Proof.Machine

variable {P : State → Prop}

theorem nearest_keeps (hP : Closed P) (q : Nat) (r : Nat) (n : Nat) (s : State) (hkeep : P s) : P (nearest q r n s).2 := by
  unfold nearest
  with_reducible repeat' (first | intro _ | assumption | apply pickNat_keeps hP | apply keeps_ite (P := P) | apply keeps_ite_snd (P := P) | split | dsimp only)

theorem firstSample_keeps (hP : Closed P) (ws : List (BitVec 32)) (i : Nat) (arrived : Nat) (p : RxPayload) (s : State) (hkeep : P s) :
    P (firstSample ws i arrived p s).2 := by
  cases p with
  | aaf => exact nearest_keeps hP _ _ _ _ hkeep
  | _ => exact hkeep

theorem setSin_keeps (hP : Closed P) (i : Nat) (x : SinSt) (s : State) (hkeep : P s) : P (setSin i x s) := by
  unfold setSin
  with_reducible repeat' (first | intro _ | assumption | apply onEth_keeps hP | dsimp only)

theorem noteLeg_keeps (hP : Closed P) (i : Nat) (b : Bool) (js : List Nat) (s : State) (hkeep : P s) : P (noteLeg i b js s) := by
  unfold noteLeg
  with_reducible repeat' (first | intro _ | assumption | apply setSin_keeps hP | apply keeps_ite (P := P) | split | dsimp only)

theorem mergeStep_keeps (hP : Closed P) (i : Nat) (seq : Nat) (w : Nat) (s : State) (hkeep : P s) : P (mergeStep i seq w s).2 := by
  unfold mergeStep
  with_reducible repeat' (first | intro _ | assumption | apply count_keeps hP | apply setSin_keeps hP | apply keeps_ite (P := P) | apply keeps_ite_snd (P := P) | refine pair_keeps (P := P) (by assumption) ?_ | split | dsimp only)

theorem placeSample_keeps (hP : Closed P) (ws : List (BitVec 32)) (i : Nat) (arrived : Nat) (j : Nat) (n : Nat) (c : Nat) (x : BitVec 24) (s : State) (hkeep : P s) : P (placeSample ws i arrived j n c x s) := by
  unfold placeSample
  with_reducible repeat' (first | intro _ | assumption | apply detect_keeps hP | apply setSin_keeps hP | apply onlyIf_keeps (P := P) | refine pair_keeps (P := P) (by assumption) ?_ | split | dsimp only)

theorem placeSamples_keeps (hP : Closed P) (ws : List (BitVec 32)) (i : Nat) (arrived : Nat) (n0 : Nat) (xs : List (BitVec 24)) (s : State) (hkeep : P s) : P (placeSamples ws i arrived n0 xs s) := by
  unfold placeSamples
  with_reducible repeat' (first | intro _ | assumption | apply count_keeps hP | apply placeSample_keeps hP | apply onlyIf_keeps (P := P) | apply forEach_keeps (P := P) | dsimp only)

theorem setSinState_keeps (hP : Closed P) (i : Nat) (st : Nat) (s : State) (hkeep : P s) : P (setSinState i st s) := by
  unfold setSinState
  with_reducible repeat' (first | intro _ | assumption | apply wrB_keeps hP | apply wr_keeps hP | dsimp only)

theorem sinLive_keeps (hP : Closed P) (i : Nat) (s : State) (hkeep : P s) : P (sinLive i s) := by
  unfold sinLive
  with_reducible repeat' (first | intro _ | assumption | apply setSinState_keeps hP | apply setSin_keeps hP | apply keeps_ite (P := P) | split | dsimp only)

theorem takeMedia_keeps (hP : Closed P) (m : Nat) (i : Nat) (b : Bool) (f : RxFrame) (s : State) (hkeep : P s) : P (takeMedia m i b f s) := by
  unfold takeMedia
  with_reducible repeat' (first | intro _ | assumption | apply count_keeps hP | apply feIntake_keeps hP | apply firstSample_keeps hP | apply mergeStep_keeps hP | apply noteLeg_keeps hP | apply placeSamples_keeps hP | apply seqNext_keeps hP | apply sinLive_keeps hP | apply wrB_keeps hP | apply onlyIf_keeps (P := P) | apply forEach_keeps (P := P) | apply keeps_ite (P := P) | apply keeps_ite_snd (P := P) | refine pair_keeps (P := P) (by assumption) ?_ | split | dsimp only)

theorem countRxOvf_keeps (hP : Closed P) (m : Nat) (s : State) (hkeep : P s) : P (countRxOvf m s) := by
  unfold countRxOvf
  with_reducible repeat' (first | intro _ | assumption | apply count_keeps hP | dsimp only)

theorem takeControl_keeps (hP : Closed P) (m : Nat) (f : RxFrame) (s : State) (hkeep : P s) : P (takeControl m f s) := by
  unfold takeControl
  with_reducible repeat' (first | intro _ | assumption | apply countRxOvf_keeps hP | apply setMac_keeps hP | refine pair_keeps (P := P) (by assumption) ?_ | split | dsimp only)

theorem countUnmatched_keeps (hP : Closed P) (m : Nat) (s : State) (hkeep : P s) : P (countUnmatched m s) := by
  unfold countUnmatched
  with_reducible repeat' (first | intro _ | assumption | apply count_keeps hP | dsimp only)

theorem classify_keeps (hP : Closed P) (m : Nat) (f : RxFrame) (s : State) (hkeep : P s) : P (classify m f s) := by
  unfold classify
  with_reducible repeat' (first | intro _ | assumption | apply countRxOvf_keeps hP | apply countUnmatched_keeps hP | apply netHeartbeat_keeps hP | apply setMac_keeps hP | apply takeControl_keeps hP | apply takeMedia_keeps hP | apply forEach_keeps (P := P) | apply keeps_ite (P := P) | apply keeps_ite_snd (P := P) | refine pair_keeps (P := P) (by assumption) ?_ | split | dsimp only)

theorem deliverIn_keeps (hP : Closed P) (c : Nat) (j : Nat) (xs : List Int) (s : State) (hkeep : P s) : P (deliverIn c j xs s) := by
  unfold deliverIn
  with_reducible repeat' (first | intro _ | assumption | apply feTake_keeps hP | apply forEach_keeps (P := P) | dsimp only)

theorem showSout_keeps (hP : Closed P) (e : Nat) (s : State) (hkeep : P s) : P (showSout e s) := by
  unfold showSout
  with_reducible repeat' (first | intro _ | assumption | apply wr_keeps hP | apply keeps_ite (P := P) | split | dsimp only)

theorem zeroCheck_keeps (hP : Closed P) (e : Nat) (k : Nat) (s : State) (hkeep : P s) : P (zeroCheck e k s) := by
  unfold zeroCheck
  with_reducible repeat' (first | intro _ | assumption | apply count_keeps hP | apply onEth_keeps hP | apply keeps_ite (P := P) | apply keeps_ite_snd (P := P) | split | dsimp only)

theorem egressTick_keeps (hP : Closed P) (s : State) (hkeep : P s) : P (egressTick s) := by
  unfold egressTick
  with_reducible repeat' (first | intro _ | assumption | apply onEth_keeps hP | apply showSout_keeps hP | apply zeroCheck_keeps hP | apply onlyIf_keeps (P := P) | apply forEach_keeps (P := P) | dsimp only)

theorem execEgressPacketBuild_keeps (hP : Closed P) (e : Fin 512) (s : State) (hkeep : P s) : OutKeeps P (execEgressPacketBuild e s) := by
  unfold execEgressPacketBuild
  with_reducible repeat' (first | intro _ | assumption | apply queueAudio_keeps hP | apply showSout_keeps hP | apply wrB_keeps hP | apply zeroCheck_keeps hP | apply keeps_ite (P := P) | apply outKeeps_next (P := P) | apply OutKeeps.ite (P := P) | split | dsimp only)

theorem execFrameReceive_keeps (hP : Closed P) (m : Fin 13) (f : RxFrame) (s : State) (hkeep : P s) : OutKeeps P (execFrameReceive m f s) := by
  unfold execFrameReceive
  with_reducible repeat' (first | intro _ | assumption | apply classify_keeps hP | apply countUnmatched_keeps hP | apply count_keeps hP | apply secReceive_keeps hP | apply seqNext_keeps hP | apply takePause_keeps hP | apply takePfc_keeps hP | apply wrB_keeps hP | apply keeps_ite (P := P) | apply keeps_ite_snd (P := P) | apply outKeeps_next (P := P) | apply OutKeeps.ite (P := P) | refine pair_keeps (P := P) (by assumption) ?_ | split | dsimp only)

theorem sinStale_keeps (hP : Closed P) (i : Nat) (s : State) (hkeep : P s) : P (sinStale i s) := by
  unfold sinStale
  with_reducible repeat' (first | intro _ | assumption | apply closeGate_keeps hP | apply count_keeps hP | apply raise_keeps hP | apply setSinState_keeps hP | apply setSin_keeps hP | apply forEach_keeps (P := P) | dsimp only)

theorem sinClose_keeps (hP : Closed P) (i : Nat) (j : Nat) (s : State) (hkeep : P s) : P (sinClose i j s) := by
  unfold sinClose
  with_reducible repeat' (first | intro _ | assumption | apply count_keeps hP | apply deliverIn_keeps hP | apply setSin_keeps hP | apply sinStale_keeps hP | apply onlyIf_keeps (P := P) | apply forEach_keeps (P := P) | apply keeps_ite (P := P) | apply keeps_ite_snd (P := P) | refine pair_keeps (P := P) (by assumption) ?_ | split | dsimp only)

theorem sinOpen_keeps (hP : Closed P) (i : Nat) (j : Nat) (s : State) (hkeep : P s) : P (sinOpen i j s) := by
  unfold sinOpen
  with_reducible repeat' (first | intro _ | assumption | apply detect_keeps hP | apply forEach_keeps (P := P) | dsimp only)

theorem execIngressWindowClose_keeps (hP : Closed P) (s : State) (hkeep : P s) : OutKeeps P (execIngressWindowClose s) := by
  unfold execIngressWindowClose
  with_reducible repeat' (first | intro _ | assumption | apply feProcess_keeps hP | apply onEth_keeps hP | apply sinClose_keeps hP | apply sinOpen_keeps hP | apply forEach_keeps (P := P) | apply keeps_ite (P := P) | apply outKeeps_next (P := P) | apply OutKeeps.ite (P := P) | split | dsimp only)

theorem execLegAgeExpiry_keeps (hP : Closed P) (i : Fin 512) (b : Bool) (s : State) (hkeep : P s) : OutKeeps P (execLegAgeExpiry i b s) := by
  unfold execLegAgeExpiry
  with_reducible repeat' (first | intro _ | assumption | apply raise_keeps hP | apply wrB_keeps hP | apply keeps_ite (P := P) | apply outKeeps_next (P := P) | apply OutKeeps.ite (P := P) | split | dsimp only)

theorem showStreamPend_keeps (hP : Closed P) (ingress : Bool) (i : Nat) (s : State) (hkeep : P s) : P (showStreamPend ingress i s) := by
  unfold showStreamPend
  with_reducible repeat' (first | intro _ | assumption | apply wrB_keeps hP | apply keeps_ite (P := P) | split | dsimp only)

theorem sinWait_keeps (hP : Closed P) (i : Nat) (s : State) (hkeep : P s) : P (sinWait i s) := by
  unfold sinWait
  with_reducible repeat' (first | intro _ | assumption | apply setSinState_keeps hP | apply setSin_keeps hP | apply wrB_keeps hP | apply keeps_ite (P := P) | split | dsimp only)

theorem sinCommit_keeps (hP : Closed P) (i : Nat) (s : State) (hkeep : P s) : P (sinCommit i s) := by
  unfold sinCommit
  with_reducible repeat' (first | intro _ | assumption | apply setSin_keeps hP | apply showStreamPend_keeps hP | apply sinWait_keeps hP | apply onlyIf_keeps (P := P) | simp only [Closed.other hP, Closed.otherTl hP] | dsimp only)

theorem refuseCommit_keeps (hP : Closed P) (s : State) (hkeep : P s) : P (refuseCommit s) := by
  unfold refuseCommit
  with_reducible repeat' (first | intro _ | assumption | apply wrB_keeps hP | dsimp only)

theorem execSinCommit_keeps (hP : Closed P) (i : Fin 512) (s : State) (hkeep : P s) : OutKeeps P (execSinCommit i s) := by
  unfold execSinCommit
  with_reducible repeat' (first | intro _ | assumption | apply refuseCommit_keeps hP | apply sinCommit_keeps hP | apply keeps_ite (P := P) | apply outKeeps_next (P := P) | apply OutKeeps.ite (P := P) | split | dsimp only)

theorem execSoutCommit_keeps (hP : Closed P) (e : Fin 512) (s : State) (hkeep : P s) : OutKeeps P (execSoutCommit e s) := by
  unfold execSoutCommit
  with_reducible repeat' (first | intro _ | assumption | apply onEth_keeps hP | apply refuseCommit_keeps hP | apply showSout_keeps hP | apply showStreamPend_keeps hP | apply keeps_ite (P := P) | apply outKeeps_next (P := P) | apply OutKeeps.ite (P := P) | split | dsimp only)

theorem execStreamAgeExpiry_keeps (hP : Closed P) (i : Fin 512) (s : State) (hkeep : P s) : OutKeeps P (execStreamAgeExpiry i s) := by
  unfold execStreamAgeExpiry
  with_reducible repeat' (first | intro _ | assumption | apply sinStale_keeps hP | apply keeps_ite (P := P) | apply outKeeps_next (P := P) | apply OutKeeps.ite (P := P) | split | dsimp only)

end Sys2Proof.Machine
end

