-- ==== Sys2Proof/Laws/Keeps/Pawn.lean ====
section
/-! SUPPORT. Every function of Machine/Pawn.lean keeps a closed property. -/

namespace Sys2Proof.Machine

variable {P : State → Prop}

theorem onPawn_keeps (hP : Closed P) (f : PawnSt → PawnSt) (s : State) (hkeep : P s) : P (onPawn f s) := by
  unfold onPawn
  with_reducible repeat' (first | intro _ | assumption | simp only [Closed.other hP, Closed.otherTl hP] | dsimp only)

theorem setPhase_keeps (hP : Closed P) (n : Nat) (s : State) (hkeep : P s) : P (setPhase n s) := by
  unfold setPhase
  with_reducible repeat' (first | intro _ | assumption | apply onPawn_keeps hP | dsimp only)

theorem setPg_keeps (hP : Closed P) (e : Nat) (on : Bool) (s : State) (hkeep : P s) : P (setPg e on s) := by
  unfold setPg
  with_reducible repeat' (first | intro _ | assumption | apply wrB_keeps hP | dsimp only)

theorem setPen_keeps (hP : Closed P) (e : Nat) (on : Bool) (s : State) (hkeep : P s) : P (setPen e on s) := by
  unfold setPen
  with_reducible repeat' (first | intro _ | assumption | apply setPg_keeps hP | apply wrB_keeps hP | apply onlyIf_keeps (P := P) | dsimp only)

theorem drivePen_keeps (hP : Closed P) (e : Nat) (s : State) (hkeep : P s) : P (drivePen e s) := by
  unfold drivePen
  with_reducible repeat' (first | intro _ | assumption | apply setPen_keeps hP | apply setPhase_keeps hP | dsimp only)

theorem beginStep_keeps (hP : Closed P) (e : Nat) (s : State) (hkeep : P s) : P (beginStep e s) := by
  unfold beginStep
  with_reducible repeat' (first | intro _ | assumption | apply drivePen_keeps hP | apply onPawn_keeps hP | apply setPhase_keeps hP | apply wr_keeps hP | apply keeps_ite (P := P) | split | dsimp only)

theorem clearDram_keeps (hP : Closed P) (s : State) (hkeep : P s) : P (clearDram s) := by
  refine hP.mem _ s (fun h => ?_) hkeep
  rw [MemSt.wf_iff] at h ⊢
  obtain ⟨h1, h2, h3, h4, h5, h6, h7, h8⟩ := h
  exact ⟨h1, h2, h3, h4, h5, h6, h7, rfl⟩

theorem clearMem_keeps (hP : Closed P) (s : State) (hkeep : P s) : P (clearMem s) := hP.mem _ s (fun _ => rfl) hkeep

theorem dropPens_keeps (hP : Closed P) (s : State) (hkeep : P s) : P (dropPens s) := by
  unfold dropPens
  with_reducible repeat' (first | intro _ | assumption | apply setPen_keeps hP | apply onlyIf_keeps (P := P) | apply forEach_keeps (P := P) | dsimp only)

theorem endDips_keeps (hP : Closed P) (s : State) (hkeep : P s) : P (endDips s) := by
  unfold endDips
  with_reducible repeat' (first | intro _ | assumption | simp only [Closed.other hP, Closed.otherTl hP] | dsimp only)

theorem tryCopies_keeps (hP : Closed P) (l : List BootCopy) (s : State) (hkeep : P s) : P (tryCopies l s) := by
  induction l generalizing s with
  | nil => exact onPea_keeps hP _ _ _ (wrB_keeps hP _ _ _ (raise_keeps hP _ _ _ _ hkeep))
  | cons c r ih =>
    unfold tryCopies
    split
    · exact onPawn_keeps hP _ _ hkeep
    · exact ih _ (raise_keeps hP _ _ _ _ hkeep)

theorem sproutBoot_keeps (hP : Closed P) (s : State) (hkeep : P s) : P (sproutBoot s) := by
  unfold sproutBoot
  with_reducible repeat' (first | intro _ | assumption | apply raise_keeps hP | apply tryCopies_keeps hP | apply wr_keeps hP | apply onlyIf_keeps (P := P) | dsimp only)

theorem keepRegs_keeps (hP : Closed P) (p : Nat → Bool) (s : State) (hkeep : P s) : P (keepRegs p s) := hP.drop _ s hkeep

theorem restartKeys_keeps (hP : Closed P) (s : State) (t : State) (hkeep : P t) : P (restartKeys s t) := by
  unfold restartKeys
  with_reducible repeat' (first | intro _ | assumption | apply showFuses_keeps hP | apply wrB_keeps hP | apply wr_keeps hP | simp only [Closed.other hP, Closed.otherTl hP] | dsimp only)

theorem restartIslands_keeps (hT : Timed P) (s : State) (hkeep : P s) : P (restartIslands s) := by
  refine forEach_keeps (P := P) (fun _ _ h => wr_keeps hT.toClosed _ _ _ h) (restartKeys_keeps hT.toClosed _ _ (flashPowerLoss_keeps hT.toClosed _ ?_))
  exact hT.time (keepRegs keepsReg s) _ rfl rfl rfl (keepRegs_keeps hT.toClosed keepsReg s hkeep)

theorem enterRun_keeps (hT : Timed P) (s : State) (hkeep : P s) : P (enterRun s) := by
  have hP := hT.toClosed
  unfold enterRun
  with_reducible repeat' (first | intro _ | assumption | apply restartIslands_keeps hT | apply setPhase_keeps hP | apply sproutBoot_keeps hP | apply wrB_keeps hP | apply wr_keeps hP | dsimp only)

theorem execAvsStep_keeps (hP : Closed P) (target : BitVec 10) (s : State) (hkeep : P s) : OutKeeps P (execAvsStep target s) := by
  unfold execAvsStep
  with_reducible repeat' (first | intro _ | assumption | apply onPawn_keeps hP | apply raise_keeps hP | apply wr_keeps hP | apply keeps_ite (P := P) | apply outKeeps_next (P := P) | apply OutKeeps.ite (P := P) | split | dsimp only)

theorem passStep_keeps (hP : Closed P) (e : Nat) (s : State) (hkeep : P s) : P (passStep e s) := by
  unfold passStep
  with_reducible repeat' (first | intro _ | assumption | apply setPg_keeps hP | apply setPhase_keeps hP | apply wrB_keeps hP | apply onlyIf_keeps (P := P) | dsimp only)

theorem execOscCheckWindow_keeps (hP : Closed P) (cycles : BitVec 17) (swing : BitVec 12) (s : State) (hkeep : P s) : OutKeeps P (execOscCheckWindow cycles swing s) := by
  unfold execOscCheckWindow
  with_reducible repeat' (first | intro _ | assumption | apply onPawn_keeps hP | apply passStep_keeps hP | apply wrB_keeps hP | apply wrI_keeps hP | apply keeps_ite (P := P) | apply outKeeps_next (P := P) | apply OutKeeps.ite (P := P) | split | dsimp only)

theorem wakeFailed_keeps (hP : Closed P) (s : State) (hkeep : P s) : P (wakeFailed s) := by
  unfold wakeFailed
  with_reducible repeat' (first | intro _ | assumption | apply dropPens_keeps hP | apply enterHwSafe_keeps hP | apply setPhase_keeps hP | apply wrB_keeps hP | apply wr_keeps hP | dsimp only)

theorem failStep_keeps (hP : Closed P) (again : Nat) (s : State) (hkeep : P s) : P (failStep again s) := by
  unfold failStep
  with_reducible repeat' (first | intro _ | assumption | apply count_keeps hP | apply raise_keeps hP | apply setPen_keeps hP | apply setPhase_keeps hP | apply wakeFailed_keeps hP | apply wrB_keeps hP | apply wr_keeps hP | apply onlyIf_keeps (P := P) | apply forEach_keeps (P := P) | apply keeps_ite (P := P) | split | dsimp only)

theorem execPassedEntryPpgFall_keeps (hP : Closed P) (e : Fin 12) (s : State) (hkeep : P s) : OutKeeps P (execPassedEntryPpgFall e s) := by
  unfold execPassedEntryPpgFall
  with_reducible repeat' (first | intro _ | assumption | apply failStep_keeps hP | apply setPg_keeps hP | apply keeps_ite (P := P) | apply outKeeps_next (P := P) | apply OutKeeps.ite (P := P) | split | dsimp only)

theorem takeEntries_keeps (hP : Closed P) (s : State) (hkeep : P s) : P (takeEntries s) := by
  unfold takeEntries
  with_reducible repeat' (first | intro _ | assumption | apply onPawn_keeps hP | dsimp only)

theorem startWaking_keeps (hP : Closed P) (s : State) (hkeep : P s) : P (startWaking s) := by
  unfold startWaking
  with_reducible repeat' (first | intro _ | assumption | apply beginStep_keeps hP | apply onPawn_keeps hP | apply takeEntries_keeps hP | apply wrB_keeps hP | apply wr_keeps hP | refine pair_keeps (P := P) (by assumption) ?_ | split | dsimp only)

theorem execPawnCmdRetry_keeps (hP : Closed P) (s : State) (hkeep : P s) : OutKeeps P (execPawnCmdRetry s) := by
  unfold execPawnCmdRetry
  with_reducible repeat' (first | intro _ | assumption | apply onPawn_keeps hP | apply startWaking_keeps hP | apply keeps_ite (P := P) | apply outKeeps_next (P := P) | apply OutKeeps.ite (P := P) | split | dsimp only)

theorem execPawnCmdWake_keeps (hP : Closed P) (s : State) (hkeep : P s) : OutKeeps P (execPawnCmdWake s) := by
  unfold execPawnCmdWake
  with_reducible repeat' (first | intro _ | assumption | apply onPawn_keeps hP | apply startWaking_keeps hP | apply keeps_ite (P := P) | apply outKeeps_next (P := P) | apply OutKeeps.ite (P := P) | split | dsimp only)

theorem execPawnFault_keeps (hP : Closed P) (s : State) (hkeep : P s) : OutKeeps P (execPawnFault s) := by
  unfold execPawnFault
  with_reducible repeat' (first | intro _ | assumption | apply onPawn_keeps hP | apply outKeeps_next (P := P) | dsimp only)

theorem execPawnFlog_keeps (hP : Closed P) (s : State) (hkeep : P s) : OutKeeps P (execPawnFlog s) := by
  unfold execPawnFlog
  with_reducible repeat' (first | intro _ | assumption | apply onPawn_keeps hP | apply outKeeps_next (P := P) | dsimp only)

theorem execPawnState_keeps (hP : Closed P) (s : State) (hkeep : P s) : OutKeeps P (execPawnState s) := by
  unfold execPawnState
  with_reducible repeat' (first | intro _ | assumption | apply onPawn_keeps hP | apply outKeeps_next (P := P) | dsimp only)

theorem pmbFault_keeps (hP : Closed P) (e : Nat) (bad : Bool) (s : State) (hkeep : P s) : P (pmbFault e bad s) := by
  unfold pmbFault
  with_reducible repeat' (first | intro _ | assumption | apply onPawn_keeps hP | apply raise_keeps hP | apply keeps_ite (P := P) | split | dsimp only)

theorem execPmbusPoll_keeps (hP : Closed P) (reads : List PmbRead) (levels : BitVec 12) (s : State) (hkeep : P s) : OutKeeps P (execPmbusPoll reads levels s) := by
  unfold execPmbusPoll
  with_reducible repeat' (first | intro _ | assumption | apply onPawn_keeps hP | apply pmbFault_keeps hP | apply setPg_keeps hP | apply wr_keeps hP | apply onlyIf_keeps (P := P) | apply forEach_keeps (P := P) | apply keeps_ite (P := P) | apply outKeeps_next (P := P) | apply OutKeeps.ite (P := P) | split | dsimp only)

theorem execPmbusTransactionDone_keeps (hP : Closed P) (ack : Bool) (fault : Bool) (s : State) (hkeep : P s) : OutKeeps P (execPmbusTransactionDone ack fault s) := by
  unfold execPmbusTransactionDone
  with_reducible repeat' (first | intro _ | assumption | apply drivePen_keeps hP | apply failStep_keeps hP | apply passStep_keeps hP | apply keeps_ite (P := P) | apply outKeeps_next (P := P) | apply OutKeeps.ite (P := P) | split | dsimp only)

theorem execPowerOnReset_keeps (hT : Timed P) (lost : Bool) (pufOk : Bool) (trngOk : Bool) (s : State) (hkeep : P s) : OutKeeps P (execPowerOnReset lost pufOk trngOk s) := by
  have hP := hT.toClosed
  unfold execPowerOnReset
  with_reducible repeat' (first | intro _ | assumption | apply clearMem_keeps hP | apply dropPens_keeps hP | apply endDips_keeps hP | apply keepRegs_keeps hP | apply onFl_keeps hP | apply onKs_keeps hP | apply onPawn_keeps hP | apply restartIslands_keeps hT | apply setPhase_keeps hP | apply startWaking_keeps hP | apply wrB_keeps hP | apply wr_keeps hP | apply onlyIf_keeps (P := P) | apply keeps_ite (P := P) | apply keeps_ite_snd (P := P) | apply outKeeps_next (P := P) | apply OutKeeps.ite (P := P) | simp only [Timed.other hT] | split | dsimp only)

theorem warmRestart_keeps (hT : Timed P) (s : State) (hkeep : P s) : P (warmRestart s) := by
  have hP := hT.toClosed
  unfold warmRestart
  with_reducible repeat' (first | intro _ | assumption | apply restartIslands_keeps hT | apply setPhase_keeps hP | apply sproutBoot_keeps hP | apply wrB_keeps hP | apply wr_keeps hP | dsimp only)

theorem lossEffect_keeps (hT : Timed P) (e : Nat) (s : State) (hkeep : P s) : P (lossEffect e s) := by
  have hP := hT.toClosed
  unfold lossEffect
  with_reducible repeat' (first | intro _ | assumption | apply clearDram_keeps hP | apply clockBad_keeps hP | apply execFlashJobDone_keeps hP | apply lockLoss_keeps hP | apply senseStuck_keeps hP | apply warmRestart_keeps hT | apply forEach_keeps (P := P) | apply keeps_ite (P := P) | refine pair_keeps (P := P) (by assumption) ?_ | refine out_keeps (P := P) (by assumption) ?_ | split | dsimp only)

theorem execPpgLoss_keeps (hT : Timed P) (e : Fin 12) (s : State) (hkeep : P s) : OutKeeps P (execPpgLoss e s) := by
  have hP := hT.toClosed
  unfold execPpgLoss
  with_reducible repeat' (first | intro _ | assumption | apply lossEffect_keeps hT | apply onPawn_keeps hP | apply raise_keeps hP | apply setPg_keeps hP | apply keeps_ite (P := P) | apply outKeeps_next (P := P) | apply OutKeeps.ite (P := P) | split | dsimp only)

theorem startStopping_keeps (hP : Closed P) (loss : Bool) (s : State) (hkeep : P s) : P (startStopping loss s) := by
  unfold startStopping
  with_reducible repeat' (first | intro _ | assumption | apply enterHwSafe_keeps hP | apply onPawn_keeps hP | apply wr_keeps hP | dsimp only)

theorem execPpgLossPersist_keeps (hP : Closed P) (e : Fin 12) (s : State) (hkeep : P s) : OutKeeps P (execPpgLossPersist e s) := by
  unfold execPpgLossPersist
  with_reducible repeat' (first | intro _ | assumption | apply startStopping_keeps hP | apply keeps_ite (P := P) | apply outKeeps_next (P := P) | apply OutKeeps.ite (P := P) | split | dsimp only)

theorem execPwrRestart_keeps (hT : Timed P) (copies : List BootCopy) (s : State) (hkeep : P s) : OutKeeps P (execPwrRestart copies s) := by
  have hP := hT.toClosed
  unfold execPwrRestart
  with_reducible repeat' (first | intro _ | assumption | apply onPawn_keeps hP | apply warmRestart_keeps hT | apply keeps_ite (P := P) | apply outKeeps_next (P := P) | apply OutKeeps.ite (P := P) | split | dsimp only)

theorem leaveQuiet_keeps (hP : Closed P) (s : State) (hkeep : P s) : P (leaveQuiet s) := by
  unfold leaveQuiet
  with_reducible repeat' (first | intro _ | assumption | apply beginStep_keeps hP | apply onPawn_keeps hP | apply wr_keeps hP | apply keeps_ite (P := P) | refine pair_keeps (P := P) (by assumption) ?_ | split | dsimp only)

theorem execPwrRun_keeps (hP : Closed P) (s : State) (hkeep : P s) : OutKeeps P (execPwrRun s) := by
  unfold execPwrRun
  with_reducible repeat' (first | intro _ | assumption | apply leaveQuiet_keeps hP | apply outKeeps_next (P := P) | dsimp only)

theorem execPwrStandby_keeps (hP : Closed P) (s : State) (hkeep : P s) : OutKeeps P (execPwrStandby s) := by
  unfold execPwrStandby
  with_reducible repeat' (first | intro _ | assumption | apply startStopping_keeps hP | apply wr_keeps hP | apply keeps_ite (P := P) | apply outKeeps_next (P := P) | apply OutKeeps.ite (P := P) | split | dsimp only)

theorem execQuietEntry_keeps (hP : Closed P) (s : State) (hkeep : P s) : OutKeeps P (execQuietEntry s) := by
  unfold execQuietEntry
  with_reducible repeat' (first | intro _ | assumption | apply count_keeps hP | apply lanesQuiet_keeps hP | apply pairDerive_keeps hP | apply quietGroups_keeps hP | apply railCommand_keeps hP | apply setPen_keeps hP | apply showSout_keeps hP | apply wrB_keeps hP | apply wr_keeps hP | apply forEach_keeps (P := P) | apply keeps_ite (P := P) | apply outKeeps_next (P := P) | apply OutKeeps.ite (P := P) | split | dsimp only)

theorem execQuietExit_keeps (hP : Closed P) (s : State) (hkeep : P s) : OutKeeps P (execQuietExit s) := by
  unfold execQuietExit
  with_reducible repeat' (first | intro _ | assumption | apply leaveQuiet_keeps hP | apply keeps_ite (P := P) | apply outKeeps_next (P := P) | apply OutKeeps.ite (P := P) | split | dsimp only)

theorem execSclLowTimeout_keeps (hP : Closed P) (asTarget : Bool) (e : Fin 12) (s : State) (hkeep : P s) : OutKeeps P (execSclLowTimeout asTarget e s) := by
  unfold execSclLowTimeout
  with_reducible repeat' (first | intro _ | assumption | apply failStep_keeps hP | apply pmbFault_keeps hP | apply keeps_ite (P := P) | apply outKeeps_next (P := P) | apply OutKeeps.ite (P := P) | split | dsimp only)

theorem execStepDlyEnd_keeps (hT : Timed P) (copies : List BootCopy) (s : State) (hkeep : P s) : OutKeeps P (execStepDlyEnd copies s) := by
  have hP := hT.toClosed
  unfold execStepDlyEnd
  with_reducible repeat' (first | intro _ | assumption | apply beginStep_keeps hP | apply enterRun_keeps hT | apply onPawn_keeps hP | apply setPhase_keeps hP | apply wr_keeps hP | apply keeps_ite (P := P) | apply outKeeps_next (P := P) | apply OutKeeps.ite (P := P) | refine pair_keeps (P := P) (by assumption) ?_ | split | dsimp only)

theorem execStepPass_keeps (hP : Closed P) (s : State) (hkeep : P s) : OutKeeps P (execStepPass s) := by
  unfold execStepPass
  with_reducible repeat' (first | intro _ | assumption | apply passStep_keeps hP | apply setPg_keeps hP | apply setPhase_keeps hP | apply keeps_ite (P := P) | apply outKeeps_next (P := P) | apply OutKeeps.ite (P := P) | split | dsimp only)

theorem execStepRetry_keeps (hP : Closed P) (s : State) (hkeep : P s) : OutKeeps P (execStepRetry s) := by
  unfold execStepRetry
  with_reducible repeat' (first | intro _ | assumption | apply beginStep_keeps hP | apply setPhase_keeps hP | apply startWaking_keeps hP | apply keeps_ite (P := P) | apply outKeeps_next (P := P) | apply OutKeeps.ite (P := P) | split | dsimp only)

theorem execStepTimeout_keeps (hP : Closed P) (s : State) (hkeep : P s) : OutKeeps P (execStepTimeout s) := by
  unfold execStepTimeout
  with_reducible repeat' (first | intro _ | assumption | apply failStep_keeps hP | apply keeps_ite (P := P) | apply outKeeps_next (P := P) | apply OutKeeps.ite (P := P) | split | dsimp only)

theorem takeAll_keeps (hP : Closed P) (n : Nat) (s : State) (hkeep : P s) : P (takeAll n s) := by
  induction n generalizing s with
  | zero => exact hkeep
  | succ n ih =>
    unfold takeAll
    split
    · exact ih _ ((execFeuIntake_keeps hP _ hkeep).out _ (by assumption))
    · exact hkeep

theorem flushPages_keeps (hP : Closed P) (n : Nat) (s : State) (hkeep : P s) : P (flushPages n s) := by
  induction n generalizing s with
  | zero => exact hkeep
  | succ n ih =>
    unfold flushPages
    split
    · exact ih _ ((execLogPageFlush_keeps hP _ hkeep).out _ (by assumption))
    · exact hkeep

theorem flushLog_keeps (hP : Closed P) (s : State) (hkeep : P s) : P (flushLog s) := by
  unfold flushLog
  with_reducible repeat' (first | intro _ | assumption | apply flushPages_keeps hP | apply takeAll_keeps hP | apply foldl_keeps (P := P) | apply foldl_snd_keeps (P := P) | dsimp only)

theorem execStoppingFlushDone_keeps (hT : Timed P) (s : State) (hkeep : P s) : OutKeeps P (execStoppingFlushDone s) := by
  have hP := hT.toClosed
  unfold execStoppingFlushDone
  with_reducible repeat' (first | intro _ | assumption | apply clearMem_keeps hP | apply dropPens_keeps hP | apply endDips_keeps hP | apply execCheckpoint_keeps hP | apply flushLog_keeps hP | apply restartIslands_keeps hT | apply setPhase_keeps hP | apply wr_keeps hP | apply keeps_ite (P := P) | apply outKeeps_next (P := P) | apply OutKeeps.ite (P := P) | refine pair_keeps (P := P) (by assumption) ?_ | refine out_keeps (P := P) (by assumption) ?_ | split | dsimp only)

theorem execWakePin_keeps (hP : Closed P) (s : State) (hkeep : P s) : OutKeeps P (execWakePin s) := by
  unfold execWakePin
  with_reducible repeat' (first | intro _ | assumption | apply startWaking_keeps hP | apply keeps_ite (P := P) | apply outKeeps_next (P := P) | apply OutKeeps.ite (P := P) | split | dsimp only)

theorem quietEnds_keeps (hP : Closed P) (s : State) (hkeep : P s) : P (quietEnds s) := by
  unfold quietEnds
  with_reducible repeat' (first | intro _ | assumption | apply endLpi_keeps hP | apply lanesRun_keeps hP | apply newSession_keeps hP | apply onPawn_keeps hP | apply pairDerive_keeps hP | apply showSout_keeps hP | apply startGroups_keeps hP | apply wr_keeps hP | apply forEach_keeps (P := P) | apply keeps_ite (P := P) | split | dsimp only)

theorem quietWatch_keeps (hP : Closed P) (s : State) (hkeep : P s) : P (quietWatch s) := by
  unfold quietWatch
  with_reducible repeat' (first | intro _ | assumption | apply onPawn_keeps hP | apply keeps_ite (P := P) | split | dsimp only)

theorem stopAudio_keeps (hP : Closed P) (s : State) (hkeep : P s) : P (stopAudio s) := by
  unfold stopAudio
  with_reducible repeat' (first | intro _ | assumption | apply onPawn_keeps hP | apply wrB_keeps hP | apply forEach_keeps (P := P) | dsimp only)

end Sys2Proof.Machine
end

