-- ==== Sys2Proof/Laws/Keeps/Bridges.lean ====
section
/-! SUPPORT. Every function of Machine/Bridges.lean keeps a closed property. -/

namespace Sys2Proof.Machine

variable {P : State → Prop}

theorem showLocked_keeps (hP : Closed P) (b : Nat) (on : Bool) (s : State) (hkeep : P s) : P (showLocked b on s) := by
  unfold showLocked
  with_reducible repeat' (first | intro _ | assumption | apply wrB_keeps hP | apply keeps_ite (P := P) | split | dsimp only)

theorem setBr_keeps (hP : Closed P) (b : Nat) (st : Nat) (s : State) (hkeep : P s) : P (setBr b st s) := by
  unfold setBr
  with_reducible repeat' (first | intro _ | assumption | apply showLocked_keeps hP | apply wr_keeps hP | dsimp only)

theorem onEdge_keeps (hP : Closed P) (f : EdgeSt → EdgeSt) (s : State) (hkeep : P s) : P (onEdge f s) := by
  unfold onEdge
  with_reducible repeat' (first | intro _ | assumption | simp only [Closed.other hP, Closed.otherTl hP] | dsimp only)

theorem setBridge_keeps (hP : Closed P) (b : Nat) (x : BridgeSt) (s : State) (hkeep : P s) : P (setBridge b x s) := by
  unfold setBridge
  with_reducible repeat' (first | intro _ | assumption | apply onEdge_keeps hP | dsimp only)

theorem bridgeStart_keeps (hP : Closed P) (b : Nat) (s : State) (hkeep : P s) : P (bridgeStart b s) := by
  unfold bridgeStart
  with_reducible repeat' (first | intro _ | assumption | apply setBr_keeps hP | apply setBridge_keeps hP | apply keeps_ite (P := P) | split | dsimp only)

theorem showPhase_keeps (hP : Closed P) (b : Nat) (phi : Int) (s : State) (hkeep : P s) : P (showPhase b phi s) := by
  unfold showPhase
  with_reducible repeat' (first | intro _ | assumption | apply setBridge_keeps hP | apply wrI_keeps hP | apply keeps_ite (P := P) | split | dsimp only)

theorem enterLocked_keeps (hP : Closed P) (b : Nat) (s : State) (hkeep : P s) : P (enterLocked b s) := by
  unfold enterLocked
  with_reducible repeat' (first | intro _ | assumption | apply setBr_keeps hP | apply setBridge_keeps hP | apply showPhase_keeps hP | dsimp only)

theorem countExit_keeps (hP : Closed P) (b : Nat) (s : State) (hkeep : P s) : P (countExit b s) := by
  unfold countExit
  with_reducible repeat' (first | intro _ | assumption | apply count_keeps hP | dsimp only)

theorem leaveLocked_keeps (hP : Closed P) (b : Nat) (atOnce : Bool) (s : State) (hkeep : P s) : P (leaveLocked b atOnce s) := by
  unfold leaveLocked
  with_reducible repeat' (first | intro _ | assumption | apply countExit_keeps hP | apply setBr_keeps hP | apply setBridge_keeps hP | apply keeps_ite (P := P) | split | dsimp only)

theorem bridgeTick_keeps (hP : Closed P) (s : State) (hkeep : P s) : P (bridgeTick s) := by
  unfold bridgeTick
  with_reducible repeat' (first | intro _ | assumption | apply enterLocked_keeps hP | apply leaveLocked_keeps hP | apply onPair_keeps hP | apply onlyIf_keeps (P := P) | apply forEach_keeps (P := P) | apply keeps_ite (P := P) | apply keeps_ite_snd (P := P) | split | dsimp only)

theorem decide3_keeps (hP : Closed P) (b : Nat) (d : Nat) (lock : Bool) (s : State) (hkeep : P s) : P (decide3 b d lock s) := by
  unfold decide3
  with_reducible repeat' (first | intro _ | assumption | apply onPair_keeps hP | dsimp only)

theorem showDelay_keeps (hP : Closed P) (b : Nat) (departure : Int) (s : State) (hkeep : P s) : P (showDelay b departure s) := by
  unfold showDelay
  with_reducible repeat' (first | intro _ | assumption | apply wrI_keeps hP | apply keeps_ite (P := P) | split | dsimp only)

theorem execBridgeCrossfadeEnd_keeps (hP : Closed P) (b : Fin 64) (s : State) (hkeep : P s) : OutKeeps P (execBridgeCrossfadeEnd b s) := by
  unfold execBridgeCrossfadeEnd
  with_reducible repeat' (first | intro _ | assumption | apply setBr_keeps hP | apply setBridge_keeps hP | apply showDelay_keeps hP | apply keeps_ite (P := P) | apply outKeeps_next (P := P) | apply OutKeeps.ite (P := P) | split | dsimp only)

theorem exitLocked_keeps (hP : Closed P) (b : Nat) (s : State) (hkeep : P s) : P (exitLocked b s) := by
  unfold exitLocked
  with_reducible repeat' (first | intro _ | assumption | apply decide3_keeps hP | apply leaveLocked_keeps hP | apply sendMirror_keeps hP | apply keeps_ite (P := P) | apply keeps_ite_snd (P := P) | split | dsimp only)

theorem execBridgeLockExit_keeps (hP : Closed P) (b : Fin 64) (phi : BitVec 32) (clockLost : Bool) (s : State) (hkeep : P s) : OutKeeps P (execBridgeLockExit b phi clockLost s) := by
  unfold execBridgeLockExit
  with_reducible repeat' (first | intro _ | assumption | apply exitLocked_keeps hP | apply leaveLocked_keeps hP | apply showPhase_keeps hP | apply keeps_ite (P := P) | apply outKeeps_next (P := P) | apply OutKeeps.ite (P := P) | split | dsimp only)

theorem execBridgeRangeEntry_keeps (hP : Closed P) (b : Fin 64) (err : BitVec 24) (s : State) (hkeep : P s) : OutKeeps P (execBridgeRangeEntry b err s) := by
  unfold execBridgeRangeEntry
  with_reducible repeat' (first | intro _ | assumption | apply countExit_keeps hP | apply setBr_keeps hP | apply wr_keeps hP | apply onlyIf_keeps (P := P) | apply keeps_ite (P := P) | apply outKeeps_next (P := P) | apply OutKeeps.ite (P := P) | split | dsimp only)

theorem execBridgeRangeExit_keeps (hP : Closed P) (b : Fin 64) (s : State) (hkeep : P s) : OutKeeps P (execBridgeRangeExit b s) := by
  unfold execBridgeRangeExit
  with_reducible repeat' (first | intro _ | assumption | apply setBr_keeps hP | apply setBridge_keeps hP | apply keeps_ite (P := P) | apply outKeeps_next (P := P) | apply OutKeeps.ite (P := P) | split | dsimp only)

theorem tryLock_keeps (hP : Closed P) (b : Nat) (s : State) (hkeep : P s) : P (tryLock b s) := by
  unfold tryLock
  with_reducible repeat' (first | intro _ | assumption | apply decide3_keeps hP | apply enterLocked_keeps hP | apply sendMirror_keeps hP | apply setBridge_keeps hP | apply keeps_ite (P := P) | refine pair_keeps (P := P) (by assumption) ?_ | split | dsimp only)

theorem execBridgeRateUpdate_keeps (hP : Closed P) (b : Fin 64) (err : BitVec 24) (phi : BitVec 32) (departure : BitVec 32) (s : State) (hkeep : P s) : OutKeeps P (execBridgeRateUpdate b err phi departure s) := by
  unfold execBridgeRateUpdate
  with_reducible repeat' (first | intro _ | assumption | apply exitLocked_keeps hP | apply setBridge_keeps hP | apply showDelay_keeps hP | apply showPhase_keeps hP | apply tryLock_keeps hP | apply wrB_keeps hP | apply wr_keeps hP | apply keeps_ite (P := P) | apply outKeeps_next (P := P) | apply OutKeeps.ite (P := P) | split | dsimp only)

theorem execBridgeSettleEnd_keeps (hP : Closed P) (b : Fin 64) (s : State) (hkeep : P s) : OutKeeps P (execBridgeSettleEnd b s) := by
  unfold execBridgeSettleEnd
  with_reducible repeat' (first | intro _ | assumption | apply setBr_keeps hP | apply setBridge_keeps hP | apply keeps_ite (P := P) | apply outKeeps_next (P := P) | apply OutKeeps.ite (P := P) | split | dsimp only)

theorem execBridgeSlip_keeps (hP : Closed P) (b : Fin 64) (s : State) (hkeep : P s) : OutKeeps P (execBridgeSlip b s) := by
  unfold execBridgeSlip
  with_reducible repeat' (first | intro _ | assumption | apply count_keeps hP | apply keeps_ite (P := P) | apply outKeeps_next (P := P) | apply OutKeeps.ite (P := P) | split | dsimp only)

theorem partnerBridge_keeps (hP : Closed P) (d : Nat) (b : Nat) (lock : Bool) (s : State) (hkeep : P s) : P (partnerBridge d b lock s) := by
  unfold partnerBridge
  with_reducible repeat' (first | intro _ | assumption | apply decide3_keeps hP | apply sendMirror_keeps hP | apply setBridge_keeps hP | apply keeps_ite (P := P) | split | dsimp only)

theorem execRecordMirror_keeps (hP : Closed P) (crcOk : Bool) (first : BitVec 32) (entries : List MirrorEntry) (s : State) (hkeep : P s) : OutKeeps P (execRecordMirror crcOk first entries s) := by
  unfold execRecordMirror
  with_reducible repeat' (first | intro _ | assumption | apply onPair_keeps hP | apply onRecord_keeps hP | apply partnerBridge_keeps hP | apply takeMirror_keeps hP | apply forEach_keeps (P := P) | apply keeps_ite (P := P) | apply keeps_ite_snd (P := P) | apply outKeeps_next (P := P) | apply OutKeeps.ite (P := P) | split | dsimp only)

end Sys2Proof.Machine
end

