-- ==== Sys2Proof/Laws/Keeps/Tdm.lean ====
section
/-! SUPPORT. Every function of Machine/Tdm.lean keeps a closed property. -/

namespace Sys2Proof.Machine

variable {P : State → Prop}

theorem bridgeIn_keeps (hP : Closed P) (p : Nat) (c : Nat) (ms : List Nat) (v : DWord) (s : State) (hkeep : P s) : P (bridgeIn p c ms v s) := by
  unfold bridgeIn
  with_reducible repeat' (first | intro _ | assumption | apply feTake_keeps hP | apply pickSamp_keeps hP | apply forEach_keeps (P := P) | apply keeps_ite (P := P) | apply keeps_ite_snd (P := P) | split | dsimp only)

theorem bridgesLost_keeps (hP : Closed P) (p : Nat) (s : State) (hkeep : P s) : P (bridgesLost p s) := by
  unfold bridgesLost
  with_reducible repeat' (first | intro _ | assumption | apply leaveLocked_keeps hP | dsimp only)

theorem clearGood_keeps (hP : Closed P) (p : Nat) (s : State) (hkeep : P s) : P (clearGood p s) := by
  unfold clearGood
  with_reducible repeat' (first | intro _ | assumption | apply wr_keeps hP | dsimp only)

theorem clockBack_keeps (hP : Closed P) (p : Nat) (s : State) (hkeep : P s) : P (clockBack p s) := by
  unfold clockBack
  with_reducible repeat' (first | intro _ | assumption | apply raise_keeps hP | apply wrB_keeps hP | apply keeps_ite (P := P) | split | dsimp only)

theorem setTdm_keeps (hP : Closed P) (p : Nat) (x : TdmSt) (s : State) (hkeep : P s) : P (setTdm p x s) := by
  unfold setTdm
  with_reducible repeat' (first | intro _ | assumption | apply onEdge_keeps hP | dsimp only)

theorem portFaulted_keeps (hP : Closed P) (p : Nat) (detail : Nat) (s : State) (hkeep : P s) : P (portFaulted p detail s) := by
  unfold portFaulted
  with_reducible repeat' (first | intro _ | assumption | apply raise_keeps hP | apply setTdm_keeps hP | apply wrB_keeps hP | apply wr_keeps hP | apply keeps_ite (P := P) | apply keeps_ite_snd (P := P) | split | dsimp only)

theorem clockLoss_keeps (hP : Closed P) (p : Nat) (s : State) (hkeep : P s) : P (clockLoss p s) := by
  unfold clockLoss
  with_reducible repeat' (first | intro _ | assumption | apply bridgesLost_keeps hP | apply clearGood_keeps hP | apply count_keeps hP | apply portFaulted_keeps hP | apply setTdm_keeps hP | apply wrB_keeps hP | apply keeps_ite (P := P) | split | dsimp only)

theorem gainFrame_keeps (hP : Closed P) (p : Nat) (s : State) (hkeep : P s) : P (gainFrame p s) := by
  unfold gainFrame
  with_reducible repeat' (first | intro _ | assumption | apply setTdm_keeps hP | refine pair_keeps (P := P) (by assumption) ?_ | split | dsimp only)

theorem outSample_keeps (hP : Closed P) (p : Nat) (n : Nat) (ns : Nat) (s : State) (hkeep : P s) : P (outSample p n ns s).2 := by
  unfold outSample
  with_reducible repeat' (first | intro _ | assumption | apply pickSamp_keeps hP | apply keeps_ite (P := P) | apply keeps_ite_snd (P := P) | split | dsimp only)

theorem sendFrame_keeps (hP : Closed P) (p : Nat) (ns : Nat) (s : State) (hkeep : P s) : P (sendFrame p ns s) := by
  unfold sendFrame
  with_reducible repeat' (first | intro _ | assumption | apply outSample_keeps hP | apply setTdm_keeps hP | apply keeps_ite (P := P) | apply keeps_ite_snd (P := P) | apply foldl_keeps (P := P) | apply foldl_snd_keeps (P := P) | split | dsimp only)

theorem passFrame_keeps (hP : Closed P) (p : Nat) (vs : List DWord) (tested : Bool) (ns : Nat) (s : State) (hkeep : P s) : P (passFrame p vs tested ns s) := by
  unfold passFrame
  with_reducible repeat' (first | intro _ | assumption | apply bridgeIn_keeps hP | apply detect_keeps hP | apply setTdm_keeps hP | apply onlyIf_keeps (P := P) | apply forEach_keeps (P := P) | apply keeps_ite (P := P) | split | dsimp only)

theorem emptyFrame_keeps (hP : Closed P) (p : Nat) (ns : Nat) (send : Bool) (s : State) (hkeep : P s) : P (emptyFrame p ns send s) := by
  unfold emptyFrame
  with_reducible repeat' (first | intro _ | assumption | apply gainFrame_keeps hP | apply passFrame_keeps hP | apply sendFrame_keeps hP | apply onlyIf_keeps (P := P) | dsimp only)

theorem execFirstBckEdge_keeps (hP : Closed P) (p : Fin 32) (s : State) (hkeep : P s) : OutKeeps P (execFirstBckEdge p s) := by
  unfold execFirstBckEdge
  with_reducible repeat' (first | intro _ | assumption | apply setTdm_keeps hP | apply wr_keeps hP | apply keeps_ite (P := P) | apply outKeeps_next (P := P) | apply OutKeeps.ite (P := P) | split | dsimp only)

theorem execTdmClockGap_keeps (hP : Closed P) (p : Fin 32) (s : State) (hkeep : P s) : OutKeeps P (execTdmClockGap p s) := by
  unfold execTdmClockGap
  with_reducible repeat' (first | intro _ | assumption | apply clockLoss_keeps hP | apply setTdm_keeps hP | apply wr_keeps hP | apply keeps_ite (P := P) | apply outKeeps_next (P := P) | apply OutKeeps.ite (P := P) | split | dsimp only)

theorem execTdmCoastFrame_keeps (hP : Closed P) (p : Fin 32) (ns : BitVec 64) (s : State) (hkeep : P s) : OutKeeps P (execTdmCoastFrame p ns s) := by
  unfold execTdmCoastFrame
  with_reducible repeat' (first | intro _ | assumption | apply emptyFrame_keeps hP | apply keeps_ite (P := P) | apply outKeeps_next (P := P) | apply OutKeeps.ite (P := P) | split | dsimp only)

theorem tryRecover_keeps (hP : Closed P) (p : Nat) (s : State) (hkeep : P s) : P (tryRecover p s) := by
  unfold tryRecover
  with_reducible repeat' (first | intro _ | assumption | apply bridgeStart_keeps hP | apply setTdm_keeps hP | apply wrB_keeps hP | apply wr_keeps hP | apply keeps_ite (P := P) | split | dsimp only)

theorem execTdmFadeEnd_keeps (hP : Closed P) (p : Fin 32) (s : State) (hkeep : P s) : OutKeeps P (execTdmFadeEnd p s) := by
  unfold execTdmFadeEnd
  with_reducible repeat' (first | intro _ | assumption | apply tryRecover_keeps hP | apply wr_keeps hP | apply keeps_ite (P := P) | apply outKeeps_next (P := P) | apply OutKeeps.ite (P := P) | split | dsimp only)

theorem goodFrame_keeps (hP : Closed P) (p : Nat) (slots : List DWord) (ns : Nat) (s : State) (hkeep : P s) : P (goodFrame p slots ns s) := by
  unfold goodFrame
  with_reducible repeat' (first | intro _ | assumption | apply detect_keeps hP | apply gainFrame_keeps hP | apply passFrame_keeps hP | apply sendFrame_keeps hP | apply seqNext_keeps hP | apply setTdm_keeps hP | apply tryRecover_keeps hP | apply wrSat_keeps hP | apply forEach_keeps (P := P) | apply keeps_ite (P := P) | split | dsimp only)

theorem syncError_keeps (hP : Closed P) (p : Nat) (s : State) (hkeep : P s) : P (syncError p s) := by
  unfold syncError
  with_reducible repeat' (first | intro _ | assumption | apply clearGood_keeps hP | apply count_keeps hP | apply portFaulted_keeps hP | apply setTdm_keeps hP | apply wr_keeps hP | dsimp only)

theorem execTdmFrame_keeps (hP : Closed P) (p : Fin 32) (counted : BitVec 12) (edge : Bool) (fsw : BitVec 12) (slots : List DWord) (ns : BitVec 64) (s : State) (hkeep : P s) : OutKeeps P (execTdmFrame p counted edge fsw slots ns s) := by
  unfold execTdmFrame
  with_reducible repeat' (first | intro _ | assumption | apply clearGood_keeps hP | apply clockBack_keeps hP | apply emptyFrame_keeps hP | apply goodFrame_keeps hP | apply setTdm_keeps hP | apply syncError_keeps hP | apply wr_keeps hP | apply keeps_ite (P := P) | apply outKeeps_next (P := P) | apply OutKeeps.ite (P := P) | split | dsimp only)

theorem execTdmHuntTimeout_keeps (hP : Closed P) (p : Fin 32) (s : State) (hkeep : P s) : OutKeeps P (execTdmHuntTimeout p s) := by
  unfold execTdmHuntTimeout
  with_reducible repeat' (first | intro _ | assumption | apply clockLoss_keeps hP | apply keeps_ite (P := P) | apply outKeeps_next (P := P) | apply OutKeeps.ite (P := P) | split | dsimp only)

theorem xrun_keeps (hP : Closed P) (p : Nat) (s : State) (hkeep : P s) : P (xrun p s) := by
  unfold xrun
  with_reducible repeat' (first | intro _ | assumption | apply clearGood_keeps hP | apply count_keeps hP | apply portFaulted_keeps hP | dsimp only)

theorem execTdmOverrun_keeps (hP : Closed P) (p : Fin 32) (s : State) (hkeep : P s) : OutKeeps P (execTdmOverrun p s) := by
  unfold execTdmOverrun
  with_reducible repeat' (first | intro _ | assumption | apply xrun_keeps hP | apply keeps_ite (P := P) | apply outKeeps_next (P := P) | apply OutKeeps.ite (P := P) | split | dsimp only)

theorem execTdmRampEnd_keeps (hP : Closed P) (p : Fin 32) (s : State) (hkeep : P s) : OutKeeps P (execTdmRampEnd p s) := by
  unfold execTdmRampEnd
  with_reducible repeat' (first | intro _ | assumption | apply wrB_keeps hP | apply wr_keeps hP | apply keeps_ite (P := P) | apply outKeeps_next (P := P) | apply OutKeeps.ite (P := P) | split | dsimp only)

theorem execTdmResync_keeps (hP : Closed P) (p : Fin 32) (s : State) (hkeep : P s) : OutKeeps P (execTdmResync p s) := by
  unfold execTdmResync
  with_reducible repeat' (first | intro _ | assumption | apply syncError_keeps hP | apply keeps_ite (P := P) | apply outKeeps_next (P := P) | apply OutKeeps.ite (P := P) | split | dsimp only)

theorem execTdmUnderrun_keeps (hP : Closed P) (p : Fin 32) (s : State) (hkeep : P s) : OutKeeps P (execTdmUnderrun p s) := by
  unfold execTdmUnderrun
  with_reducible repeat' (first | intro _ | assumption | apply xrun_keeps hP | apply keeps_ite (P := P) | apply outKeeps_next (P := P) | apply OutKeeps.ite (P := P) | split | dsimp only)

theorem tdmEnable_keeps (hP : Closed P) (p : Nat) (on : Bool) (s : State) (hkeep : P s) : P (tdmEnable p on s) := by
  unfold tdmEnable
  with_reducible repeat' (first | intro _ | assumption | apply setTdm_keeps hP | apply wrReg_keeps hP | apply wr_keeps hP | apply onlyIf_keeps (P := P) | apply keeps_ite (P := P) | split | dsimp only)

end Sys2Proof.Machine
end

