-- ==== Sys2Proof/Laws/Keeps/Reset.lean ====
section
/-! SUPPORT. Every function of Machine/Reset.lean keeps a closed property. -/

namespace Sys2Proof.Machine

variable {P : State → Prop}

theorem islandDown_keeps (hT : Timed P) (n : Nat) (s : State) (hkeep : P s) : P (islandDown n s) := by
  have hP := hT.toClosed
  unfold islandDown
  with_reducible repeat' (first | intro _ | assumption | apply clockLoss_keeps hP | apply declareFailed_keeps hP | apply driveLine_keeps hP | apply flushLog_keeps hP | apply hardStop_keeps hP | apply lockLoss_keeps hP | apply macDown_keeps hP | apply onHalv_keeps hP | apply onPea_keeps hP | apply resetRegs_keeps hP | apply setLn_keeps hP | apply sinStale_keeps hP | apply stopPea_keeps hP | apply warmRestart_keeps hT | apply zeroisePeas_keeps hP | apply onlyIf_keeps (P := P) | apply forEach_keeps (P := P) | apply keeps_ite (P := P) | apply keeps_ite_snd (P := P) | simp only [Closed.other hP, Closed.otherTl hP] | split | dsimp only)

theorem beginReset_keeps (hT : Timed P) (n : Nat) (s : State) (hkeep : P s) : P (beginReset n s) := by
  have hP := hT.toClosed
  unfold beginReset
  with_reducible repeat' (first | intro _ | assumption | apply islandDown_keeps hT | apply requestReset_keeps hP | apply keeps_ite (P := P) | split | dsimp only)

theorem rewriteRecords_keeps (hP : Closed P) (n : Nat) (s : State) (hkeep : P s) : P (rewriteRecords n s) := by
  unfold rewriteRecords
  with_reducible repeat' (first | intro _ | assumption | apply softWrite_keeps hP | apply forEach_keeps (P := P) | apply keeps_ite (P := P) | apply keeps_ite_snd (P := P) | split | dsimp only)

theorem reloadPod_keeps (hP : Closed P) (pod : Nat) (s : State) (hkeep : P s) : P (reloadPod pod s) := by
  refine forEach_keeps (P := P) (fun p t ht => ?_) hkeep
  dsimp only
  have h1 := hP.mem { t.mem with
        prog := fillWindow (fun _ => 0) (peaNo pod p * 16384) 0 16384 (peaNo pod p * 16384) t.mem.goldProg t.mem.prog
        x := fillWindow (fun _ => 0) (peaNo pod p * 65536) 0 65536 (peaNo pod p * 65536) t.mem.goldX t.mem.x
        y := fillWindow (fun _ => 0) (peaNo pod p * 65536) 0 65536 (peaNo pod p * 65536) t.mem.goldY t.mem.y } t (fun h => ?_) ht
  · exact hP.frame { t with mem := _ } _ rfl rfl rfl rfl rfl h1
  · rw [MemSt.wf_iff] at h ⊢
    obtain ⟨h1, h2, h3, h4, h5, h6, h7, h8⟩ := h
    exact ⟨mapWf_fillWindow _ _ _ _ _ _ _ h1, mapWf_fillWindow _ _ _ _ _ _ _ h2, mapWf_fillWindow _ _ _ _ _ _ _ h3, h4, h5, h6, h7, h8⟩

theorem relock_keeps (hP : Closed P) (pod : Nat) (s : State) (hkeep : P s) : P (relock pod s) := by
  unfold relock
  with_reducible repeat' (first | intro _ | assumption | apply showSealPod_keeps hP | apply wrB_keeps hP | apply onlyIf_keeps (P := P) | apply forEach_keeps (P := P) | dsimp only)

theorem islandUp_keeps (hP : Closed P) (n : Nat) (s : State) (hkeep : P s) : P (islandUp n s) := by
  unfold islandUp
  with_reducible repeat' (first | intro _ | assumption | apply bringUp_keeps hP | apply reloadPod_keeps hP | apply relock_keeps hP | apply requestEnable_keeps hP | apply rewriteRecords_keeps hP | apply showGeometry_keeps hP | apply showSout_keeps hP | apply sinCommit_keeps hP | apply sinWait_keeps hP | apply tdmEnable_keeps hP | apply wrB_keeps hP | apply wr_keeps hP | apply onlyIf_keeps (P := P) | apply forEach_keeps (P := P) | apply keeps_ite (P := P) | simp only [Closed.other hP, Closed.otherTl hP] | split | dsimp only)

theorem endReset_keeps (hP : Closed P) (n : Nat) (s : State) (hkeep : P s) : P (endReset n s) := by
  unfold endReset
  with_reducible repeat' (first | intro _ | assumption | apply islandUp_keeps hP | apply resetRegs_keeps hP | apply wr_keeps hP | dsimp only)

theorem execDomainResetEnd_keeps (hP : Closed P) (n : Fin 275) (s : State) (hkeep : P s) : OutKeeps P (execDomainResetEnd n s) := by
  unfold execDomainResetEnd
  with_reducible repeat' (first | intro _ | assumption | apply endReset_keeps hP | apply keeps_ite (P := P) | apply outKeeps_next (P := P) | apply OutKeeps.ite (P := P) | split | dsimp only)

theorem execIslReset_keeps (hT : Timed P) (n : Fin 275) (s : State) (hkeep : P s) : OutKeeps P (execIslReset n s) := by
  have hP := hT.toClosed
  unfold execIslReset
  with_reducible repeat' (first | intro _ | assumption | apply beginReset_keeps hT | apply keeps_ite (P := P) | apply outKeeps_next (P := P) | apply OutKeeps.ite (P := P) | split | dsimp only)

theorem execSupplyDip_keeps (hT : Timed P) (n : Fin 275) (s : State) (hkeep : P s) : OutKeeps P (execSupplyDip n s) := by
  have hP := hT.toClosed
  unfold execSupplyDip
  with_reducible repeat' (first | intro _ | assumption | apply beginReset_keeps hT | apply keeps_ite (P := P) | apply outKeeps_next (P := P) | apply OutKeeps.ite (P := P) | simp only [Closed.other hP, Closed.otherTl hP] | split | dsimp only)

theorem execSupplyReturn_keeps (hP : Closed P) (n : Fin 275) (s : State) (hkeep : P s) : OutKeeps P (execSupplyReturn n s) := by
  unfold execSupplyReturn
  with_reducible repeat' (first | intro _ | assumption | apply endReset_keeps hP | apply keeps_ite (P := P) | apply outKeeps_next (P := P) | apply OutKeeps.ite (P := P) | simp only [Closed.other hP, Closed.otherTl hP] | split | dsimp only)

end Sys2Proof.Machine
end

