-- ==== Sys2Proof/Laws/Keeps/Access.lean ====
section
/-! SUPPORT. Every function of Machine/Access.lean keeps a closed property. -/

namespace Sys2Proof.Machine

variable {P : State → Prop}

theorem decodeError_keeps (hP : Closed P) (m : Nat) (a : Nat) (s : State) (hkeep : P s) : P (decodeError m a s) := by
  unfold decodeError
  with_reducible repeat' (first | intro _ | assumption | apply count_keeps hP | apply raise_keeps hP | apply wr_keeps hP | dsimp only)

theorem islandError_keeps (hP : Closed P) (a : Nat) (s : State) (hkeep : P s) : P (islandError a s).2 := by
  unfold islandError
  with_reducible repeat' (first | intro _ | assumption | apply raise_keeps hP | refine pair_keeps (P := P) (by assumption) ?_ | split | dsimp only)

theorem logRefusal_keeps (hP : Closed P) (d : Nat) (m : Nat) (write : Bool) (user : Bool) (a : Nat) (s : State) (hkeep : P s) : P (logRefusal d m write user a s) := by
  unfold logRefusal
  with_reducible repeat' (first | intro _ | assumption | apply count_keeps hP | apply raiseAccess_keeps hP | dsimp only)

theorem readEffect_keeps (hP : Closed P) (a : Nat) (s : State) (hkeep : P s) : P (readEffect a s) := by
  unfold readEffect
  with_reducible repeat' (first | intro _ | assumption | apply wr_keeps hP | apply freeNext_keeps hP | apply keeps_ite (P := P) | split | dsimp only)

theorem registerRead_keeps (hP : Closed P) (m : Nat) (user : Bool) (a : Nat) (s : State) (hkeep : P s) : P (registerRead m user a s).2.2 := by
  unfold registerRead
  with_reducible repeat' (first | intro _ | assumption | apply decodeError_keeps hP | apply islandError_keeps hP | apply logRefusal_keeps hP | apply readEffect_keeps hP | apply keeps_ite (P := P) | apply keeps_ite_snd (P := P) | apply keeps_ite_snd_snd (P := P) | refine pair_keeps (P := P) (by assumption) ?_ | split | dsimp only)

end Sys2Proof.Machine
end

