-- ==== Sys2Proof/Laws/Keeps/Dpll.lean ====
section
/-! SUPPORT. Every function of Machine/Dpll.lean keeps a closed property. -/

namespace Sys2Proof.Machine

variable {P : State → Prop}

theorem execCkoAlignEdge_keeps (hP : Closed P) (o : Fin 6) (err : BitVec 16) (s : State) (hkeep : P s) : OutKeeps P (execCkoAlignEdge o err s) := by
  unfold execCkoAlignEdge
  with_reducible repeat' (first | intro _ | assumption | apply wrB_keeps hP | apply wr_keeps hP | apply keeps_ite (P := P) | apply outKeeps_next (P := P) | apply OutKeeps.ite (P := P) | split | dsimp only)

theorem execCkoAlignGo_keeps (hP : Closed P) (o : Fin 6) (s : State) (hkeep : P s) : OutKeeps P (execCkoAlignGo o s) := by
  unfold execCkoAlignGo
  with_reducible repeat' (first | intro _ | assumption | apply wr_keeps hP | apply outKeeps_next (P := P) | dsimp only)

theorem execCkoutModeWrite_keeps (hP : Closed P) (o : Fin 6) (mode : Fin 4) (s : State) (hkeep : P s) : OutKeeps P (execCkoutModeWrite o mode s) := by
  unfold execCkoutModeWrite
  with_reducible repeat' (first | intro _ | assumption | apply wrB_keeps hP | apply wr_keeps hP | apply keeps_ite (P := P) | apply outKeeps_next (P := P) | apply OutKeeps.ite (P := P) | split | dsimp only)

theorem execDpllFreqWrite_keeps (hP : Closed P) (v : BitVec 32) (s : State) (hkeep : P s) : OutKeeps P (execDpllFreqWrite v s) := by
  unfold execDpllFreqWrite
  with_reducible repeat' (first | intro _ | assumption | apply wrB_keeps hP | apply wrI_keeps hP | apply onlyIf_keeps (P := P) | apply keeps_ite (P := P) | apply outKeeps_next (P := P) | apply OutKeeps.ite (P := P) | split | dsimp only)

theorem execDpllLock_keeps (hP : Closed P) (s : State) (hkeep : P s) : OutKeeps P (execDpllLock s) := by
  unfold execDpllLock
  with_reducible repeat' (first | intro _ | assumption | apply wr_keeps hP | apply keeps_ite (P := P) | apply outKeeps_next (P := P) | apply OutKeeps.ite (P := P) | split | dsimp only)

theorem phaseStep_keeps (hP : Closed P) (step : BitVec 24) (s : State) (hkeep : P s) : P (phaseStep step s) := by
  unfold phaseStep
  with_reducible repeat' (first | intro _ | assumption | apply count_keeps hP | apply wr_keeps hP | apply onlyIf_keeps (P := P) | dsimp only)

theorem takeRef_keeps (hP : Closed P) (c : Nat) (near : Bool) (step : BitVec 24) (s : State) (hkeep : P s) : P (takeRef c near step s) := by
  unfold takeRef
  with_reducible repeat' (first | intro _ | assumption | apply count_keeps hP | apply onClock_keeps hP | apply phaseStep_keeps hP | apply raise_keeps hP | apply wr_keeps hP | apply keeps_ite (P := P) | split | dsimp only)

theorem loseRef_keeps (hP : Closed P) (s : State) (hkeep : P s) : P (loseRef s) := by
  unfold loseRef
  with_reducible repeat' (first | intro _ | assumption | apply count_keeps hP | apply raise_keeps hP | apply wrB_keeps hP | apply wr_keeps hP | apply keeps_ite (P := P) | split | dsimp only)

theorem execDpllOpen_keeps (hP : Closed P) (opn : Bool) (step : BitVec 24) (s : State) (hkeep : P s) : OutKeeps P (execDpllOpen opn step s) := by
  unfold execDpllOpen
  with_reducible repeat' (first | intro _ | assumption | apply count_keeps hP | apply loseRef_keeps hP | apply phaseStep_keeps hP | apply raise_keeps hP | apply takeRef_keeps hP | apply wrB_keeps hP | apply wr_keeps hP | apply keeps_ite (P := P) | apply outKeeps_next (P := P) | apply OutKeeps.ite (P := P) | refine pair_keeps (P := P) (by assumption) ?_ | split | dsimp only)

theorem execDpllRevert_keeps (hP : Closed P) (near : Bool) (step : BitVec 24) (s : State) (hkeep : P s) : OutKeeps P (execDpllRevert near step s) := by
  unfold execDpllRevert
  with_reducible repeat' (first | intro _ | assumption | apply takeRef_keeps hP | apply keeps_ite (P := P) | apply outKeeps_next (P := P) | apply OutKeeps.ite (P := P) | refine pair_keeps (P := P) (by assumption) ?_ | split | dsimp only)

theorem execDpllUnlock_keeps (hP : Closed P) (s : State) (hkeep : P s) : OutKeeps P (execDpllUnlock s) := by
  unfold execDpllUnlock
  with_reducible repeat' (first | intro _ | assumption | apply wr_keeps hP | apply keeps_ite (P := P) | apply outKeeps_next (P := P) | apply OutKeeps.ite (P := P) | split | dsimp only)

theorem execHistoryValid_keeps (hP : Closed P) (s : State) (hkeep : P s) : OutKeeps P (execHistoryValid s) := by
  unfold execHistoryValid
  with_reducible repeat' (first | intro _ | assumption | apply wrB_keeps hP | apply wr_keeps hP | apply keeps_ite (P := P) | apply outKeeps_next (P := P) | apply OutKeeps.ite (P := P) | split | dsimp only)

theorem execRefDisqualify_keeps (hP : Closed P) (c : Fin 8) (miss : Bool) (ferr : BitVec 24) (near : Bool) (step : BitVec 24) (s : State) (hkeep : P s) : OutKeeps P (execRefDisqualify c miss ferr near step s) := by
  unfold execRefDisqualify
  with_reducible repeat' (first | intro _ | assumption | apply count_keeps hP | apply loseRef_keeps hP | apply takeRef_keeps hP | apply wrB_keeps hP | apply wr_keeps hP | apply keeps_ite (P := P) | apply outKeeps_next (P := P) | apply OutKeeps.ite (P := P) | refine pair_keeps (P := P) (by assumption) ?_ | split | dsimp only)

theorem execRefQualify_keeps (hP : Closed P) (c : Fin 8) (ferr : BitVec 24) (near : Bool) (step : BitVec 24) (s : State) (hkeep : P s) : OutKeeps P (execRefQualify c ferr near step s) := by
  unfold execRefQualify
  with_reducible repeat' (first | intro _ | assumption | apply takeRef_keeps hP | apply wrB_keeps hP | apply wr_keeps hP | apply keeps_ite (P := P) | apply outKeeps_next (P := P) | apply OutKeeps.ite (P := P) | refine pair_keeps (P := P) (by assumption) ?_ | split | dsimp only)

end Sys2Proof.Machine
end

