-- ==== Sys2Proof/Laws/Keeps/Dram.lean ====
section
/-! SUPPORT. Every function of Machine/Dram.lean keeps a closed property. -/

namespace Sys2Proof.Machine

variable {P : State → Prop}

theorem clearFallback_keeps (hP : Closed P) (s : State) (hkeep : P s) : P (clearFallback s) := by
  unfold clearFallback
  with_reducible repeat' (first | intro _ | assumption | apply wrB_keeps hP | apply keeps_ite (P := P) | split | dsimp only)

theorem repairRow_keeps (hP : Closed P) (n : Nat) (e : DramErr) (s : State) (hkeep : P s) : P (repairRow n e s) := by
  unfold repairRow
  with_reducible repeat' (first | intro _ | assumption | apply wrB_keeps hP | apply wr_keeps hP | apply keeps_ite (P := P) | refine pair_keeps (P := P) (by assumption) ?_ | split | dsimp only)

theorem onXb_keeps (hP : Closed P) (f : XbSt → XbSt) (s : State) (hkeep : P s) : P (onXb f s) := by
  unfold onXb
  with_reducible repeat' (first | intro _ | assumption | simp only [Closed.other hP, Closed.otherTl hP] | dsimp only)

theorem noteCe_keeps (hP : Closed P) (n : Nat) (e : DramErr) (s : State) (hkeep : P s) : P (noteCe n e s) := by
  unfold noteCe
  with_reducible repeat' (first | intro _ | assumption | apply onXb_keeps hP | apply repairRow_keeps hP | apply onlyIf_keeps (P := P) | dsimp only)

theorem dramError_keeps (hP : Closed P) (n : Nat) (e : DramErr) (s : State) (hkeep : P s) : P (dramError n e s) := by
  unfold dramError
  with_reducible repeat' (first | intro _ | assumption | apply count_keeps hP | apply noteCe_keeps hP | apply onXb_keeps hP | apply raise_keeps hP | apply repairRow_keeps hP | apply wrB_keeps hP | apply wr_keeps hP | apply onlyIf_keeps (P := P) | apply keeps_ite (P := P) | apply keeps_ite_snd (P := P) | refine pair_keeps (P := P) (by assumption) ?_ | split | dsimp only)

theorem fallBack_keeps (hP : Closed P) (s : State) (hkeep : P s) : P (fallBack s) := by
  unfold fallBack
  with_reducible repeat' (first | intro _ | assumption | apply raise_keeps hP | apply wrB_keeps hP | apply keeps_ite (P := P) | split | dsimp only)

theorem execArbiterParityError_keeps (hP : Closed P) (s : State) (hkeep : P s) : OutKeeps P (execArbiterParityError s) := by
  unfold execArbiterParityError
  with_reducible repeat' (first | intro _ | assumption | apply fallBack_keeps hP | apply outKeeps_next (P := P) | dsimp only)

theorem execFwLock_keeps (hP : Closed P) (s : State) (hkeep : P s) : OutKeeps P (execFwLock s) := by
  unfold execFwLock
  with_reducible repeat' (first | intro _ | assumption | apply wrB_keeps hP | apply outKeeps_next (P := P) | dsimp only)

theorem execMr4Read_keeps (hP : Closed P) (n : Fin 2) (rmult : Fin 3) (s : State) (hkeep : P s) : OutKeeps P (execMr4Read n rmult s) := by
  unfold execMr4Read
  with_reducible repeat' (first | intro _ | assumption | apply wr_keeps hP | apply keeps_ite (P := P) | apply outKeeps_next (P := P) | apply OutKeeps.ite (P := P) | split | dsimp only)

theorem execPatrolScrub_keeps (hP : Closed P) (n : Fin 2) (errors : List DramErr) (s : State) (hkeep : P s) : OutKeeps P (execPatrolScrub n errors s) := by
  unfold execPatrolScrub
  with_reducible repeat' (first | intro _ | assumption | apply dramError_keeps hP | apply seqNext_keeps hP | apply forEach_keeps (P := P) | apply keeps_ite (P := P) | apply outKeeps_next (P := P) | apply OutKeeps.ite (P := P) | split | dsimp only)

theorem execXbFbclr_keeps (hP : Closed P) (s : State) (hkeep : P s) : OutKeeps P (execXbFbclr s) := by
  unfold execXbFbclr
  with_reducible repeat' (first | intro _ | assumption | apply clearFallback_keeps hP | apply wrB_keeps hP | apply keeps_ite (P := P) | apply outKeeps_next (P := P) | apply OutKeeps.ite (P := P) | split | dsimp only)

theorem multStep_keeps (hP : Closed P) (s : State) (hkeep : P s) : P (multStep s) := by
  unfold multStep
  with_reducible repeat' (first | intro _ | assumption | apply onXb_keeps hP | apply keeps_ite (P := P) | refine pair_keeps (P := P) (by assumption) ?_ | split | dsimp only)

theorem xbTick_keeps (hP : Closed P) (s : State) (hkeep : P s) : P (xbTick s) := by
  unfold xbTick
  with_reducible repeat' (first | intro _ | assumption | apply count_keeps hP | apply multStep_keeps hP | apply onXb_keeps hP | apply raise_keeps hP | apply wrB_keeps hP | apply wr_keeps hP | apply onlyIf_keeps (P := P) | apply foldl_keeps (P := P) | apply foldl_snd_keeps (P := P) | dsimp only)

end Sys2Proof.Machine
end

