-- ==== Sys2Proof/Laws/Keeps/RegWrite.lean ====
section
/-! SUPPORT. Every function of Machine/RegWrite.lean keeps a closed property. -/

namespace Sys2Proof.Machine

variable {P : State → Prop}

theorem afterOut_keeps (hP : Closed P) (o : Out) (s : State) (h_o : OutKeeps P o) (hkeep : P s) : P (afterOut o s) := by
  unfold afterOut
  split
  · exact h_o.out _ rfl
  · exact hkeep

theorem dpllAfter_keeps (hP : Closed P) (a : Nat) (v : Word) (old : Word) (s : State) (hkeep : P s) : P (dpllAfter a v old s) := by
  unfold dpllAfter
  with_reducible repeat' (first | intro _ | assumption | apply afterOut_keeps hP | apply execCkoAlignGo_keeps hP | apply execCkoutModeWrite_keeps hP | apply execDpllOpen_keeps hP | apply freeNext_keeps hP | apply keeps_ite (P := P) | split | dsimp only)

theorem queueWrite_keeps (hP : Closed P) (a : Nat) (v : Word) (s : State) (hkeep : P s) : P (queueWrite a v s).2 := by
  unfold queueWrite
  with_reducible repeat' (first | intro _ | assumption | apply onGraph_keeps hP | apply refuseTable_keeps hP | apply keeps_ite (P := P) | apply keeps_ite_snd (P := P) | split | dsimp only)

theorem tableWrite_keeps (hP : Closed P) (a : Nat) (v : Word) (s : State) (hkeep : P s) : P (tableWrite a v s) := by
  unfold tableWrite
  with_reducible repeat' (first | intro _ | assumption | apply refuseTable_keeps hP | apply refuseTaint_keeps hP | apply wrReg_keeps hP | apply keeps_ite (P := P) | apply keeps_ite_snd (P := P) | split | dsimp only)

theorem landPlain_keeps (hP : Closed P) (a : Nat) (v : Word) (s : State) (hkeep : P s) : P (landPlain a v s) := by
  unfold landPlain
  with_reducible repeat' (first | intro _ | assumption | apply afterOut_keeps hP | apply execDpllFreqWrite_keeps hP | apply softWrite_keeps hP | apply keeps_ite (P := P) | split | dsimp only)

theorem podAfter_keeps (hP : Closed P) (a : Nat) (v : Word) (old : Word) (s : State) (hkeep : P s) : P (podAfter a v old s) := by
  unfold podAfter
  with_reducible repeat' (first | intro _ | assumption | apply cancelTask_keeps hP | apply declareFailed_keeps hP | apply dmaKick_keeps hP | apply makeReady_keeps hP | apply keeps_ite (P := P) | split | dsimp only)

theorem laneAfter_keeps (hP : Closed P) (a : Nat) (v : Word) (old : Word) (s : State) (hkeep : P s) : P (laneAfter a v old s) := by
  unfold laneAfter
  with_reducible repeat' (first | intro _ | assumption | apply afterOut_keeps hP | apply bringUp_keeps hP | apply execEyeScanGo_keeps hP | apply execLnCtlClear_keeps hP | apply execLnCtlFail_keeps hP | apply execLnCtlPreset_keeps hP | apply execLnCtlRestart_keeps hP | apply wr_keeps hP | apply keeps_ite (P := P) | split | dsimp only)

theorem streamAfter_keeps (hP : Closed P) (a : Nat) (v : Word) (s : State) (hkeep : P s) : P (streamAfter a v s) := by
  unfold streamAfter
  with_reducible repeat' (first | intro _ | assumption | apply afterOut_keeps hP | apply execSinCommit_keeps hP | apply execSoutCommit_keeps hP | apply showStreamPend_keeps hP | apply keeps_ite (P := P) | split | dsimp only)

theorem timeAfter_keeps (hT : Timed P) (a : Nat) (v : Word) (old : Word) (s : State) (hkeep : P s) : P (timeAfter a v old s) := by
  have hP := hT.toClosed
  unfold timeAfter
  with_reducible repeat' (first | intro _ | assumption | apply afterOut_keeps hP | apply execCapPop_keeps hP | apply execTbSetGo_keeps hT | apply execTriggerArm_keeps hP | apply setTrg_keeps hP | apply wrB_keeps hP | apply keeps_ite (P := P) | split | dsimp only)

theorem pairAfter_keeps (hP : Closed P) (a : Nat) (v : Word) (s : State) (hkeep : P s) : P (pairAfter a v s) := by
  unfold pairAfter
  with_reducible repeat' (first | intro _ | assumption | apply afterOut_keeps hP | apply execDrnCastle_keeps hP | apply execDrnResync_keeps hP | apply pairDerive_keeps hP | apply keeps_ite (P := P) | split | dsimp only)

theorem flAfter_keeps (hP : Closed P) (v : Word) (s : State) (hkeep : P s) : P (flAfter v s) := by
  unfold flAfter
  with_reducible repeat' (first | intro _ | assumption | apply afterOut_keeps hP | apply execCapDelete_keeps hP | apply execCapProtect_keeps hP | apply execFlBadOp_keeps hP | apply execFlLife_keeps hP | apply execFlLogRead_keeps hP | apply execImgRead_keeps hP | apply execImgWrite_keeps hP | apply execScanNow_keeps hP | apply keeps_ite (P := P) | split | dsimp only)

theorem ksAfter_keeps (hP : Closed P) (v : Word) (s : State) (hkeep : P s) : P (ksAfter v s) := by
  unfold ksAfter
  with_reducible repeat' (first | intro _ | assumption | apply afterOut_keeps hP | apply execKsBadOp_keeps hP | apply execKsRandom_keeps hP | apply execKsSlotClear_keeps hP | apply execKsZeroise_keeps hP | apply keeps_ite (P := P) | split | dsimp only)

theorem writeAfter_keeps (hT : Timed P) (m : Nat) (user : Bool) (a : Nat) (v : Word) (old : Word) (s : State) (hkeep : P s) : P (writeAfter m user a v old s) := by
  have hP := hT.toClosed
  unfold writeAfter
  with_reducible repeat' (first | intro _ | assumption | apply afterOut_keeps hP | apply execCarrierGridStart_keeps hP | apply keepWord_keeps hP | apply beginReset_keeps hT | apply clearFallback_keeps hP | apply computeGd_keeps hP | apply dpllAfter_keeps hP | apply execFbTxGo_keeps hP | apply execPwrRestart_keeps hT | apply execPwrRun_keeps hP | apply execPwrStandby_keeps hP | apply execSealLock_keeps hP | apply execSgWapplyCommit_keeps hP | apply execTdmResync_keeps hP | apply execTempoPop_keeps hP | apply feuRaise_keeps hP | apply flAfter_keeps hP | apply freeNext_keeps hP | apply ksAfter_keeps hP | apply laneAfter_keeps hP | apply onGraph_keeps hP | apply pairAfter_keeps hP | apply podAfter_keeps hP | apply senseRun_keeps hP | apply streamAfter_keeps hP | apply tdmEnable_keeps hP | apply timeAfter_keeps hT | apply wrB_keeps hP | apply keeps_ite (P := P) | split | dsimp only)

theorem recordCollision_keeps (hP : Closed P) (a : Nat) (s : State) (hkeep : P s) : P (recordCollision a s) := by
  unfold recordCollision
  with_reducible repeat' (first | intro _ | assumption | apply wrB_keeps hP | apply wr_keeps hP | dsimp only)

theorem performWrite_keeps (hT : Timed P) (m : Nat) (user : Bool) (met : Bool) (a : Nat) (v : Word) (s : State) (hkeep : P s) : P (performWrite m user met a v s).2 := by
  have hP := hT.toClosed
  unfold performWrite
  with_reducible repeat' (first | intro _ | assumption | apply feuRaise_keeps hP | apply landPlain_keeps hP | apply onFb_keeps hP | apply queueWrite_keeps hP | apply logRefusal_keeps hP | apply recordCollision_keeps hP | apply tableWrite_keeps hP | apply wrB_keeps hP | apply writeAfter_keeps hT | apply onlyIf_keeps (P := P) | apply keeps_ite (P := P) | apply keeps_ite_snd (P := P) | apply foldl_keeps (P := P) | apply foldl_snd_keeps (P := P) | refine pair_keeps (P := P) (by assumption) ?_ | split | dsimp only)

theorem registerWrite_keeps (hT : Timed P) (m : Nat) (user : Bool) (met : Bool) (a : Nat) (v : Word) (s : State) (hkeep : P s) : P (registerWrite m user met a v s).2 := by
  have hP := hT.toClosed
  unfold registerWrite
  with_reducible repeat' (first | intro _ | assumption | apply decodeError_keeps hP | apply islandError_keeps hP | apply logRefusal_keeps hP | apply performWrite_keeps hT | apply keeps_ite (P := P) | apply keeps_ite_snd (P := P) | refine pair_keeps (P := P) (by assumption) ?_ | split | dsimp only)

theorem execRegisterWrite_keeps (hT : Timed P) (master : BitVec 6) (user : Bool) (met : Bool) (addr : BitVec 32) (v : BitVec 32) (s : State) (hkeep : P s) : OutKeeps P (execRegisterWrite master user met addr v s) := by
  have hP := hT.toClosed
  unfold execRegisterWrite
  with_reducible repeat' (first | intro _ | assumption | apply registerWrite_keeps hT | apply keeps_ite (P := P) | apply outKeeps_fault (P := P) | apply outKeeps_next (P := P) | apply OutKeeps.ite (P := P) | split | dsimp only)

end Sys2Proof.Machine
end

