-- ==== Sys2Proof/Laws/Keeps/Start.lean ====
section
/-! SUPPORT. Every function of Machine/Start.lean keeps a closed property. -/

namespace Sys2Proof.Machine

variable {P : State → Prop}

theorem buildGolden_keeps (hP : Closed P) (s : State) (hkeep : P s) : P (buildGolden s) := by
  refine hP.mem _ s (fun h => ?_) hkeep
  rw [MemSt.wf_iff] at h ⊢
  obtain ⟨h1, h2, h3, h4, h5, h6, h7, h8⟩ := h
  exact ⟨h1, h2, h3, h4, mapWf_filter _ _ _ h1, mapWf_filter _ _ _ h2, mapWf_filter _ _ _ h3, h8⟩

theorem setRunBits_keeps (hP : Closed P) (s : State) (hkeep : P s) : P (setRunBits s) := by
  unfold setRunBits
  with_reducible repeat' (first | intro _ | assumption | apply wrB_keeps hP | apply forEach_keeps (P := P) | dsimp only)

theorem recheckSessions_keeps (hP : Closed P) (s : State) (hkeep : P s) : P (recheckSessions s) := by
  unfold recheckSessions
  with_reducible repeat' (first | intro _ | assumption | apply onHalv_keeps hP | apply raise_keeps hP | apply onlyIf_keeps (P := P) | dsimp only)

theorem execAudioStart_keeps (hP : Closed P) (s : State) (hkeep : P s) : OutKeeps P (execAudioStart s) := by
  unfold execAudioStart
  with_reducible repeat' (first | intro _ | assumption | apply bridgeStart_keeps hP | apply newSession_keeps hP | apply recheckSessions_keeps hP | apply setRunBits_keeps hP | apply sinWait_keeps hP | apply startGroups_keeps hP | apply wr_keeps hP | apply forEach_keeps (P := P) | apply keeps_ite (P := P) | apply keeps_ite_snd (P := P) | apply outKeeps_next (P := P) | apply OutKeeps.ite (P := P) | simp only [Closed.other hP, Closed.otherTl hP] | split | dsimp only)

theorem noImage_keeps (hP : Closed P) (s : State) (hkeep : P s) : P (noImage s) := by
  unfold noImage
  with_reducible repeat' (first | intro _ | assumption | apply raise_keeps hP | apply wrB_keeps hP | dsimp only)

theorem noSlotLeft_keeps (hP : Closed P) (s : State) (hkeep : P s) : P (noSlotLeft s) := by
  unfold noSlotLeft
  with_reducible repeat' (first | intro _ | assumption | apply noImage_keeps hP | apply keeps_ite (P := P) | split | dsimp only)

theorem failBefore_keeps (hP : Closed P) (detail : Nat) (slot : Nat) (s : State) (hkeep : P s) : P (failBefore detail slot s) := by
  unfold failBefore
  with_reducible repeat' (first | intro _ | assumption | apply noSlotLeft_keeps hP | apply onPawn_keeps hP | apply raise_keeps hP | dsimp only)

theorem takeHead_keeps (hP : Closed P) (im : Image) (s : State) (hkeep : P s) : P (takeHead im s) := by
  unfold takeHead
  with_reducible repeat' (first | intro _ | assumption | simp only [Closed.other hP, Closed.otherTl hP] | dsimp only)

theorem loadEach_keeps {α : Type} (hP : Closed P) (l : List α) (f : α → State → Load) (x : Load) (h_f : ∀ a t, P t → P (f a t).2) (hkeep : P x.2) :
    P (loadEach l f x).2 := foldl_snd_keeps (P := P) (fun t a ht => h_f a _ ht) hkeep

theorem unwrapSection_keeps (hP : Closed P) (x : ImgSection) (s : State) (hkeep : P s) : P (unwrapSection x s).2 := by
  unfold unwrapSection
  with_reducible repeat' (first | intro _ | assumption | apply count_keeps hP | apply onKs_keeps hP | apply onlyIf_keeps (P := P) | apply keeps_ite (P := P) | apply keeps_ite_snd (P := P) | split | dsimp only)

theorem loadMem_keeps (hP : Closed P) (space : Nat) (a : Nat) (ws : List (BitVec 32)) (s : State) (hkeep : P s) : P (loadMem space a ws s) := by
  unfold loadMem
  with_reducible repeat' (first | intro _ | assumption | apply wrProg_keeps hP | apply wrShared_keeps hP | apply wrX_keeps hP | apply wrY_keeps hP | apply forEach_keeps (P := P) | refine pair_keeps (P := P) (by assumption) ?_ | split | dsimp only)

theorem loadRec_keeps (hT : Timed P) (sealed_ : Bool) (r : ImgRec) (s : State) (hkeep : P s) : P (loadRec sealed_ r s).2 := by
  have hP := hT.toClosed
  unfold loadRec
  with_reducible repeat' (first | intro _ | assumption | apply fillSlot_keeps hP | apply installSak_keeps hP | apply loadEach_keeps hP | apply loadMem_keeps hP | apply registerWrite_keeps hT | apply keeps_ite (P := P) | apply keeps_ite_snd (P := P) | refine pair_keeps (P := P) (by assumption) ?_ | split | dsimp only)

theorem loadType_keeps (hT : Timed P) (n : Nat) (im : Image) (x : Load) (hkeep : P x.2) : P (loadType n im x).2 :=
  loadEach_keeps hT.toClosed _ _ _ (fun c t ht => loadEach_keeps hT.toClosed _ _ _ (fun r u hu => loadRec_keeps hT _ _ _ hu) ht) hkeep

theorem lockWindow_keeps (hP : Closed P) (r : ImgRec) (s : State) (hkeep : P s) : P (lockWindow r s) := by
  unfold lockWindow
  with_reducible repeat' (first | intro _ | assumption | apply showSealPod_keeps hP | apply wrB_keeps hP | refine pair_keeps (P := P) (by assumption) ?_ | split | dsimp only)

theorem loadWindow_keeps (hP : Closed P) (r : ImgRec) (s : State) (hkeep : P s) : P (loadWindow r s) := by
  unfold loadWindow
  with_reducible repeat' (first | intro _ | assumption | apply wr_keeps hP | refine pair_keeps (P := P) (by assumption) ?_ | split | dsimp only)

theorem loadCoeff_keeps (hT : Timed P) (im : Image) (x : Load) (hkeep : P x.2) : P (loadCoeff im x).2 :=
  loadType_keeps hT _ _ _ (forEach_keeps (P := P) (fun r t ht => lockWindow_keeps hT.toClosed _ _ ht)
    (forEach_keeps (P := P) (fun r t ht => loadWindow_keeps hT.toClosed _ _ ht) hkeep))

theorem takeRoles_keeps (hP : Closed P) (im : Image) (s : State) (hkeep : P s) : P (takeRoles im s) := by
  unfold takeRoles
  with_reducible repeat' (first | intro _ | assumption | simp only [Closed.other hP, Closed.otherTl hP] | refine pair_keeps (P := P) (by assumption) ?_ | split | dsimp only)

theorem startPtp_keeps (hP : Closed P) (s : State) (hkeep : P s) : P (startPtp s) := by
  unfold startPtp
  with_reducible repeat' (first | intro _ | assumption | apply portsChanged_keeps hP | apply setPort_keeps hP | apply onlyIf_keeps (P := P) | apply forEach_keeps (P := P) | dsimp only)

theorem loadImage_keeps (hT : Timed P) (im : Image) (failed : List (Fin 144)) (s : State) (hkeep : P s) : P (loadImage im failed s).2 := by
  have hP := hT.toClosed
  unfold loadImage
  with_reducible repeat' (first | intro _ | assumption | apply bringUp_keeps hP | apply buildGolden_keeps hP | apply declareFailed_keeps hP | apply execRookLoad_keeps hP | apply loadCoeff_keeps hT | apply loadEach_keeps hP | apply loadType_keeps hT | apply startPtp_keeps hP | apply takeHead_keeps hP | apply takeRoles_keeps hP | apply unwrapSection_keeps hP | apply wrB_keeps hP | apply forEach_keeps (P := P) | refine pair_keeps (P := P) (by assumption) ?_ | refine out_keeps (P := P) (by assumption) ?_ | split | dsimp only)

theorem failAfter_keeps (hT : Timed P) (slot : Nat) (s : State) (hkeep : P s) : P (failAfter slot s) := by
  have hP := hT.toClosed
  unfold failAfter
  with_reducible repeat' (first | intro _ | assumption | apply flushLog_keeps hP | apply raise_keeps hP | apply warmRestart_keeps hT | apply wrB_keeps hP | dsimp only)

theorem execSlotAdmission_keeps (hT : Timed P) (slot : Fin 2) (im : Image) (failed : List (Fin 144)) (s : State) (hkeep : P s) : OutKeeps P (execSlotAdmission slot im failed s) := by
  have hP := hT.toClosed
  unfold execSlotAdmission
  with_reducible repeat' (first | intro _ | assumption | apply failAfter_keeps hT | apply failBefore_keeps hP | apply loadImage_keeps hT | apply showPend_keeps hP | apply wr_keeps hP | apply keeps_ite (P := P) | apply outKeeps_next (P := P) | apply OutKeeps.ite (P := P) | split | dsimp only)

theorem trainDrc_keeps (hP : Closed P) (n : Nat) (ok : Bool) (s : State) (hkeep : P s) : P (trainDrc n ok s) := by
  unfold trainDrc
  with_reducible repeat' (first | intro _ | assumption | apply raise_keeps hP | apply wr_keeps hP | apply keeps_ite (P := P) | split | dsimp only)

theorem showTop_keeps (hP : Closed P) (dens : Nat) (s : State) (hkeep : P s) : P (showTop dens s) := by
  unfold showTop
  with_reducible repeat' (first | intro _ | assumption | apply wr_keeps hP | apply keeps_ite (P := P) | split | dsimp only)

theorem repairListed_keeps (hP : Closed P) (i : Nat) (r : Nat × Nat × Nat × Nat) (ok : Bool) (s : State) (hkeep : P s) : P (repairListed i r ok s) := by
  unfold repairListed
  with_reducible repeat' (first | intro _ | assumption | apply raise_keeps hP | apply wrB_keeps hP | apply wr_keeps hP | apply keeps_ite (P := P) | apply keeps_ite_snd (P := P) | split | dsimp only)

theorem repairAll_keeps (hP : Closed P) (n : Nat) (results : List Bool) (s : State) (hkeep : P s) : P (repairAll n results s) := by
  unfold repairAll
  with_reducible repeat' (first | intro _ | assumption | apply repairListed_keeps hP | apply forEach_keeps (P := P) | dsimp only)

theorem trainDram_keeps (hP : Closed P) (fit1 : Bool) (ranks : Bool) (dens : Nat) (ok0 : Bool) (ok1 : Bool) (repaired : List Bool) (s : State) (hkeep : P s) : P (trainDram fit1 ranks dens ok0 ok1 repaired s) := by
  unfold trainDram
  with_reducible repeat' (first | intro _ | assumption | apply onFl_keeps hP | apply repairAll_keeps hP | apply showTop_keeps hP | apply trainDrc_keeps hP | apply wrB_keeps hP | apply wr_keeps hP | apply keeps_ite (P := P) | apply keeps_ite_snd (P := P) | split | dsimp only)

theorem trainFlc_keeps (hP : Closed P) (t : FlcTrain) (s : State) (hkeep : P s) : P (trainFlc t s) := by
  unfold trainFlc
  with_reducible repeat' (first | intro _ | assumption | apply raise_keeps hP | apply wrB_keeps hP | apply wr_keeps hP | apply forEach_keeps (P := P) | apply keeps_ite (P := P) | split | dsimp only)

theorem execVendorRuntimeStart_keeps (hP : Closed P) (fit1 : Bool) (ranks : Bool) (dens : Fin 4) (ok0 : Bool) (ok1 : Bool) (repaired : List Bool) (flash : List FlcTrain) (s : State) (hkeep : P s) : OutKeeps P (execVendorRuntimeStart fit1 ranks dens ok0 ok1 repaired flash s) := by
  unfold execVendorRuntimeStart
  with_reducible repeat' (first | intro _ | assumption | apply flashStart_keeps hP | apply noImage_keeps hP | apply noSlotLeft_keeps hP | apply trainDram_keeps hP | apply trainFlc_keeps hP | apply forEach_keeps (P := P) | apply keeps_ite (P := P) | apply outKeeps_next (P := P) | apply OutKeeps.ite (P := P) | split | dsimp only)

end Sys2Proof.Machine
end

