-- ==== Sys2Proof/Laws/Keeps/Halvon.lean ====
section
/-! SUPPORT. Every function of Machine/Halvon.lean keeps a closed property. -/

namespace Sys2Proof.Machine

variable {P : State → Prop}

theorem stopReply_keeps (w : CapWindow) (now : Bool) (z : Nat) (late : Bool) (q : CapRes × State) (hkeep : P q.2) :
    P (stopReply w now z late q).2 := by
  obtain ⟨e, t⟩ := q
  cases e <;> exact hkeep

theorem moveStop_keeps (hP : Closed P) (w : CapWindow) (now : Bool) (r : WindowRes) (s : State) (hkeep : P s) : P (moveStop w now r s).2 := by
  cases r with
  | ok a z late => exact stopReply_keeps w now z late _ (changeStop_keeps hP w (absBlock z s) s hkeep)
  | far => exact countWindow_keeps hP .far _ hkeep
  | empty => exact countWindow_keeps hP .empty _ hkeep
  | long => exact countWindow_keeps hP .long _ hkeep

theorem capChange_keeps (hP : Closed P) (now : Bool) (flags : BitVec 8) (id : Nat) (stop : BitVec 64) (s : State) (hkeep : P s) :
    P (capChange now flags id stop s).2 := by
  unfold capChange
  generalize s.flash.window = o
  cases o with
  | none => exact hkeep
  | some w => exact keeps_ite_snd (P := P) (fun _ => hkeep) fun _ => moveStop_keeps hP _ _ _ _ hkeep

theorem openWindow_keeps (hP : Closed P) (w : WindowRes) (flags : BitVec 8) (s : State) (hkeep : P s) : P (openWindow w flags s).2 := by
  unfold openWindow
  with_reducible repeat' (first | intro _ | assumption | apply countWindow_keeps hP | apply leaveQuiet_keeps hP | apply openCapture_keeps hP | refine pair_keeps (P := P) (by assumption) ?_ | split | dsimp only)

theorem capOpen_keeps (hP : Closed P) (flags : BitVec 8) (start : BitVec 64) (stop : BitVec 64) (s : State) (hkeep : P s) : P (capOpen flags start stop s).2 := by
  unfold capOpen
  with_reducible repeat' (first | intro _ | assumption | apply openWindow_keeps hP | dsimp only)

theorem clearOut_keeps (hP : Closed P) (typ : Nat) (num : Nat) (seq : Nat) (status : Nat) (body : List (BitVec 32)) (s : State) (hkeep : P s) : P (clearOut typ num seq status body s) := by
  unfold clearOut
  with_reducible repeat' (first | intro _ | assumption | apply onHalv_keeps hP | dsimp only)

theorem discard_keeps (hP : Closed P) (f : HalvonSt → HalvonSt) (s : State) (hkeep : P s) : P (discard f s) := by
  unfold discard
  with_reducible repeat' (first | intro _ | assumption | apply onHalv_keeps hP | apply raise_keeps hP | apply keeps_ite (P := P) | split | dsimp only)

theorem dropHello_keeps (hP : Closed P) (s : State) (hkeep : P s) : P (dropHello s) := by
  unfold dropHello
  with_reducible repeat' (first | intro _ | assumption | apply discard_keeps hP | apply onHalv_keeps hP | apply raise_keeps hP | apply keeps_ite (P := P) | split | dsimp only)

theorem dropOldKey_keeps (hP : Closed P) (num : Nat) (s : State) (hkeep : P s) : P (dropOldKey num s) := by
  unfold dropOldKey
  with_reducible repeat' (first | intro _ | assumption | apply setSession_keeps hP | dsimp only)

theorem enterRekey_keeps (hP : Closed P) (r : SakRecord) (j : Judged) (s : State) (hkeep : P s) : P (enterRekey r j s).2 := by
  unfold enterRekey
  with_reducible repeat' (first | intro _ | assumption | apply countFar_keeps hP | apply countFull_keeps hP | apply enterChanges_keeps hP | apply installSak_keeps hP | apply keeps_ite (P := P) | apply keeps_ite_snd (P := P) | refine pair_keeps (P := P) (by assumption) ?_ | split | dsimp only)

theorem noteAccepted_keeps (hP : Closed P) (seq : Nat) (old : Bool) (s : State) (num : Nat) (hkeep : P s) : P (noteAccepted seq old s num) := by
  unfold noteAccepted
  with_reducible repeat' (first | intro _ | assumption | apply dropOldKey_keeps hP | apply setSession_keeps hP | apply keeps_ite (P := P) | apply keeps_ite_snd (P := P) | split | dsimp only)

theorem request_keeps (hP : Closed P) (typ : Nat) (perm : Option Nat) (timed : Bool) (h : MsgHead) (act : Session → State → Option Reply × State)
    (after : Nat → State → State) (s : State) (h_act : ∀ x t, P t → P (act x t).2) (h_after : ∀ x0 t, P t → P (after x0 t)) (hkeep : P s) :
    P (request typ perm timed h act after s) := by
  unfold request
  split
  · exact discard_keeps hP _ _ hkeep
  · exact onHalv_keeps hP _ _ hkeep
  · next x old _ =>
    have h1 : P (noteAccepted h.seq.toNat old (onHalv (fun q => { q with out := [] }) s) x.num) :=
      noteAccepted_keeps hP _ _ _ _ (onHalv_keeps hP _ _ hkeep)
    have h2 : P (match headStatus perm timed h x s with
      | some st => (some (errReply st 0xFFFF), noteAccepted h.seq.toNat old (onHalv (fun q => { q with out := [] }) s) x.num)
      | none => act x (noteAccepted h.seq.toNat old (onHalv (fun q => { q with out := [] }) s) x.num)).2 := by
      split
      · exact h1
      · exact h_act _ _ h1
    dsimp only
    split
    · refine endSession_keeps hP _ _ ?_
      split
      · split
        · exact h_after _ _ (sendReply_keeps hP _ _ _ _ _ _ h2)
        · exact sendReply_keeps hP _ _ _ _ _ _ h2
      · exact h2
    · split
      · split
        · exact h_after _ _ (sendReply_keeps hP _ _ _ _ _ _ h2)
        · exact sendReply_keeps hP _ _ _ _ _ _ h2
      · exact h2

theorem execBye_keeps (hP : Closed P) (h : MsgHead) (s : State) (hkeep : P s) : OutKeeps P (execBye h s) := by
  unfold execBye
  with_reducible repeat' (first | intro _ | assumption | apply endSession_keeps hP | apply request_keeps hP | apply outKeeps_next (P := P) | dsimp only)

theorem noMore_keeps (hP : Closed P) (z1 : Nat) (s : State) (hkeep : P s) : P (noMore z1 s) := by
  unfold noMore
  with_reducible repeat' (first | intro _ | assumption | dsimp only)

theorem execCapture_keeps (hP : Closed P) (h : MsgHead) (op : BitVec 8) (flags : BitVec 8) (capid : BitVec 32) (start : BitVec 64) (stop : BitVec 64) (s : State) (hkeep : P s) : OutKeeps P (execCapture h op flags capid start stop s) := by
  unfold execCapture
  with_reducible repeat' (first | intro _ | assumption | apply capChange_keeps hP | apply capOpen_keeps hP | apply noMore_keeps hP | apply request_keeps hP | apply keeps_ite (P := P) | apply keeps_ite_snd (P := P) | apply outKeeps_next (P := P) | apply OutKeeps.ite (P := P) | split | dsimp only)

theorem execCastle_keeps (hP : Closed P) (h : MsgHead) (s : State) (hkeep : P s) : OutKeeps P (execCastle h s) := by
  unfold execCastle
  with_reducible repeat' (first | intro _ | assumption | apply castleRequest_keeps hP | apply noMore_keeps hP | apply onHalv_keeps hP | apply pairDerive_keeps hP | apply request_keeps hP | apply outKeeps_next (P := P) | refine pair_keeps (P := P) (by assumption) ?_ | split | dsimp only)

theorem noteHello_keeps (hP : Closed P) (s : State) (hkeep : P s) : P (noteHello s) := by
  unfold noteHello
  with_reducible repeat' (first | intro _ | assumption | apply onHalv_keeps hP | dsimp only)

theorem execDevcert_keeps (hP : Closed P) (formOk : Bool) (seq : BitVec 32) (s : State) (hkeep : P s) : OutKeeps P (execDevcert formOk seq s) := by
  unfold execDevcert
  with_reducible repeat' (first | intro _ | assumption | apply clearOut_keeps hP | apply discard_keeps hP | apply dropHello_keeps hP | apply noteHello_keeps hP | apply keeps_ite (P := P) | apply outKeeps_next (P := P) | apply OutKeeps.ite (P := P) | split | dsimp only)

theorem execEvent_keeps (hP : Closed P) (num : BitVec 32) (kind : EventKind) (s : State) (hkeep : P s) : OutKeeps P (execEvent num kind s) := by
  unfold execEvent
  with_reducible repeat' (first | intro _ | assumption | apply endSession_keeps hP | apply onHalv_keeps hP | apply setSession_keeps hP | apply keeps_ite (P := P) | apply keeps_ite_snd (P := P) | apply outKeeps_next (P := P) | apply OutKeeps.ite (P := P) | refine pair_keeps (P := P) (by assumption) ?_ | split | dsimp only)

theorem execEventDropTimeout_keeps (hP : Closed P) (num : BitVec 32) (kind : EventKind) (s : State) (hkeep : P s) : OutKeeps P (execEventDropTimeout num kind s) := by
  unfold execEventDropTimeout
  with_reducible repeat' (first | intro _ | assumption | apply onHalv_keeps hP | apply setSession_keeps hP | apply keeps_ite (P := P) | apply keeps_ite_snd (P := P) | apply outKeeps_next (P := P) | apply OutKeeps.ite (P := P) | refine pair_keeps (P := P) (by assumption) ?_ | split | dsimp only)

theorem execEventSub_keeps (hP : Closed P) (h : MsgHead) (mask : BitVec 16) (s : State) (hkeep : P s) : OutKeeps P (execEventSub h mask s) := by
  unfold execEventSub
  with_reducible repeat' (first | intro _ | assumption | apply noMore_keeps hP | apply request_keeps hP | apply setSession_keeps hP | apply outKeeps_next (P := P) | dsimp only)

theorem execGet_keeps (hP : Closed P) (h : MsgHead) (els : List ParamAddr) (s : State) (hkeep : P s) : OutKeeps P (execGet h els s) := by
  unfold execGet
  with_reducible repeat' (first | intro _ | assumption | apply noMore_keeps hP | apply request_keeps hP | apply keeps_ite (P := P) | apply keeps_ite_snd (P := P) | apply outKeeps_next (P := P) | apply OutKeeps.ite (P := P) | refine pair_keeps (P := P) (by assumption) ?_ | split | dsimp only)

theorem freshKey_keeps (hP : Closed P) (s : State) (hkeep : P s) : P (freshKey s).2 := by
  unfold freshKey
  with_reducible repeat' (first | intro _ | assumption | apply freeNext_keeps hP | apply foldl_keeps (P := P) | apply foldl_snd_keeps (P := P) | dsimp only)

theorem execHello_keeps (hP : Closed P) (formOk : Bool) (role : Fin 16) (seq : BitVec 32) (cert : RoleCert) (s : State) (hkeep : P s) : OutKeeps P (execHello formOk role seq cert s) := by
  unfold execHello
  with_reducible repeat' (first | intro _ | assumption | apply clearOut_keeps hP | apply discard_keeps hP | apply dropHello_keeps hP | apply freeNext_keeps hP | apply freshKey_keeps hP | apply noteHello_keeps hP | apply onHalv_keeps hP | apply raise_keeps hP | apply keeps_ite (P := P) | apply keeps_ite_snd (P := P) | apply outKeeps_next (P := P) | apply OutKeeps.ite (P := P) | refine pair_keeps (P := P) (by assumption) ?_ | split | dsimp only)

theorem rollKey_keeps (hP : Closed P) (n : Nat) (s : State) (hkeep : P s) : P (rollKey n s) := by
  unfold rollKey
  with_reducible repeat' (first | intro _ | assumption | apply setSession_keeps hP | dsimp only)

theorem execKeyroll_keeps (hP : Closed P) (h : MsgHead) (s : State) (hkeep : P s) : OutKeeps P (execKeyroll h s) := by
  unfold execKeyroll
  with_reducible repeat' (first | intro _ | assumption | apply freshKey_keeps hP | apply request_keeps hP | apply rollKey_keeps hP | apply keeps_ite (P := P) | apply keeps_ite_snd (P := P) | apply outKeeps_next (P := P) | apply OutKeeps.ite (P := P) | split | dsimp only)

theorem lifeWords_keeps (hP : Closed P) (s : State) (hkeep : P s) : P (lifeWords s).2 := by
  unfold lifeWords
  with_reducible repeat' (first | intro _ | assumption | apply freeNext_keeps hP | apply foldl_keeps (P := P) | apply foldl_snd_keeps (P := P) | dsimp only)

theorem execLife_keeps (hP : Closed P) (h : MsgHead) (s : State) (hkeep : P s) : OutKeeps P (execLife h s) := by
  unfold execLife
  with_reducible repeat' (first | intro _ | assumption | apply lifeWords_keeps hP | apply noMore_keeps hP | apply request_keeps hP | apply outKeeps_next (P := P) | dsimp only)

theorem execLogRead_keeps (hP : Closed P) (h : MsgHead) (first : BitVec 32) (max : BitVec 16) (s : State) (hkeep : P s) : OutKeeps P (execLogRead h first max s) := by
  unfold execLogRead
  with_reducible repeat' (first | intro _ | assumption | apply noMore_keeps hP | apply request_keeps hP | apply keeps_ite (P := P) | apply keeps_ite_snd (P := P) | apply outKeeps_next (P := P) | apply OutKeeps.ite (P := P) | refine pair_keeps (P := P) (by assumption) ?_ | split | dsimp only)

theorem execMacsecRekey_keeps (hP : Closed P) (h : MsgHead) (r : SakRecord) (s : State) (hkeep : P s) : OutKeeps P (execMacsecRekey h r s) := by
  unfold execMacsecRekey
  with_reducible repeat' (first | intro _ | assumption | apply enterRekey_keeps hP | apply noMore_keeps hP | apply request_keeps hP | apply keeps_ite (P := P) | apply keeps_ite_snd (P := P) | apply outKeeps_next (P := P) | apply OutKeeps.ite (P := P) | split | dsimp only)

theorem execMeterSub_keeps (hP : Closed P) (h : MsgHead) (mode : BitVec 8) (div : BitVec 8) (meters : List (BitVec 16)) (s : State) (hkeep : P s) : OutKeeps P (execMeterSub h mode div meters s) := by
  unfold execMeterSub
  with_reducible repeat' (first | intro _ | assumption | apply noMore_keeps hP | apply request_keeps hP | apply setSession_keeps hP | apply keeps_ite (P := P) | apply keeps_ite_snd (P := P) | apply outKeeps_next (P := P) | apply OutKeeps.ite (P := P) | apply foldl_keeps (P := P) | apply foldl_snd_keeps (P := P) | refine pair_keeps (P := P) (by assumption) ?_ | split | dsimp only)

theorem execOldKeyExpiry_keeps (hP : Closed P) (num : BitVec 32) (s : State) (hkeep : P s) : OutKeeps P (execOldKeyExpiry num s) := by
  unfold execOldKeyExpiry
  with_reducible repeat' (first | intro _ | assumption | apply dropOldKey_keeps hP | apply outKeeps_next (P := P) | dsimp only)

theorem setElements_keeps (hP : Closed P) (h : MsgHead) (es : List ParamElem) (s : State) (hkeep : P s) : P (setElements h es s).2 := by
  unfold setElements
  with_reducible repeat' (first | intro _ | assumption | apply acceptChanges_keeps hP | apply keeps_ite (P := P) | apply keeps_ite_snd (P := P) | refine pair_keeps (P := P) (by assumption) ?_ | split | dsimp only)

theorem execScene_keeps (hP : Closed P) (h : MsgHead) (num : BitVec 16) (s : State) (hkeep : P s) : OutKeeps P (execScene h num s) := by
  unfold execScene
  with_reducible repeat' (first | intro _ | assumption | apply noMore_keeps hP | apply request_keeps hP | apply setElements_keeps hP | apply outKeeps_next (P := P) | refine pair_keeps (P := P) (by assumption) ?_ | split | dsimp only)

theorem execSessionExpiry_keeps (hP : Closed P) (num : BitVec 32) (s : State) (hkeep : P s) : OutKeeps P (execSessionExpiry num s) := by
  unfold execSessionExpiry
  with_reducible repeat' (first | intro _ | assumption | apply endSession_keeps hP | apply raise_keeps hP | apply keeps_ite (P := P) | apply outKeeps_next (P := P) | apply OutKeeps.ite (P := P) | refine pair_keeps (P := P) (by assumption) ?_ | split | dsimp only)

theorem execSessionIdleTimeout_keeps (hP : Closed P) (num : BitVec 32) (s : State) (hkeep : P s) : OutKeeps P (execSessionIdleTimeout num s) := by
  unfold execSessionIdleTimeout
  with_reducible repeat' (first | intro _ | assumption | apply endSession_keeps hP | apply outKeeps_next (P := P) | dsimp only)

theorem execSessionOpenTimeout_keeps (hP : Closed P) (num : BitVec 32) (s : State) (hkeep : P s) : OutKeeps P (execSessionOpenTimeout num s) := by
  unfold execSessionOpenTimeout
  with_reducible repeat' (first | intro _ | assumption | apply endSession_keeps hP | apply keeps_ite (P := P) | apply outKeeps_next (P := P) | apply OutKeeps.ite (P := P) | refine pair_keeps (P := P) (by assumption) ?_ | split | dsimp only)

theorem execSet_keeps (hP : Closed P) (h : MsgHead) (els : List ParamElem) (s : State) (hkeep : P s) : OutKeeps P (execSet h els s) := by
  unfold execSet
  with_reducible repeat' (first | intro _ | assumption | apply noMore_keeps hP | apply request_keeps hP | apply setElements_keeps hP | apply keeps_ite (P := P) | apply keeps_ite_snd (P := P) | apply outKeeps_next (P := P) | apply OutKeeps.ite (P := P) | refine pair_keeps (P := P) (by assumption) ?_ | split | dsimp only)

end Sys2Proof.Machine
end

