-- ==== Sys2Proof/Laws/Keeps/Block.lean ====
section
/-! SUPPORT. Every function of Machine/Block.lean keeps a closed property. -/

namespace Sys2Proof.Machine

variable {P : State → Prop}

theorem advanceBlock_keeps (hT : Timed P) (s : State) (hkeep : P s) : P (advanceBlock s) := by
  have hP := hT.toClosed
  unfold advanceBlock
  with_reducible repeat' (first | intro _ | assumption | apply keeps_ite (P := P) | simp only [Timed.other hT] | split | dsimp only)

theorem aheadChange_keeps (hP : Closed P) (c : Change) (s : State) (hkeep : P s) : P (aheadChange c s) := by
  unfold aheadChange
  with_reducible repeat' (first | intro _ | assumption | apply aheadWord_keeps hP | refine pair_keeps (P := P) (by assumption) ?_ | split | dsimp only)

theorem noteGen_keeps (hP : Closed P) (d : Nat) (s : State) (hkeep : P s) : P (noteGen d s) := by
  unfold noteGen
  with_reducible repeat' (first | intro _ | assumption | simp only [Closed.other hP, Closed.otherTl hP] | dsimp only)

theorem landChange_keeps (hP : Closed P) (c : Change) (s : State) (hkeep : P s) : P (landChange c s) := by
  unfold landChange
  with_reducible repeat' (first | intro _ | assumption | apply landWord_keeps hP | apply keeps_ite (P := P) | simp only [Closed.other hP, Closed.otherTl hP] | refine pair_keeps (P := P) (by assumption) ?_ | split | dsimp only)

theorem landResync_keeps (hP : Closed P) (d : Nat) (s : State) (hkeep : P s) : P (landResync d s) := by
  unfold landResync
  with_reducible repeat' (first | intro _ | assumption | apply landChange_keeps hP | apply onPair_keeps hP | apply wr_keeps hP | apply forEach_keeps (P := P) | apply keeps_ite (P := P) | apply keeps_ite_snd (P := P) | refine pair_keeps (P := P) (by assumption) ?_ | split | dsimp only)

theorem landApply_keeps (hP : Closed P) (d : Nat) (s : State) (hkeep : P s) : P (landApply d s) := by
  unfold landApply
  with_reducible repeat' (first | intro _ | assumption | apply landChange_keeps hP | apply seqNext_keeps hP | apply setPend_keeps hP | apply onlyIf_keeps (P := P) | apply forEach_keeps (P := P) | dsimp only)

theorem paramTick_keeps (hP : Closed P) (s : State) (hkeep : P s) : P (paramTick s) := by
  unfold paramTick
  with_reducible repeat' (first | intro _ | assumption | apply aheadChange_keeps hP | apply landApply_keeps hP | apply landResync_keeps hP | apply laterChanges_keeps hP | apply noteGen_keeps hP | apply forEach_keeps (P := P) | dsimp only)

theorem heartbeatTick_keeps (hP : Closed P) (s : State) (hkeep : P s) : P (heartbeatTick s) := by
  unfold heartbeatTick
  with_reducible repeat' (first | intro _ | assumption | apply queueAudio_keeps hP | apply forEach_keeps (P := P) | apply keeps_ite (P := P) | split | dsimp only)

theorem writersTick_keeps (hP : Closed P) (s : State) (hkeep : P s) : P (writersTick s) := by
  unfold writersTick
  with_reducible repeat' (first | intro _ | assumption | apply captureBlock_keeps hP | apply recorderBlock_keeps hP | apply keeps_ite (P := P) | split | dsimp only)

theorem blockActions_keeps (hP : Closed P) (s : State) (hkeep : P s) : P (blockActions s) := by
  unfold blockActions
  with_reducible repeat' (first | intro _ | assumption | apply bridgeTick_keeps hP | apply egressTick_keeps hP | apply fbTick_keeps hP | apply graphTick_keeps hP | apply heartbeatTick_keeps hP | apply laneTick_keeps hP | apply modTick_keeps hP | apply pairTick_keeps hP | apply paramTick_keeps hP | apply podsTick_keeps hP | apply quietEnds_keeps hP | apply quietWatch_keeps hP | apply rookTick_keeps hP | apply secTick_keeps hP | apply showPend_keeps hP | apply stopAudio_keeps hP | apply writersTick_keeps hP | apply xbTick_keeps hP | apply onlyIf_keeps (P := P) | apply forEach_keeps (P := P) | dsimp only)

theorem execBlockBoundary_keeps (hT : Timed P) (s : State) (hkeep : P s) : OutKeeps P (execBlockBoundary s) := by
  have hP := hT.toClosed
  unfold execBlockBoundary
  with_reducible repeat' (first | intro _ | assumption | apply advanceBlock_keeps hT | apply blockActions_keeps hP | apply graphEnd_keeps hP | apply podsEnd_keeps hP | apply keeps_ite (P := P) | apply outKeeps_next (P := P) | apply OutKeeps.ite (P := P) | split | dsimp only)

end Sys2Proof.Machine
end

