-- ==== Sys2Proof/Laws/Keeps/Crossbar.lean ====
section
/-! SUPPORT. Every function of Machine/Crossbar.lean keeps a closed property. -/

namespace Sys2Proof.Machine

variable {P : State → Prop}

theorem arrivePiece_keeps (hP : Closed P) (t : XbTrans) (target : Nat) (s : State) (hkeep : P s) : P (arrivePiece t target s) := by
  unfold arrivePiece
  with_reducible repeat' (first | intro _ | assumption | apply count_keeps hP | apply onXb_keeps hP | apply keeps_ite (P := P) | split | dsimp only)

theorem setTrans_keeps (hP : Closed P) (id : Nat) (f : XbTrans → XbTrans) (s : State) (hkeep : P s) : P (setTrans id f s) := by
  unfold setTrans
  with_reducible repeat' (first | intro _ | assumption | apply onXb_keeps hP | apply keeps_ite (P := P) | split | dsimp only)

theorem pieceDone_keeps (hP : Closed P) (t : XbTrans) (p : XbPiece) (r : Bool × List (BitVec 8) × State) (hkeep : P (r.2.2)) : P (pieceDone t p r) := by
  unfold pieceDone
  with_reducible repeat' (first | intro _ | assumption | apply arrivePiece_keeps hP | apply onXb_keeps hP | apply setTrans_keeps hP | apply keeps_ite (P := P) | apply keeps_ite_snd (P := P) | refine pair_keeps (P := P) (by assumption) ?_ | split | dsimp only)

theorem regAccess_keeps (hT : Timed P) (m : Nat) (user write : Bool) (a : Nat) (bs : List (BitVec 8)) (n i : Nat) (s : State) (hkeep : P s) :
    P (regAccess m user write a bs n i s).2.2 := by
  induction n generalizing i s with
  | zero => exact hkeep
  | succ n ih =>
    unfold regAccess
    split
    · exact ih _ _ (registerWrite_keeps hT _ _ _ _ _ _ hkeep)
    · exact ih _ _ (registerRead_keeps hT.toClosed _ _ _ _ hkeep)

theorem putShared_keeps (hP : Closed P) (n : Nat) (o : Nat) (b : BitVec 8) (s : State) (hkeep : P s) : P (putShared n o b s) := by
  unfold putShared
  with_reducible repeat' (first | intro _ | assumption | apply wrShared_keeps hP | dsimp only)

theorem writeDramAt_keeps (hP : Closed P) (a : Nat) (bs : List (BitVec 8)) (s : State) (hkeep : P s) : P (writeDramAt a bs s) := by
  unfold writeDramAt
  with_reducible repeat' (first | intro _ | assumption | apply wrDramBytes_keeps hP | simp only [Closed.other hP, Closed.otherTl hP] | dsimp only)

theorem readDramAt_keeps (hP : Closed P) (n a : Nat) (s : State) (hkeep : P s) : P (readDramAt n a s).2 := by
  induction n generalizing a s with
  | zero => exact hkeep
  | succ n ih => exact ih _ _ (onlyIf_keeps (P := P) (fun t ht => freeNext_keeps hP _ ht) hkeep)

theorem performPiece_keeps (hT : Timed P) (m : Nat) (user : Bool) (write : Bool) (target : Nat) (a : Nat) (len : Nat) (bs : List (BitVec 8)) (ecc : Option DramErr) (s : State) (hkeep : P s) : P (performPiece m user write target a len bs ecc s).2.2 := by
  have hP := hT.toClosed
  unfold performPiece
  with_reducible repeat' (first | intro _ | assumption | apply decodeError_keeps hP | apply dramError_keeps hP | apply putShared_keeps hP | apply raiseAccess_keeps hP | apply readDramAt_keeps hP | apply regAccess_keeps hT | apply writeDramAt_keeps hP | apply forEach_keeps (P := P) | apply keeps_ite (P := P) | apply keeps_ite_snd (P := P) | apply keeps_ite_snd_snd (P := P) | refine pair_keeps (P := P) (by assumption) ?_ | refine triple_keeps (P := P) (by assumption) ?_ | split | dsimp only)

theorem execXbPieceGrant_keeps (hT : Timed P) (target : Fin 19) (ecc : Option DramErr) (s : State) (hkeep : P s) : OutKeeps P (execXbPieceGrant target ecc s) := by
  have hP := hT.toClosed
  unfold execXbPieceGrant
  with_reducible repeat' (first | intro _ | assumption | apply onXb_keeps hP | apply performPiece_keeps hT | apply pieceDone_keeps hP | apply keeps_ite (P := P) | apply outKeeps_next (P := P) | apply OutKeeps.ite (P := P) | refine pair_keeps (P := P) (by assumption) ?_ | refine triple_keeps (P := P) (by assumption) ?_ | split | dsimp only)

theorem execXbQosAge_keeps (hP : Closed P) (target : Fin 19) (index : BitVec 14) (s : State) (hkeep : P s) : OutKeeps P (execXbQosAge target index s) := by
  unfold execXbQosAge
  with_reducible repeat' (first | intro _ | assumption | apply onXb_keeps hP | apply keeps_ite (P := P) | apply outKeeps_next (P := P) | apply OutKeeps.ite (P := P) | refine pair_keeps (P := P) (by assumption) ?_ | split | dsimp only)

theorem showTags_keeps (hP : Closed P) (m : Nat) (s : State) (hkeep : P s) : P (showTags m s) := by
  unfold showTags
  with_reducible repeat' (first | intro _ | assumption | apply wrSat_keeps hP | dsimp only)

theorem issueTrans_keeps (hP : Closed P) (r : XbReq) (s : State) (hkeep : P s) : P (issueTrans r s) := by
  unfold issueTrans
  with_reducible repeat' (first | intro _ | assumption | apply arrivePiece_keeps hP | apply decodeError_keeps hP | apply logRefusal_keeps hP | apply onXb_keeps hP | apply setTrans_keeps hP | apply showTags_keeps hP | apply keeps_ite (P := P) | refine pair_keeps (P := P) (by assumption) ?_ | split | dsimp only)

theorem issueWaiting_keeps (hP : Closed P) (m : Nat) (s : State) (hkeep : P s) : P (issueWaiting m s) := by
  unfold issueWaiting
  with_reducible repeat' (first | intro _ | assumption | apply issueTrans_keeps hP | apply onXb_keeps hP | apply keeps_ite (P := P) | refine pair_keeps (P := P) (by assumption) ?_ | split | dsimp only)

theorem respond_keeps (hP : Closed P) (t : XbTrans) (err : Bool) (s : State) (hkeep : P s) : P (respond t err s) := by
  unfold respond
  with_reducible repeat' (first | intro _ | assumption | apply issueWaiting_keeps hP | apply onXb_keeps hP | apply showTags_keeps hP | apply keeps_ite (P := P) | split | dsimp only)

theorem execXbResponse_keeps (hP : Closed P) (master : BitVec 6) (s : State) (hkeep : P s) : OutKeeps P (execXbResponse master s) := by
  unfold execXbResponse
  with_reducible repeat' (first | intro _ | assumption | apply onXb_keeps hP | apply respond_keeps hP | apply outKeeps_next (P := P) | refine pair_keeps (P := P) (by assumption) ?_ | split | dsimp only)

theorem execXbTimeout_keeps (hT : Timed P) (master : BitVec 6) (ns : BitVec 64) (s : State) (hkeep : P s) : OutKeeps P (execXbTimeout master ns s) := by
  have hP := hT.toClosed
  unfold execXbTimeout
  with_reducible repeat' (first | intro _ | assumption | apply count_keeps hP | apply fallBack_keeps hP | apply onXb_keeps hP | apply raise_keeps hP | apply respond_keeps hP | apply runTo_keeps hT | apply setTrans_keeps hP | apply keeps_ite (P := P) | apply outKeeps_next (P := P) | apply OutKeeps.ite (P := P) | refine pair_keeps (P := P) (by assumption) ?_ | split | dsimp only)

theorem execXbTransaction_keeps (hT : Timed P) (r : XbReq) (ns : BitVec 64) (s : State) (hkeep : P s) : OutKeeps P (execXbTransaction r ns s) := by
  have hP := hT.toClosed
  unfold execXbTransaction
  with_reducible repeat' (first | intro _ | assumption | apply count_keeps hP | apply issueTrans_keeps hP | apply onXb_keeps hP | apply runTo_keeps hT | apply keeps_ite (P := P) | apply outKeeps_fault (P := P) | apply outKeeps_next (P := P) | apply OutKeeps.ite (P := P) | split | dsimp only)

end Sys2Proof.Machine
end

