-- ==== Sys2Proof/Laws/Keeps/PeaRows.lean ====
section
/-! SUPPORT. Every function of Machine/PeaRows.lean keeps a closed property. -/

namespace Sys2Proof.Machine

variable {P : State → Prop}

theorem aluBundle_keeps (hP : Closed P) (c : Nat) (legal : Bool) (priv : Bool) (a : AluSlots) (op : State → State → State) (s : State) (h_op : ∀ x0 t, P t → P (op x0 t)) (hkeep : P s) : OutKeeps P (aluBundle c legal priv a op s) := by
  unfold aluBundle
  with_reducible repeat' (first | intro _ | assumption | apply doMove_keeps hP | apply issue_keeps hP | apply h_op | apply keeps_ite (P := P) | apply outKeeps_next (P := P) | apply OutKeeps.ite (P := P) | split | dsimp only)

theorem flyRes_keeps (hP : Closed P) (c : Nat) (t : Option Tgt) (w : Nat) (x : AluRes w) (s : State) (hkeep : P s) : P (flyRes c t w x s) := by
  unfold flyRes
  with_reducible repeat' (first | intro _ | assumption | apply flySticky_keeps hP | apply fly_keeps hP | apply onlyIf_keeps (P := P) | refine pair_keeps (P := P) (by assumption) ?_ | split | dsimp only)

theorem aOp_keeps (hP : Closed P) (c : CoreId) (a : AluSlots) (legal : Bool) (f : State → AluRes 56) (s : State) (hkeep : P s) : OutKeeps P (aOp c a legal f s) := by
  unfold aOp
  with_reducible repeat' (first | intro _ | assumption | apply aluBundle_keeps hP | apply flyRes_keeps hP | dsimp only)

theorem dOp_keeps (hP : Closed P) (c : CoreId) (a : AluSlots) (f : State → AluRes 24) (s : State) (hkeep : P s) : OutKeeps P (dOp c a f s) := by
  unfold dOp
  with_reducible repeat' (first | intro _ | assumption | apply aluBundle_keeps hP | apply flyRes_keeps hP | dsimp only)

theorem execAbs_keeps (hP : Closed P) (c : CoreId) (a : AluSlots) (s : State) (hkeep : P s) : OutKeeps P (execAbs c a s) := by
  unfold execAbs
  with_reducible repeat' (first | intro _ | assumption | apply dOp_keeps hP | dsimp only)

theorem execAbsa_keeps (hP : Closed P) (c : CoreId) (a : AluSlots) (s : State) (hkeep : P s) : OutKeeps P (execAbsa c a s) := by
  unfold execAbsa
  with_reducible repeat' (first | intro _ | assumption | apply aOp_keeps hP | dsimp only)

theorem execAdd_keeps (hP : Closed P) (c : CoreId) (a : AluSlots) (s : State) (hkeep : P s) : OutKeeps P (execAdd c a s) := by
  unfold execAdd
  with_reducible repeat' (first | intro _ | assumption | apply dOp_keeps hP | dsimp only)

theorem execAdda_keeps (hP : Closed P) (c : CoreId) (a : AluSlots) (s : State) (hkeep : P s) : OutKeeps P (execAdda c a s) := by
  unfold execAdda
  with_reducible repeat' (first | intro _ | assumption | apply aOp_keeps hP | dsimp only)

theorem execAddp_keeps (hP : Closed P) (c : CoreId) (a : AluSlots) (s : State) (hkeep : P s) : OutKeeps P (execAddp c a s) := by
  unfold execAddp
  with_reducible repeat' (first | intro _ | assumption | apply aluBundle_keeps hP | apply flySticky_keeps hP | apply fly_keeps hP | apply onlyIf_keeps (P := P) | dsimp only)

theorem execAdds_keeps (hP : Closed P) (c : CoreId) (a : AluSlots) (s : State) (hkeep : P s) : OutKeeps P (execAdds c a s) := by
  unfold execAdds
  with_reducible repeat' (first | intro _ | assumption | apply dOp_keeps hP | dsimp only)

theorem execAluNop_keeps (hP : Closed P) (c : CoreId) (a : AluSlots) (s : State) (hkeep : P s) : OutKeeps P (execAluNop c a s) := by
  unfold execAluNop
  with_reducible repeat' (first | intro _ | assumption | apply aluBundle_keeps hP | dsimp only)

theorem execAnd_keeps (hP : Closed P) (c : CoreId) (a : AluSlots) (s : State) (hkeep : P s) : OutKeeps P (execAnd c a s) := by
  unfold execAnd
  with_reducible repeat' (first | intro _ | assumption | apply dOp_keeps hP | dsimp only)

theorem execAsha_keeps (hP : Closed P) (c : CoreId) (a : AluSlots) (s : State) (hkeep : P s) : OutKeeps P (execAsha c a s) := by
  unfold execAsha
  with_reducible repeat' (first | intro _ | assumption | apply aOp_keeps hP | dsimp only)

theorem execAsl_keeps (hP : Closed P) (c : CoreId) (a : AluSlots) (s : State) (hkeep : P s) : OutKeeps P (execAsl c a s) := by
  unfold execAsl
  with_reducible repeat' (first | intro _ | assumption | apply dOp_keeps hP | dsimp only)

theorem execAsls_keeps (hP : Closed P) (c : CoreId) (a : AluSlots) (s : State) (hkeep : P s) : OutKeeps P (execAsls c a s) := by
  unfold execAsls
  with_reducible repeat' (first | intro _ | assumption | apply dOp_keeps hP | dsimp only)

theorem execAsr_keeps (hP : Closed P) (c : CoreId) (a : AluSlots) (s : State) (hkeep : P s) : OutKeeps P (execAsr c a s) := by
  unfold execAsr
  with_reducible repeat' (first | intro _ | assumption | apply dOp_keeps hP | dsimp only)

theorem execClra_keeps (hP : Closed P) (c : CoreId) (a : AluSlots) (s : State) (hkeep : P s) : OutKeeps P (execClra c a s) := by
  unfold execClra
  with_reducible repeat' (first | intro _ | assumption | apply aOp_keeps hP | dsimp only)

theorem execClra2_keeps (hP : Closed P) (c : CoreId) (a : AluSlots) (s : State) (hkeep : P s) : OutKeeps P (execClra2 c a s) := by
  unfold execClra2
  with_reducible repeat' (first | intro _ | assumption | apply aluBundle_keeps hP | apply flyRes_keeps hP | dsimp only)

theorem execCls_keeps (hP : Closed P) (c : CoreId) (a : AluSlots) (s : State) (hkeep : P s) : OutKeeps P (execCls c a s) := by
  unfold execCls
  with_reducible repeat' (first | intro _ | assumption | apply dOp_keeps hP | dsimp only)

theorem execCmp_keeps (hP : Closed P) (c : CoreId) (a : AluSlots) (s : State) (hkeep : P s) : OutKeeps P (execCmp c a s) := by
  unfold execCmp
  with_reducible repeat' (first | intro _ | assumption | apply aluBundle_keeps hP | apply flyRes_keeps hP | dsimp only)

theorem execCmpa_keeps (hP : Closed P) (c : CoreId) (a : AluSlots) (s : State) (hkeep : P s) : OutKeeps P (execCmpa c a s) := by
  unfold execCmpa
  with_reducible repeat' (first | intro _ | assumption | apply aluBundle_keeps hP | apply flyRes_keeps hP | dsimp only)

theorem macBundle_keeps (hP : Closed P) (c : Nat) (legal : Bool) (m : MacSlots) (slot : State → State → State) (s : State) (h_slot : ∀ x0 t, P t → P (slot x0 t)) (hkeep : P s) : OutKeeps P (macBundle c legal m slot s) := by
  unfold macBundle
  with_reducible repeat' (first | intro _ | assumption | apply doMove_keeps hP | apply issue_keeps hP | apply h_slot | apply outKeeps_next (P := P) | dsimp only)

theorem macSlot_keeps (hP : Closed P) (c : Nat) (md : MacMode) (ps : List (Nat × Int)) (mstg : Nat) (r : State) (s : State) (hkeep : P s) : P (macSlot c md ps mstg r s) := by
  unfold macSlot
  with_reducible repeat' (first | intro _ | assumption | apply flyMac_keeps hP | apply flySticky_keeps hP | apply onlyIf_keeps (P := P) | apply forEach_keeps (P := P) | apply keeps_ite (P := P) | apply keeps_ite_snd (P := P) | split | dsimp only)

theorem execDmac_keeps (hP : Closed P) (c : CoreId) (m : MacSlots) (s : State) (hkeep : P s) : OutKeeps P (execDmac c m s) := by
  unfold execDmac
  with_reducible repeat' (first | intro _ | assumption | apply macBundle_keeps hP | apply macSlot_keeps hP | dsimp only)

theorem execDmpy_keeps (hP : Closed P) (c : CoreId) (m : MacSlots) (s : State) (hkeep : P s) : OutKeeps P (execDmpy c m s) := by
  unfold execDmpy
  with_reducible repeat' (first | intro _ | assumption | apply macBundle_keeps hP | apply macSlot_keeps hP | dsimp only)

theorem execDmsu_keeps (hP : Closed P) (c : CoreId) (m : MacSlots) (s : State) (hkeep : P s) : OutKeeps P (execDmsu c m s) := by
  unfold execDmsu
  with_reducible repeat' (first | intro _ | assumption | apply macBundle_keeps hP | apply macSlot_keeps hP | dsimp only)

theorem moveBundle_keeps (hP : Closed P) (c : Nat) (k : LKind) (m : MoveArgs) (s : State) (hkeep : P s) : OutKeeps P (moveBundle c k m s) := by
  unfold moveBundle
  with_reducible repeat' (first | intro _ | assumption | apply doMove_keeps hP | apply issue_keeps hP | apply outKeeps_next (P := P) | dsimp only)

theorem execLd_keeps (hP : Closed P) (c : CoreId) (m : MoveArgs) (s : State) (hkeep : P s) : OutKeeps P (execLd c m s) := by
  unfold execLd
  with_reducible repeat' (first | intro _ | assumption | apply moveBundle_keeps hP | dsimp only)

theorem execLda_keeps (hP : Closed P) (c : CoreId) (m : MoveArgs) (s : State) (hkeep : P s) : OutKeeps P (execLda c m s) := by
  unfold execLda
  with_reducible repeat' (first | intro _ | assumption | apply moveBundle_keeps hP | dsimp only)

theorem execLdp_keeps (hP : Closed P) (c : CoreId) (m : MoveArgs) (s : State) (hkeep : P s) : OutKeeps P (execLdp c m s) := by
  unfold execLdp
  with_reducible repeat' (first | intro _ | assumption | apply moveBundle_keeps hP | dsimp only)

theorem limmSlot_keeps (hP : Closed P) (c : Nat) (x : LimmSlot) (r : State) (s : State) (hkeep : P s) : P (limmSlot c x r s) := by
  unfold limmSlot
  with_reducible repeat' (first | intro _ | assumption | apply flyCtl_keeps hP | apply fly_keeps hP | apply keeps_ite (P := P) | split | dsimp only)

theorem execLongImmediate_keeps (hP : Closed P) (c : CoreId) (s0 : LimmSlot) (s1 : LimmSlot) (s : State) (hkeep : P s) : OutKeeps P (execLongImmediate c s0 s1 s) := by
  unfold execLongImmediate
  with_reducible repeat' (first | intro _ | assumption | apply issue_keeps hP | apply limmSlot_keeps hP | apply outKeeps_next (P := P) | dsimp only)

theorem execLsr_keeps (hP : Closed P) (c : CoreId) (a : AluSlots) (s : State) (hkeep : P s) : OutKeeps P (execLsr c a s) := by
  unfold execLsr
  with_reducible repeat' (first | intro _ | assumption | apply dOp_keeps hP | dsimp only)

theorem execMac_keeps (hP : Closed P) (c : CoreId) (m : MacSlots) (s : State) (hkeep : P s) : OutKeeps P (execMac c m s) := by
  unfold execMac
  with_reducible repeat' (first | intro _ | assumption | apply macBundle_keeps hP | apply macSlot_keeps hP | dsimp only)

theorem execMacNop_keeps (hP : Closed P) (c : CoreId) (m : MacSlots) (s : State) (hkeep : P s) : OutKeeps P (execMacNop c m s) := by
  unfold execMacNop
  with_reducible repeat' (first | intro _ | assumption | apply macBundle_keeps hP | dsimp only)

theorem execMacQ1_keeps (hP : Closed P) (c : CoreId) (m : MacSlots) (s : State) (hkeep : P s) : OutKeeps P (execMacQ1 c m s) := by
  unfold execMacQ1
  with_reducible repeat' (first | intro _ | assumption | apply macBundle_keeps hP | apply macSlot_keeps hP | dsimp only)

theorem execMax_keeps (hP : Closed P) (c : CoreId) (a : AluSlots) (s : State) (hkeep : P s) : OutKeeps P (execMax c a s) := by
  unfold execMax
  with_reducible repeat' (first | intro _ | assumption | apply dOp_keeps hP | apply keeps_ite (P := P) | apply OutKeeps.ite (P := P) | split | dsimp only)

theorem execMin_keeps (hP : Closed P) (c : CoreId) (a : AluSlots) (s : State) (hkeep : P s) : OutKeeps P (execMin c a s) := by
  unfold execMin
  with_reducible repeat' (first | intro _ | assumption | apply dOp_keeps hP | apply keeps_ite (P := P) | apply OutKeeps.ite (P := P) | split | dsimp only)

theorem execMov_keeps (hP : Closed P) (c : CoreId) (a : AluSlots) (s : State) (hkeep : P s) : OutKeeps P (execMov c a s) := by
  unfold execMov
  with_reducible repeat' (first | intro _ | assumption | apply dOp_keeps hP | dsimp only)

theorem execMovc_keeps (hP : Closed P) (c : CoreId) (a : AluSlots) (s : State) (hkeep : P s) : OutKeeps P (execMovc c a s) := by
  unfold execMovc
  with_reducible repeat' (first | intro _ | assumption | apply aluBundle_keeps hP | apply flyCtl_keeps hP | apply keeps_ite (P := P) | apply OutKeeps.ite (P := P) | split | dsimp only)

theorem execMovr_keeps (hP : Closed P) (c : CoreId) (a : AluSlots) (s : State) (hkeep : P s) : OutKeeps P (execMovr c a s) := by
  unfold execMovr
  with_reducible repeat' (first | intro _ | assumption | apply aluBundle_keeps hP | apply flyRes_keeps hP | dsimp only)

theorem execMpy_keeps (hP : Closed P) (c : CoreId) (m : MacSlots) (s : State) (hkeep : P s) : OutKeeps P (execMpy c m s) := by
  unfold execMpy
  with_reducible repeat' (first | intro _ | assumption | apply macBundle_keeps hP | apply macSlot_keeps hP | dsimp only)

theorem execMpyQ1_keeps (hP : Closed P) (c : CoreId) (m : MacSlots) (s : State) (hkeep : P s) : OutKeeps P (execMpyQ1 c m s) := by
  unfold execMpyQ1
  with_reducible repeat' (first | intro _ | assumption | apply macBundle_keeps hP | apply macSlot_keeps hP | dsimp only)

theorem execMsu_keeps (hP : Closed P) (c : CoreId) (m : MacSlots) (s : State) (hkeep : P s) : OutKeeps P (execMsu c m s) := by
  unfold execMsu
  with_reducible repeat' (first | intro _ | assumption | apply macBundle_keeps hP | apply macSlot_keeps hP | dsimp only)

theorem execMsuQ1_keeps (hP : Closed P) (c : CoreId) (m : MacSlots) (s : State) (hkeep : P s) : OutKeeps P (execMsuQ1 c m s) := by
  unfold execMsuQ1
  with_reducible repeat' (first | intro _ | assumption | apply macBundle_keeps hP | apply macSlot_keeps hP | dsimp only)

theorem execMva2_keeps (hP : Closed P) (c : CoreId) (a : AluSlots) (s : State) (hkeep : P s) : OutKeeps P (execMva2 c a s) := by
  unfold execMva2
  with_reducible repeat' (first | intro _ | assumption | apply aluBundle_keeps hP | apply flyRes_keeps hP | dsimp only)

theorem execMvda_keeps (hP : Closed P) (c : CoreId) (a : AluSlots) (s : State) (hkeep : P s) : OutKeeps P (execMvda c a s) := by
  unfold execMvda
  with_reducible repeat' (first | intro _ | assumption | apply aOp_keeps hP | dsimp only)

theorem execMvpa_keeps (hP : Closed P) (c : CoreId) (a : AluSlots) (s : State) (hkeep : P s) : OutKeeps P (execMvpa c a s) := by
  unfold execMvpa
  with_reducible repeat' (first | intro _ | assumption | apply aOp_keeps hP | dsimp only)

theorem execNeg_keeps (hP : Closed P) (c : CoreId) (a : AluSlots) (s : State) (hkeep : P s) : OutKeeps P (execNeg c a s) := by
  unfold execNeg
  with_reducible repeat' (first | intro _ | assumption | apply dOp_keeps hP | dsimp only)

theorem execNega_keeps (hP : Closed P) (c : CoreId) (a : AluSlots) (s : State) (hkeep : P s) : OutKeeps P (execNega c a s) := by
  unfold execNega
  with_reducible repeat' (first | intro _ | assumption | apply aOp_keeps hP | dsimp only)

theorem execNot_keeps (hP : Closed P) (c : CoreId) (a : AluSlots) (s : State) (hkeep : P s) : OutKeeps P (execNot c a s) := by
  unfold execNot
  with_reducible repeat' (first | intro _ | assumption | apply dOp_keeps hP | dsimp only)

theorem execOr_keeps (hP : Closed P) (c : CoreId) (a : AluSlots) (s : State) (hkeep : P s) : OutKeeps P (execOr c a s) := by
  unfold execOr
  with_reducible repeat' (first | intro _ | assumption | apply dOp_keeps hP | dsimp only)

theorem execRnd_keeps (hP : Closed P) (c : CoreId) (a : AluSlots) (s : State) (hkeep : P s) : OutKeeps P (execRnd c a s) := by
  unfold execRnd
  with_reducible repeat' (first | intro _ | assumption | apply aluBundle_keeps hP | apply flyRes_keeps hP | dsimp only)

theorem execRnd2_keeps (hP : Closed P) (c : CoreId) (a : AluSlots) (s : State) (hkeep : P s) : OutKeeps P (execRnd2 c a s) := by
  unfold execRnd2
  with_reducible repeat' (first | intro _ | assumption | apply aluBundle_keeps hP | apply flyRes_keeps hP | dsimp only)

theorem execSt_keeps (hP : Closed P) (c : CoreId) (m : MoveArgs) (s : State) (hkeep : P s) : OutKeeps P (execSt c m s) := by
  unfold execSt
  with_reducible repeat' (first | intro _ | assumption | apply moveBundle_keeps hP | dsimp only)

theorem execSt2_keeps (hP : Closed P) (c : CoreId) (m : MoveArgs) (s : State) (hkeep : P s) : OutKeeps P (execSt2 c m s) := by
  unfold execSt2
  with_reducible repeat' (first | intro _ | assumption | apply moveBundle_keeps hP | dsimp only)

theorem execStp_keeps (hP : Closed P) (c : CoreId) (m : MoveArgs) (s : State) (hkeep : P s) : OutKeeps P (execStp c m s) := by
  unfold execStp
  with_reducible repeat' (first | intro _ | assumption | apply moveBundle_keeps hP | dsimp only)

theorem execStr_keeps (hP : Closed P) (c : CoreId) (m : MoveArgs) (s : State) (hkeep : P s) : OutKeeps P (execStr c m s) := by
  unfold execStr
  with_reducible repeat' (first | intro _ | assumption | apply moveBundle_keeps hP | dsimp only)

theorem execSub_keeps (hP : Closed P) (c : CoreId) (a : AluSlots) (s : State) (hkeep : P s) : OutKeeps P (execSub c a s) := by
  unfold execSub
  with_reducible repeat' (first | intro _ | assumption | apply dOp_keeps hP | dsimp only)

theorem execSuba_keeps (hP : Closed P) (c : CoreId) (a : AluSlots) (s : State) (hkeep : P s) : OutKeeps P (execSuba c a s) := by
  unfold execSuba
  with_reducible repeat' (first | intro _ | assumption | apply aOp_keeps hP | dsimp only)

theorem execSubs_keeps (hP : Closed P) (c : CoreId) (a : AluSlots) (s : State) (hkeep : P s) : OutKeeps P (execSubs c a s) := by
  unfold execSubs
  with_reducible repeat' (first | intro _ | assumption | apply dOp_keeps hP | dsimp only)

theorem execXor_keeps (hP : Closed P) (c : CoreId) (a : AluSlots) (s : State) (hkeep : P s) : OutKeeps P (execXor c a s) := by
  unfold execXor
  with_reducible repeat' (first | intro _ | assumption | apply dOp_keeps hP | dsimp only)

end Sys2Proof.Machine
end

