-- ==== Sys2Proof/Laws/Keeps/PodDma.lean ====
section
/-! SUPPORT. Every function of Machine/PodDma.lean keeps a closed property. -/

namespace Sys2Proof.Machine

variable {P : State → Prop}

theorem dmaFetch_keeps (hT : Timed P) (m fuel a len : Nat) (s : State) (hkeep : P s) : P (dmaFetch m fuel a len s).2.2 := by
  induction fuel generalizing a len s with
  | zero => exact hkeep
  | succ n ih =>
    unfold dmaFetch
    dsimp only
    split
    · exact hkeep
    · split
      · exact logRefusal_keeps hT.toClosed _ _ _ _ _ _ hkeep
      · exact decodeError_keeps hT.toClosed _ _ _ hkeep
      · have h1 := performPiece_keeps hT m false false ‹Nat› a (pieceLen a len) [] none s hkeep
        split
        · exact performPiece_keeps hT _ _ _ _ _ _ _ _ _ hkeep
        · exact ih _ _ _ (performPiece_keeps hT _ _ _ _ _ _ _ _ _ hkeep)

theorem putLocal_keeps (hP : Closed P) (n : Nat) (sp : Nat) (a : Nat) (bs : List (BitVec 8)) (s : State) (hkeep : P s) : P (putLocal n sp a bs s) := by
  unfold putLocal
  with_reducible repeat' (first | intro _ | assumption | apply wrProg_keeps hP | apply wrShared_keeps hP | apply wrX_keeps hP | apply wrY_keeps hP | apply forEach_keeps (P := P) | apply keeps_ite (P := P) | split | dsimp only)

theorem dmaStore_keeps (hT : Timed P) (m fuel a : Nat) (bs : List (BitVec 8)) (s : State) (hkeep : P s) : P (dmaStore m fuel a bs s).2 := by
  induction fuel generalizing a bs s with
  | zero => exact hkeep
  | succ n ih =>
    unfold dmaStore
    dsimp only
    split
    · exact hkeep
    · split
      · exact logRefusal_keeps hT.toClosed _ _ _ _ _ _ hkeep
      · exact decodeError_keeps hT.toClosed _ _ _ hkeep
      · split
        · exact performPiece_keeps hT _ _ _ _ _ _ _ _ _ hkeep
        · exact ih _ _ _ (performPiece_keeps hT _ _ _ _ _ _ _ _ _ hkeep)

theorem dmaMove_keeps (hT : Timed P) (n : Nat) (d : DmaDesc) (s : State) (hkeep : P s) : P (dmaMove n d s).2 := by
  have hP := hT.toClosed
  unfold dmaMove
  with_reducible repeat' (first | intro _ | assumption | apply dmaFetch_keeps hT | apply dmaStore_keeps hT | apply putLocal_keeps hP | apply keeps_ite (P := P) | apply keeps_ite_snd (P := P) | split | dsimp only)

theorem execPodDmaDescriptorDone_keeps (hT : Timed P) (n : Fin 16) (busError : Bool) (tagFail : Bool) (s : State) (hkeep : P s) : OutKeeps P (execPodDmaDescriptorDone n busError tagFail s) := by
  have hP := hT.toClosed
  unfold execPodDmaDescriptorDone
  with_reducible repeat' (first | intro _ | assumption | apply dmaKick_keeps hP | apply dmaMove_keeps hT | apply dmaStop_keeps hP | apply postEvent_keeps hP | apply sealFailure_keeps hP | apply wr_keeps hP | apply onlyIf_keeps (P := P) | apply keeps_ite (P := P) | apply keeps_ite_snd (P := P) | apply outKeeps_next (P := P) | apply OutKeeps.ite (P := P) | split | dsimp only)

end Sys2Proof.Machine
end

