-- ==== Sys2Proof/Laws/Keeps/Exec.lean ====
section
/-! SUPPORT. What every command keeps: `exec_keeps` puts the lemmas of the meanings together, and two properties are shown to be
closed, the canonical form of registers and memories and the content of the queue. -/

namespace Sys2Proof.Machine

/-- The canonical form survives every primitive change. -/
theorem timed_wf : Timed (fun s => s.wf = true) where
  frame s t hr hm _ _ _ h := by simpa [State.wf, hr, hm] using h
  reg a v s h := by
    simp only [State.wf, Bool.and_eq_true] at h ⊢
    exact ⟨mapWf_mapSet _ _ _ _ h.1, h.2⟩
  drop p s h := by
    simp only [State.wf, Bool.and_eq_true] at h ⊢
    exact ⟨mapWf_filter _ _ _ h.1, h.2⟩
  mem m s hm h := by
    simp only [State.wf, Bool.and_eq_true] at h ⊢
    exact ⟨h.1, hm h.2⟩
  time s t hr hm _ h := by simpa [State.wf, hr, hm] using h

/-- The content of the queue survives every primitive change. -/
theorem timed_pending (q : List Instr) : Timed (fun s => s.pending = q) where
  frame _ _ _ _ hp _ _ h := hp.trans h
  reg _ _ _ h := h
  drop _ _ h := h
  mem _ _ _ h := h
  time _ _ _ _ hp h := hp.trans h

/-- The block number and the timebase survive every primitive change but those of time. -/
theorem closed_time (k : BitVec 49) (ns : BitVec 64) : Closed (fun s => s.tl.k = k ∧ s.ns = ns) where
  frame _ _ _ _ _ hk hn h := ⟨hk.trans h.1, hn.trans h.2⟩
  reg _ _ _ h := h
  drop _ _ h := h
  mem _ _ _ h := h

/-- What every command keeps. -/
theorem exec_keeps {P : State → Prop} (hT : Timed P) (c : Instr) (s : State) (hkeep : P s) : OutKeeps P (exec c s) := by
  cases c with
  | blockBoundary => exact execBlockBoundary_keeps hT s hkeep
  | glbBsnRead => exact execGlbBsnRead_keeps hT.toClosed s hkeep
  | macNop c m => exact execMacNop_keeps hT.toClosed c m s hkeep
  | mpy c m => exact execMpy_keeps hT.toClosed c m s hkeep
  | mac c m => exact execMac_keeps hT.toClosed c m s hkeep
  | msu c m => exact execMsu_keeps hT.toClosed c m s hkeep
  | mpyQ1 c m => exact execMpyQ1_keeps hT.toClosed c m s hkeep
  | macQ1 c m => exact execMacQ1_keeps hT.toClosed c m s hkeep
  | msuQ1 c m => exact execMsuQ1_keeps hT.toClosed c m s hkeep
  | dmpy c m => exact execDmpy_keeps hT.toClosed c m s hkeep
  | dmac c m => exact execDmac_keeps hT.toClosed c m s hkeep
  | dmsu c m => exact execDmsu_keeps hT.toClosed c m s hkeep
  | aluNop c a => exact execAluNop_keeps hT.toClosed c a s hkeep
  | mov c a => exact execMov_keeps hT.toClosed c a s hkeep
  | add c a => exact execAdd_keeps hT.toClosed c a s hkeep
  | sub c a => exact execSub_keeps hT.toClosed c a s hkeep
  | adds c a => exact execAdds_keeps hT.toClosed c a s hkeep
  | subs c a => exact execSubs_keeps hT.toClosed c a s hkeep
  | and c a => exact execAnd_keeps hT.toClosed c a s hkeep
  | or c a => exact execOr_keeps hT.toClosed c a s hkeep
  | xor c a => exact execXor_keeps hT.toClosed c a s hkeep
  | not c a => exact execNot_keeps hT.toClosed c a s hkeep
  | asl c a => exact execAsl_keeps hT.toClosed c a s hkeep
  | asls c a => exact execAsls_keeps hT.toClosed c a s hkeep
  | asr c a => exact execAsr_keeps hT.toClosed c a s hkeep
  | lsr c a => exact execLsr_keeps hT.toClosed c a s hkeep
  | abs c a => exact execAbs_keeps hT.toClosed c a s hkeep
  | neg c a => exact execNeg_keeps hT.toClosed c a s hkeep
  | min c a => exact execMin_keeps hT.toClosed c a s hkeep
  | max c a => exact execMax_keeps hT.toClosed c a s hkeep
  | cmp c a => exact execCmp_keeps hT.toClosed c a s hkeep
  | cls c a => exact execCls_keeps hT.toClosed c a s hkeep
  | rnd c a => exact execRnd_keeps hT.toClosed c a s hkeep
  | rnd2 c a => exact execRnd2_keeps hT.toClosed c a s hkeep
  | mva2 c a => exact execMva2_keeps hT.toClosed c a s hkeep
  | clra c a => exact execClra_keeps hT.toClosed c a s hkeep
  | clra2 c a => exact execClra2_keeps hT.toClosed c a s hkeep
  | mvda c a => exact execMvda_keeps hT.toClosed c a s hkeep
  | mvpa c a => exact execMvpa_keeps hT.toClosed c a s hkeep
  | adda c a => exact execAdda_keeps hT.toClosed c a s hkeep
  | suba c a => exact execSuba_keeps hT.toClosed c a s hkeep
  | asha c a => exact execAsha_keeps hT.toClosed c a s hkeep
  | nega c a => exact execNega_keeps hT.toClosed c a s hkeep
  | absa c a => exact execAbsa_keeps hT.toClosed c a s hkeep
  | cmpa c a => exact execCmpa_keeps hT.toClosed c a s hkeep
  | movc c a => exact execMovc_keeps hT.toClosed c a s hkeep
  | movr c a => exact execMovr_keeps hT.toClosed c a s hkeep
  | addp c a => exact execAddp_keeps hT.toClosed c a s hkeep
  | ld c m => exact execLd_keeps hT.toClosed c m s hkeep
  | ldp c m => exact execLdp_keeps hT.toClosed c m s hkeep
  | st c m => exact execSt_keeps hT.toClosed c m s hkeep
  | stp c m => exact execStp_keeps hT.toClosed c m s hkeep
  | str c m => exact execStr_keeps hT.toClosed c m s hkeep
  | st2 c m => exact execSt2_keeps hT.toClosed c m s hkeep
  | lda c m => exact execLda_keeps hT.toClosed c m s hkeep
  | longImmediate c s0 s1 => exact execLongImmediate_keeps hT.toClosed c s0 s1 s hkeep
  | ctlNop c => exact execCtlNop_keeps hT.toClosed c s hkeep
  | br c cond tgt => exact execBr_keeps hT.toClosed c cond tgt s hkeep
  | call c cond tgt => exact execCall_keeps hT.toClosed c cond tgt s hkeep
  | ret c cond => exact execRet_keeps hT.toClosed c cond s hkeep
  | loop c tgt cnt => exact execLoop_keeps hT.toClosed c tgt cnt s hkeep
  | loopd c tgt rsel => exact execLoopd_keeps hT.toClosed c tgt rsel s hkeep
  | loopRot c tgt cnt stgs => exact execLoopRot_keeps hT.toClosed c tgt cnt stgs s hkeep
  | loopRotd c tgt rsel stgs => exact execLoopRotd_keeps hT.toClosed c tgt rsel stgs s hkeep
  | tend c => exact execTend_keeps hT.toClosed c s hkeep
  | evt c v => exact execEvt_keeps hT.toClosed c v s hkeep
  | trap c cond code => exact execTrap_keeps hT.toClosed c cond code s hkeep
  | eret c => exact execEret_keeps hT.toClosed c s hkeep
  | wfi c => exact execWfi_keeps hT.toClosed c s hkeep
  | csrr c reg idx => exact execCsrr_keeps hT.toClosed c reg idx s hkeep
  | csrw c reg idx => exact execCsrw_keeps hT.toClosed c reg idx s hkeep
  | fence c => exact execFence_keeps hT.toClosed c s hkeep
  | illegalBundle c w => exact execIllegalBundle_keeps hT.toClosed c w s hkeep
  | crossbarLoadResponse c data error => exact execCrossbarLoadResponse_keeps hT.toClosed c data error s hkeep
  | crossbarStoreResponse c error => exact execCrossbarStoreResponse_keeps hT.toClosed c error s hkeep
  | interruptEntry c line => exact execInterruptEntry_keeps hT.toClosed c line s hkeep
  | nmi c => exact execNmi_keeps hT.toClosed c s hkeep
  | timerZero c t => exact execTimerZero_keeps hT.toClosed c t s hkeep
  | dispatch n p bcyc => exact execDispatch_keeps hT.toClosed n p bcyc s hkeep
  | completionPost n p => exact execCompletionPost_keeps hT.toClosed n p s hkeep
  | budgetAbandon n p => exact execBudgetAbandon_keeps hT.toClosed n p s hkeep
  | tempoIntake n wait => exact execTempoIntake_keeps hT.toClosed n wait s hkeep
  | horizon n p e => exact execHorizon_keeps hT.toClosed n p e s hkeep
  | peaMemoryError n p => exact execPeaMemoryError_keeps hT.toClosed n p s hkeep
  | podRepairFail n p => exact execPodRepairFail_keeps hT.toClosed n p s hkeep
  | repairLoadComplete n => exact execRepairLoadComplete_keeps hT.toClosed n s hkeep
  | eventArrival n p e x => exact execEventArrival_keeps hT.toClosed n p e x s hkeep
  | taskCancel n p e => exact execTaskCancel_keeps hT.toClosed n p e s hkeep
  | podDmaQtail n tail => exact execPodDmaQtail_keeps hT.toClosed n tail s hkeep
  | podDmaDescriptorDone n busError tagFail => exact execPodDmaDescriptorDone_keeps hT n busError tagFail s hkeep
  | podDmaErrClear n => exact execPodDmaErrClear_keeps hT.toClosed n s hkeep
  | tempoPop => exact execTempoPop_keeps hT.toClosed s hkeep
  | frameReceive m f => exact execFrameReceive_keeps hT.toClosed m f s hkeep
  | routerAssembly d => exact execRouterAssembly_keeps hT.toClosed d s hkeep
  | routerForwarding d crossed => exact execRouterForwarding_keeps hT.toClosed d crossed s hkeep
  | busDelivery d crossed => exact execBusDelivery_keeps hT.toClosed d crossed s hkeep
  | routerOutput d => exact execRouterOutput_keeps hT.toClosed d s hkeep
  | sgWapplyCommit => exact execSgWapplyCommit_keeps hT.toClosed s hkeep
  | gateHoldExpiry c => exact execGateHoldExpiry_keeps hT.toClosed c s hkeep
  | busPhaseStart p => exact execBusPhaseStart_keeps hT.toClosed p s hkeep
  | busPhaseOverrun p => exact execBusPhaseOverrun_keeps hT.toClosed p s hkeep
  | meterWindowEnd m => exact execMeterWindowEnd_keeps hT.toClosed m s hkeep
  | meterPublish m => exact execMeterPublish_keeps hT.toClosed m s hkeep
  | bridgeRateUpdate b err phi departure => exact execBridgeRateUpdate_keeps hT.toClosed b err phi departure s hkeep
  | bridgeLockExit b phi clockLost => exact execBridgeLockExit_keeps hT.toClosed b phi clockLost s hkeep
  | bridgeCrossfadeEnd b => exact execBridgeCrossfadeEnd_keeps hT.toClosed b s hkeep
  | bridgeSlip b => exact execBridgeSlip_keeps hT.toClosed b s hkeep
  | bridgeRangeEntry b err => exact execBridgeRangeEntry_keeps hT.toClosed b err s hkeep
  | bridgeRangeExit b => exact execBridgeRangeExit_keeps hT.toClosed b s hkeep
  | bridgeSettleEnd b => exact execBridgeSettleEnd_keeps hT.toClosed b s hkeep
  | mRange err => exact execMRange_keeps hT.toClosed err s hkeep
  | mRangeClear => exact execMRangeClear_keeps hT.toClosed s hkeep
  | ksUnwrap slot record tagOk key => exact execKsUnwrap_keeps hT.toClosed slot record tagOk key s hkeep
  | ksDecrypt slot tagOk dst plain => exact execKsDecrypt_keeps hT.toClosed slot tagOk dst plain s hkeep
  | ksBuildGolden slot tagOk dst words => exact execKsBuildGolden_keeps hT.toClosed slot tagOk dst words s hkeep
  | ksSession num key => exact execKsSession_keeps hT.toClosed num key s hkeep
  | ksSakInstall slot r apply => exact execKsSakInstall_keeps hT.toClosed slot r apply s hkeep
  | ksSlotClear slot => exact execKsSlotClear_keeps hT.toClosed slot s hkeep
  | ksZeroise => exact execKsZeroise_keeps hT.toClosed s hkeep
  | ksEpochAdvance verify => exact execKsEpochAdvance_keeps hT.toClosed verify s hkeep
  | ksProvision production owner safety => exact execKsProvision_keeps hT.toClosed production owner safety s hkeep
  | ksRandom => exact execKsRandom_keeps hT.toClosed s hkeep
  | ksKillJtag owner => exact execKsKillJtag_keeps hT.toClosed owner s hkeep
  | ksBadOp op => exact execKsBadOp_keeps hT.toClosed op s hkeep
  | ksCommandDone => exact execKsCommandDone_keeps hT.toClosed s hkeep
  | zeroisationDone => exact execZeroisationDone_keeps hT.toClosed s hkeep
  | trngHealthFail => exact execTrngHealthFail_keeps hT.toClosed s hkeep
  | sealLock q => exact execSealLock_keeps hT.toClosed q s hkeep
  | jtagIdcode => exact execJtagIdcode_keeps hT.toClosed s hkeep
  | jtagBypass => exact execJtagBypass_keeps hT.toClosed s hkeep
  | unlockChal => exact execUnlockChal_keeps hT.toClosed s hkeep
  | unlockResp r => exact execUnlockResp_keeps hT.toClosed r s hkeep
  | sakRetire m => exact execSakRetire_keeps hT.toClosed m s hkeep
  | carrierPeriod c => exact execCarrierPeriod_keeps hT.toClosed c s hkeep
  | carrierGridStart => exact execCarrierGridStart_keeps hT.toClosed s hkeep
  | sourceSelect => exact execSourceSelect_keeps hT.toClosed s hkeep
  | powerStageFault g => exact execPowerStageFault_keeps hT.toClosed g s hkeep
  | groupLineReleased g => exact execGroupLineReleased_keeps hT.toClosed g s hkeep
  | prechgEnd c => exact execPrechgEnd_keeps hT.toClosed c s hkeep
  | zeroEnd c => exact execZeroEnd_keeps hT.toClosed c s hkeep
  | rampEnd c => exact execRampEnd_keeps hT.toClosed c s hkeep
  | modMuteWrite c mute => exact execModMuteWrite_keeps hT.toClosed c mute s hkeep
  | idleEntry g => exact execIdleEntry_keeps hT.toClosed g s hkeep
  | groupActive g ns => exact execGroupActive_keeps hT.toClosed g ns s hkeep
  | railPlan r => exact execRailPlan_keeps hT.toClosed r s hkeep
  | railFrame r => exact execRailFrame_keeps hT.toClosed r s hkeep
  | senseRun => exact execSenseRun_keeps hT.toClosed s hkeep
  | senseFastValue x bits => exact execSenseFastValue_keeps hT.toClosed x bits s hkeep
  | senseSlowValue x ns => exact execSenseSlowValue_keeps hT.toClosed x ns s hkeep
  | senseDipValue r bits => exact execSenseDipValue_keeps hT.toClosed r bits s hkeep
  | senseStuck x => exact execSenseStuck_keeps hT.toClosed x s hkeep
  | snsOutidxRead => exact execSnsOutidxRead_keeps hT.toClosed s hkeep
  | lockstepMismatch => exact execLockstepMismatch_keeps hT.toClosed s hkeep
  | rookSramError => exact execRookSramError_keeps hT.toClosed s hkeep
  | selfWatchdogExpiry => exact execSelfWatchdogExpiry_keeps hT.toClosed s hkeep
  | rookLoad sec => exact execRookLoad_keeps hT.toClosed sec s hkeep
  | relayClose => exact execRelayClose_keeps hT.toClosed s hkeep
  | rlyonEnd => exact execRlyonEnd_keeps hT.toClosed s hkeep
  | lineRelease g => exact execLineRelease_keeps hT.toClosed g s hkeep
  | thermalUpdate c => exact execThermalUpdate_keeps hT.toClosed c s hkeep
  | impedanceMeasure c => exact execImpedanceMeasure_keeps hT.toClosed c s hkeep
  | pilotWindow c => exact execPilotWindow_keeps hT.toClosed c s hkeep
  | excursionGain c written => exact execExcursionGain_keeps hT.toClosed c written s hkeep
  | dcTrip c output => exact execDcTrip_keeps hT.toClosed c output s hkeep
  | ocholdEnd c => exact execOcholdEnd_keeps hT.toClosed c s hkeep
  | fltholdEnd g => exact execFltholdEnd_keeps hT.toClosed g s hkeep
  | rdclrEnd r => exact execRdclrEnd_keeps hT.toClosed r s hkeep
  | sfinSample levels => exact execSfinSample_keeps hT.toClosed levels s hkeep
  | sfinHoldEnd n => exact execSfinHoldEnd_keeps hT.toClosed n s hkeep
  | sfinStuck n => exact execSfinStuck_keeps hT.toClosed n s hkeep
  | ccWatchdogRead n word => exact execCcWatchdogRead_keeps hT.toClosed n word s hkeep
  | clockMonitorWindow rook pods sense => exact execClockMonitorWindow_keeps hT.toClosed rook pods sense s hkeep
  | clockRecovered => exact execClockRecovered_keeps hT.toClosed s hkeep
  | drananMarker lane payload inPlace ns => exact execDrananMarker_keeps hT.toClosed lane payload inPlace ns s hkeep
  | recordHeartbeat crcOk dblk h => exact execRecordHeartbeat_keeps hT.toClosed crcOk dblk h s hkeep
  | recordKing crcOk code dblk => exact execRecordKing_keeps hT.toClosed crcOk code dblk s hkeep
  | recordModfeed crcOk tagOk dblk feeds => exact execRecordModfeed_keeps hT.toClosed crcOk tagOk dblk feeds s hkeep
  | recordMirror crcOk first entries => exact execRecordMirror_keeps hT.toClosed crcOk first entries s hkeep
  | recordTime crcOk sent got arrived => exact execRecordTime_keeps hT.toClosed crcOk sent got arrived s hkeep
  | recordSlot crcOk tagOk dblk pod first samples => exact execRecordSlot_keeps hT.toClosed crcOk tagOk dblk pod first samples s hkeep
  | leaseLineFrame w => exact execLeaseLineFrame_keeps hT.toClosed w s hkeep
  | networkHeartbeat w k tagOk => exact execNetworkHeartbeat_keeps hT.toClosed w k tagOk s hkeep
  | kingTake => exact execKingTake_keeps hT.toClosed s hkeep
  | drnCastle => exact execDrnCastle_keeps hT.toClosed s hkeep
  | castlingAcceptDeadline => exact execCastlingAcceptDeadline_keeps hT.toClosed s hkeep
  | castlingBlock => exact execCastlingBlock_keeps hT.toClosed s hkeep
  | revertExpiry => exact execRevertExpiry_keeps hT.toClosed s hkeep
  | drnResync => exact execDrnResync_keeps hT.toClosed s hkeep
  | mirrorExpiry => exact execMirrorExpiry_keeps hT.toClosed s hkeep
  | tbSetGo => exact execTbSetGo_keeps hT s hkeep
  | freestartTimeout => exact execFreestartTimeout_keeps hT s hkeep
  | ptpEventMessage p d egress latch waiting bad verdict => exact execPtpEventMessage_keeps hT.toClosed p d egress latch waiting bad verdict s hkeep
  | ptpSync p d offset residual freq mpd gm => exact execPtpSync_keeps hT p d offset residual freq mpd gm s hkeep
  | announceTimeout d => exact execAnnounceTimeout_keeps hT.toClosed d s hkeep
  | domainWtrExpiry => exact execDomainWtrExpiry_keeps hT.toClosed s hkeep
  | captureEdge u rising ns sub => exact execCaptureEdge_keeps hT.toClosed u rising ns sub s hkeep
  | capPop u => exact execCapPop_keeps hT.toClosed u s hkeep
  | triggerArm t => exact execTriggerArm_keeps hT.toClosed t s hkeep
  | triggerFire t ns => exact execTriggerFire_keeps hT t ns s hkeep
  | refQualify c ferr near step => exact execRefQualify_keeps hT.toClosed c ferr near step s hkeep
  | refDisqualify c miss ferr near step => exact execRefDisqualify_keeps hT.toClosed c miss ferr near step s hkeep
  | dpllLock => exact execDpllLock_keeps hT.toClosed s hkeep
  | dpllUnlock => exact execDpllUnlock_keeps hT.toClosed s hkeep
  | historyValid => exact execHistoryValid_keeps hT.toClosed s hkeep
  | dpllRevert near step => exact execDpllRevert_keeps hT.toClosed near step s hkeep
  | dpllOpen opn step => exact execDpllOpen_keeps hT.toClosed opn step s hkeep
  | dpllFreqWrite v => exact execDpllFreqWrite_keeps hT.toClosed v s hkeep
  | ckoutModeWrite o mode => exact execCkoutModeWrite_keeps hT.toClosed o mode s hkeep
  | ckoAlignGo o => exact execCkoAlignGo_keeps hT.toClosed o s hkeep
  | ckoAlignEdge o err => exact execCkoAlignEdge_keeps hT.toClosed o err s hkeep
  | laneSignalSet n => exact execLaneSignalSet_keeps hT.toClosed n s hkeep
  | laneSignalLoss n => exact execLaneSignalLoss_keeps hT.toClosed n s hkeep
  | krAutoneg n ok => exact execKrAutoneg_keeps hT.toClosed n ok s hkeep
  | detectProbe n found => exact execDetectProbe_keeps hT.toClosed n found s hkeep
  | detectTimeout n => exact execDetectTimeout_keeps hT.toClosed n s hkeep
  | trainingFrame n word settled => exact execTrainingFrame_keeps hT.toClosed n word settled s hkeep
  | trainTimeout n => exact execTrainTimeout_keeps hT.toClosed n s hkeep
  | blockLockAcquired n => exact execBlockLockAcquired_keeps hT.toClosed n s hkeep
  | lockTimeout n => exact execLockTimeout_keeps hT.toClosed n s hkeep
  | capabilitySend n => exact execCapabilitySend_keeps hT.toClosed n s hkeep
  | capabilityWord n words => exact execCapabilityWord_keeps hT.toClosed n words s hkeep
  | exchangeTimeout n => exact execExchangeTimeout_keeps hT.toClosed n s hkeep
  | blockLockLoss n ns => exact execBlockLockLoss_keeps hT.toClosed n ns s hkeep
  | relockTimeout n => exact execRelockTimeout_keeps hT.toClosed n s hkeep
  | hiberWindow n invalid => exact execHiberWindow_keeps hT.toClosed n invalid s hkeep
  | lnCtlFail n => exact execLnCtlFail_keeps hT.toClosed n s hkeep
  | lnCtlClear n => exact execLnCtlClear_keeps hT.toClosed n s hkeep
  | lnCtlRestart n => exact execLnCtlRestart_keeps hT.toClosed n s hkeep
  | lnCtlPreset n => exact execLnCtlPreset_keeps hT.toClosed n s hkeep
  | swapBlock n payload => exact execSwapBlock_keeps hT.toClosed n payload s hkeep
  | swapBlockDue n => exact execSwapBlockDue_keeps hT.toClosed n s hkeep
  | laneRetryBringup n => exact execLaneRetryBringup_keeps hT.toClosed n s hkeep
  | dfeAdapt n up errors => exact execDfeAdapt_keeps hT.toClosed n up errors s hkeep
  | eyeScanGo n phase voff dwell => exact execEyeScanGo_keeps hT.toClosed n phase voff dwell s hkeep
  | eyeScanDone n errs => exact execEyeScanDone_keeps hT.toClosed n errs s hkeep
  | pauseExpiry m priority => exact execPauseExpiry_keeps hT.toClosed m priority s hkeep
  | frameLaunch m ns => exact execFrameLaunch_keeps hT.toClosed m ns s hkeep
  | launchDeadlineDrop m ns => exact execLaunchDeadlineDrop_keeps hT.toClosed m ns s hkeep
  | controlFrameSend m frame credit ns => exact execControlFrameSend_keeps hT.toClosed m frame credit ns s hkeep
  | linkDown m => exact execLinkDown_keeps hT.toClosed m s hkeep
  | linkUp m speed half => exact execLinkUp_keeps hT.toClosed m speed half s hkeep
  | controlFrameTimeout m ns => exact execControlFrameTimeout_keeps hT.toClosed m ns s hkeep
  | lpiEnter m => exact execLpiEnter_keeps hT.toClosed m s hkeep
  | egressPacketBuild e => exact execEgressPacketBuild_keeps hT.toClosed e s hkeep
  | ingressWindowClose => exact execIngressWindowClose_keeps hT.toClosed s hkeep
  | streamAgeExpiry e => exact execStreamAgeExpiry_keeps hT.toClosed e s hkeep
  | legAgeExpiry e b => exact execLegAgeExpiry_keeps hT.toClosed e b s hkeep
  | sinCommit e => exact execSinCommit_keeps hT.toClosed e s hkeep
  | soutCommit e => exact execSoutCommit_keeps hT.toClosed e s hkeep
  | cabinetReport p dst bytes ns => exact execCabinetReport_keeps hT.toClosed p dst bytes ns s hkeep
  | fbFrameReceive p dst bytes waiting => exact execFbFrameReceive_keeps hT.toClosed p dst bytes waiting s hkeep
  | fbTxGo p len sent => exact execFbTxGo_keeps hT.toClosed p len sent s hkeep
  | fbCollision p => exact execFbCollision_keeps hT.toClosed p s hkeep
  | fbBackoffEnd p sent => exact execFbBackoffEnd_keeps hT.toClosed p sent s hkeep
  | plcaBeaconTimeout p => exact execPlcaBeaconTimeout_keeps hT.toClosed p s hkeep
  | cabAgeLapse c => exact execCabAgeLapse_keeps hT.toClosed c s hkeep
  | tdmClockGap p => exact execTdmClockGap_keeps hT.toClosed p s hkeep
  | tdmFrame p counted edge fsw slots ns => exact execTdmFrame_keeps hT.toClosed p counted edge fsw slots ns s hkeep
  | tdmHuntTimeout p => exact execTdmHuntTimeout_keeps hT.toClosed p s hkeep
  | tdmOverrun p => exact execTdmOverrun_keeps hT.toClosed p s hkeep
  | tdmUnderrun p => exact execTdmUnderrun_keeps hT.toClosed p s hkeep
  | tdmCoastFrame p ns => exact execTdmCoastFrame_keeps hT.toClosed p ns s hkeep
  | tdmFadeEnd p => exact execTdmFadeEnd_keeps hT.toClosed p s hkeep
  | tdmRampEnd p => exact execTdmRampEnd_keeps hT.toClosed p s hkeep
  | tdmResync p => exact execTdmResync_keeps hT.toClosed p s hkeep
  | xbTransaction r ns => exact execXbTransaction_keeps hT r ns s hkeep
  | xbPieceGrant target ecc => exact execXbPieceGrant_keeps hT target ecc s hkeep
  | xbResponse master => exact execXbResponse_keeps hT.toClosed master s hkeep
  | xbTimeout master ns => exact execXbTimeout_keeps hT master ns s hkeep
  | xbQosAge target index => exact execXbQosAge_keeps hT.toClosed target index s hkeep
  | xbFbclr => exact execXbFbclr_keeps hT.toClosed s hkeep
  | fwLock => exact execFwLock_keeps hT.toClosed s hkeep
  | mr4Read n rmult => exact execMr4Read_keeps hT.toClosed n rmult s hkeep
  | patrolScrub n errors => exact execPatrolScrub_keeps hT.toClosed n errors s hkeep
  | imgWrite slot => exact execImgWrite_keeps hT.toClosed slot s hkeep
  | imgRead slot => exact execImgRead_keeps hT.toClosed slot s hkeep
  | flLogRead => exact execFlLogRead_keeps hT.toClosed s hkeep
  | capDelete => exact execCapDelete_keeps hT.toClosed s hkeep
  | capProtect on => exact execCapProtect_keeps hT.toClosed on s hkeep
  | format d bad => exact execFormat_keeps hT.toClosed d bad s hkeep
  | scanNow => exact execScanNow_keeps hT.toClosed s hkeep
  | flLife => exact execFlLife_keeps hT.toClosed s hkeep
  | flBadOp op => exact execFlBadOp_keeps hT.toClosed op s hkeep
  | flashJobDone ok => exact execFlashJobDone_keeps hT.toClosed ok s hkeep
  | nandOperationDone op r => exact execNandOperationDone_keeps hT.toClosed op r s hkeep
  | retentionScan findings => exact execRetentionScan_keeps hT.toClosed findings s hkeep
  | jobUrgent index => exact execJobUrgent_keeps hT.toClosed index s hkeep
  | captureChunkProgram recorder => exact execCaptureChunkProgram_keeps hT.toClosed recorder s hkeep
  | captureDeliveryTimeout recorder blk => exact execCaptureDeliveryTimeout_keeps hT.toClosed recorder blk s hkeep
  | checkpoint => exact execCheckpoint_keeps hT.toClosed s hkeep
  | logPageFlush => exact execLogPageFlush_keeps hT.toClosed s hkeep
  | powerOnReset lost pufOk trngOk => exact execPowerOnReset_keeps hT lost pufOk trngOk s hkeep
  | wakePin => exact execWakePin_keeps hT.toClosed s hkeep
  | pawnState => exact execPawnState_keeps hT.toClosed s hkeep
  | pawnFault => exact execPawnFault_keeps hT.toClosed s hkeep
  | pawnFlog => exact execPawnFlog_keeps hT.toClosed s hkeep
  | pawnCmdWake => exact execPawnCmdWake_keeps hT.toClosed s hkeep
  | pawnCmdRetry => exact execPawnCmdRetry_keeps hT.toClosed s hkeep
  | stepPass => exact execStepPass_keeps hT.toClosed s hkeep
  | stepDlyEnd copies => exact execStepDlyEnd_keeps hT copies s hkeep
  | stepTimeout => exact execStepTimeout_keeps hT.toClosed s hkeep
  | stepRetry => exact execStepRetry_keeps hT.toClosed s hkeep
  | oscCheckWindow cycles swing => exact execOscCheckWindow_keeps hT.toClosed cycles swing s hkeep
  | ppgLoss e => exact execPpgLoss_keeps hT e s hkeep
  | ppgLossPersist e => exact execPpgLossPersist_keeps hT.toClosed e s hkeep
  | pwrStandby => exact execPwrStandby_keeps hT.toClosed s hkeep
  | stoppingFlushDone => exact execStoppingFlushDone_keeps hT s hkeep
  | pwrRun => exact execPwrRun_keeps hT.toClosed s hkeep
  | pwrRestart copies => exact execPwrRestart_keeps hT copies s hkeep
  | pmbusPoll reads levels => exact execPmbusPoll_keeps hT.toClosed reads levels s hkeep
  | avsStep target => exact execAvsStep_keeps hT.toClosed target s hkeep
  | quietEntry => exact execQuietEntry_keeps hT.toClosed s hkeep
  | quietExit => exact execQuietExit_keeps hT.toClosed s hkeep
  | vendorRuntimeStart fit1 ranks dens ok0 ok1 repaired flash => exact execVendorRuntimeStart_keeps hT.toClosed fit1 ranks dens ok0 ok1 repaired flash s hkeep
  | slotAdmission slot im failed => exact execSlotAdmission_keeps hT slot im failed s hkeep
  | audioStart => exact execAudioStart_keeps hT.toClosed s hkeep
  | hello formOk role seq cert => exact execHello_keeps hT.toClosed formOk role seq cert s hkeep
  | devcert formOk seq => exact execDevcert_keeps hT.toClosed formOk seq s hkeep
  | bye h => exact execBye_keeps hT.toClosed h s hkeep
  | keyroll h => exact execKeyroll_keeps hT.toClosed h s hkeep
  | get h els => exact execGet_keeps hT.toClosed h els s hkeep
  | set h els => exact execSet_keeps hT.toClosed h els s hkeep
  | scene h num => exact execScene_keeps hT.toClosed h num s hkeep
  | meterSub h mode div meters => exact execMeterSub_keeps hT.toClosed h mode div meters s hkeep
  | eventSub h mask => exact execEventSub_keeps hT.toClosed h mask s hkeep
  | event num kind => exact execEvent_keeps hT.toClosed num kind s hkeep
  | eventDropTimeout num kind => exact execEventDropTimeout_keeps hT.toClosed num kind s hkeep
  | capture h op flags capid start stop => exact execCapture_keeps hT.toClosed h op flags capid start stop s hkeep
  | castle h => exact execCastle_keeps hT.toClosed h s hkeep
  | logRead h first max => exact execLogRead_keeps hT.toClosed h first max s hkeep
  | life h => exact execLife_keeps hT.toClosed h s hkeep
  | macsecRekey h r => exact execMacsecRekey_keeps hT.toClosed h r s hkeep
  | sessionOpenTimeout num => exact execSessionOpenTimeout_keeps hT.toClosed num s hkeep
  | sessionIdleTimeout num => exact execSessionIdleTimeout_keeps hT.toClosed num s hkeep
  | sessionExpiry num => exact execSessionExpiry_keeps hT.toClosed num s hkeep
  | oldKeyExpiry num => exact execOldKeyExpiry_keeps hT.toClosed num s hkeep
  | registerWrite master user met addr v => exact execRegisterWrite_keeps hT master user met addr v s hkeep
  | feuIntake => exact execFeuIntake_keeps hT.toClosed s hkeep
  | feuRaise code master user => exact execFeuRaise_keeps hT.toClosed code master user s hkeep
  | islReset n => exact execIslReset_keeps hT n s hkeep
  | domainResetEnd n => exact execDomainResetEnd_keeps hT.toClosed n s hkeep
  | supplyDip n => exact execSupplyDip_keeps hT n s hkeep
  | supplyReturn n => exact execSupplyReturn_keeps hT.toClosed n s hkeep
  | tbNsLoRead ns frac => exact execTbNsLoRead_keeps hT ns frac s hkeep
  | ppsEdge r stamp => exact execPpsEdge_keeps hT r stamp s hkeep
  | firstBckEdge p => exact execFirstBckEdge_keeps hT.toClosed p s hkeep
  | plcaBeacon p => exact execPlcaBeacon_keeps hT.toClosed p s hkeep
  | arbiterParityError => exact execArbiterParityError_keeps hT.toClosed s hkeep
  | pmbusTransactionDone ack fault => exact execPmbusTransactionDone_keeps hT.toClosed ack fault s hkeep
  | sclLowTimeout asTarget e => exact execSclLowTimeout_keeps hT.toClosed asTarget e s hkeep
  | passedEntryPpgFall e => exact execPassedEntryPpgFall_keeps hT.toClosed e s hkeep

end Sys2Proof.Machine
end

