-- ==== Sys2Proof/Tests/Slice0.lean ====
section
/-! SUPPORT. Tests: every check of WellFormed refuses a term that is not well formed, and for every statement that has
hypotheses states that meet them, with what the spec says comes of the command there. -/

namespace Sys2Proof.Tests

set_option Elab.async false

open Sys2Proof Sys2Proof.Machine

/-- Does the command end in a next state of which the test holds? -/
def after (i : Instr) (s : State) (q : State → Bool) : Bool :=
  match exec i s with
  | .next t => q t
  | _ => false

/-- Does the command leave the state as it is? -/
def idle (i : Instr) (s : State) : Bool :=
  match exec i s with
  | .next t => t == s
  | _ => false

/-- Fields of registers set to values. -/
def put (l : List (FRef × Nat)) (s : State) : State := l.foldl (fun t e => wr e.1 e.2 t) s

/-- Does an island's queue hold such a record? -/
def logged (isl code arg : Nat) (t : State) : Bool :=
  (feuQueue isl t).any fun r => r.code == BitVec.ofNat 16 code && r.arg == BitVec.ofNat 32 arg && r.island == isl

/-- Has a core such a write in flight? -/
def puts (c : Nat) (t : State) (k : Nat) (g : Tgt) (v : BitVec 56) : Bool := (getPea c t).flight.any fun f => f.left == k && f.tgt == g && f.val == v

/-! ### Well-formed commands -/

/-- A crossbar read. -/
def aRead : XbReq := ⟨0, 0x1000000000, 4, false, false, false, []⟩


theorem test_wellFormed_read : (Instr.xbTransaction aRead 0).wellFormed = true := by decide +kernel
theorem test_wellFormed_master : (Instr.xbTransaction { aRead with master := 0xF } 0).wellFormed = false := by decide +kernel
theorem test_wellFormed_masterPast : (Instr.xbTransaction { aRead with master := 0x22 } 0).wellFormed = false := by decide +kernel
theorem test_wellFormed_empty : (Instr.xbTransaction { aRead with len := 0 } 0).wellFormed = false := by decide +kernel
theorem test_wellFormed_data :
    (Instr.xbTransaction { aRead with write := true, data := [1, 2, 3] } 0).wellFormed = false := by decide +kernel

/-! ### Bundles of a core

The states set D registers, accumulators and pointers of CC0; each theorem checks that the bundle issues there (the hypotheses
of the statements) and what the table of its format gives, worked out by hand. -/

/-- CC0 with registers set. -/
def cc (d : List (Nat × DWord)) (a : List (Nat × Acc56)) (p : List (Nat × BitVec 20)) : State :=
  onPea 144 (fun q => { q with d := d, a := a, p := p }) State.reset

/-- No long move. -/
def noMove : LongMove := ⟨.none, ⟨.x, 0, 0, .plain, 0, 0⟩⟩

/-- ALU slots with register sources and no move. -/
def al (dst a b : Fin 32) : AluSlots := ⟨false, 0, dst, a, b, noMove⟩

/-- ALU slots whose second source is immediate. -/
def ali (dst a b : Fin 32) : AluSlots := ⟨true, 0, dst, a, b, noMove⟩

/-- The hypotheses of the statements about ALU bundles without a move, at CC0. -/
def aluOk (a : AluSlots) (legal : Bool) (s : State) : Bool :=
  issues 144 (fun r => moveChecks 144 legal false a.move.kind a.move.args r) s && rdQ 144 a.astg.val (atIssue 144 s)

/-- D1 is the largest number, D2 is one, D3 the most negative number. -/
def sD : State := cc [(1, 0x7FFFFF), (2, 1), (3, 0x800000)] [] []

/-- CC0 gives D4 this value with these flags. -/
def d4 (v : BitVec 56) (m : BitVec 24) (f : BitVec 56) (t : State) : Bool := puts 144 t 1 (.d 4) v && puts 144 t 1 (.flags m) f

theorem test_mov : (aluOk (al 4 1 2) true sD && after (.mov 144 (al 4 1 2)) sD (fun t => puts 144 t 1 (.d 4) 0x7FFFFF)) = true := by decide +kernel
theorem test_add : (aluOk (al 4 1 2) true sD && after (.add 144 (al 4 1 2)) sD (d4 0x800000 0xF00 0xA00)) = true := by decide +kernel
theorem test_sub : (aluOk (al 4 2 1) true sD && after (.sub 144 (al 4 2 1)) sD (d4 0x800002 0xF00 0x200)) = true := by decide +kernel
theorem test_adds : (aluOk (al 4 1 2) true sD && after (.adds 144 (al 4 1 2)) sD
  (fun t => d4 0x7FFFFF 0xF00 0x800 t && puts 144 t 1 .sticky 1)) = true := by decide +kernel
theorem test_subs : (aluOk (al 4 3 2) true sD && after (.subs 144 (al 4 3 2)) sD
  (fun t => d4 0x800000 0xF00 0xE00 t && puts 144 t 1 .sticky 1)) = true := by decide +kernel
theorem test_and : (aluOk (al 4 1 3) true sD && after (.and 144 (al 4 1 3)) sD (d4 0 0xF00 0x100)) = true := by decide +kernel
theorem test_or : (aluOk (al 4 1 3) true sD && after (.or 144 (al 4 1 3)) sD (d4 0xFFFFFF 0xF00 0x200)) = true := by decide +kernel
theorem test_xor : (aluOk (al 4 1 2) true sD && after (.xor 144 (al 4 1 2)) sD (d4 0x7FFFFE 0xF00 0)) = true := by decide +kernel
theorem test_not : (aluOk (al 4 1 2) true sD && after (.not 144 (al 4 1 2)) sD (d4 0x800000 0xF00 0x200)) = true := by decide +kernel
theorem test_asl : (aluOk (ali 4 1 1) true sD && after (.asl 144 (ali 4 1 1)) sD (d4 0xFFFFFE 0x300 0x200)) = true := by decide +kernel
theorem test_asls : (aluOk (ali 4 1 1) true sD && after (.asls 144 (ali 4 1 1)) sD
  (fun t => d4 0x7FFFFF 0x300 0 t && puts 144 t 1 .sticky 1)) = true := by decide +kernel
theorem test_asr : (aluOk (ali 4 3 23) true sD && after (.asr 144 (ali 4 3 23)) sD (d4 0xFFFFFF 0x300 0x200)) = true := by decide +kernel
theorem test_lsr : (aluOk (ali 4 3 23) true sD && after (.lsr 144 (ali 4 3 23)) sD (d4 1 0x300 0)) = true := by decide +kernel
theorem test_abs : (aluOk (al 4 3 0) true sD && after (.abs 144 (al 4 3 0)) sD
  (fun t => d4 0x7FFFFF 0xB00 0x800 t && puts 144 t 1 .sticky 1)) = true := by decide +kernel
theorem test_neg : (aluOk (al 4 2 0) true sD && after (.neg 144 (al 4 2 0)) sD (d4 0xFFFFFF 0xB00 0x200)) = true := by decide +kernel
theorem test_min : (aluOk (al 4 1 3) true sD && after (.min 144 (al 4 1 3)) sD (d4 0x800000 0x300 0x200)) = true := by decide +kernel
theorem test_max : (aluOk (al 4 1 3) true sD && after (.max 144 (al 4 1 3)) sD (d4 0x7FFFFF 0x300 0)) = true := by decide +kernel
theorem test_cls : (aluOk (al 4 2 0) true sD && after (.cls 144 (al 4 2 0)) sD (d4 22 0x100 0) &&
  after (.cls 144 (al 4 0 0)) sD (d4 23 0x100 0)) = true := by decide +kernel
theorem test_cmp : (aluOk (al 4 2 1) true sD && after (.cmp 144 (al 4 2 1)) sD
  (fun t => puts 144 t 1 (.flags 0xF00) 0x200 && (getPea 144 t).flight.length == 1)) = true := by decide +kernel
theorem test_aluNop : (aluOk (al 4 2 1) true sD && after (.aluNop 144 (al 4 2 1)) sD
  (fun t => (getPea 144 t).flight.isEmpty && (getPea 144 t).pc == 1)) = true := by decide +kernel

/-- A1 is the largest accumulator, A2 one, A3 one and a half words, A4 the most negative; D2 and D3 are a pair. -/
def sA : State := cc [(1, 0x7FFFFF), (2, 1), (3, 0x800000)] [(1, 0x7FFFFFFFFFFFFF), (2, 1), (3, 0x1800000), (4, 0x80000000000000)] []

/-- CC0 gives A5 this value with these flags and sticky AOV or not. -/
def a5 (v : BitVec 56) (m : BitVec 24) (f : BitVec 56) (aov : Bool) (t : State) : Bool :=
  puts 144 t 1 (.a 5) v && puts 144 t 1 (.flags m) f && puts 144 t 1 .sticky 2 == aov

theorem test_rnd : (aluOk (ali 4 3 0) true sA && after (.rnd 144 (ali 4 3 0)) sA (fun t => puts 144 t 1 (.d 4) 2)) = true := by decide +kernel
theorem test_rnd2 : (aluOk (ali 5 3 0) true sA && after (.rnd2 144 (ali 5 3 0)) sA
  (fun t => puts 144 t 1 (.d 4) 2 && puts 144 t 1 (.d 5) 0)) = true := by decide +kernel
theorem test_mva2 : (aluOk (al 5 1 0) true sA && after (.mva2 144 (al 5 1 0)) sA
  (fun t => puts 144 t 1 (.d 4) 0x7FFFFF && puts 144 t 1 (.d 5) 0xFFFFFF && puts 144 t 1 .sticky 1)) = true := by decide +kernel
theorem test_clra : (aluOk (al 2 0 0) true sA && after (.clra 144 (al 2 0 0)) sA (fun t => puts 144 t 1 (.a 2) 0)) = true := by decide +kernel
theorem test_clra2 : (aluOk (al 2 0 0) true sA && after (.clra2 144 (al 2 0 0)) sA
  (fun t => puts 144 t 1 (.a 2) 0 && puts 144 t 1 (.a 6) 0)) = true := by decide +kernel
theorem test_mvda : (aluOk (al 5 3 0) true sA && after (.mvda 144 (al 5 3 0)) sA
  (fun t => puts 144 t 1 (.a 5) 0xFF800000000000)) = true := by decide +kernel
theorem test_mvpa : (aluOk (al 5 3 0) true sA && after (.mvpa 144 (al 5 3 0)) sA
  (fun t => puts 144 t 1 (.a 5) 0x1800000)) = true := by decide +kernel
theorem test_adda : (aluOk (al 5 1 2) true sA && after (.adda 144 (al 5 1 2)) sA (a5 0x80000000000000 0xB00 0xA00 true)) = true := by decide +kernel
theorem test_suba : (aluOk (al 5 2 1) true sA && after (.suba 144 (al 5 2 1)) sA (a5 0x80000000000002 0xB00 0x200 false)) = true := by decide +kernel
theorem test_asha : (aluOk (ali 5 2 31) true sA && after (.asha 144 (ali 5 2 31)) sA (a5 0 0x300 0x100 false)) = true := by decide +kernel
theorem test_nega : (aluOk (al 5 4 0) true sA && after (.nega 144 (al 5 4 0)) sA (a5 0x80000000000000 0xB00 0xA00 true)) = true := by decide +kernel
theorem test_absa : (aluOk (al 5 4 0) true sA && after (.absa 144 (al 5 4 0)) sA (a5 0x80000000000000 0xB00 0xA00 true)) = true := by decide +kernel
theorem test_cmpa : (aluOk (al 0 2 3) true sA && after (.cmpa 144 (al 0 2 3)) sA
  (fun t => puts 144 t 1 (.flags 0xB00) 0x200 && (getPea 144 t).flight.length == 1)) = true := by decide +kernel

/-- MAC slots: X operands D1 and D2, Y operands D3 and D4, accumulator 0. -/
def mac (route : Fin 4) : MacSlots := ⟨route, 0, 0, 1, 2, 3, 4, ⟨.none, 0, 0, 0, 0⟩, ⟨.none, 0, 0, 0, 0⟩⟩

/-- Halves to multiply, and A0 at 1. -/
def sM : State := cc [(1, 0x400000), (2, 0x800000), (3, 0x400000), (4, 0xC00000)] [(0, 1)] []

/-- The hypotheses of the statements about MAC bundles, at CC0. -/
def macOk (m : MacSlots) (l : Bool) (s : State) : Bool :=
  issues 144 (fun r => ⟨l, false, false, moveAccesses 144 (shortKind m.xmove.kind) (shortArgs .x m.xmove) r ++
    moveAccesses 144 (shortKind m.ymove.kind) (shortArgs .y m.ymove) r, [], none⟩) s && rdQ 144 m.mstg.val (atIssue 144 s)

theorem test_mpy : (macOk (mac 0) true sM && after (.mpy 144 (mac 0)) sM (fun t => puts 144 t 2 (.a 0) 0x200000000000 &&
  puts 144 t 2 (.a 1) 0xFFE00000000000 && puts 144 t 2 (.a 4) 0xFFC00000000000 && puts 144 t 2 (.a 5) 0x400000000000)) = true := by decide +kernel
theorem test_mac : (macOk (mac 1) true sM && after (.mac 144 (mac 1)) sM (fun t => puts 144 t 2 (.a 0) 0x200000000001 &&
  puts 144 t 2 (.a 4) 0x400000000000)) = true := by decide +kernel
theorem test_msu : (macOk (mac 2) true sM && after (.msu 144 (mac 2)) sM (fun t => puts 144 t 2 (.a 0) 0xFFA00000000001 &&
  puts 144 t 2 (.a 4) 0x600000000000)) = true := by decide +kernel
theorem test_mpyQ1 : (macOk (mac 3) true sM && after (.mpyQ1 144 (mac 3)) sM (fun t => puts 144 t 2 (.a 0) 0xFFC00000000000 &&
  puts 144 t 2 (.a 4) 0xFF400000000000)) = true := by decide +kernel
theorem test_macQ1 : (macOk (mac 1) true sM && after (.macQ1 144 (mac 1)) sM (fun t => puts 144 t 2 (.a 0) 0x400000000001)) = true := by decide +kernel
theorem test_msuQ1 : (macOk (mac 1) true sM && after (.msuQ1 144 (mac 1)) sM (fun t => puts 144 t 2 (.a 0) 0xFFC00000000001)) = true := by decide +kernel
theorem test_dmpy : (macOk (mac 1) (decide ((mac 1).route.val < 2)) sM && after (.dmpy 144 (mac 1)) sM (fun t =>
  puts 144 t 2 (.a 0) 0x200000400000 && puts 144 t 2 (.a 1) 0xFFDFFFFFC00000)) = true := by decide +kernel
theorem test_dmac : (macOk (mac 0) true sM && after (.dmac 144 (mac 0)) sM (fun t => puts 144 t 2 (.a 0) 0x200000400001)) = true := by decide +kernel
theorem test_dmsu : (macOk (mac 0) true sM && after (.dmsu 144 (mac 0)) sM (fun t => puts 144 t 2 (.a 0) 0xFFDFFFFFC00001)) = true := by decide +kernel
theorem test_macNop : (issues 144 (fun _ => plainChecks true) sM && after (.macNop 144 (mac 0)) sM (fun t =>
  (getPea 144 t).flight.isEmpty) && !rdQ 144 0 (atIssue 144 (onPea 144 (fun p => { p with qreg := 0xFE }) sM)) &&
  after (.mpy 144 (mac 0)) (onPea 144 (fun p => { p with qreg := 0xFE }) sM) (fun t => (getPea 144 t).flight.isEmpty)) = true := by decide +kernel

/-! ### Moves, control registers and control flow -/

/-- Slots of a move with register, pointer 0 and mode. -/
def mv (sp : Space) (reg : Fin 32) (mode : AMode) : MoveArgs := ⟨sp, reg, 0, mode, 0, 0⟩

/-- The hypotheses of the statements about moves. -/
def mvOk (c : Nat) (k : LKind) (m : MoveArgs) (s : State) : Bool :=
  issues c (fun r => moveChecks c true false k m r) s && rdQ c m.stg.val (atIssue c s)

/-- CC0 with two words in X, pointer 0 at the first, and the pair D2, D3 and an accumulator to store. -/
def sX : State := wrX 144 0x10 0xABCDEF (wrX 144 0x11 0x123456 (cc [(2, 0x001234), (3, 0x805678)] [(1, 0x1800000)] [(0, 0x10)]))

/-- A pod pea that runs, with the shared words 0x10 and 0x11. -/
def sP : State := onPea 0 (fun p => { p with p := [(0, 0x10)], d := [(2, 0x800000), (3, 5)] })
  (wrShared 0 0x10 0xFF123456 (wrShared 0 0x11 7 (put [(PEA_STAT_STATE 0 0, 1)] State.reset)))

theorem test_ld : (mvOk 144 .ld (mv .x 5 .postInc) sX && after (.ld 144 (mv .x 5 .postInc)) sX
  (fun t => puts 144 t 2 (.d 5) 0xABCDEF && puts 144 t 1 (.p 0) 0x11) &&
  mvOk 0 .ld (mv .shared 5 .postDec) sP && after (.ld 0 (mv .shared 5 .postDec)) sP
  (fun t => puts 0 t 12 (.d 5) 0x123456 && puts 0 t 1 (.p 0) 0xF)) = true := by decide +kernel
theorem test_ldCrossbar : (mvOk 144 .ld (mv .crossbar 3 .plain) (wrCsr 144 0x0A 5 sX) &&
  after (.ld 144 (mv .crossbar 3 .plain)) (wrCsr 144 0x0A 5 sX) (fun t => match (getPea 144 t).stall with
    | .load w => w.hi == 2 && w.lo == 3 && w.addr == 0x1400040
    | _ => false)) = true := by decide +kernel
theorem test_ldp : (mvOk 144 .ldp (mv .x 5 .postInc) sX && after (.ldp 144 (mv .x 5 .postInc)) sX
  (fun t => puts 144 t 2 (.d 4) 0xABCDEF && puts 144 t 2 (.d 5) 0x123456 && puts 144 t 1 (.p 0) 0x12)) = true := by decide +kernel
theorem test_lda : (mvOk 144 .lda (mv .x 5 .plain) sX && after (.lda 144 (mv .x 5 .plain)) sX
  (fun t => puts 144 t 2 (.a 5) 0xFFABCDEF123456)) = true := by decide +kernel
theorem test_st : (mvOk 144 .st (mv .y 3 .postInc) sX && after (.st 144 (mv .y 3 .postInc)) sX
  (fun t => puts 144 t 4 (.memY 0x10) 0x805678) &&
  mvOk 0 .st (mv .shared 2 .plain) sP && after (.st 0 (mv .shared 2 .plain)) sP
  (fun t => rdShared 0 0x10 t == 0xFF800000 && rdShared 0 0x11 t == 7)) = true := by decide +kernel
theorem test_stCrossbar : (mvOk 144 .st (mv .crossbar 2 .plain) sX && after (.st 144 (mv .crossbar 2 .plain)) sX
  (fun t => (getPea 144 t).posted == [(0x40, 0x12345678)])) = true := by decide +kernel
theorem test_stp : (mvOk 144 .stp (mv .x 2 .postDec) sX && after (.stp 144 (mv .x 2 .postDec)) sX
  (fun t => puts 144 t 4 (.memX 0x10) 0x1234 && puts 144 t 4 (.memX 0x11) 0x805678 && puts 144 t 1 (.p 0) 0xE)) = true := by decide +kernel
theorem test_str : (mvOk 144 .str (mv .x 1 .plain) sX && after (.str 144 (mv .x 1 .plain)) sX
  (fun t => puts 144 t 4 (.memX 0x10) 2)) = true := by decide +kernel
theorem test_st2 : (mvOk 144 .st2 (mv .x 1 .plain) sX && after (.st2 144 (mv .x 1 .plain)) sX
  (fun t => puts 144 t 4 (.memX 0x10) 1 && puts 144 t 4 (.memX 0x11) 0x800000)) = true := by decide +kernel

/-- The modulo rule at the ends of the window of 4 words from 8: the last word, the word after it, the word before it, and
results that lie outside on either side. -/
theorem test_modulo : modStep 10 8 4 1 = (11, false) ∧ modStep 11 8 4 1 = (8, false) ∧ modStep 8 8 4 (-1) = (11, false) ∧
    modStep 11 8 4 5 = (12, true) ∧ modStep 8 8 4 (-5) = (7, true) ∧ modStep 0xFFFFF 8 0 1 = (0, false) := by decide +kernel

theorem test_movc : (aluOk (al 24 2 0) true sD && after (.movc 144 (al 24 1 0)) sD (fun t => puts 144 t 2 .lc 0x7FFFFF) &&
  after (.movc 144 (ali 3 0 31)) sD (fun t => puts 144 t 1 (.p 3) 0xFFFFFF)) = true := by decide +kernel
theorem test_movcPrivileged : issues 144 (fun r => moveChecks 144 true true (al 28 1 0).move.kind (al 28 1 0).move.args r) sD = true ∧
    after (.movc 144 (al 28 1 0)) sD (fun t => puts 144 t 2 .psw 0x7FFFFF) = true := by decide +kernel
theorem test_movr : (aluOk (al 4 0 0) true sX && after (.movr 144 (al 4 0 0)) sX (fun t => puts 144 t 1 (.d 4) 0x10) &&
  after (.movr 144 (al 4 30 0)) sX (fun t => puts 144 t 1 (.d 4) 0)) = true := by decide +kernel
theorem test_addp : (aluOk (ali 1 0 31) true sX && after (.addp 144 (ali 1 0 31)) sX
  (fun t => puts 144 t 1 (.p 1) 0xF)) = true := by decide +kernel
theorem test_longImmediate : (issues 144 (fun _ => plainChecks true) sX &&
  after (.longImmediate 144 ⟨false, 5, 0x123456⟩ ⟨true, 30, 0x300008⟩) sX
    (fun t => puts 144 t 1 (.d 5) 0x123456 && puts 144 t 1 (.w 3) 0x300008) &&
  after (.longImmediate 144 ⟨true, 31, 1⟩ ⟨true, 31, 2⟩) sX (fun t => (getPea 144 t).flight.isEmpty)) = true := by decide +kernel

/-- CC0 at bundle 5. -/
def sC : State := onPea 144 (fun p => { p with pc := 5, psw := 0x100, d := [(1, 0x20003)] }) State.reset

theorem test_br : (issues 144 (fun r => plainChecks (branchLegal 144 r)) sC && condHolds 144 0 (atIssue 144 sC) &&
  after (.br 144 0 0x100) sC (fun t => (getPea 144 t).branch == some (0x100, 2) && (getPea 144 t).pc == 6)) = true := by decide +kernel
theorem test_brNotTaken : (!condHolds 144 2 (atIssue 144 sC) &&
  after (.br 144 2 0x100) sC (fun t => (getPea 144 t).branch == none && (getPea 144 t).pc == 6 && (getPea 144 t).slots == 2) &&
  !branchLegal 144 (onPea 144 (fun p => { p with slots := 1 }) sC)) = true := by decide +kernel
theorem test_call : (issues 144 (fun _ => { plainChecks (branchLegal 144 (atIssue 144 sC)) with stk := false }) sC &&
  after (.call 144 0 0x100) sC (fun t => (getPea 144 t).stack == [8] && (getPea 144 t).branch == some (0x100, 2))) = true := by decide +kernel
/-- A pod pea with its return stack full calls over the oldest entry. -/
theorem test_callFull : after (.call 0 0 0x100) (onPea 0 (fun p => { p with stack := [1, 2, 3, 4, 5, 6, 7, 8] }) sP)
  (fun t => (getPea 0 t).stack == [3, 1, 2, 3, 4, 5, 6, 7] && puts 0 t 1 .sticky 32) = true := by decide +kernel
theorem test_ret : (issues 144 (fun _ => { plainChecks (branchLegal 144 (atIssue 144 sC)) with stk := false })
    (onPea 144 (fun p => { p with stack := [8, 9] }) sC) &&
  after (.ret 144 0) (onPea 144 (fun p => { p with stack := [8, 9] }) sC)
    (fun t => (getPea 144 t).stack == [9] && (getPea 144 t).branch == some (8, 2))) = true := by decide +kernel
theorem test_ctlNop : (issues 144 (fun _ => plainChecks true) sC && after (.ctlNop 144) sC
  (fun t => (getPea 144 t).pc == 6 && (getPea 144 t).flight.isEmpty)) = true := by decide +kernel
theorem test_delaySlots : (getPea 144 (stepPc 144 (some (0x100, 2)) none sC)).branch = some (0x100, 1) ∧
    (getPea 144 (stepPc 144 (some (0x100, 1)) none sC)).pc = 0x100 := by decide +kernel

theorem test_loop : (issues 144 (fun r => plainChecks (loopLegal 144 9 r)) sC && (getPea 144 (atIssue 144 sC)).branch.isNone &&
  after (.loop 144 9 3) sC (fun t => (getPea 144 t).ls == 6 && (getPea 144 t).le == 9 && (getPea 144 t).lc == 3) &&
  after (.loop 144 9 0) sC (fun t => (getPea 144 t).pc == 10 && (getPea 144 t).loop.isNone)) = true := by decide +kernel
theorem test_loopd : after (.loopd 144 9 1) sC (fun t => (getPea 144 t).lc == 3 && (getPea 144 t).loop.isSome) = true := by decide +kernel
theorem test_loopRot : after (.loopRot 144 9 3 2) sC (fun t => (getPea 144 t).lc == 5 && (getPea 144 t).qreg == 1) = true := by decide +kernel
theorem test_loopRotd : after (.loopRotd 144 9 1 0) sC (fun t => (getPea 144 t).lc == 3 && (getPea 144 t).qreg == 1) = true := by decide +kernel

/-- CC0 at the end of a loop's body, with this count left. -/
def sL (rot : Bool) (lc : BitVec 17) : State :=
  onPea 144 (fun p => { p with pc := 9, ls := 6, le := 9, lc := lc, qreg := 1, loop := some ⟨rot, 2, 1⟩ }) State.reset

theorem test_loopTest : (getPea 144 (stepPc 144 none none (sL true 2))).pc = 6 ∧ (getPea 144 (stepPc 144 none none (sL true 2))).qreg = 3 ∧
    (getPea 144 (stepPc 144 none none (sL true 2))).rot = 15 ∧ (getPea 144 (stepPc 144 none none (sL false 1))).pc = 10 ∧
    (getPea 144 (stepPc 144 none none (sL true 1))).qreg = 0xFF := by decide +kernel

/-- Of two writes to D1 that land together the later one stands, and WCOL sets. -/
theorem test_land : let s := onPea 144 (fun p => { p with flight := [⟨1, .d 1, 7, false⟩, ⟨1, .d 1, 8, false⟩, ⟨2, .d 2, 9, false⟩] }) State.reset
    let q := getPea 144 (land 144 s)
    q.d = [(1, 8)] ∧ q.psw.getLsbD 3 = true ∧ q.flight = [⟨1, .d 2, 9, false⟩] := by decide +kernel

/-! ### Exceptions and what reaches a core from outside -/

/-- CC0 in supervisor mode with interrupts on, at bundle 0x20, with its vector at 0x400. -/
def sE : State := wrCsr 144 0 5 (wrCsr 144 4 0x400 (onPea 144 (fun p => { p with pc := 0x20, branch := some (0x30, 1) }) State.reset))

theorem test_enter : (fun t => (csrField 144 2 0 8 t, rdCsr 144 1 t, csrField 144 0 4 2 t, rdCsr 144 5 t, (getPea 144 t).pc, csrField 144 0 2 1 t,
      csrField 144 0 3 1 t)) (enterException 144 6 9 false false sE) = (6, 0x20, 1, 0x30, 0x400, 0, 1) := by decide +kernel
theorem test_enterNmiTwice : (getPea 144 (enterException 144 0x0F 0 false true (onPea 144 (fun p => { p with nmiIn := true }) sE))).pc = 0x20 ∧
    csrField 144 0 6 1 (enterException 144 0x0F 0 false true (onPea 144 (fun p => { p with nmiIn := true }) sE)) = 1 := by decide +kernel

theorem test_trap : (issues 144 (fun _ => plainChecks true) sE && condHolds 144 0 (atIssue 144 sE) && after (.trap 144 0 0x55) sE
  (fun t => csrField 144 2 0 8 t == 6 && rdCsr 144 3 t == 0x55 && (getPea 144 t).pc == 0x400)) = true := by decide +kernel
theorem test_trapNot : (!condHolds 144 2 (atIssue 144 sC) && issues 144 (fun _ => plainChecks true) sC &&
  after (.trap 144 2 0x55) sC (fun t => (getPea 144 t).pc == 6)) = true := by decide +kernel

/-- The hypotheses for privileged bundles. -/
def privOk (s : State) : Bool := issues 144 (fun _ => { plainChecks true with priv := true }) s

theorem test_eret : (privOk (wrCsr 144 0 0x19 (wrCsr 144 5 0x30 (wrCsr 144 1 0x20 State.reset))) &&
  after (.eret 144) (wrCsr 144 0 0x19 (wrCsr 144 5 0x30 (wrCsr 144 1 0x20 State.reset)))
    (fun t => csrField 144 0 0 3 t == 4 && (getPea 144 t).pc == 0x20 && (getPea 144 t).branch == some (0x30, 1))) = true := by decide +kernel
theorem test_wfi : (privOk State.reset && after (.wfi 144) State.reset (fun t => (getPea 144 t).stall == .wfi)) = true := by decide +kernel
theorem test_csrr : (privOk (wrCsr 144 3 0x12345678 State.reset) && csrListed 3 && after (.csrr 144 5 3) (wrCsr 144 3 0x12345678 State.reset)
  (fun t => puts 144 t 1 (.d 4) 0x1234 && puts 144 t 1 (.d 5) 0x5678)) = true := by decide +kernel
theorem test_csrw : (privOk sX && csrListed 3 && csrListed 47 && csrListed 72 && after (.csrw 144 3 3) sX (fun t => rdCsr 144 3 t == 0x12345678) &&
  after (.csrw 144 3 47) sX (fun t => rdCsr 144 47 t == 0x12345678) && after (.csrw 144 3 5) sX (fun t => rdCsr 144 5 t == 0x1678) &&
  after (.csrw 144 3 72) sX (fun t => puts 144 t 1 (.w 0) 0x12345678)) = true := by decide +kernel
theorem test_fence : (issues 144 (fun _ => plainChecks true) State.reset &&
  after (.fence 144) State.reset (fun t => (getPea 144 t).stall == .none) &&
  after (.fence 144) (onPea 144 (fun p => { p with posted := [(0, 0)] }) State.reset) (fun t => (getPea 144 t).stall == .fence)) = true := by decide +kernel

/-- A bundle with these checks on CC0. -/
def checked (k : Checks) (s : State) : State := issue 144 (fun _ => k) id (fun _ => none) s

/-- The order of R85: each check comes after those that stand before it. -/
theorem test_order : (
  csrField 144 2 0 8 (checked { plainChecks false with priv := true, stk := true } (wrCsr 144 0x104 1 sE)) == 0x0F &&
  csrField 144 2 0 8 (checked { plainChecks false with priv := true, stk := true } (wrCsr 144 0x40 1 sE)) == 3 &&
  csrField 144 2 0 8 (checked { plainChecks false with priv := true, stk := true } (wrCsr 144 0 4 sE)) == 1 &&
  csrField 144 2 0 8 (checked { plainChecks true with priv := true, stk := true } (wrCsr 144 0 4 sE)) == 2 &&
  csrField 144 2 0 8 (checked { plainChecks true with priv := true, stk := true } sE) == 7 &&
  csrField 144 2 0 8 (checked { plainChecks true with accesses := [(false, 0x100, false)] }
    (wrCsr 144 0x40 1 (wrCsr 144 0x10 0x800 (wrCsr 144 0x20 0x9FF (wrCsr 144 0x30 0x81 sE))))) == 4) = true := by decide +kernel

/-- CC0 waits for a load into D2 and D3. -/
def sW : State := onPea 144 (fun p => { p with stall := .load ⟨2, 3, 0, 0x20, none, none, 0, 0, 0xFF, 0x1400040⟩ }) State.reset

theorem test_crossbarLoadResponse : (csrField 144 0 2 1 sW == 0 && rdCsr 144 0x104 sW == 0 && rdCsr 144 0x102 sW == 0 &&
  after (.crossbarLoadResponse 144 0x12345678 false) sW
    (fun t => (getPea 144 t).stall == .none && puts 144 t 1 (.d 2) 0x1234 && puts 144 t 1 (.d 3) 0x5678)) = true := by decide +kernel
theorem test_crossbarLoadError : after (.crossbarLoadResponse 144 0 true) sW
  (fun t => csrField 144 2 0 9 t == 5 && rdCsr 144 3 t == 0x1400040 && rdCsr 144 1 t == 0x20) = true := by decide +kernel
theorem test_crossbarStoreResponse : after (.crossbarStoreResponse 144 false)
  (onPea 144 (fun p => { p with posted := [(0x40, 1)], stall := .fence }) State.reset)
  (fun t => (getPea 144 t).posted.isEmpty && (getPea 144 t).stall == .none) = true := by decide +kernel
theorem test_crossbarStoreError : (rdCsr 144 0x104 State.reset == 0 && after (.crossbarStoreResponse 144 true)
  (onPea 144 (fun p => { p with posted := [(0x40, 1), (0x44, 2)] }) State.reset)
  (fun t => (getPea 144 t).posted == [(0x44, 2)] && csrField 144 2 0 9 t == 0x105 && rdCsr 144 3 t == 0x40)) = true := by decide +kernel
theorem test_interruptPends : (csrField 144 0 2 1 State.reset == 0 && after (.interruptEntry 144 63) State.reset
  (fun t => (rdCsr 144 9 t).getLsbD 31 && (getPea 144 t).pc == 0)) = true := by decide +kernel

/-- CC0 with interrupts on and line 5 enabled. -/
def sI : State := wrCsr 144 0 5 (wrCsr 144 6 0x20 (wrCsr 144 4 0x400 State.reset))

theorem test_interruptEntry : ((getPea 144 sI).stall == .none && (getPea 144 sI).branch.isNone && csrField 144 0 2 1 sI == 1 &&
  rdCsr 144 0x100 sI == 0 && rdCsr 144 0x101 sI == 0 && pendingLines 144 sI &&& enabledLines 144 sI == 0 &&
  enabledLines 144 sI / 2 ^ 5 % 2 == 1 &&
  after (.interruptEntry 144 5) sI (fun t => csrField 144 2 0 8 t == 0x45 && (getPea 144 t).pc == 0x400)) = true := by decide +kernel
theorem test_nmi : after (.nmi 144) sE (fun t => csrField 144 2 0 8 t == 0x0F && (getPea 144 t).pc == 0x420) = true := by decide +kernel
theorem test_timerZero : after (.timerZero 144 1) (wrCsr 144 0x0F 2 (wrCsr 144 0x0E 99 State.reset))
  (fun t => rdCsr 144 0x0D t == 99 && rdCsr 144 0x101 t == 1) = true := by decide +kernel

/-! ### Pods and Tempo -/

/-- Pod 0 and Tempo run in block 9 with the timebase set. -/
def sR : State :=
  { put [(GLB_TLSTAT_VALID, 1), (POD_CTL_RUN 0, 1), (TEMPO_CTL_EN, 1)] State.reset with tl := { TimelineSt.reset with k := 9 } }

/-- Entry 3 of pea 0 is enabled: start 0x40, context 0x55, DEADLINE 100, BUDGET 50, output slot 2. -/
def sT : State := put [(TASK_CFG_EN 0 0 3, 1), (TASK_CFG_START 0 0 3, 0x40), (TASK_CTX_CTX 0 0 3, 0x55), (TASK_TIME_DEADLINE 0 0 3, 100),
  (TASK_TIME_BUDGET 0 0 3, 50), (TASK_OUT_OUT_NUM 0 0 3, 1), (TASK_OUT_OUT_FIRST 0 0 3, 2)] sR

/-- Pea 0 runs entry 3, dispatched in this block at BCYC 10. -/
def sRun : State := setRun 0 ⟨some 3, 10, 9, none, 0, 0, 0⟩ (put [(PEA_STAT_STATE 0 0, 1), (PEA_STAT_BCYC 0 0, 70)] sT)

theorem test_dispatch : (candidate 0 0 20 sT == some 3 && dispatchPoint 0 0 20 sT && after (.dispatch 0 0 20) sT
  (fun t => (getPea 0 t).pc == 0x40 && rdP 0 0 t == 0x55 && (getRun 0 t).task == some 3 && rd (PEA_STAT_STATE 0 0) t == 1 &&
    rd (TASK_CTL_RUN 0 0 3) t == 1)) = true := by decide +kernel
/-- Of a static entry and a triggered one with the same DEADLINE the static one goes first. -/
theorem test_dispatchTie : candidate 0 0 20 (setTask 0 0 1 { TaskDyn.reset with readyFor := 9 } (put [(TASK_CFG_EN 0 0 1, 1),
  (TASK_CFG_MODE 0 0 1, 1), (TASK_CTL_READY 0 0 1, 1), (TASK_TIME_DEADLINE 0 0 1, 100)] sT)) = some 3 := by decide +kernel
theorem test_tend : (canIssue 0 sRun && after (.tend 0) sRun (fun t => match (getRun 0 t).ended with
  | some x => x.status == .normal && x.stamp == 70 && x.task == 3
  | none => false)) = true := by decide +kernel
theorem test_evt : (canIssue 0 sRun && after (.evt 0 5) (put [(PEA_EVMAP_EN 0 0 5, 1), (PEA_EVMAP_POD 0 0 5, 2), (PEA_EVMAP_PEA 0 0 5, 8),
  (PEA_EVMAP_TASK 0 0 5, 7), (PEA_EVMAP_INPUT 0 0 5, 3)] sRun) (fun t => t.pods.events == [(2, 8, 7, 3)])) = true := by decide +kernel
theorem test_evtDropped : after (.evt 0 5) (put [(PEA_EVMAP_POD 0 0 5, 2), (PEA_EVMAP_PEA 0 0 5, 8)] sRun)
  (fun t => t.pods.events.isEmpty && rd (PEA_CNT2_EVDROP_COUNT 2 8) t == 1) = true := by decide +kernel
theorem test_illegalBundle : wordLegal 0 0xBFFFFFFFFFFFFFFF (atIssue 0 sRun) = false ∧
    after (.illegalBundle 0 0xBFFFFFFFFFFFFFFF) sRun (fun t => rd (PEA_CNT_ILL_COUNT 0 0) t == 1 && match (getRun 0 t).ended with
      | some x => x.status == .illegal && x.task == 3
      | none => false) = true := by decide +kernel
theorem test_budgetAbandon : after (.budgetAbandon 0 0) sRun (fun t => match (getRun 0 t).ended with
  | some x => x.status == .budget && x.task == 3 && x.stamp == 59
  | none => false) = true := by decide +kernel

/-- A completion of entry 3 with this stamp. -/
def aDone (stamp : BitVec 16) : Completion := ⟨0, 3, .normal, stamp, 0, 9, false⟩

theorem test_completionPost : after (.completionPost 0 0) (onPea 0 (fun p => { p with psw := 5 }) (setRun 0 ⟨some 3, 10, 9, some (aDone 70), 0, 0, 0⟩ sRun))
  (fun t => getFifo 0 t == [{ aDone 70 with flags := 5 }] && rd (PEA_STAT_STATE 0 0) t == 0 && rd (TASK_CTL_FLAGS 0 0 3) t == 5) = true := by decide +kernel
/-- A stamp at the DEADLINE is in time, and one after it late: reason 1 with an overrun of 1. -/
theorem test_tempoIntake : (after (.tempoIntake 0 4) (setFifo 0 [aDone 100] sT)
    (fun t => getFifo 0 t == [] && markValid 0 2 8 t && t.pods.missRecs.isEmpty && rd TEMPO_INTAKE_HWM t == 4) &&
  after (.tempoIntake 0 4) (setFifo 0 [aDone 101] sT) (fun t => !markValid 0 2 8 t && match t.pods.missRecs with
    | [[b, w, o, _]] => b == 8 && getField w 0 20 == 0x10300 && o == 0x650001
    | _ => false)) = true := by decide +kernel
theorem test_tempoStray : after (.tempoIntake 0 4) (setFifo 0 [{ aDone 100 with stray := true }] sT)
  (fun t => getFifo 0 t == [] && rd TEMPO_CNT_STRAY_COUNT t == 1) = true := by decide +kernel
theorem test_horizonSkipped : (taskOn 0 0 3 sT && !triggered 0 0 3 sT && !peaFailed 0 0 sT && tlValid sT && !inQuiet sT &&
  after (.horizon 0 0 3) sT (fun t => match t.pods.missRecs with
    | [[b, w, o, _]] => b == 8 && getField w 0 20 == 0x40300 && o == 0xFFFFFFFF
    | _ => false)) = true := by decide +kernel
theorem test_horizonAbort : after (.horizon 0 0 3) sRun (fun t => rd (PEA_STAT_STATE 0 0) t == 0 && match t.pods.missRecs with
    | [[_, w, _, _]] => getField w 0 20 == 0x30300
    | _ => false) = true := by decide +kernel
theorem test_tempoPop : after .tempoPop { sR with pods := { sR.pods with missRecs := [[1, 2, 3, 4], [5, 6, 7, 8]] } }
  (fun t => t.pods.missRecs == [[5, 6, 7, 8]] && rd TEMPO_MREC0_BSN t == 5 && rd TEMPO_STAT_LEVEL t == 1) = true := by decide +kernel

/-- Entry 4 of pea 0 is triggered, with a threshold of 2 on input 1 and a counter at a value. -/
def sTr (n : Nat) : State :=
  put [(TASK_CFG_EN 0 0 4, 1), (TASK_CFG_MODE 0 0 4, 1), (TASK_TRIG_TH 0 0 4 1, 2), (TASK_EVC_C 0 0 4 1, n)] sR

theorem test_eventArrival : (after (.eventArrival 0 0 4 1) (sTr 1) (fun t => rd (TASK_EVC_C 0 0 4 1) t == 2 && rd (TASK_CTL_READY 0 0 4) t == 1) &&
  after (.eventArrival 0 0 4 1) (sTr 63) (fun t => rd (TASK_EVC_C 0 0 4 1) t == 63 && rd (TASK_EVC_SAT 0 0 4 1) t == 1)) = true := by decide +kernel
theorem test_eventDropped : (!taskOn 0 0 5 sR && after (.eventArrival 0 0 5 1) sR (fun t => rd (PEA_CNT2_EVDROP_COUNT 0 0) t == 1)) = true := by decide +kernel
theorem test_taskCancel : after (.taskCancel 0 0 4) (put [(TASK_CTL_READY 0 0 4, 1)] (sTr 3)) (fun t => rd (TASK_EVC_C 0 0 4 1) t == 0 &&
  rd (TASK_CTL_READY 0 0 4) t == 0 && rd (TASK_CNT_DISC_COUNT 0 0 4) t == 1) = true := by decide +kernel
theorem test_peaMemoryError : (!peaFailed 0 0 sRun && after (.peaMemoryError 0 0) sRun (fun t => peaFailed 0 0 t && rd (PEA_STAT_STATE 0 0) t == 2 &&
  match t.pods.missRecs with
    | [[b, w, o, _]] => b == 8 && getField w 0 20 == 0x73F00 && o == 0xFFFFFFFF
    | _ => false)) = true := by decide +kernel
theorem test_podRepairFail : (after (.podRepairFail 0 8) sR (peaFailed 0 8) && after (.podRepairFail 0 9) sR
  (fun t => rd (POD_STAT_CFGERR 0) t == 1 && rd (POD_STAT_FAILED 0) t == 0)) = true := by decide +kernel
theorem test_repairLoadComplete : after (.repairLoadComplete 0)
  (setRepairs 0 [⟨1, [], 9, false⟩] { put [(POD_RSV_X_LEN 0, 2), (POD_RSV_X_BASE 0, 0x100)] sR with
    mem := { MemSt.reset with goldX := [(65536 + 0x100, 7), (65536 + 0x101, 8)] } })
  (fun t => rdX 8 0x101 t == 8 && (getRepairs 0 t).head?.any (fun r => r.loaded)) = true := by decide +kernel

/-- Pod 0's DMA with a ring of 4 descriptors at shared word 0x100; the first moves two shared words from 0x200 to 0x300 and posts
event (3, 7, 1). -/
def sDma : State := wrShared 0 0x100 0x200 (wrShared 0 0x101 0x31D11100 (wrShared 0 0x102 0x300 (wrShared 0 0x103 8
  (wrShared 0 0x200 5 (wrShared 0 0x201 6 (put [(POD_DMA_QBASE_EN 0, 1), (POD_DMA_QBASE_QSIZE 0, 2), (POD_DMA_QBASE_BASE 0, 0x100)] sR))))))

theorem test_dmaDescriptor : (let d := descAt 0 0 sDma
  descOk 0 d sDma && d.srcSp == 1 && d.dstSp == 1 && d.len == 8 && d.evt && d.pea == 3 && d.task == 7 && d.input == 1) = true := by decide +kernel
theorem test_podDmaQtail : (after (.podDmaQtail 0 1) sDma (fun t => rd (POD_DMA_STAT_BUSY 0) t == 1 && rd (POD_DMA_QTAIL_TAIL 0) t == 1) &&
  after (.podDmaQtail 0 0) sDma (fun t => rd (POD_DMA_STAT_BUSY 0) t == 0)) = true := by decide +kernel
theorem test_podDmaDescriptorDone : after (.podDmaDescriptorDone 0 false false) (put [(POD_DMA_STAT_BUSY 0, 1)] sDma)
  (fun t => rd (POD_DMA_QHEAD_HEAD 0) t == 1 && t.pods.events == [(0, 3, 7, 1)] && rdShared 0 0x300 t == 5 && rdShared 0 0x301 t == 6) = true := by decide +kernel
theorem test_podDmaError : after (.podDmaDescriptorDone 0 true false) (put [(POD_DMA_STAT_BUSY 0, 1)] (wrShared 0 0x101 0x1000 sDma))
  (fun t => rd (POD_DMA_STAT_ERR 0) t == 1 && rd (POD_DMA_QHEAD_HEAD 0) t == 0 && logged 101 0x4010 0 t) = true := by decide +kernel
theorem test_podDmaErrClear : after (.podDmaErrClear 0) (put [(POD_DMA_STAT_ERR 0, 1), (POD_DMA_QTAIL_TAIL 0, 1)] sDma)
  (fun t => rd (POD_DMA_STAT_ERR 0) t == 0 && rd (POD_DMA_STAT_BUSY 0) t == 1) = true := by decide +kernel

/-! ### The queue, time and the timeline -/

theorem test_step : (match step { State.reset with pending := [.tempoPop, .podRepairFail 0 9] } with
  | .next t => t.pending.length == 1
  | _ => false) = true := by decide +kernel
theorem test_reset : (State.reset.wf && !tlValid State.reset && rdReg 0x40000000 State.reset == 0x08004FB1) = true := by decide +kernel
theorem test_serial : serialCmp 32 0 0xFFFFFFFF = .later 1 ∧ serialCmp 32 (2 ^ 30) 0 = .later (2 ^ 30) ∧ serialCmp 32 (2 ^ 30 + 1) 0 = .outOfWindow ∧
    serialCmp 32 0 (2 ^ 30) = .earlier (2 ^ 30) ∧ serialCmp 32 5 5 = .equal := by decide +kernel
/-- Of two candidates at one distance the earlier is taken. -/
theorem test_widen : widen 8 0x80 0x100 = 0x80 ∧ widen 8 0xFF 0x100 = 0xFF ∧ widen 8 0x7F 0x100 = 0x17F := by decide +kernel
theorem test_blockStart : blockStart 1 = 41667 ∧ blockStart 3 = 125000 ∧ blockAt 41666 = 0 ∧ blockAt 41667 = 1 := by decide +kernel
theorem test_blockBoundary : after .blockBoundary sR (fun t => t.tl.k == 10 && t.ns == 416667) = true ∧
    idle .blockBoundary State.reset = true := by decide +kernel
theorem test_glbBsnRead : after .glbBsnRead { sR with tl := { TimelineSt.reset with k := 0x100000005 } }
  (fun t => readReg GLB_BSN_BSN.addr t == 5 && readReg GLB_BLKHI_K_HI.addr t == 1) = true := by decide +kernel
/-- A change of the sample of an element that a block takes, and one for later. -/
theorem test_landApply : (let s := { put [(GLB_GEN_GEN, 0xFFFF)] sR with tl := { TimelineSt.reset with k := 9, pend :=
    [⟨.word 0x41000014, 1, 9⟩, ⟨.word 0x41000014, 2, 10⟩] } }
  (∀ c ∈ s.tl.pend, ∀ a, c.elem = .word a → 0x41000000 ≤ a ∧ a < 0x42000000) ∧ (landApply 9 s).tl.pend = [⟨.word 0x41000014, 2, 10⟩] ∧
    rd GLB_GEN_GEN (landApply 9 s) = 0) := by
  refine ⟨fun c hc a ha => ?_, by decide +kernel, by decide +kernel⟩
  simp only [List.mem_cons, List.not_mem_nil, or_false] at hc
  rcases hc with rfl | rfl <;> (cases ha; omega)

/-! ### The signal graph -/

/-- The graph runs in block 9; destination 7 takes source 9, which is front-end channel 20 or what its kind says. -/
def sG (destKind destIndex srcKind srcIndex : Nat) : State :=
  put [(SG_CTL_RUN, 1), (DST_CFG_EN 7, 1), (DST_CFG_KIND 7, destKind), (DST_CFG_SRC 7, 9), (DST_IDX_INDEX 7, destIndex), (SRC_ENT_KIND 9, srcKind),
    (SRC_ENT_INDEX 9, srcIndex)] sR

/-- Samples of a data block: the most negative number, and three small ones. -/
def some4 (k kind idx : Nat) (s : State) : State := setSamps k kind idx [0x800000, 1, 2, 3] s

/-- Words of input slot 2 of pod 0 for data block 8. -/
def inSlot (t : State) : List Word := (List.range 4).map fun i => rdShared 0 (slotWord 0 8 514 i t) t

theorem test_routerAssembly : (after (.routerAssembly 7) (some4 8 skFE 20 (sG 1 2 1 20)) (fun t => inSlot t == [0xFF800000, 1, 2, 3]) &&
  after (.routerAssembly 7) (some4 8 skFE 2068 (sG 1 2 2 20)) (fun t => inSlot t == [0xFF800000, 1, 2, 3]) &&
  after (.routerAssembly 7) (wrShared 0 (slotWord 0 8 514 0 sR) 5 (sG 1 2 0 20)) (fun t => inSlot t == [0, 0, 0, 0])) = true := by decide +kernel
/-- Destination 7 is the only member of event group 4. -/
def sEv : State :=
  put [(DST_CFG_GRP 7, 4), (EVG_CFG_EN 4, 1), (EVG_TGT_POD 4, 2), (EVG_TGT_PEA 4, 3), (EVG_TGT_TASK 4, 5), (EVG_TGT_INPUT 4, 1)] (sG 1 2 1 20)
theorem test_routerEvent : (!delivered 8 skBUS 4103 sEv && mapGet (fun _ => 0) sEv.graph.done (doneKey 8 skGATE 4100) + 1 == groupMembers 4 sEv &&
  after (.routerAssembly 7) sEv (fun t => t.pods.events == [(2, 3, 5, 1)]) && idle (.routerAssembly 7) sR && idle (.busDelivery 7 true) sR &&
  idle (.routerForwarding 7 true) sR) = true := by decide +kernel
theorem test_busDelivery : after (.busDelivery 7 false) (some4 8 skBUS 3 (sG 1 2 4 3)) (fun t => inSlot t == [0xFF800000, 1, 2, 3]) = true := by decide +kernel
/-- Output slot 2 of pod 0 is valid for data block 8. -/
def sFw : State :=
  let s := sG 1 2 3 2
  wrShared 0 (slotWord 0 8 2 3 s) 0xFFFFFFFE { s with pods := { s.pods with marks := [(markKey 0 2 8, 9)] } }
theorem test_routerForwarding : (markValid 0 2 8 sFw && !paired sFw && (getGuard 2 sFw).run == 0 && (getGuard 2 sFw).fading.isNone &&
  (getGuard 2 sFw).cross.isNone && (getGuard 2 sFw).evaluated != 9 &&
  after (.routerForwarding 7 false) sFw (fun t => inSlot t == [0, 0, 0, 0xFFFFFFFE])) = true := by decide +kernel

/-- Samples of a target for data block 7. -/
def outOfDest (kind : Nat) (t : State) : List DWord := getSamps 7 kind 5 t

theorem test_routerOutput : ([(2, skEGR), (3, skTDM), (4, skMOD), (6, skCAP)].all fun e => after (.routerOutput 7) (some4 7 skFE 20 (sG e.1 5 1 20))
  (fun t => outOfDest e.2 t == [0x800000, 1, 2, 3])) = true ∧
  after (.routerOutput 7) (put [(DST_CFG_MUTE 7, 1)] (some4 7 skFE 20 (sG 2 5 1 20))) (fun t => outOfDest skEGR t == [0, 0, 0, 0]) = true ∧
  after (.routerOutput 7) (put [(DST_GAIN_GAIN 7, 0x8000)] (some4 7 skFE 20 (sG 2 5 1 20))) (fun t => outOfDest skEGR t == [0, 0, 0, 0]) = true := by decide +kernel
/-- A crossfade from source 10, which gives 1,000, over 8 samples: after sample 1 seven eighths of it and one of the new source. -/
theorem test_crossfade : after (.routerOutput 7) (onGraph (fun g => { g with xfades := [(7, ⟨10, 0, 8⟩)] })
    (setSamps 7 skFE 21 [1000, 1000, 1000, 1000] (put [(SRC_ENT_KIND 10, 1), (SRC_ENT_INDEX 10, 21)] (sG 2 5 1 20))))
  (fun t => outOfDest skEGR t == [875, 750, 625, 500]) = true := by decide +kernel
theorem test_meter : after (.routerOutput 7) (put [(MTR_CFG_EN 5, 1), (MTR_CLIP_CLIPTH 5, 3)] (some4 7 skFE 20 (sG 5 5 1 20)))
  (fun t => match t.graph.meters with
    | [(5, q)] => q.first == 7 && q.count == 1 && q.peak == 0x800000 && q.clip == 2
    | _ => false) = true := by decide +kernel
/-- Meter 5's window of one block is complete; a window of 2 blocks that began at an even block is not. -/
def sMtr (win : Nat) : State :=
  onGraph (fun g => { g with meters := [(5, ⟨8, 1, 100, 10000, 4, 0, 0, 3, false, false, false⟩)] }) (put [(MTR_CFG_WIN 5, win)] (sG 5 5 1 20))
theorem test_meterWindowEnd : after (.meterWindowEnd 5) (sMtr 1) (fun t => match t.graph.ready with
    | [r] => r.meter == 5 && r.last == 8 && r.words[1]? == some 8 && r.words[2]? == some 1 && r.words[3]? == some 100
    | _ => false) = true ∧ idle (.meterWindowEnd 5) (sMtr 2) = true := by decide +kernel
theorem test_meterPublish : after (.meterPublish 5) (onGraph (fun g => { g with ready := [⟨5, [0, 8, 1, 100, 0, 0, 9], 8⟩] })
    (put [(MTR_REC_DATA 5 0, 255)] sR)) (fun t => rd (MTR_REC_DATA 5 7) t == 0 && rd (MTR_REC_DATA 5 6) t == 9 && t.graph.ready.isEmpty) = true := by decide +kernel

/-- Bus 3 of phase 1 has one send, of source 9. -/
def sBus : State := some4 8 skFE 20 (put [(BUS_CFG_EN 3, 1), (BUS_CFG_PHASE 3, 1), (BUS_SENDS_NUM 3, 1), (BUS_SENDS_FIRST 3, 4), (SEND_CFG_EN 4, 1), (SEND_CFG_SRC 4, 9)]
  (sG 1 2 1 20))
theorem test_busPhaseStart : (phaseBuses 1 sBus == [3] && rd (BUS_CFG_SCALE 3) sBus == 0 && busSends 3 sBus == [4] &&
  after (.busPhaseStart 1) sBus (fun t => getSamps 8 skBUS 3 t == [0x800000, 1, 2, 3] && rd (BUS_CNT_N 3) t == 0)) = true := by decide +kernel
theorem test_busPhaseOverrun : after (.busPhaseOverrun 1) (setGuard (busGuard 3) ⟨77, 0, none, none, 0⟩ sBus)
  (fun t => getSamps 8 skBUS 3 t == [77, 77, 77, 77] && (rd SG_STAT_PHOVR t).testBit 1 && logged 2 0x30F1 0 t) = true := by decide +kernel
theorem test_busIdle : idle (.busPhaseStart 1) sR = true ∧ idle (.busPhaseOverrun 1) sR = true := by decide +kernel

theorem test_gateHoldExpiry : after (.gateHoldExpiry 20) (onGraph (fun g => { g with openGates := [20, 21], dets := [(20, ⟨96, false, 0⟩)] })
    (put [(FE_STAT_GATE 20, 1), (FE_HOLD_HOLD 20, 1)] sR)) (fun t => rd (FE_STAT_GATE 20) t == 0 && t.graph.openGates == [21]) = true ∧
  idle (.gateHoldExpiry 20) (onGraph (fun g => { g with openGates := [20], dets := [(20, ⟨95, false, 0⟩)] })
    (put [(FE_STAT_GATE 20, 1), (FE_HOLD_HOLD 20, 1)] sR)) = true := by decide +kernel
/-- The last sample of a ramp stands on the target. -/
theorem test_gainStep : (gainStep 0x41000014 0 (onGraph (fun g => { g with gains := [(0x41000014, ⟨0, 1000, 7, 8, false, 875⟩)] }) sR)).1 = 1000 := by decide +kernel
theorem test_gainChange : (let f : FRef := DST_GAIN_GAIN 7
  (gainStep f.addr 9 (gainChange f.addr 5 9 0 false sR)).1 = 9 ∧ (gainChange f.addr 5 9 10 false sR).graph.gains = [(f.addr, ⟨5, 9, 0, 96, false, 5⟩)]) := by
  decide +kernel
/-- Without filters the front-end passes a block through the trim, here at 0 dB and off, and PEAK shows its largest magnitude. -/
theorem test_feProcess : (let s := setSamps 8 skRAW 20 [0x800000, 1, 2, 3] (markDone 8 skFE 20 (put [(SG_CTL_RUN, 1), (FE_CFG_DCB 20, 0)] sR))
  getSamps 8 skFE 20 (feProcess 8 s) == [0x800000, 1, 2, 3] && rd (FE_STAT_PEAK 20) (feProcess 8 s) == 0x800000 &&
  getSamps 8 skFE 20 (feProcess 8 (put [(FE_CFG_MUTE 20, 1)] s)) == [0, 0, 0, 0]) = true := by decide +kernel

/-- A message with one queued word for apply BSN `a`, in block 9. -/
def sMsg (a : Nat) : State := onGraph (fun g => { g with queue := [⟨.word (DST_GAIN_GAIN 7).addr, 5, 0⟩] }) (put [(SG_WAPPLY_BSN_BSN, a)] (sG 2 5 1 20))
theorem test_sgWapplyCommit : (!changesBreach (changeWords ((sMsg 12).tl.pend ++ (sMsg 12).graph.queue) (sMsg 12)) (sMsg 12) &&
  storeHolds (sMsg 12).tl.pend (landingAt 12 (sMsg 12).graph.queue) && serialCmp 32 12 9 == .later 3 && serialCmp 32 9 9 == .equal &&
  serialCmp 32 (9 + 1440001) 9 == .later 1440001 &&
  after .sgWapplyCommit (sMsg 12) (fun t => rd SG_WAPPLY_CTL_RESULT t == 1 && t.tl.pend == [⟨.word (DST_GAIN_GAIN 7).addr, 5, 12⟩]) &&
  after .sgWapplyCommit (sMsg 9) (fun t => rd SG_WAPPLY_CTL_RESULT t == 2 && t.tl.pend == [⟨.word (DST_GAIN_GAIN 7).addr, 5, 10⟩] &&
    rd GLB_APPLY_CNT_LATE_COUNT t == 1) &&
  after .sgWapplyCommit (sMsg (9 + 1440001)) (fun t => rd SG_WAPPLY_CTL_RESULT t == 3 && t.tl.pend.isEmpty && rd GLB_APPLY_CNT_FAR_COUNT t == 1)) = true := by decide +kernel

/-! ### Bridges and the M range -/

/-- Bridge 5 in a state, tracking with L at 96 kHz, in block 9. -/
def sB (st : Nat) : State :=
  setBridge 5 { BridgeSt.reset with updates := 9 } (put [(BRG_STAT_STATE 5, st), (BRG_CFG_LRATE 5, 4), (bitOf BRG_LOCKED0_LOCKED 5, st / 3 % 2)] sR)

/-- The bridge's state after a command. -/
def brIs (i : Instr) (st st' : Nat) : Bool := after i (sB st) fun t => rd (BRG_STAT_STATE 5) t == st'

/-- 100 and 1,000 are the errors at the edge of locking and of leaving; 32,768 is half a sample. -/
theorem test_bridgeRateUpdate : (lockable 5 (sB 2) && !inSync 5 (sB 2) && rd (BRG_CFG_MODE 5) (sB 2) == 0 && rd (TDM_STAT_FAULT 2) (sB 2) == 0 &&
  brIs (.bridgeRateUpdate 5 100 7 0) 2 3 && brIs (.bridgeRateUpdate 5 101 7 0) 2 2 && brIs (.bridgeRateUpdate 5 1000 32768 0) 4 4 &&
  brIs (.bridgeRateUpdate 5 1001 0 0) 4 5 && brIs (.bridgeRateUpdate 5 0 32769 0) 3 5) = true := by decide +kernel
theorem test_bridgeLocks : after (.bridgeRateUpdate 5 100 7 0) (sB 2) (fun t => (getBridge 5 t).phi0 == 7 && rd (BRG_STAT_LOCKQ 5) t == 1) = true := by decide +kernel
theorem test_bridgeLockExit : (brIs (.bridgeLockExit 5 0 true) 4 2 && brIs (.bridgeLockExit 5 32769 false) 3 5 &&
  after (.bridgeLockExit 5 0 true) (sB 4) (fun t => rd (BRG_CNT_EXIT_COUNT 5) t == 1)) = true := by decide +kernel
theorem test_bridgeCrossfadeEnd : (brIs (.bridgeCrossfadeEnd 5) 3 4 && brIs (.bridgeCrossfadeEnd 5) 5 2) = true := by decide +kernel
theorem test_bridgeSlip : after (.bridgeSlip 5) (sB 4) (fun t => rd (BRG_CNT_SLIP_COUNT 5) t == 1 && rd (BRG_STAT_STATE 5) t == 4) = true := by decide +kernel
theorem test_bridgeRange : (brIs (.bridgeRangeEntry 5 2000001) 2 6 && brIs (.bridgeRangeExit 5) 6 2 && brIs (.bridgeSettleEnd 5) 1 2) = true := by decide +kernel

/-- Channel 0 of group 0 plays. -/
def sCh (st g : Nat) : State := put [(MOD_GCTL_RUN, 1), (MOD_CFG_EN 0, 1), (MOD_STAT_STATE 0, st), (MODG_STAT_STATE 0, g)] sR

theorem test_mRange : after (.mRange 5001) (sCh 4 2) (fun t => rd MXC_STAT_RANGE t == 1 && rd MXC_CNT_RANGE_COUNT t == 1 && rd (MOD_STAT_STATE 0) t == 5 &&
    rdB (bitOf (MOD_STAT_MREQ 71) 2) t) = true ∧
  after (.mRange 5000) (sCh 4 2) (fun t => rd MXC_STAT_RANGE t == 0 && rd (MOD_STAT_STATE 0) t == 4) = true := by decide +kernel
theorem test_mRangeClear : after .mRangeClear (put [(bitOf (MOD_STAT_MREQ 0) 2, 1)] (sCh 6 2)) (fun t => rd (MOD_STAT_MREQ 0) t == 0) = true := by decide +kernel

/-! ### Modulators and rails -/

/-- Channel 0's state after a command. -/
def chIs (i : Instr) (s : State) (st : Nat) : Bool := after i s fun t => rd (MOD_STAT_STATE 0) t == st

theorem test_prechgEnd : (chIs (.prechgEnd 0) (sCh 1 2) 2 && idle (.prechgEnd 0) (sCh 2 2)) = true := by decide +kernel
theorem test_zeroEnd : (chIs (.zeroEnd 0) (sCh 2 2) 3 && chIs (.zeroEnd 0) (setMod 0 { ModSt.reset with wake := true } (sCh 2 2)) 4 &&
  chIs (.zeroEnd 0) (onMods (fun q => { q with lateWake := [0] }) (setMod 0 { ModSt.reset with wake := true } (sCh 2 2))) 3 &&
  chIs (.zeroEnd 0) (put [(MOD_STAT_MREQ 0, 1)] (sCh 2 2)) 6) = true := by decide +kernel
theorem test_rampEnd : (chIs (.rampEnd 0) (sCh 3 2) 4 && chIs (.rampEnd 0) (sCh 5 2) 6 && idle (.rampEnd 0) (sCh 4 2)) = true := by decide +kernel
theorem test_modMuteWrite : after (.modMuteWrite 0 true) (sCh 4 2) (fun t => rd (MOD_CTL_MUTE 0) t == 1) = true := by decide +kernel
/-- A word written while audio runs acts from the data block after the block of the write. -/
theorem test_modMuteWriteActs : after (.modMuteWrite 0 true) (put [(GLB_TLSTAT_RUN, 1)] (sCh 4 2)) (fun t => rd (MOD_CTL_MUTE 0) t == 1 &&
  inForceAt t.tl.k.toNat (MOD_CTL_MUTE 0) t == 0 && inForceAt (t.tl.k.toNat + 1) (MOD_CTL_MUTE 0) t == 1) = true := by decide +kernel
theorem test_groupLineReleased : after (.groupLineReleased 0) (put [(MODG_STAT_REQ 0, 1), (MODG_STAT_LINE 0, 1), (MODG_STAT_DRIVE 0, 0)] (sCh 7 5))
  (fun t => rd (MODG_STAT_STATE 0) t == 2 && rd (MOD_STAT_STATE 0) t == 1) = true := by decide +kernel
/-- Idle entry when the activity group has been inactive for IDLE_DLY, 0 here. -/
theorem test_idleEntry : (let s := put [(MODG_CFG_IDLE_EN 0, 1), (MODG_WAKE_IDLE_DLY 0, 0)] (sCh 4 2)
  groupChans 0 s == [0] && inactiveLong 0 s && wakeStands (rd (MODG_CFG_ACTGRP 0) s) s == false && chIs (.idleEntry 0) s 5 &&
  after (.idleEntry 0) s (fun t => rd (MODG_STAT_STATE 0) t == 3) && idle (.idleEntry 0) (sCh 4 2)) = true := by decide +kernel
theorem test_carrierPeriodIdles : after (.carrierPeriod 0) (sCh 6 3) (fun t => rd (MOD_STAT_STATE 0) t == 0 && rd (MODG_STAT_STATE 0) t == 4 &&
  rd (MODG_STAT_DRIVE 0) t == 1) = true := by decide +kernel
/-- The group wakes, and data block 0, presented at the start of block 3 plus 9 µs, is active. -/
def sLate : State := { onMods (fun q => { q with waking := [0] }) (setMod 0 { ModSt.reset with wake := true } (put [(MODG_STAT_DRIVE 0, 0)] (sCh 4 1))) with
  graph := { sR.graph with actFirst := [(0, 1)] } }
theorem test_groupActive : after (.groupActive 0 134000) sLate (fun t => rd (MODG_STAT_STATE 0) t == 2 && rd (MOD_STAT_STATE 0) t == 4 && t.mods.waking == [] &&
    !(getMod 0 t).wake && rd (MODG_CNT_WAKE_LATE_COUNT 0) t == 0) = true ∧
  after (.groupActive 0 134001) sLate (fun t => rd (MOD_STAT_STATE 0) t == 3 && rd (MODG_CNT_WAKE_LATE_COUNT 0) t == 1) = true := by decide +kernel
/-- Until a wake is ACTIVE the index is zero. -/
theorem test_carrierPeriodWakes : after (.carrierPeriod 0) (put [(MOD_GCTL_RUN, 1)] (setMod 0 { ModSt.reset with wake := true, dirty := true } (sCh 4 1)))
  (fun t => (getMod 0 t).legA == 32768 && (getMod 0 t).legB == 32768) = true := by decide +kernel
theorem test_powerStageFault : after (.powerStageFault 0) (put [(MODG_STAT_DRIVE 0, 0)] (sCh 4 2)) (fun t => rd (MOD_STAT_STATE 0) t == 7 &&
  rd (MODG_STAT_STATE 0) t == 5 && rd (MODG_CNT2_FAULT_COUNT 0) t == 1 && logged 28 0x5100 0 t) = true := by decide +kernel
theorem test_powerStageFaultDriven : idle (.powerStageFault 0) (put [(MODG_STAT_DRIVE 0, 1)] (sCh 4 2)) = true := by decide +kernel
theorem test_carrierGridStart : after .carrierGridStart (put [(MOD_GCTL_DIV, 72)] sR)
  (fun t => rd MOD_GCTL_RUN t == 1 && rd (MOD_INDEX_PHASE 71) t == 64625) = true := by decide +kernel
/-- A period of 65,536 edge steps in half, in ZERO and MUTED; in RUN each leg is high for 100 ns, that is 2,517 steps, or more. -/
theorem test_carrierPeriod : after (.carrierPeriod 0) (sCh 2 2) (fun t => (getMod 0 t).legA == 32768 && (getMod 0 t).legB == 32768) = true ∧
  after (.carrierPeriod 0) (put [(MOD_CFG_MINPW 0, 100)] (sCh 4 2)) (fun t => (getMod 0 t).legA + (getMod 0 t).legB == 65536 &&
    Nat.ble 2516 (getMod 0 t).legA && Nat.ble 2516 (getMod 0 t).legB) = true := by decide +kernel

/-- The pipeline runs and channel 0 has its own feed for data block 7, or not. -/
def sSrc (fed : Bool) : State := setRc 0 { RookCh.reset with mf := RampSt.at unity, why := 0 } <| (if fed then some4 7 skMOD 0 else id) (put [(GLB_TLSTAT_RUN, 1)] (sCh 4 2))
theorem test_sourceSelect : (delivered 7 skMOD 0 (sSrc true) && rampNow (getRc 0 (sSrc true)).gth == unity &&
  after .sourceSelect (sSrc true) (fun t => rd (MOD_SRC_LAST 0) t == 0 && getSamps 7 skCAP 4096 t == [0x800000, 1, 2, 3])) = true := by decide +kernel
theorem test_sourceHeld : (!delivered 7 skMOD 0 (sSrc false) && after .sourceSelect (setMod 0 { ModSt.reset with last := 9 } (sSrc false))
  (fun t => rd (MOD_SRC_LAST 0) t == 2 && rd (MOD_CNT_HOLD_COUNT 0) t == 1 && getSamps 7 skCAP 4096 t == [9, 9, 9, 9])) = true := by decide +kernel
/-- With no channel that plays, the setpoint falls to VMIN; a requirement above VMAX, here of HEADROOM alone, counts as short. -/
theorem test_railPlan : after (.railPlan 1) (put [(RAIL_CFG_EN 1, 1), (RAIL_VLIM_VMIN 1, 1000), (RAIL_VLIM_VMAX 1, 5000), (GLB_TLSTAT_RUN, 1)] sR)
  (fun t => (getRail 1 t).setpoint == 1000 && rd (RAIL_CMDV_VCMD 1) t == 1000 && rd (RAIL_CNT_SHORT_COUNT 1) t == 0) = true ∧
  after (.railPlan 1) (put [(RAIL_CFG_EN 1, 1), (RAIL_VLIM_VMIN 1, 1000), (RAIL_VLIM_VMAX 1, 5000), (RAIL_VQ_HEADROOM 1, 5001), (GLB_TLSTAT_RUN, 1)] sR)
    (fun t => (getRail 1 t).setpoint == 5000 && rd (RAIL_CNT_SHORT_COUNT 1) t == 1) = true := by decide +kernel
theorem test_railFrame : after (.railFrame 1) (setRail 1 ⟨[], 0, 1234, true⟩ (put [(RAIL_CFG_FORMAT 1, 1), (RAIL_CFG_EN 1, 1), (RAIL_CMDV_SEQ 1, 15), (PWR_STAT_STATE, 2)] sR))
  (fun t => rd (RAIL_CMDV_SEQ 1) t == 0 && rd (RAIL_CMDV_VCMD 1) t == 1234 && rd (RAIL_CMDV_QUIET 1) t == 1 && rd (RAIL_CMDV_ENABLE 1) t == 1) = true := by decide +kernel

/-! ### The sense chain -/

/-- Stream 3 runs. -/
def sSn : State := put [(SNS_CTL_RUN, 1), (SNS_SCFG_EN 3, 1)] sR

theorem test_senseRun : after .senseRun (put [(SNS_SCFG_EN 3, 1)] sR) (fun t => rd SNS_CTL_RUN t == 1 && rd SNS_STAT_VALID t == 0) = true ∧
  after .senseRun (put [(SNS_SCFG_EN 3, 1), (SNS_SCFG_SET 3, 6)] sR) (fun t => rd SNS_CTL_RUN t == 0 && rd SNS_STAT_CFGERR t == 1) = true ∧
  idle .senseRun sSn = true := by decide +kernel
/-- 32 bits of 1 into empty histories give 52,360, shifted by 3. -/
theorem test_senseFastValue : after (.senseFastValue 3 (List.replicate 32 true)) sSn
  (fun t => rdI (SNS_FASTV_VALUE 3) t == 418880 && (getStream 3 t).fastN == 1) = true := by decide +kernel
theorem test_senseFhi : after (.senseFastValue 3 (List.replicate 32 true)) (setStream 3 { StreamSt.reset with fastN := 4 } (put [(SNS_FAST_HI 3, 1636)] sSn))
    (fun t => rd (SNS_FLAG_FHI 3) t == 1) = true ∧
  after (.senseFastValue 3 (List.replicate 32 true)) (setStream 3 { StreamSt.reset with fastN := 4 } (put [(SNS_FAST_HI 3, 1637)] sSn))
    (fun t => rd (SNS_FLAG_FHI 3) t == 0) = true := by decide +kernel
theorem test_senseRail : after (.senseFastValue 145 (List.replicate 32 true)) (setStream 145 { StreamSt.reset with fastN := 4 }
    (put [(SNS_CTL_RUN, 1), (SNS_SCFG_EN 145, 1), (RAIL_SENSE_FS 1, 10000)] sR)) (fun t => rd (RAIL_MEAS_VMEAS 1) t == 499) = true := by decide +kernel
/-- Set 1 has 128 taps: the value is valid with 132 fast values behind it. -/
theorem test_senseSlowValue : (setTaps 1 sR == 128 &&
  after (.senseSlowValue 3 7) (setStream 3 { StreamSt.reset with fastN := 132 } (put [(SNS_SCFG_SET 3, 1)] sSn)) (fun t => rd (SNS_FLAG_VALID 3) t == 1) &&
  after (.senseSlowValue 3 7) (setStream 3 { StreamSt.reset with fastN := 131 } (put [(SNS_SCFG_SET 3, 1)] sSn)) (fun t => rd (SNS_FLAG_VALID 3) t == 0) &&
  after (.senseSlowValue 0 7) sSn (fun t => t.senseAt == 7)) = true := by decide +kernel
theorem test_senseStuck : after (.senseStuck 3) (put [(ROOK_STAT_STATE, 1), (ROOK_CH_CFG_EN 1, 1), (MOD_CFG_EN 1, 1)] sSn) (fun t => rd (SNS_FLAG_STUCK 3) t == 1 && safeMuted 1 t) = true := by decide +kernel
theorem test_snsOutidxRead : after .snsOutidxRead { sR with senseAt := 0x100000007 } (fun t => rd SNS_TLATCH_TIME t == 7) = true := by decide +kernel

/-- Rook is armed, rail 1's dip stream runs with one low value behind it, and channel 2 hangs on the rail. -/
def sDip : State := onRook (fun q => { q with hw := false }) (setStream 145 { StreamSt.reset with dipN := 3, below := 1 }
  (put [(SNS_CTL_RUN, 1), (SNS_SCFG_EN 145, 1), (SNS_FAST_LO 145, 0), (ROOK_STAT_STATE, 1), (MOD_CFG_EN 2, 1), (MOD_CFG_RAIL 2, 1), (MOD_STAT_STATE 2, 4)] sR))
theorem test_senseDipValue : (underLo (rd (SNS_FAST_LO 145) sDip) (dipValue 145 0 sDip).1 && rookArmed sDip && chansOfRail 1 sDip == [2] &&
  after (.senseDipValue 1 0) sDip (fun t => rd (ROOK_RAIL_STAT_DIP 1) t == 1 && safeMuted 2 t && rd (MOD_STAT_STATE 2) t == 7 &&
    logged 28 0x5501 0 t)) = true := by decide +kernel

/-! ### Rook -/

/-- Rook in a state with channel 2 playing, no hardware safe state, and its relay closed. -/
def sRk (st : Nat) : State := onRook (fun q => { q with hw := false, rlyon := true })
  (put [(ROOK_STAT_STATE, st), (ROOK_STAT_RELAY, 1), (MOD_CFG_EN 2, 1), (MOD_STAT_STATE 2, 4), (ROOK_CH_CFG_EN 2, 1), (MODG_STAT_DRIVE 0, 0)] sR)

/-- The hardware safe state holds, with this record. -/
def inSafe (code : Nat) (t : State) : Bool := t.rook.hw && rd ROOK_STAT_RELAY t == 0 && rd (MODG_STAT_DRIVE 0) t == 1 && safeMuted 2 t &&
  rd (MOD_STAT_STATE 2) t == 7 && logged 28 code 0 t

theorem test_lockstepMismatch : after .lockstepMismatch (sRk 1) (fun t => inSafe 0x5A00 t && rd ROOK_STAT_STATE t == 2 && inReset 28 t) = true := by decide +kernel
theorem test_rookSramError : (after .rookSramError (sRk 1) (fun t => inSafe 0x5A02 t && rd ROOK_STAT_STATE t == 2) && idle .rookSramError (sRk 3)) = true := by decide +kernel
/-- A second event 60 s after the first is SAFE. -/
theorem test_selfWatchdogExpiry : (after .selfWatchdogExpiry (onRook (fun q => { q with lastEvent := some 5 }) { sRk 1 with ns := 60000000005 })
    (fun t => inSafe 0x5A03 t && rd ROOK_STAT_STATE t == 3) &&
  after .selfWatchdogExpiry (onRook (fun q => { q with lastEvent := some 5 }) { sRk 1 with ns := 60000000006 }) (fun t => rd ROOK_STAT_STATE t == 2)) = true := by decide +kernel
theorem test_clockMonitorWindow : (after (.clockMonitorWindow true false true) (sRk 1) (fun t => inSafe 0x5A01 t && rd ROOK_STAT_CLKOK t == 0) &&
  after (.clockMonitorWindow true true true) (sRk 1) (fun t => rd ROOK_STAT_CLKOK t == 1 && !t.rook.hw)) = true := by decide +kernel
theorem test_clockRecovered : after .clockRecovered (onRook (fun q => { q with hw := true, clkBad := true }) (put [(ROOK_STAT_CLKOK, 1), (ROOK_STAT_SAFECFG, 1)] (sRk 2)))
  (fun t => rd ROOK_STAT_STATE t == 1 && !t.rook.hw && !t.rook.clkBad) = true := by decide +kernel

/-- A safety section that verifies, or not. -/
def aSec (ok : Bool) : SafetySection := ⟨ok, true, 0, [], [], 350, []⟩
theorem test_rookLoad : (rd ROOK_STAT_STATE State.reset == 0 && !inReset 28 State.reset && State.reset.rook.hw &&
  after (.rookLoad (aSec false)) sR (fun t => rd ROOK_STAT_STATE t == 0 && rd ROOK_STAT_SAFECFG t == 0) &&
  after (.rookLoad (aSec true)) sR (fun t => rd ROOK_STAT_STATE t == 1 && t.rook.tamax == 350 && !t.rook.hw)) = true := by decide +kernel
theorem test_relayClose : (!sfAny 3 (sRk 1) && after .relayClose (put [(ROOK_STAT_RELAY, 0), (SNS_STAT_VALID, 1)] (sRk 1)) (fun t => rd ROOK_STAT_RELAY t == 1 && !t.rook.rlyon) &&
  idle .relayClose (put [(ROOK_STAT_RELAY, 0)] (sRk 1)) && idle .relayClose (put [(SNS_STAT_VALID, 1)] (sRk 0))) = true := by decide +kernel
theorem test_rlyonEnd : after .rlyonEnd (setRc 2 { RookCh.reset with causes := 2 ^ cRELAY } (sRk 1)) (fun t => t.rook.rlyon && !hasCause 2 cRELAY t) = true := by decide +kernel
theorem test_lineRelease : (lineOk 0 (sRk 1) && after (.lineRelease 0) (put [(ROOK_GRP_STAT_REQ 0, 1), (MODG_STAT_DRIVE 0, 1)] (sRk 1))
    (fun t => rd (ROOK_GRP_STAT_REL 0) t == 1 && rd (MODG_STAT_DRIVE 0) t == 0 && rd (MODG_STAT_LINE 0) t == 1) &&
  !lineOk 0 (sRk 0) && idle (.lineRelease 0) (sRk 0)) = true := by decide +kernel
theorem test_dcTrip : (after (.dcTrip 2 false) (put [(ROOK_CH_CFG_DCI_EN 2, 1)] (sRk 1)) (fun t => safeMuted 2 t && rd ROOK_STAT_RELAY t == 0 &&
    t.rook.latchDc == [2] && rd (ROOK_CH_STAT_DCI 2) t == 1 && logged 28 0x5202 0 t) &&
  after (.dcTrip 2 true) (put [(ROOK_CH_CFG_DCO_EN 2, 1)] (sRk 1)) (fun t => rd (ROOK_CH_STAT_DCO 2) t == 1 && logged 28 0x5302 0 t)) = true := by decide +kernel
theorem test_ocholdEnd : after (.ocholdEnd 2) (setRc 2 { RookCh.reset with causes := 2 ^ cOC } (put [(GLB_TLSTAT_RUN, 1), (ROOK_GRP_STAT_REL 0, 1), (MOD_STAT_STATE 2, 7)] (sRk 1)))
  (fun t => !safeMuted 2 t && rd (ROOK_CH_STAT_SMUTE 2) t == 0 && rd (MOD_STAT_STATE 2) t == 1) = true := by decide +kernel
theorem test_fltholdEnd : (after (.fltholdEnd 0) (put [(GLB_TLSTAT_RUN, 1), (ROOK_GRP_STAT_HOLDING 0, 1)] (sRk 1))
    (fun t => rd (ROOK_GRP_STAT_HOLDING 0) t == 0 && rd (ROOK_GRP_STAT_REQ 0) t == 1) &&
  after (.fltholdEnd 0) (onRook (fun q => { q with latchGr := [0] }) (put [(GLB_TLSTAT_RUN, 1), (ROOK_GRP_STAT_HOLDING 0, 1)] (sRk 1)))
    (fun t => rd (ROOK_GRP_STAT_REQ 0) t == 0)) = true := by decide +kernel
/-- FHYST counts steps of 8: with LO at 100 and FHYST 2 a rail is up at 116. -/
theorem test_rdclrEnd : (after (.rdclrEnd 1) (put [(ROOK_RAIL_STAT_DIP 1, 1), (SNS_FAST_LO 145, 100), (SNS_HYST_FHYST 145, 2), (SNS_FASTV_VALUE 145, 116 * 256)] (sRk 1))
    (fun t => rd (ROOK_RAIL_STAT_DIP 1) t == 0) &&
  idle (.rdclrEnd 1) (put [(ROOK_RAIL_STAT_DIP 1, 1), (SNS_FAST_LO 145, 100), (SNS_HYST_FHYST 145, 2), (SNS_FASTV_VALUE 145, 99 * 256)] (sRk 1))) = true := by decide +kernel

theorem test_thermalFirst : after (.thermalUpdate 2) (put [(ROOK_CH_CFG_TH_EN 2, 1), (ROOK_CH_TLIM_TLIM 2, 1500), (ROOK_CH_CFG_CAB 2, 0x3F)] (sRk 1))
  (fun t => (getRc 2 t).temp == some (130000, 130000)) = true := by decide +kernel
/-- A channel far above its limit is cut, and one far below the knee is not. -/
def sHot (t : Int) : State := setRc 2 { RookCh.reset with temp := some (t, t) }
  (put [(ROOK_CH_CFG_TH_EN 2, 1), (ROOK_CH_TLIM_TLIM 2, 1500), (ROOK_CH_TLIM_TKNEE 2, 20), (ROOK_CH_CFG_CAB 2, 0x3F)] (sRk 1))
theorem test_thermalLimits : (let x := thermalStep 2 250000 250000 (sHot 250000)
  let y := thermalStep 2 20000 20000 (sHot 20000)
  decide (150000 ≤ x.1 - 10) && decide (y.1 + 10 < 130000) && (getRc 2 (sHot 20000)).att == 0) = true := by decide +kernel
theorem test_thermalUpdate : (match exec (.thermalUpdate 2) (sHot 250000) with | .next _ => true | _ => false) = true := by decide +kernel
theorem test_impedanceMeasure : (match exec (.impedanceMeasure 2) (sHot 20000) with | .next _ => true | _ => false) = true ∧
  idle (.impedanceMeasure 2) (put [(ROOK_CH_CFG_PILOT 2, 1)] (sHot 20000)) = true := by decide +kernel
theorem test_pilotWindow : (4 ≤ (sRk 1).nS) ∧ (match exec (.pilotWindow 2) (put [(ROOK_CH_CFG_PILOT 2, 1), (ROOK_CH_ZLIM_ZHI 2, 100), (ROOK_CH_ZLIM_ZLO 2, 10)]
    (setRc 2 { RookCh.reset with zOpen := 99, zShort := 99, zIn := 999 } (sRk 1))) with | .next _ => true | _ => false) = true := by decide +kernel
theorem test_excursionLate : after (.excursionGain 2 false) (put [(ROOK_CH_CFG_X_EN 2, 1), (GLB_TLSTAT_RUN, 1)] (sRk 1))
  (fun t => rd ROOK_CNT2_XLATE_COUNT t == 1 && (getRc 2 t).gx == 0x800000) = true := by decide +kernel
theorem test_excursionGain : (rookFeed (dataBlock 2 (sRk 1)) 2 (sRk 1) == none && !(getMod 2 (sRk 1)).dirty && (getRc 2 (sRk 1)).gx == 0x800000 &&
  match exec (.excursionGain 2 true) (put [(ROOK_CH_CFG_X_EN 2, 1), (GLB_TLSTAT_RUN, 1)] (sRk 1)) with | .next _ => true | _ => false) = true := by decide +kernel
/-- Input 0 is active low by POL: active after the third low sample, inactive after the tenth high one. -/
def sSf (on off act : Nat) : State := onRook (fun q => { q with sf := [(0, ⟨on, off⟩)] }) (put [(ROOK_SFCFG_POL, 0), (ROOK_SFIN_ACT, act)] (sRk 1))
theorem test_sfinSample : (after (.sfinSample 0) (sSf 2 0 0) (fun t => rd ROOK_SFIN_ACT t == 1 && rd ROOK_STAT_EMUTE t == 1) &&
  after (.sfinSample 0) (sSf 1 0 0) (fun t => rdB (bitOf ROOK_SFIN_ACT 0) t == false) &&
  after (.sfinSample 1) (sSf 0 9 1) (fun t => rdB (bitOf ROOK_SFIN_ACT 0) t == false && rdB (bitOf ROOK_SFIN_HOLD 0) t) &&
  after (.sfinSample 1) (sSf 0 8 1) (fun t => rdB (bitOf ROOK_SFIN_ACT 0) t)) = true := by decide +kernel
theorem test_sfinHoldEnd : after (.sfinHoldEnd 0) (put [(ROOK_SFIN_HOLD, 1), (ROOK_STAT_SYSMUTE, 1), (ROOK_STAT_EMUTE, 1)] (sRk 1))
  (fun t => rd ROOK_SFIN_HOLD t == 0 && rd ROOK_STAT_SYSMUTE t == 0 && rd ROOK_STAT_EMUTE t == 0) = true := by decide +kernel
theorem test_sfinStuck : after (.sfinStuck 3) (put [(ROOK_SFIN_ACT, 8)] (sRk 1)) (fun t => rd ROOK_SFIN_STUCK t == 8 && logged 28 0x5803 0 t) = true := by decide +kernel
/-- The watchdog watches CC1, whose word stood at 7 with so many stale reads. -/
def sWd (stale : Nat) : State := onRook (fun q => { q with words := [(1, 7)], stale := [(1, stale)] }) (put [(ROOK_WD_CWDEN, 2)] (sRk 1))
theorem test_ccWatchdogRead : (after (.ccWatchdogRead 1 8) (sWd 1) (fun t => rdB (bitOf ROOK_WD_CC_OK 1) t && mapGet (fun _ => 0) t.rook.stale 1 == 0) &&
  after (.ccWatchdogRead 1 7) (onRook (fun q => { q with stale := [] }) (sWd 0)) (fun t => mapGet (fun _ => 0) t.rook.stale 1 == 1 && !inReset 262 t) &&
  after (.ccWatchdogRead 1 7) (sWd 1) (fun t => inReset 262 t && logged 28 0x5911 0 t)) = true := by decide +kernel

/-! ### The pair -/

/-- A paired engine in a king state, able or not, in block 9, its link aligned or not. -/
def sKg (ks : Nat) (able : Bool) : State :=
  put [(DRN_CFG_EN, 1), (DRN_CFG_LLINE, 1), (DRN_CFG_NETHB, 1), (DRN_CFG_LEASE, 6), (DRN_CFG2_CLEAD, 24), (DRN_STAT_KSTATE, ks), (DRN_CFG_PRIO, 4),
    (ROOK_STAT_STATE, if able then 1 else 0), (GLB_TLSTAT_RUN, 1), (PWR_STAT_STATE, 2)] sR

/-- RENEW of device 7 with PRIO 5, KSEQ 9 and END 48; its CRC is worked out by hand. -/
def aRenew : BitVec 128 := 0x705090000308758

theorem test_leaseLineFrame : (leaseCrcOk aRenew && !leaseCrcOk (aRenew + 1) && idle (.leaseLineFrame (aRenew + 1)) (sKg 1 true) &&
  after (.leaseLineFrame aRenew) (sKg 1 true) (fun t => t.pair.heardNow == 2 && kstate t == 2 && rd DRN_KING_KSEQ t == 9 &&
    rd (DRN_PDEV_ID 0) t == 7 && t.pair.last == some ⟨leaseFields aRenew, 9, 48⟩)) = true := by decide +kernel
/-- A holder that hears the RENEW of another one of higher PRIO yields. -/
theorem test_split : after (.leaseLineFrame aRenew) (sKg 3 true) (fun t => t.pair.yieldNext && rd DRN_CNT2_SPLIT_COUNT t == 1) = true := by decide +kernel
theorem test_networkHeartbeat : (after (.networkHeartbeat aRenew 11 true) (sKg 1 true) (fun t => t.pair.heardNow == 4) &&
  idle (.networkHeartbeat aRenew 12 true) (sKg 1 true) && idle (.networkHeartbeat aRenew 9 false) (sKg 1 true)) = true := by decide +kernel

/-- The partner's last frame, of this type, with END. -/
def heardLast (typ : BitVec 2) (fin : Nat) (s : State) : State := onPair (fun p => { p with last := some ⟨⟨typ, false, 7, 3, 9, 0⟩, 3, fin⟩ }) s

/-- The engine took the king by this cause. -/
def tookKing (cause : Nat) (t : State) : Bool := kstate t == 3 && rd DRN_KING_CAUSE t == cause && rd DRN_KING_KSEQ t == 1 && rd DRN_KBSN_BSN t == 10
theorem test_kingTake : (after .kingTake (onPair (fun p => { p with since := 1 }) (sKg 1 true)) (tookKing 1) &&
  after .kingTake (heardLast 0 9 (sKg 2 true)) (tookKing 2) && idle .kingTake (heardLast 3 10 (sKg 2 true)) &&
  after .kingTake (heardLast 2 9 (sKg 2 true)) (tookKing 3) && ranksHigher ⟨1, false, 7, 3, 9, 0⟩ (sKg 2 true) &&
  after .kingTake (heardLast 1 0 (sKg 2 true)) (tookKing 1) && idle .kingTake (heardLast 0 9 (sKg 2 false))) = true := by decide +kernel

/-- A heartbeat of the partner that says HEALTHY. -/
def aBeat : Heartbeat := ⟨⟨0, false, 7, 5, 9, 48⟩, true, true, 0, 0, 0⟩
theorem test_drnCastle : (after .drnCastle (onPair (fun p => { p with beat := some aBeat }) (sKg 3 true))
    (fun t => kstate t == 4 && t.pair.kingSent == [(.propose, 33)] && t.pair.castling == some ⟨33, true, false, false, 4⟩) &&
  after .drnCastle (sKg 3 true) (fun t => kstate t == 3 && rd DRN_STAT_CASTERR t == 1 && logged 29 0x7020 0 t) &&
  after .drnCastle (sKg 2 true) (fun t => t.pair.kingSent == [(.request, 9)])) = true := by decide +kernel

/-- A home-acting standby that is HEALTHY since block `b`, with a hold-off of one second. -/
def sRv (b : Nat) : State := onPair (fun p => { p with healthySince := some b }) { put [(DRN_CFG_HOME, 1), (DRN_STAT_ALIGN, 1), (DRN_STAT_LOCKSTEP, 1), (DRN_STAT_SHARED, 1),
  (DRN_STAT_MATCH, 1), (DRN_CFG2_REVERT, 1)] (sKg 2 true) with tl := { TimelineSt.reset with k := 30000 } }
theorem test_revertExpiry : (revertRuns (sRv 0) && after .revertExpiry (sRv 6000) (fun t => t.pair.kingSent == [(.request, 30000)] && t.pair.wantRevert) &&
  after .revertExpiry (sRv 6001) (fun t => t.pair.kingSent.isEmpty)) = true := by decide +kernel
theorem test_propose : (healthyButMatch (sRv 0) && after (.recordKing true .propose 30008) (sRv 0)
  (fun t => kstate t == 5 && t.pair.kingSent == [(.accept, 30008)] && t.pair.castling == some ⟨30008, false, true, false, 4⟩)) = true := by decide +kernel

/-- A castling at block `b` on a paired engine in block 9 with its link aligned. -/
def sCs (ks b : Nat) (holder accepted committed : Bool) : State :=
  onPair (fun p => { p with castling := some ⟨b, holder, accepted, committed, 4⟩ }) (put [(DRN_STAT_ALIGN, 1)] (sKg ks true))
theorem test_castlingAcceptDeadline : (after .castlingAcceptDeadline (sCs 4 17 true false false) (fun t => kstate t == 3 &&
    t.pair.kingSent == [(.cancel, 17)] && rd DRN_CNT4_CANCEL_COUNT t == 1) && idle .castlingAcceptDeadline (sCs 4 18 true false false)) = true := by decide +kernel
theorem test_castlingBlock : (idle .castlingBlock (sCs 4 10 true true true) &&
  after .castlingBlock (sCs 4 9 true true true) (fun t => kstate t == 2 && t.pair.sentType == 2 && t.pair.sentEnd == 9 && rd DRN_CNT_CASTLE_COUNT t == 1) &&
  after .castlingBlock (sCs 5 9 false true true) (fun t => kstate t == 3 && rd DRN_KBSN_BSN t == 9 && rd DRN_KING_KSEQ t == 1) &&
  after .castlingBlock (sCs 5 9 false true false) (fun t => kstate t == 2 && t.pair.castling == none)) = true := by decide +kernel
theorem test_recordKing : (after (.recordKing true .accept 17) (sCs 4 17 true false false) (fun t => t.pair.kingSent == [(.commit, 17)] && t.pair.sentType == 3 && t.pair.sentEnd == 17) &&
  after (.recordKing true .commit 17) (sCs 5 17 false true false) (fun t => t.pair.castling == some ⟨17, false, true, true, 4⟩) &&
  after (.recordKing true .cancel 17) (sCs 5 17 false true false) (fun t => t.pair.castling == none)) = true := by decide +kernel

/-- Lane 2 is a Dranan lane with this framer. -/
def sFr (st seen misses : Nat) : State := setFramer 2 ⟨0, st, seen, 100, misses⟩ (put [(LN_CFG_MODE 2, 6)] (sKg 2 true))

/-- The markers of blocks 100 and 101 of logical lane 0; the CRCs are worked out by hand. -/
theorem test_drananMarker : (markerCrcOk 0x362c00000000642d && markerCrcOk 0x14fc00000000652d &&
  idle (.drananMarker 2 0x362c00000000642d true 0) (put [(LN_CFG_MODE 2, 5)] (sFr 0 0 0)) &&
  after (.drananMarker 2 0x362c00000000642d false 0) (sFr 0 0 0) (fun t => (getFramer 2 t).state == 1 && (getFramer 2 t).bsn == 100) &&
  after (.drananMarker 2 0x14fc00000000652d true 0) (sFr 1 1 0) (fun t => (getFramer 2 t).state == 1 && (getFramer 2 t).seen == 2) &&
  after (.drananMarker 2 0x14fc00000000652d true 0) (sFr 1 2 0) (fun t => (getFramer 2 t).state == 2) &&
  after (.drananMarker 2 0x362c00000000642d true 0) (sFr 1 2 0) (fun t => (getFramer 2 t).state == 0) &&
  after (.drananMarker 2 0x14fc00000000652d true 0) (sFr 2 3 1) (fun t => (getFramer 2 t).state == 2 && (getFramer 2 t).misses == 0) &&
  after (.drananMarker 2 0 true 0) (sFr 2 3 0) (fun t => (getFramer 2 t).state == 2 && (getFramer 2 t).misses == 1) &&
  after (.drananMarker 2 0 true 0) (sFr 2 3 1) (fun t => (getFramer 2 t).state == 0 && rd DRN_CNT2_ALOSS_COUNT t == 1)) = true := by decide +kernel

/-- A paired engine with its link aligned. -/
def sLk : State := put [(DRN_STAT_ALIGN, 1), (DRN_STAT_MATCH, 1)] (sKg 3 true)

theorem test_recordFails : ([Instr.recordHeartbeat false 9 aBeat, .recordTime false 0 0 0, .recordModfeed true false 9 [], .recordModfeed false true 9 [],
  .recordSlot true false 9 0 0 [], .recordKing false .commit 9].all fun i => after i sLk (fun t => rd DRN_CNT3_CRC_COUNT t == 1 && t.pair == sLk.pair)) = true := by decide +kernel
theorem test_recordHeartbeat : after (.recordHeartbeat true 9 { aBeat with mack := 1 }) (onPair (fun p => { p with mirrorOut := [(1, 9, .close 9 0), (2, 9, .close 9 0)] }) sLk)
  (fun t => t.pair.mirrorOut == [(2, 9, .close 9 0)] && rd DRN_STAT_PABLE t == 1 && t.pair.heardNow.getLsbD 0) = true := by decide +kernel
/-- There in 300 and back in 100: the delay is 200, the offset 100. -/
theorem test_recordTime : after (.recordTime true 5000 1300 5100) (onPair (fun p => { p with markerNs := 1000 }) sLk)
  (fun t => rd DRN_DELAY_DELAY t == 200 && rdI DRN_OFFSET_OFFSET t == 100) = true := by decide +kernel
theorem test_recordModfeed : (after (.recordModfeed true true 9 [1, 2]) (onPair (fun p => { p with ownFeeds := [(9, [1, 2])], equalRun := 23 }) sLk)
    (fun t => t.pair.equalRun == 24 && rd DRN_STAT_COHERENT t == 1) &&
  after (.recordModfeed true true 9 [1, 3]) (onPair (fun p => { p with ownFeeds := [(9, [1, 2])], equalRun := 23 }) (put [(DRN_STAT_COHERENT, 1)] sLk))
    (fun t => t.pair.equalRun == 0 && rd DRN_STAT_COHERENT t == 0 && rd DRN_CNT3_DIVERGE_COUNT t == 1)) = true := by decide +kernel
theorem test_recordSlot : after (.recordSlot true true 9 3 5 [1, 2, 3, 4]) sLk (fun t => mapGet (fun _ => []) t.pair.slots (slotKey 9 3 5) == [1, 2, 3, 4]) = true := by decide +kernel
theorem test_recordMirror : (after (.recordMirror true 1 [.kout 12 2 7]) sLk (fun t => t.pair.mirrorGot == 1 && t.pair.koutNext == [(12, 2, 7)]) &&
  after (.recordMirror true 2 [.kout 12 2 7]) sLk (fun t => t.pair.mirrorGot == 0 && t.pair.koutNext.isEmpty) &&
  after (.recordMirror true 1 [.close 9 0]) (onPair (fun p => { p with mirrored := [⟨.word 0x41020008, 5, 0⟩] }) sLk)
    (fun t => t.tl.pend == [⟨.word 0x41020008, 5, 10⟩] && rd DRN_CNT4_LATE_COUNT t == 1)) = true := by decide +kernel
theorem test_drnResync : (after .drnResync sLk (fun t => !t.pair.needResync && t.pair.mirrorOut.length == 2 && t.pair.mirrorNext == 2) &&
  after .drnResync (put [(DRN_STAT_ALIGN, 0)] sLk) (fun t => t.pair.needResync && t.pair.mirrorOut.isEmpty)) = true := by decide +kernel
/-- An entry stays unacknowledged for 24 blocks. -/
def sMr (k : BitVec 49) : State := onPair (fun p => { p with mirrorOut := [(0, 9, .close 9 0)], mirrorNext := 1 }) { sLk with tl := { TimelineSt.reset with k := k } }
theorem test_mirrorExpiry : (idle .mirrorExpiry (sMr 33) && after .mirrorExpiry (sMr 34) (fun t => t.pair.mirrorOut.length == 2 && t.pair.mirrorNext == 3) &&
  after .mirrorExpiry (put [(DRN_STAT_ALIGN, 0)] (sMr 34)) (fun t => t.pair.mirrorOut.isEmpty && t.pair.needResync)) = true := by decide +kernel

/-! ### The key store -/

/-- A command of the key store runs; the device key stands, DRAM has 64 MiB and randomness is there. -/
def sKs (j : Option KsJob) : State :=
  onKs (fun q => { q with job := j }) (put [(KS_STAT_PUF_OK, 1), (KS_STAT_TRNG_OK, 1), (DRC_MAP_TOP, 64), (KS_CMD_GO, if j.isSome then 1 else 0)] sR)

/-- The running command completes with this ERR, and the test holds. -/
def ksEnds (j : KsJob) (e : Nat) (q : State → Bool) : Bool :=
  after .ksCommandDone (sKs (some j)) fun t => rd KS_RESULT_ERR t == e && rd KS_RESULT_DONE t == 1 && rd KS_CMD_GO t == 0 && t.ks.job.isNone && q t

/-- A SAK of MAC 3 and AN 1, for slot 13. -/
def aSak : SakRecord := ⟨3, 1, 1, 0, 0, 0, 0xABC⟩

/-- The commands with their OP and job. -/
def ksRows : List (Instr × Nat × KsJob) :=
  [(.ksUnwrap 50 true true 7, 1, .unwrap 50 true true 7), (.ksDecrypt 50 true 0x1000000000 [1, 2], 2, .decrypt 50 true 0x1000000000 [1, 2]),
    (.ksBuildGolden 50 true 0 [], 3, .golden 50 true 0 []), (.ksSession 3 9, 4, .session 3 9), (.ksSakInstall 13 aSak 5, 5, .sak 13 aSak 5),
    (.ksSlotClear 50, 6, .clear 50), (.ksEpochAdvance [], 8, .epoch []), (.ksProvision true 1 2, 9, .provision true 1 2), (.ksRandom, 0xA, .random),
    (.ksKillJtag true, 0xB, .killJtag true)]

theorem test_ksGo : (ksRows.all fun e => after e.1 (sKs none) fun t => t.ks.job == some e.2.2 && rd KS_CMD_OP t == e.2.1 && rd KS_CMD_GO t == 1) = true := by decide +kernel
theorem test_ksBusy : ((.ksBadOp 0 :: ksRows.map (·.1)).all fun i => after i (sKs (some .random)) fun t => rd KS_RESULT_ERR t == 1) = true := by decide +kernel
theorem test_ksBadOp : (after (.ksBadOp 0) (sKs none) (fun t => rd KS_RESULT_ERR t == 6) && after (.ksBadOp 0xC) (sKs none) (fun t => rd KS_RESULT_ERR t == 6) &&
  idle .ksCommandDone (sKs none)) = true := by decide +kernel
theorem test_ksUnwrap : (ksEnds (.unwrap 47 true true 7) 6 (fun t => t.ks.keys.isEmpty) && ksEnds (.unwrap 48 false true 7) 4 (fun t => rd KS_CNT_UNWRAP_FAIL_COUNT t == 1) &&
  ksEnds (.unwrap 48 true false 7) 3 (fun t => rd KS_CNT_UNWRAP_FAIL_COUNT t == 1) &&
  ksEnds (.unwrap 63 true true 7) 0 (fun t => slotValid 63 t && t.ks.keys == [(63, 7)])) = true := by decide +kernel

/-- Slot 50 holds a key. -/
def s50 (j : KsJob) : State := put [(bitOf (KS_SLOTS_VALID 1) 18, 1)] (sKs (some j))
/-- The running command ends so with a key in slot 50. -/
def ksEnds50 (j : KsJob) (e : Nat) (q : State → Bool) : Bool := after .ksCommandDone (s50 j) fun t => rd KS_RESULT_ERR t == e && q t
theorem test_ksDecrypt : (slotValid 50 (s50 .random) && ksEnds (.decrypt 50 true 0x1000000000 [1]) 2 (fun t => t.mem.dram.isEmpty) &&
  ksEnds50 (.decrypt 50 false 0x1000000000 [1]) 3 (fun t => t.mem.dram.isEmpty) &&
  ksEnds50 (.decrypt 50 true 0x1003FFFFFE [8, 9]) 0 (fun t => rdDram 0x3FFFFFE t == 8 && rdDram 0x3FFFFFF t == 9) &&
  ksEnds50 (.decrypt 50 true 0x1003FFFFFF [8, 9]) 6 (fun t => t.mem.dram.isEmpty)) = true := by decide +kernel
theorem test_ksBuildGolden : (ksEnds50 (.golden 50 false 0x1000001000 (List.replicate 1024 5)) 3 (fun t => t.ks.golden.isEmpty) &&
  ksEnds50 (.golden 50 true 0x1000001000 (List.replicate 1024 5)) 0 (fun t => t.ks.gck && (t.ks.golden.map (·.1)) == [0x1000001]) &&
  after .ksCommandDone (put [(KS_STAT_TRNG_OK, 0)] (s50 (.golden 50 true 0x1000001000 (List.replicate 1024 5)))) (fun t => rd KS_RESULT_ERR t == 5)) = true := by decide +kernel
theorem test_ksSession : (ksEnds (.session 3 9) 0 (fun _ => true) && after .ksCommandDone (put [(KS_STAT_TRNG_OK, 0)] (sKs (some (.session 3 9)))) (fun t => rd KS_RESULT_ERR t == 5) &&
  after .ksCommandDone (put [(KS_STAT_PUF_OK, 0)] (sKs (some (.session 3 9)))) (fun t => rd KS_RESULT_ERR t == 2)) = true := by decide +kernel
theorem test_ksSakInstall : (ksEnds (.sak 12 aSak 5) 6 (fun t => t.ks.keys.isEmpty) &&
  ksEnds (.sak 13 aSak 5) 0 (fun t => slotValid 13 t && (getSec 3 t).tx == some 1 && rd (MS_TXPN_LO_PN 3) t == 1) &&
  after .ksCommandDone (setSec 3 ⟨some 1, none, none, 10⟩ (sKs (some (.sak 13 aSak 5)))) (fun t => rd KS_RESULT_ERR t == 2) &&
  after .ksCommandDone (setSec 3 ⟨some 2, none, none, 7⟩ (sKs (some (.sak 13 aSak 5))))
    (fun t => getSec 3 t == ⟨some 2, some (1, 5), none, 10⟩)) = true := by decide +kernel
theorem test_ksSlotClear : after .ksCommandDone (onKs (fun q => { q with keys := [(50, 7)] }) (s50 (.clear 50))) (fun t => !slotValid 50 t && t.ks.keys.isEmpty) = true := by decide +kernel

/-- The image has EPOCH 2, forced, and has run for a minute. -/
def sEp (j : KsJob) : State :=
  { sKs (some j) with tl := { TimelineSt.reset with k := 1440009 }, image := { ImageSt.reset with owner := true, epoch := 2, force := true, started := some 9 } }
theorem test_ksEpochAdvance : (epochDue (sEp .random) && ksEnds (.epoch [true]) 2 (fun t => t.ks.epochBits == 0) &&
  after .ksCommandDone (sEp (.epoch [false])) (fun t => rd KS_STAT_FUSE_ERR t == 1 && t.ks.epochBits == 0) &&
  after .ksCommandDone (sEp (.epoch (List.replicate 64 true))) (fun t => rd KS_STAT_EPOCH t == 2 && t.ks.epochBits == 3)) = true := by decide +kernel
theorem test_ksProvision : (ksEnds (.provision false 1 2) 2 (fun t => !t.ks.owned) &&
  ksEnds (.provision true 0x100000002 3) 0 (fun t => t.ks.owned && rd KS_STAT_LIFE t == 1 && rd (KS_OWNER_HASH_HASH 11) t == 2 && rd (KS_OWNER_HASH_HASH 10) t == 1) &&
  after .ksCommandDone (onKs (fun q => { q with owned := true }) (sKs (some (.provision true 1 2)))) (fun t => rd KS_RESULT_ERR t == 2)) = true := by decide +kernel
theorem test_ksRandom : (after .ksCommandDone (put [(KS_STAT_TRNG_OK, 0)] (sKs (some .random))) (fun t => rd KS_RESULT_ERR t == 5) &&
  after .ksCommandDone (put [(KS_ARG1_ADDR_HI, 0x10), (KS_ARG2_LEN, 0)] (sKs (some .random))) (fun t => rd KS_RESULT_ERR t == 0)) = true := by decide +kernel
theorem test_ksKillJtag : (ksEnds (.killJtag true) 0 (fun t => rd KS_STAT_JKILL t == 1) && ksEnds (.killJtag false) 2 (fun t => rd KS_STAT_JKILL t == 0)) = true := by decide +kernel

theorem test_ksZeroise : (after .ksZeroise (onKs (fun q => { q with keys := [(50, 7)] }) (put [(bitOf (KS_SLOTS_VALID 1) 18, 1), (MOD_CFG_EN 2, 1)] (sKs none)))
    (fun t => t.ks.keys.isEmpty && !slotValid 50 t && rd KS_STAT_ZBUSY t == 1 && rd (POD_CTL_RUN 0) t == 0 && t.ks.job == some .zeroise && safeMuted 2 t) &&
  after .ksZeroise (sKs (some .random)) (fun t => rd KS_RESULT_ERR t == 1)) = true := by decide +kernel
theorem test_zeroisationDone : (idle .zeroisationDone (sKs none) &&
  after .zeroisationDone (onKs (fun q => { q with zeroing := [0, 143], opening := 3 }) (put [(KS_STAT_ZBUSY, 1), (KS_SEAL_CTL_LOCK 143, 1), (TASK_CFG_EN 0 0 3, 1)] sR))
    (fun t => rd KS_STAT_ZBUSY t == 0 && rd KS_EVT_ZDONE t == 1 && rd (KS_SEAL_CTL_LOCK 143) t == 0 && !taskOn 0 0 3 t && rd KS_STAT_JTAG t == 3 &&
      rd KS_STAT_LIFE t == 2)) = true := by decide +kernel
theorem test_sealLock : after (.sealLock 10) (put [(KS_SEAL_X_LEN 10, 4)] sR) (fun t => rd (KS_SEAL_CTL_LOCK 10) t == 1 && rd KS_SEALPODS_PODS t == 2) = true := by decide +kernel
theorem test_trngHealthFail : after .trngHealthFail (sKs none) (fun t => rd KS_STAT_TRNG_OK t == 0) = true := by decide +kernel
theorem test_jtagIdcode : after .jtagIdcode sR (fun t => t.ks.jtagReg == 0) = true := by decide +kernel
theorem test_jtagBypass : after .jtagBypass sR (fun t => t.ks.jtagReg == 1 && t.ks.jtagOut == 0) = true := by decide +kernel
theorem test_unlockChal : (after .unlockChal (sKs none) (fun t => t.ks.jtagReg == 2 && t.ks.nonce.isSome && t.ks.chal.isSome) &&
  after .unlockChal (onKs (fun q => { q with fails := 3 }) (sKs none)) (fun t => t.ks.nonce.isNone && t.ks.chal.isNone)) = true := by decide +kernel

/-- A challenge stands, and the image is the owner's. -/
def sCh2 : State := { onKs (fun q => { q with nonce := some 5 }) (sKs none) with image := { ImageSt.reset with owner := true } }
theorem test_unlockResp : (after (.unlockResp ⟨5, 0, 1, 0, 0, true⟩) sCh2 (fun t => t.ks.opening == 1 && t.ks.nonce.isNone && rd ROOK_STAT_RELAY t == 0 && t.rook.hold &&
    rd KS_STAT_ZBUSY t == 1) &&
  after (.unlockResp ⟨5, 0, 3, 64, 0, true⟩) sCh2 (fun t => t.ks.opening == 3 && rd KS_STAT_PUF_OK t == 0)) = true := by decide +kernel
theorem test_unlockFails : ([⟨6, 0, 1, 0, 0, true⟩, ⟨5, 1, 1, 0, 0, true⟩, ⟨5, 0, 1, 0, 1, true⟩, ⟨5, 0, 1, 0, 0, false⟩, ⟨5, 0, 1, 65, 0, true⟩, ⟨5, 0, 0, 0, 0, true⟩,
    ⟨5, 0, 4, 0, 0, true⟩].all fun r : UnlockResponse => after (.unlockResp r) sCh2 fun t => t.ks.fails == 1 && t.ks.opening == 0 &&
  t.ks.quietUntil == 1000000000 && rd KS_CNT_JTAG_FAIL_COUNT t == 1) = true := by decide +kernel
theorem test_sakRetire : (after (.sakRetire 3) (setSec 3 ⟨some 2, none, some 1, 10⟩ (put [(bitOf (KS_SLOTS_VALID 0) 13, 1)] sR))
    (fun t => !slotValid 13 t && getSec 3 t == ⟨some 2, none, none, 10⟩) && idle (.sakRetire 3) sR) = true := by decide +kernel

/-! ### Time and clocks -/

/-- The timebase is set, at 0, with audio running or not; domain 0 is enabled and port 2 serves it, a slave. -/
def sTm (run : Nat) (dst : Nat) : State :=
  put [(GLB_TLSTAT_VALID, 1), (GLB_TLSTAT_RUN, run), (TB_DCFG_EN 0, 1), (TB_DCFG_LOCKTH 0, 10), (PTP_PCFG_EN 2, 1), (PTP_PCFG_DOM 2, 1), (PTP_PSTAT_STATE0 2, 8),
    (TB_DSTAT_STATE 0, dst)] State.reset

theorem test_tbSetGo : (after .tbSetGo (put [(TB_SET_LO_NS, 125000)] State.reset) (fun t => t.ns == 125000 && t.tl.k == 3 && tlValid t && rd TB_STAT_STATE t == 1) &&
  after .tbSetGo (sTm 1 1) (fun t => rd TB_STAT_CFGERR t == 1 && t.ns == 0)) = true := by decide +kernel
theorem test_freestartTimeout : (after .freestartTimeout (put [(TB_CTL_FREESTART, 1), (PTP_PCFG_EN 2, 1)] { State.reset with ns := 7 }) (fun t => tlValid t && t.ns == 0) &&
  idle .freestartTimeout (sTm 0 1)) = true := by decide +kernel
theorem test_tbNsLoRead : after (.tbNsLoRead 41666 5) (sTm 0 1) (fun t => rd TB_NS_LO_NS t == 41666 && rd TB_FRAC_FRAC t == 5 && t.ns == 41666) = true := by decide +kernel
/-- The same with domain 1 selected and locked. -/
def sOth (dst : Nat) : State := put [(TB_STAT_SEL, 1), (TB_CTL_PREF, 1), (TB_DSTAT_STATE 1, 3)] (sTm 0 dst)
/-- Sixteen residuals within LOCKTH lock a domain; the fourth of over 1,000 ns unlocks it. -/
theorem test_ptpSync : (after (.ptpSync 2 0 0 100 3 0 9) (setDom 0 ⟨0, 15, 0, false⟩ (sOth 2)) (fun t => domLocked 0 t && rd (TB_DGM_GM 0 0) t == 9) &&
  after (.ptpSync 2 0 0 101 3 0 9) (setDom 0 ⟨0, 15, 0, false⟩ (sOth 2)) (fun t => rd (TB_DSTAT_STATE 0) t == 2) &&
  after (.ptpSync 2 0 0 1001 3 0 9) (setDom 0 ⟨0, 0, 3, true⟩ (sOth 3)) (fun t => rd (TB_DSTAT_STATE 0) t == 2 && logged 4 0x8010 0 t)) = true := by decide +kernel
/-- While audio runs an offset of 1,001 ns is slewed, and beyond 100 ms FAR shows; else one over STEPTH is stepped. -/
theorem test_ptpSteer : (after (.ptpSync 2 0 1001 0 0 0 9) (sTm 1 3) (fun t => rd TB_STAT_STATE t == 3 && rd TB_STAT_FAR t == 0 && rdI TB_RATE_Y t == 10000 && t.ns == 0) &&
  after (.ptpSync 2 0 100000001 0 0 0 9) (sTm 1 3) (fun t => rd TB_STAT_FAR t == 1) &&
  after (.ptpSync 2 0 5001 0 0 0 9) (put [(TB_STEPTH_STEPTH, 5000)] (sTm 0 3)) (fun t => t.ns == 5001 && rd TB_CNT_STEP_COUNT t == 1 && logged 4 0x8040 0 t)) = true := by decide +kernel
theorem test_announceTimeout : (after (.announceTimeout 0) (sTm 0 3) (fun t => portState 2 0 t != 8 && rd (TB_DSTAT_STATE 0) t == 4 && logged 4 0x8010 0 t) &&
  after (.announceTimeout 0) (sTm 0 2) (fun t => rd (TB_DSTAT_STATE 0) t == 1)) = true := by decide +kernel
theorem test_domainWtrExpiry : after .domainWtrExpiry (put [(TB_CTL_REVERT, 1), (TB_CTL_PREF, 1), (TB_DSTAT_STATE 1, 3)] (sTm 0 3))
  (fun t => rd TB_STAT_SEL t == 1 && rd TB_CNT_SWITCH_COUNT t == 1) = true := by decide +kernel
/-- Port 2 is a grandmaster on PPS reference 1. -/
def sPps (st : Nat) (good bad : Nat) : State := onClock (fun q => { q with ppsGood := good, ppsBad := bad, ppsOnce := true })
  (put [(PTP_PSTAT_STATE0 2, 5), (TB_CTL_GMPPS, 1), (TB_CTL_PPSSRC, 1), (TB_STAT_STATE, st)] (sTm 1 1))
theorem test_ppsEdge : (portState 2 0 (sPps 1 15 0) == 5 && after (.ppsEdge 1 1001) (sPps 5 0 3) (fun t => rd TB_STAT_STATE t == 4 && t.time.clockClass == 7)) = true := by decide +kernel
theorem test_ptpEventMessage : (after (.ptpEventMessage 2 0 false 400 0 true 0) (sTm 0 1) (fun t => t.time.stamps.isEmpty && rd (PTP_PCNT_BADMSG_COUNT 2) t == 1) &&
  after (.ptpEventMessage 2 0 false 400 32 false 0) (sTm 0 1) (fun t => t.time.stamps.isEmpty && rd (PTP_PCNT_TSERR_COUNT 2) t == 1) &&
  after (.ptpEventMessage 2 0 false 400 31 false 6) (put [(PTP_PCFG_MAC 2, 12), (MG_STAT_SPEEDNOW, 2)] (sTm 0 1))
    (fun t => t.time.stamps == [(4, [(52, 0)])] && portState 2 0 t == 6)) = true := by decide +kernel

/-- Capture unit 3 counts every second rising edge, with stamps waiting. -/
def sCap (l : List (BitVec 64 × BitVec 8)) (edges : Nat) : State := setCap 3 ⟨l, edges, false⟩ (put [(CAP_CFG_EN 3, 1), (CAP_CFG_DIV 3, 1)] (sTm 0 1))
theorem test_captureEdge : (after (.captureEdge 3 true 7 0xFF) (sCap [] 0) (fun t => getCap 3 t == ⟨[], 1, false⟩) &&
  after (.captureEdge 3 true 7 0xFF) (sCap [] 1) (fun t => getCap 3 t == ⟨[(7, 0xC0)], 0, false⟩ && rd (CAP_STAT_LEVEL 3) t == 1 && rd (CAP_NS_LO_NS 3) t == 7) &&
  after (.captureEdge 3 true 7 0xFF) (sCap [(1, 0), (2, 0), (3, 0), (4, 0)] 1) (fun t => (getCap 3 t).stamps.length == 4 && rd (CAP_CNT_OVF_COUNT 3) t == 1 && logged 4 0x8203 0 t) &&
  idle (.captureEdge 3 false 7 0xFF) (sCap [] 1)) = true := by decide +kernel
theorem test_capPop : after (.capPop 3) (sCap [(1, 0), (2, 0)] 0) (fun t => (getCap 3 t).stamps == [(2, 0)] && rd (CAP_STAT_LEVEL 3) t == 1) = true := by decide +kernel

/-- Trigger 4 is periodic by 1,000 ns or not, armed or not, its target 50; the timebase stands at `ns`. -/
def sTg (per en : Nat) (ns : BitVec 64) : State :=
  { put [(TRG_CFG_PERIODIC 4, per), (TRG_PER_NS_NS 4, 1000 * per), (TRG_CFG_EN 4, en), (TRG_TGT_LO_NS 4, 50), (TRG_CFG_ACT 4, 1)] (sTm 0 1) with ns := ns }
theorem test_triggerArm : (after (.triggerArm 4) (sTg 0 0 50) (fun t => rd (TRG_CFG_EN 4) t == 1 && !(getTrg 4 t).fired) &&
  after (.triggerArm 4) (sTg 0 0 51) (fun t => rd (TRG_STAT_LATE 4) t == 1 && (getTrg 4 t).fired && logged 4 0x8304 0 t) &&
  after (.triggerArm 4) (sTg 1 0 1051) (fun t => Nat.blt 1051 (trgTarget 4 t)) && idle (.triggerArm 4) (sTg 0 1 0)) = true := by decide +kernel
theorem test_triggerFire : (after (.triggerFire 4 50) (sTg 0 1 0) (fun t => t.time.irqs == [4] && (getTrg 4 t).fired) &&
  after (.triggerFire 4 50) (sTg 1 1 0) (fun t => t.time.irqs == [4] && !(getTrg 4 t).fired && trgTarget 4 t == 1050) &&
  after (.triggerFire 4 49) (sTg 1 1 0) (fun t => t.time.irqs.isEmpty)) = true := by decide +kernel
/-- CKOUT2, an output in trigger mode, runs by a trigger. -/
theorem test_triggerOutput : after (.triggerFire 4 50) (put [(TRG_CFG_ACT 4, 2), (TRG_CFG_OUT 4, 2), (CKO_CFG_MODE 2, 1)] (sTg 0 1 0)) (fun t => rd (CKO_STAT_RUN 2) t == 1) = true := by decide +kernel

/-! ### The DPLL -/

/-- The DPLL in a state, with candidates qualified; reference 1 has a frequency of 10 MHz. -/
def sDp (st qual : Nat) : State := put [(DPLL_STAT_STATE, st), (DPLL_STAT_QUAL, qual), (REF_CFG_FREQ 1, 10000), (DPLL_PRIO_PRI 1, 2), (DPLL_PRIO_PRI 0, 5), (DPLL_CTL_BW, 2), (DPLL_STAT_SEL, 1)] sR

theorem test_refQualify : (mayQualify 1 (sDp 0 0) && after (.refQualify 1 0 true 0) (sDp 0 0) (fun t => rd DPLL_STAT_QUAL t == 2 && rd (REF_STAT_QUAL 1) t == 1 && rd DPLL_STAT_STATE t == 1) &&
  !mayQualify 0 (sDp 0 0) && after (.refQualify 0 0 true 0) (sDp 0 0) (fun t => rd DPLL_STAT_QUAL t == 0) &&
  mayQualify 1 (sDp 2 1) && after (.refQualify 1 0 true 0) (sDp 2 1) (fun t => rd DPLL_STAT_STATE t == 2)) = true := by decide +kernel
theorem test_refDisqualify : (after (.refDisqualify 1 true 0 true 0) (put [(DPLL_STAT_HIST, 1)] (sDp 2 2)) (fun t => rd DPLL_STAT_STATE t == 3 && rd (REF_STAT_MISS 1) t == 1 &&
    rd DPLL_CNT_HOLD_COUNT t == 1 && logged 5 0x8110 0 t) &&
  after (.refDisqualify 1 true 0 true 0) (sDp 2 2) (fun t => rd DPLL_STAT_STATE t == 4 && logged 5 0x8111 0 t) && idle (.refDisqualify 1 true 0 true 0) (sDp 2 1)) = true := by decide +kernel
theorem test_refSwitch : after (.refDisqualify 1 true 0 true 1001) (onClock (fun q => { q with selected := true }) (sDp 2 3)) (fun t => rd DPLL_STAT_STATE t == 2 &&
  rd DPLL_STAT_SEL t == 0 && rd DPLL_CNT_SWITCH_COUNT t == 1 && rd MXC_STEP_LAST t == 1001 && logged 5 0x8100 0 t) = true := by decide +kernel
theorem test_dpllLock : (after .dpllLock (sDp 1 2) (fun t => rd DPLL_STAT_STATE t == 2) && idle .dpllLock (put [(DPLL_STAT_OPEN, 1)] (sDp 1 2))) = true := by decide +kernel
theorem test_dpllUnlock : after .dpllUnlock (sDp 2 2) (fun t => rd DPLL_STAT_STATE t == 1) = true := by decide +kernel
theorem test_historyValid : after .historyValid (sDp 2 2) (fun t => rd DPLL_STAT_HIST t == 1 && Nat.ble 60 (rd DPLL_LOCKT_LOCKT t)) = true := by decide +kernel
theorem test_dpllRevert : after (.dpllRevert true 0) (put [(DPLL_CTL_REVERT, 1), (DPLL_STAT_SEL, 0)] (sDp 2 3)) (fun t => rd DPLL_STAT_SEL t == 1 && rd DPLL_STAT_STATE t == 2) = true := by decide +kernel
theorem test_dpllOpen : (after (.dpllOpen true 0) (sDp 2 2) (fun t => rd DPLL_STAT_OPEN t == 1 && rd DPLL_STAT_STATE t == 2) &&
  after (.dpllOpen false 0) (put [(DPLL_STAT_OPEN, 1)] (sDp 3 2)) (fun t => rd DPLL_STAT_OPEN t == 0 && rd DPLL_STAT_STATE t == 1 && rd DPLL_CNT_SWITCH_COUNT t == 1)) = true := by decide +kernel
theorem test_dpllFreqWrite : (after (.dpllFreqWrite 5) (sDp 2 2) (fun t => rd DPLL_STAT_CFGERR t == 1) &&
  after (.dpllFreqWrite 549755814) (put [(DPLL_STAT_OPEN, 1)] (sDp 2 2)) (fun t => rdI DPLL_FREQ_FREQ t == 549755813 && rd DPLL_STAT_FCLAMP t == 1)) = true := by decide +kernel
theorem test_ckoutModeWrite : (after (.ckoutModeWrite 2 1) sR (fun t => rd (CKO_CFG_MODE 2) t == 1 && rd (CKO_STAT_RUN 2) t == 1) &&
  after (.ckoutModeWrite 2 1) (put [(SG_CTL_RUN, 1)] sR) (fun t => rd DPLL_STAT_CFGERR t == 1 && rd (CKO_CFG_MODE 2) t == 0)) = true := by decide +kernel
theorem test_ckoAlignGo : after (.ckoAlignGo 2) sR (fun t => rd (CKO_ALIGN_GO 2) t == 1) = true := by decide +kernel
theorem test_ckoAlignEdge : after (.ckoAlignEdge 2 0xFFFF) (put [(CKO_STAT_RUN 2, 1), (CKO_ALIGN_MODE 2, 2)] sR) (fun t => rd (CKO_STAT_AERR 2) t == 0xFFFF && rd (CKO_STAT_ALIGNED 2) t == 1) = true := by decide +kernel

/-! ### Serial lanes -/

/-- Lane 2 in a mode and a state, with MAC 3. -/
def sLn (mode st : Nat) : State := put [(LN_CFG_MODE 2, mode), (LN_STAT_STATE 2, st), (LN_CFG_MAC 2, 3)] sR

/-- The same with its equaliser held. -/
def sFq (mode st : Nat) : State := put [(LN_RXEQ_FREEZE 2, 1)] (sLn mode st)

/-- Lane 2's state after a command. -/
def lnIs (i : Instr) (s : State) (st : Nat) : Bool := after i s fun t => lnState 2 t == st

/-- Lane 2 with what it has besides its registers. -/
def lnWith (f : LaneSt → LaneSt) (s : State) : State := setLane 2 (f (getLane 2 s)) s

theorem test_laneSignal : (lnIs (.laneSignalSet 2) (sFq 2 1) 4 && lnIs (.laneSignalSet 2) (put [(LN_CFG_AN 2, 0)] (sLn 4 1)) 3 && lnIs (.laneSignalSet 2) (put [(LN_CFG_AN 2, 1)] (sLn 5 1)) 2 &&
  lnIs (.laneSignalLoss 2) (put [(LN_STAT_BLOCK 2, 1), (ETH_STAT_LINK 3, 1)] (sLn 2 6)) 1 && idle (.laneSignalSet 2) (sLn 6 1) && idle (.laneSignalLoss 2) (sLn 6 1)) = true := by decide +kernel
theorem test_krAutoneg : (lnIs (.krAutoneg 2 true) (sLn 4 2) 3 && idle (.krAutoneg 2 false) (sLn 4 2) && lnIs (.krAutoneg 2 true) (sFq 4 3) 4 &&
  after (.krAutoneg 2 false) (put [(LN_CFG_AN 2, 1)] (sLn 4 3)) (fun t => lnState 2 t == 2 && rd (LN_CNT2_TRAINFAIL_COUNT 2) t == 1)) = true := by decide +kernel
theorem test_detectProbe : (lnDranan 2 (sLn 6 1) && lnIs (.detectProbe 2 true) (lnWith (fun x => { x with probes := 3 }) (sLn 6 1)) 3 &&
  after (.detectProbe 2 true) (sLn 6 1) (fun t => lnState 2 t == 1 && (getLane 2 t).probes == 1) &&
  after (.detectProbe 2 false) (lnWith (fun x => { x with probes := 3 }) (sLn 6 1)) (fun t => (getLane 2 t).probes == 0)) = true := by decide +kernel
theorem test_detectTimeout : (after (.detectTimeout 2) (sLn 6 1) (fun t => logged 32 0x9002 0 t) &&
  after (.detectTimeout 2) (lnWith (fun x => { x with logged := true }) (sLn 6 1)) (fun t => !logged 32 0x9002 0 t)) = true := by decide +kernel
/-- Control words with their CRCs worked out by hand: PRESET, INIT, and RX_READY in the sixteenth frame. -/
theorem test_trainingFrame : (controlCrcOk 0x70000010 && controlCrcOk 0xE0000020 && controlCrcOk 0x54000400 && !controlCrcOk 0x10 &&
  after (.trainingFrame 2 0x10 false) (lnWith (fun x => { x with run := 5 }) (sLn 6 3)) (fun t => lnState 2 t == 3 && (getLane 2 t).run == 0) &&
  after (.trainingFrame 2 0x70000010 false) (put [(LN_TXEQ_PRE 2, 3), (LN_TXEQ_POST 2, 3)] (sLn 6 3)) (fun t => rd (LN_TXEQ_PRE 2) t == 0 && rd (LN_TXEQ_POST 2) t == 0) &&
  after (.trainingFrame 2 0xE0000020 false) (sLn 6 3) (fun t => rd (LN_TXEQ_PRE 2) t == 2 && rd (LN_TXEQ_POST 2) t == 6 && rd (LN_TXEQ_MAIN 2) t == 56) &&
  lnIs (.trainingFrame 2 0x54000400 false) (lnWith (fun x => { x with ready := true, run := 15 }) (sLn 6 3)) 4) = true := by decide +kernel
theorem test_trainTimeout : (after (.trainTimeout 2) (sLn 6 3) (fun t => lnState 2 t == 1 && (getLane 2 t).fails == 1) &&
  after (.trainTimeout 2) (lnWith (fun x => { x with fails := 2, term := true }) (put [(LN_CFG_AUTOSUB 2, 1)] (sLn 6 3)))
    (fun t => lnState 2 t == 8 && rd LN_FAILED_FAILED t == 4 && logged 32 0x9012 0 t)) = true := by decide +kernel
theorem test_blockLockAcquired : (after (.blockLockAcquired 2) (sLn 2 4) (fun t => lnState 2 t == 6 && rd (LN_STAT_BLOCK 2) t == 1 && rd (ETH_STAT_LINK 3) t == 1) &&
  lnIs (.blockLockAcquired 2) (sLn 6 4) 5 && after (.blockLockAcquired 2) (sLn 6 6) (fun t => lnState 2 t == 6 && rd (LN_STAT_BLOCK 2) t == 1)) = true := by decide +kernel
theorem test_lockTimeout : (lnIs (.lockTimeout 2) (sFq 2 4) 4 && lnIs (.lockTimeout 2) (put [(LN_CFG_AN 2, 1)] (sLn 5 4)) 2 && lnIs (.lockTimeout 2) (sLn 6 4) 3) = true := by decide +kernel
theorem test_capabilitySend : after (.capabilitySend 2) (sLn 6 5) (fun t => (getLane 2 t).capOut.length == 9 && capField (getLane 2 t).capOut 56 8 == 1 &&
  capField (getLane 2 t).capOut 12 4 == 4 && capField (getLane 2 t).capOut 6 4 == 2) = true := by decide +kernel
theorem test_exchangeTimeout : after (.exchangeTimeout 2) (put [(LN_STAT_BLOCK 2, 1), (LN_ESCAN_GO 2, 1)] (sLn 6 5))
  (fun t => lnState 2 t == 4 && rd (LN_STAT_BLOCK 2) t == 0 && rd (LN_ESCAN_DONE 2) t == 1 && rd (LN_ESCERR_ERRS 2) t == 0xFFFFFFFF) = true := by decide +kernel

/-- A capability word of device 7 with its CRC, worked out by hand. -/
def aCap (w0 crcWord : BitVec 64) : List (BitVec 64) := [w0, 7, 0, 0, 0, 0, 0, 0, crcWord]
/-- The spare of role 1 on lane 2; what it has seen of the same word. -/
def sSp (seen : List (BitVec 64)) : State := lnWith (fun x => { x with cap := seen }) (put [(LN_SPCFG_FOR 2, 1), (LN_CFG_MODE 0, 6)] (sLn 7 5))
theorem test_capabilityWord : (capAccepted 2 ((aCap 0x1000000000040a1 0x508844eb00000000).take 8) (sSp []) && capPairs ((aCap 0x1000000000040a1 0).take 8) (sSp []) &&
  (aCap 0 0x508844eb00000000)[8]? == some (BitVec.ofNat 64 (crc32Words ((aCap 0x1000000000040a1 0).take 8) * 2 ^ 32)) &&
  after (.capabilityWord 2 (aCap 0x1000000000040a1 0x508844eb00000000)) (sSp []) (fun t => lnState 2 t == 5 && (getLane 2 t).got) &&
  lnIs (.capabilityWord 2 (aCap 0x1000000000040a1 0x508844eb00000000)) (sSp ((aCap 0x1000000000040a1 0).take 8)) 7) = true := by decide +kernel
/-- Another lane's word is logged as 0x9042, and one of another pair as 0x7010. -/
theorem test_capabilityRefused : (after (.capabilityWord 2 (aCap 0x1000000000040e1 0x44a49e5c00000000)) (sSp []) (logged 32 0x9042 0) &&
  after (.capabilityWord 2 (aCap 0x1000000001400a1 0xe693a49b00000000)) (sSp []) (fun t => lnState 2 t == 5) &&
  after (.capabilityWord 2 (aCap 0x1000000000140a1 0xe693a49b00000000)) (put [(DRN_PAIRID_PAIRID, 0)] (sSp [])) (logged 29 0x7010 0)) = true := by decide +kernel
/-- Logical lane 2 of the four is lane 2; the others are not in service yet. -/
theorem test_capabilityActive : (let s := lnWith (fun x => { x with cap := (aCap 0x1000000000048a0 0).take 8 }) (put [(LN_DRMAP_LL2, 2), (LN_DRMAP_LL0, 9)] (sLn 6 5))
  drLane 2 s == 2 && drLane 0 s == 9 && lnState 9 s != 6 && lnIs (.capabilityWord 2 (aCap 0x1000000000048a0 0x37b5355d00000000)) s 6) = true := by decide +kernel
theorem test_relockTimeout : lnIs (.relockTimeout 2) (sLn 6 6) 3 = true := by decide +kernel
/-- The third loss within a second declares the lane failed. -/
theorem test_blockLockLoss : (after (.blockLockLoss 2 1000000000) (lnWith (fun x => { x with losses := [0, 1] }) (put [(LN_STAT_BLOCK 2, 1)] (sLn 6 6)))
    (fun t => lnState 2 t == 6 && rd (LN_STAT_BLOCK 2) t == 0 && rd (LN_CNT_LOCKLOSS_COUNT 2) t == 1 && (getLane 2 t).lossAt == some 9) &&
  after (.blockLockLoss 2 1000000000) (lnWith (fun x => { x with losses := [1, 2] }) (put [(LN_STAT_BLOCK 2, 1), (LN_CFG_AUTOSUB 2, 1)] (sLn 6 6)))
    (fun t => lnState 2 t == 8)) = true := by decide +kernel
theorem test_hiberWindow : (after (.hiberWindow 2 96) (sLn 6 6) (fun t => rd (LN_STAT_HIBER 2) t == 0) && after (.hiberWindow 2 97) (sLn 6 6) (fun t => rd (LN_STAT_HIBER 2) t == 1 &&
    rd (LN_CNT_HBER_COUNT 2) t == 1) && after (.hiberWindow 2 16) (sLn 2 6) (fun t => rd (LN_STAT_HIBER 2) t == 1) && after (.hiberWindow 2 15) (sLn 2 6) (fun t => rd (LN_STAT_HIBER 2) t == 0) &&
  lnIs (.hiberWindow 2 97) (lnWith (fun x => { x with hiberRun := 2 }) (put [(LN_CFG_AUTOSUB 2, 1)] (sLn 6 6))) 8) = true := by decide +kernel
theorem test_lnCtlFail : (after (.lnCtlFail 2) (sLn 6 6) (fun t => lnState 2 t == 8 && rd LN_FAILED_FAILED t == 4) && idle (.lnCtlFail 2) (sLn 6 8)) = true := by decide +kernel
/-- Lane 2 is failed and lane 12 plays its role. -/
def sRep : State := put [(LN_FAILED_FAILED, 4), (LN_STAT_ROLEOF 12, 2), (LN_SPCFG_FOR 12, 6), (LN_CFG_MODE 12, 7)] (sLn 6 8)
theorem test_lnCtlClear : (replacedBy 2 sRep == some 12 && after (.lnCtlClear 2) sRep (fun t => lnMode 2 t == 7 && rd LN_FAILED_FAILED t == 0 && rd (LN_SPCFG_FOR 2) t == 6) &&
  idle (.lnCtlClear 2) (sLn 6 6) && idle (.lnCtlRestart 2) sRep && idle (.laneRetryBringup 2) sRep) = true := by decide +kernel
/-- As at reset, every spare plays its own role. -/
theorem test_lnRestart : (replacedBy 2 (sLn 6 8) == none && lnIs (.lnCtlRestart 2) (sLn 6 6) 1 && lnIs (.laneRetryBringup 2) (sLn 6 8) 1) = true := by decide +kernel
theorem test_lnCtlPreset : after (.lnCtlPreset 2) (sLn 6 6) (fun t => (getLane 2 t).preset) = true := by decide +kernel
/-- A SWAP block for lane 5's logical lane 1 at block 12, and its acknowledgement. -/
theorem test_swapBlock : (swapCrcOk 0xe4e5150000000c66 && swapCrcOk 0xc4a7550000000c66 &&
  after (.swapBlock 2 0xe4e5150000000c66) (sLn 7 7) (fun t => (getLane 2 t).swap == some ⟨12, 1, 5, false, true, false⟩) &&
  after (.swapBlock 2 0xc4a7550000000c66) (lnWith (fun x => { x with swap := some ⟨12, 1, 5, true, false, false⟩ }) (sLn 7 7))
    (fun t => (getLane 2 t).swap == some ⟨12, 1, 5, true, false, true⟩) &&
  idle (.swapBlock 2 0xe4e5150000000c66) (sLn 7 6) && idle (.swapBlock 2 0xe4e5150000000c67) (sLn 7 7)) = true := by decide +kernel
theorem test_swapBlockDue : (after (.swapBlockDue 2) (lnWith (fun x => { x with swap := some ⟨9, 1, 5, false, true, false⟩ }) (sLn 7 7))
    (fun t => lnState 2 t == 6 && rd (LN_STAT_ROLEOF 2) t == 5 && rd (LN_STAT_LLANE 2) t == 1 && logged 35 0x9025 0 t) &&
  idle (.swapBlockDue 2) (lnWith (fun x => { x with swap := some ⟨10, 1, 5, false, true, false⟩ }) (sLn 7 7))) = true := by decide +kernel
theorem test_dfeAdapt : (after (.dfeAdapt 2 3 100) (put [(LN_DFE_TAP 2 0, 31), (LN_DFE_TAP 2 2, 32)] (sLn 6 9)) (fun t => rdI (LN_DFE_TAP 2 0) t == 31 && rdI (LN_DFE_TAP 2 1) t == 1 &&
    rdI (LN_DFE_TAP 2 2) t == -32 && rd (LN_TESTERR_ERRS 2) t == 100) &&
  after (.dfeAdapt 2 3 100) (put [(LN_RXEQ_FREEZE 2, 1)] (sLn 6 6)) (fun t => rdI (LN_DFE_TAP 2 1) t == 0)) = true := by decide +kernel
theorem test_eyeScan : (after (.eyeScanGo 2 1 64 3) (sLn 6 6) (fun t => rd (LN_STAT_ESCERR 2) t == 1 && rd (LN_ESCAN_GO 2) t == 0) &&
  after (.eyeScanGo 2 1 63 3) (sLn 6 6) (fun t => rd (LN_ESCAN_GO 2) t == 1 && rd (LN_ESCAN_VOFF 2) t == 63) &&
  after (.eyeScanDone 2 0x100000000) (put [(LN_ESCAN_GO 2, 1)] (sLn 6 6)) (fun t => rd (LN_ESCAN_GO 2) t == 0 && rd (LN_ESCERR_ERRS 2) t == 0xFFFFFFFF)) = true := by decide +kernel

/-! ### Ethernet and media streams -/

/-- MAC 3 is enabled and up, its address 5, receiving pauses. -/
def sEt : State := put [(ETH_CFG_EN 3, 1), (ETH_STAT_LINK 3, 1), (ETH_ADDR_LO_ADDR 3, 5), (ETH_FC_RXPAUSE 3, 1)] sR

/-- A sound frame of 64 bytes with this payload. -/
def aFrame (p : RxPayload) : RxFrame := ⟨64, true, none, 5, none, 0, 0, [], p⟩

/-- A frame that MAC 3 receives. -/
def got (f : RxFrame) (s : State) (q : State → Bool) : Bool := after (.frameReceive 3 f) s q

theorem test_frameReceive : (got { aFrame .other with fcsOk := false } sEt (fun t => rd (ETH_CNT_FCS_COUNT 3) t == 1) &&
  got { aFrame .other with bytes := 63 } sEt (fun t => rd (ETH_CNT4_LEN_COUNT 3) t == 1) &&
  got { aFrame .other with tag := some (7, 0) } sEt (fun t => rd (ETH_CNT5_UNMATCHED_COUNT 3) t == 1) &&
  got { aFrame .other with dst := 6 } sEt (fun t => rd (ETH_CNT5_UNMATCHED_COUNT 3) t == 1) &&
  got (aFrame .other) sEt (fun t => (getMac 3 t).rxCtl == [64]) &&
  got (aFrame (.pause 9)) sEt (fun t => (getMac 3 t).stopAll && rd (ETH_FC_PAUSED 3) t == 255 && rd (ETH_CNT3_PAUSE_COUNT 3) t == 1) &&
  idle (.frameReceive 3 (aFrame .other)) (put [(ETH_STAT_LINK 3, 0)] sEt)) = true := by decide +kernel
theorem test_frameOverflow : (got { aFrame .other with waiting := 1 } (setMac 3 { MacSt.reset with rxCtl := [32705] } sEt) (fun t => rd (ETH_CNT_RXOVF_COUNT 3) t == 1) &&
  got { aFrame .other with waiting := 1 } (setMac 3 { MacSt.reset with rxCtl := [32704] } sEt) (fun t => (getMac 3 t).rxCtl == [32704, 64]) &&
  got (aFrame .other) (put [(MS_CFG_EN 3, 1), (MS_CFG_VALIDATE 3, 2)] sEt) (fun t => rd (MS_CNT2_NOSA_COUNT 3) t == 1)) = true := by decide +kernel
theorem test_lpi : (lpiMode 12 (put [(MG_STAT_SPEEDNOW, 2)] sEt) && after (.frameReceive 12 (aFrame (.lpi true))) (put [(ETH_CFG_EN 12, 1), (ETH_STAT_LINK 12, 1), (MG_STAT_SPEEDNOW, 2)] sEt)
    (fun t => rd (ETH_STAT_LPIRX 12) t == 1) &&
  after (.lpiEnter 12) (put [(PWR_STAT_STATE, 3), (ETH_EEE_EN 12, 1), (ETH_EEE_TWTX 12, 5), (ETH_STAT_LINK 12, 1), (MG_STAT_SPEEDNOW, 2)] sEt) (fun t => rd (ETH_STAT_LPITX 12) t == 1) &&
  idle (.lpiEnter 12) sEt) = true := by decide +kernel
theorem test_pauseExpiry : (after (.pauseExpiry 3 none) (setMac 3 { MacSt.reset with stopAll := true } sEt) (fun t => !(getMac 3 t).stopAll && rd (ETH_FC_PAUSED 3) t == 0) &&
  after (.pauseExpiry 3 (some 2)) (setMac 3 { MacSt.reset with stopPfc := [2, 4] } sEt) (fun t => (getMac 3 t).stopPfc == [4])) = true := by decide +kernel

/-- An audio frame of entry 4 for an instant. -/
def aTx (launch : Nat) (shared : Bool) : TxFrame := ⟨5, launch, 4, 100, 7, 7, 0, shared, false, []⟩
/-- MAC 3 with these audio frames, and a tolerance of 100 ns. -/
def sTx (l : List TxFrame) : State := setMac 3 { MacSt.reset with audio := l } (put [(ETH_TSN_LTOL 3, 100)] sEt)
theorem test_firstFrame : firstFrame [aTx 9 false, aTx 5 false, { aTx 5 true with entry := 3 }] = some { aTx 5 true with entry := 3 } := by decide +kernel
theorem test_frameLaunch : (after (.frameLaunch 3 1100) (sTx [aTx 1000 false]) (fun t => (getMac 3 t).audio.isEmpty && rd (ETH_TXSEQ_TXFRAME_SEQUENCE 3) t == 1 &&
    rd (SOUT_SEQ_TX_SEQUENCE 4) t == 1) && !isHolder (sTx []) &&
  after (.frameLaunch 3 1100) (sTx [aTx 1000 true]) (fun t => (getMac 3 t).audio.isEmpty && rd (ETH_TXSEQ_TXFRAME_SEQUENCE 3) t == 0) &&
  idle (.frameLaunch 3 999) (sTx [aTx 1000 false]) && idle (.frameLaunch 3 1101) (sTx [aTx 1000 false])) = true := by decide +kernel
theorem test_launchDeadlineDrop : after (.launchDeadlineDrop 3 1101) (sTx [aTx 1000 false, aTx 1001 false]) (fun t => (getMac 3 t).audio == [aTx 1001 false] &&
  rd (ETH_CNT2_LAUNCHDROP_COUNT 3) t == 1 && rd (SOUT_CNT_DROP_COUNT 4) t == 1) = true := by decide +kernel
/-- A frame of 64 bytes takes 57.6 ns on the wire at 10 Gb/s, so it does not fit before a launch 50 ns ahead. -/
theorem test_controlFrameSend : (after (.controlFrameSend 3 (some ⟨1, 64, false⟩) 0 950) (put [(LN_CFG_MAC 2, 3), (LN_CFG_MODE 2, 2)] (sTx [aTx 1000 false]))
    (fun t => (getMac 3 t).ctl == [(950, ⟨1, 64, false⟩)] && rd (ETH_TXSEQ_TXFRAME_SEQUENCE 3) t == 0) &&
  !fitsBefore 3 64 950 (put [(LN_CFG_MAC 2, 3), (LN_CFG_MODE 2, 2)] (sTx [aTx 1000 false])) &&
  after (.controlFrameSend 3 (some ⟨1, 64, false⟩) 0 950) (sTx []) (fun t => (getMac 3 t).ctl.isEmpty && rd (ETH_TXSEQ_TXFRAME_SEQUENCE 3) t == 1) &&
  after (.controlFrameSend 3 (some ⟨1, 64, false⟩) 0 950) (put [(ETH_STAT_LINK 3, 0)] (sTx [])) (fun t => (getMac 3 t).ctl.length == 1)) = true := by decide +kernel
theorem test_linkDown : (after (.linkDown 3) (sTx [aTx 1 false, aTx 2 false]) (fun t => rd (ETH_STAT_LINK 3) t == 0 && (getMac 3 t).audio.isEmpty && rd (ETH_CNT2_FLUSH_COUNT 3) t == 2 &&
    logged 49 0xA003 0 t) && idle (.linkDown 4) sEt) = true := by decide +kernel
theorem test_linkUp : (after (.linkUp 4 0 false) (put [(LN_CFG_MAC 2, 4), (LN_CFG_MODE 2, 2), (LN_STAT_STATE 2, 6), (LN_STAT_BLOCK 2, 1)] sEt) (fun t => rd (ETH_STAT_LINK 4) t == 1 && logged 50 0xA014 0 t) &&
  after (.linkUp 12 1 true) sEt (fun t => rd MG_STAT_FDERR t == 1) && after (.linkUp 12 1 false) (put [(MG_CFG_SPEED, 3)] sEt) (fun t => rd MG_STAT_SPEEDNOW t == 1 && rd (ETH_STAT_LINK 12) t == 1)) = true := by decide +kernel
theorem test_controlFrameTimeout : (after (.controlFrameTimeout 4 8000001) (setMac 4 { MacSt.reset with ctl := [(0, ⟨1, 64, false⟩), (5, ⟨1, 65, false⟩)], downAt := 1 } sEt)
    (fun t => (getMac 4 t).ctl == [(5, ⟨1, 65, false⟩)] && rd (ETH_CNT3_CTLDROP_COUNT 4) t == 1) && idle (.controlFrameTimeout 3 9) sEt) = true := by decide +kernel

/-- Entry 6 takes stream 9 from MAC 3, AAF of two channels. -/
def sSh : State := put [(SIN_CFG_EN 6, 1), (SIN_FMT_NCH 6, 2), (SIN_FMT_DLY 6, 3), (SIN_AGE_AGE 6, 10), (SIN_CFG_MACA 6, 3), (SIN_KEYA_KEY 6 0, 9)] sEt
/-- Its shadow in force. -/
def sSi (st : Nat) : State := setSin 6 { SinSt.reset with words := shadowWords (sinAddr 6) sSh } (put [(SIN_STAT_STATE 6, st)] sSh)
theorem test_sinCommit : (sinLegal 6 sSh && after (.sinCommit 6) sSh (fun t => rd (SIN_STAT_STATE 6) t == 1 && (getSin 6 t).words == shadowWords (sinAddr 6) sSh) &&
  !sinLegal 6 (put [(SIN_FMT_NCH 6, 0)] sSh) && after (.sinCommit 6) (put [(SIN_FMT_NCH 6, 0)] sSh) (fun t => rd ST_STAT_CFGERR t == 1 && t.eth.sins.isEmpty)) = true := by decide +kernel
/-- A packet of stream 9 with one sample of each channel. -/
def aAaf (chans : BitVec 10) : RxFrame := aFrame (.aaf 9 0 0 96000 chans 24 [1, 2, 3, 4, 5, 6])
theorem test_streamReceive : (rxMatches 3 (aAaf 2) (sSi 1) == [(6, false)] && got (aAaf 2) (sSi 1) (fun t => rd (SIN_STAT_STATE 6) t == 2 && rd (SIN_SEQ_RXA_SEQUENCE 6) t == 1 &&
    rd (SIN_STAT_LEGA 6) t == 1) &&
  got (aAaf 3) (sSi 1) (fun t => rd (SIN_STAT_STATE 6) t == 1 && rd (ETH_CNT4_BADFMT_COUNT 3) t == 1)) = true := by decide +kernel
theorem test_streamAge : (after (.streamAgeExpiry 6) (sSi 2) (fun t => rd (SIN_STAT_STATE 6) t == 3 && rd (SIN_CNT2_STALE_COUNT 6) t == 1 && logged 58 0xA206 0 t) &&
  idle (.streamAgeExpiry 6) (sSi 3) && idle (.legAgeExpiry 6 true) (sSi 2)) = true := by decide +kernel
theorem test_legAge : (let s := setSin 6 { SinSt.reset with words := shadowWords (sinAddr 6) (put [(SIN_CFG_MERGE 6, 1)] sSh) } (put [(SIN_STAT_LEGB 6, 1)] sSh)
  sinNow 6 (SIN_CFG_MERGE 6) s == 1 && after (.legAgeExpiry 6 true) s (fun t => rd (SIN_STAT_LEGB 6) t == 0 && logged 58 0xA406 0 t)) = true := by decide +kernel
theorem test_ingressWindowClose : (sinEntries (sSi 2) == [6] && after .ingressWindowClose (setSin 6 { getSin 6 (sSi 2) with first := some 8 } (sSi 2))
    (fun t => t.eth.closed == 9 && rd (SIN_CNT_LOST_COUNT 6) t == 1) && idle .ingressWindowClose (onEth (fun e => { e with closed := 9 }) (sSi 2))) = true := by decide +kernel

/-- Egress entry 7 sends two channels from MAC 3, launched 500 ns into the block. -/
def sSo : State := put [(SOUT_CFG_EN 7, 1), (SOUT_FMT_NCH 7, 2), (SOUT_FMT_LAUNCH 7, 500), (SOUT_CFG_MAC 7, 3), (SOUT_CFG_TC 7, 5), (ETH_TCCFG_LT 3 5, 1), (GLB_TLSTAT_RUN, 1)] sEt
theorem test_soutCommit : (soutLegal 7 sSo && after (.soutCommit 7) sSo (fun t => mapGet (fun _ => []) t.eth.souts 7 == shadowWords (soutAddr 7) sSo) &&
  after (.soutCommit 7) (put [(SOUT_CFG_MAC 7, 12)] sSo) (fun t => rd ST_STAT_CFGERR t == 1 && t.eth.souts.isEmpty)) = true := by decide +kernel
/-- With its shadow in force. -/
def sSb : State := onEth (fun e => { e with souts := [(7, shadowWords (soutAddr 7) sSo)] }) sSo
theorem test_egressPacketBuild : (soutNow 7 (SOUT_CFG_EN 7) sSb == 1 && after (.egressPacketBuild 7) sSb (fun t => match (getMac 3 t).audio with
    | [g] => g.entry == 7 && g.block == 7 && g.seq == 7 && g.launch == 375500 && g.samples.length == 8
    | _ => false) &&
  after (.egressPacketBuild 7) (put [(ETH_STAT_LINK 3, 0)] sSb) (fun t => (getMac 3 t).audio.isEmpty && rd (ETH_CNT2_FLUSH_COUNT 3) t == 1) && idle (.egressPacketBuild 7) sSo) = true := by decide +kernel

/-! ### The field bus and the TDM ports -/

/-- Port 1 is enabled and takes cabinet 7's reports. -/
def sFb : State := put [(FB_CFG_EN 1, 1), (CAB_BIND_EN 7, 1), (CAB_BIND_PORT 7, 1), (CAB_SEQ_SEQ 7, 5)] sR

/-- The broadcast address. -/
def allPorts : BitVec 48 := 0xFFFFFFFFFFFF

/-- A report of cabinet 7: its SEQ, TAMB and FLAGS. -/
def aReport (seq tamb flags : Nat) : List (BitVec 8) :=
  ([1, 7, seq / 256, seq % 256, 0, 0, 0, 0, 0, 0, 0, 1, tamb / 256, tamb % 256, 0, 3, 0, 4, 0, 5, 0, 6, 0, 7, flags / 256, flags % 256] : List Nat).map (BitVec.ofNat 8)

theorem test_report : (after (.cabinetReport 1 allPorts (aReport 9 1250 1) 0) sFb (fun t => rd (CAB_SEQ_SEQ 7) t == 9 && rd (CAB_TEMP_TAMB 7) t == 1250 && rd (CAB_TEMP_TSINK 7) t == 3 &&
    rd (CAB_TILT_PITCH 7) t == 4 && rd (CAB_TILT_ROLL 7) t == 5 && rd (CAB_FAN_FAN0 7) t == 6 && rd (CAB_FAN_FAN1 7) t == 7 && rd (FB_SEQ_REPORT_SEQUENCE 1) t == 1 &&
    t.fb.live == [7] && mapGet (fun _ => 0) t.rook.ta 7 == 1250) &&
  after (.cabinetReport 1 allPorts (aReport 9 1251 1) 0) sFb (fun t => t.fb.live.isEmpty && t.fb.seen == [7]) &&
  after (.cabinetReport 1 allPorts (aReport 6 0xFE70 0) 0) (onFb (fun f => { f with seen := [7] }) sFb) (fun t => t.fb.live.isEmpty && rd (CAB_SEQ_SEQ 7) t == 6)) = true := by decide +kernel
theorem test_reportRefused : (after (.cabinetReport 1 allPorts (aReport 9 0 1) 0) (onFb (fun f => { f with times := [(7, List.replicate 100 0)] }) sFb) (fun t => rd (FB_CNT2_BADRPT_COUNT 1) t == 1) &&
  after (.cabinetReport 1 allPorts (aReport 9 0 1) 0) (put [(CAB_IDENT_LO_IDENT 7, 2)] sFb) (fun t => rd (FB_CNT2_BADRPT_COUNT 1) t == 1) &&
  after (.cabinetReport 1 allPorts (aReport 0x8005 0 1) 0) (onFb (fun f => { f with seen := [7] }) sFb) (fun t => rd (FB_CNT2_BADRPT_COUNT 1) t == 1) &&
  idle (.cabinetReport 1 allPorts (aReport 5 0 1) 0) (onFb (fun f => { f with seen := [7] }) sFb) && idle (.cabinetReport 1 allPorts (aReport 4 0 1) 0) (onFb (fun f => { f with seen := [7] }) sFb) &&
  idle (.cabinetReport 1 3 (aReport 9 0 1) 0) sFb) = true := by decide +kernel
theorem test_fbFrameReceive : (after (.fbFrameReceive 1 allPorts [1] 1) (onFb (fun f => { f with rx := [(1, [[2], [3]])] }) sFb) (fun t => t.fb.rx == [(1, [[3], [1]])]) &&
  after (.fbFrameReceive 1 allPorts [1] 1) (onFb (fun f => { f with rx := [(1, [List.replicate 16384 0])] }) sFb) (fun t => rd (FB_CNT2_RXOVF_COUNT 1) t == 1) &&
  idle (.fbFrameReceive 1 3 [1] 1) sFb) = true := by decide +kernel
theorem test_fbTxGo : (after (.fbTxGo 1 60 true) sFb (fun t => rd (FB_TXCTL_GO 1) t == 0 && (mapGet (fun _ => []) t.fb.sent 1).length == 60) &&
  after (.fbTxGo 1 1514 false) sFb (fun t => rd (FB_TXCTL_GO 1) t == 1 && rd (FB_TXCTL_LEN 1) t == 1514) &&
  after (.fbTxGo 1 59 false) sFb (fun t => rd (FB_STAT_CFGERR 1) t == 1) && idle (.fbTxGo 1 60 true) (put [(FB_TXCTL_GO 1, 1)] sFb)) = true := by decide +kernel
theorem test_fbCollision : (after (.fbCollision 1) sFb (fun t => rd (FB_CNT_COLL_COUNT 1) t == 1) &&
  after (.fbCollision 1) (put [(FB_TXCTL_GO 1, 1)] sFb) (fun t => mapKeys t.fb.backoff == [1] && t.fb.attempts == [(1, 1)]) &&
  after (.fbCollision 1) (onFb (fun f => { f with attempts := [(1, 15)] }) (put [(FB_TXCTL_GO 1, 1)] sFb)) (fun t => rd (FB_TXCTL_GO 1) t == 0 && rd (FB_CNT_EXCOLL_COUNT 1) t == 1) &&
  after (.fbBackoffEnd 1 true) (onFb (fun f => { f with backoff := [(1, 0)] }) (put [(FB_TXCTL_GO 1, 1)] sFb)) (fun t => rd (FB_TXCTL_GO 1) t == 0 && t.fb.backoff.isEmpty)) = true := by decide +kernel
theorem test_plca : (let s := put [(FB_CFG_PLCA 1, 1), (FB_STAT_PLCAOK 1, 1)] sFb
  after (.plcaBeaconTimeout 1) s (fun t => rd (FB_STAT_PLCAOK 1) t == 0) && after (.plcaBeacon 1) (put [(FB_STAT_PLCAOK 1, 0)] s) (· == s)) = true := by decide +kernel
theorem test_cabAgeLapse : (after (.cabAgeLapse 7) (onFb (fun f => { f with live := [7] }) sFb) (fun t => rd (CAB_AGE_AGE 7) t == 65535 && logged 60 0xA607 0 t) &&
  idle (.cabAgeLapse 7) sFb) = true := by decide +kernel

/-- TDM port 5 with two slots of 32 bits in a sync state. -/
def sTd (st : Nat) : State := put [(TDM_STAT_STATE 5, st), (TDM_CFG_SLOTS 5, 2), (TDM_CFG_SWIDTH 5, 2), (TDM_CFG_DWIDTH 5, 24), (TDM_CFG_TXEN 5, 1)] sR
/-- With frames of a hunt. -/
def sHu (n : Nat) : State := setTdm 5 { TdmSt.reset with hunt := n } (sTd 2)
/-- Its sync state after a command. -/
def tdIs (i : Instr) (s : State) (st : Nat) (q : State → Bool) : Bool := after i s fun t => tdState 5 t == st && q t

theorem test_tdmClock : (tdIs (.tdmClockGap 5) (sTd 3) 1 (fun t => rd (TDM_STAT_CLKLOSS 5) t == 1 && rd (TDM_CNT2_CLKLOSS_COUNT 5) t == 1 && rd (TDM_STAT_GAIN 5) t == 1 &&
    rd (TDM_STAT_FAULT 5) t == 1 && logged 66 0xA845 0 t) && tdIs (.firstBckEdge 5) (sTd 1) 2 (fun _ => true) && idle (.firstBckEdge 5) (sTd 2) &&
  tdIs (.tdmHuntTimeout 5) (sTd 2) 2 (fun t => rd (TDM_STAT_CLKLOSS 5) t == 1)) = true := by decide +kernel
theorem test_tdmHunt : (bpf 5 (sTd 2) == 64 && tdIs (.tdmFrame 5 64 true 7 [1, 2] 1000) (sHu 3) 3 (fun _ => true) && tdIs (.tdmFrame 5 64 true 7 [1, 2] 1000) (sHu 2) 2 (fun t => (getTdm 5 t).hunt == 3) &&
  tdIs (.tdmFrame 5 63 true 7 [1, 2] 1000) (sHu 3) 2 (fun t => (getTdm 5 t).hunt == 0) && tdIs (.tdmFrame 5 64 false 7 [] 0) (sHu 3) 2 (fun t => (getTdm 5 t).hunt == 0)) = true := by decide +kernel
theorem test_tdmFrame : (tdIs (.tdmFrame 5 64 true 7 [1, 2] 1000) (sTd 3) 3 (fun t => rd (TDM_MEAS_GOOD 5) t == 1 && rd (TDM_FRAME_FRAME_SEQUENCE 5) t == 1 && (getTdm 5 t).sent.length == 2) &&
  tdIs (.tdmFrame 5 63 true 7 [1, 2] 1000) (sTd 3) 2 (fun t => rd (TDM_CNT_SYNC_COUNT 5) t == 1 && logged 66 0xA805 0 t && rd (TDM_STAT_GAIN 5) t == 1) &&
  tdIs (.tdmResync 5) (sTd 3) 2 (fun t => rd (TDM_CNT_SYNC_COUNT 5) t == 1)) = true := by decide +kernel
theorem test_tdmRecover : (let s := put [(TDM_STAT_FAULT 5, 1), (TDM_STAT_GAIN 5, 2), (TDM_MEAS_GOOD 5, 15)] (sTd 3)
  after (.tdmFrame 5 64 true 7 [1, 2] 1000) s (fun t => rd (TDM_STAT_GAIN 5) t == 3 && rd (TDM_STAT_FAULT 5) t == 1) && after (.tdmFrame 5 64 true 7 [1, 2] 1000) (put [(TDM_MEAS_GOOD 5, 14)] s) (fun t => rd (TDM_STAT_GAIN 5) t == 2) &&
  after (.tdmFrame 5 64 true 7 [1, 2] 1000) (setTdm 5 { TdmSt.reset with lost := true } s) (fun t => rd (TDM_STAT_GAIN 5) t == 0 && rd (TDM_STAT_FAULT 5) t == 0)) = true := by decide +kernel
theorem test_tdmXrun : ([Instr.tdmOverrun 5, .tdmUnderrun 5].all fun i => tdIs i (sTd 3) 3 (fun t => rd (TDM_CNT_XRUN_COUNT 5) t == 1 && logged 66 0xA825 0 t)) = true := by decide +kernel
theorem test_tdmGain : (tdIs (.tdmCoastFrame 5 1000) (put [(TDM_STAT_FAULT 5, 1), (TDM_STAT_GAIN 5, 1)] (sTd 1)) 1 (fun t => (getTdm 5 t).pos == 1) &&
  after (.tdmFadeEnd 5) (put [(TDM_STAT_GAIN 5, 1)] (sTd 1)) (fun t => rd (TDM_STAT_GAIN 5) t == 2) &&
  after (.tdmFadeEnd 5) (put [(TDM_STAT_GAIN 5, 1), (TDM_STAT_FAULT 5, 1), (TDM_MEAS_GOOD 5, 16)] (sTd 3)) (fun t => rd (TDM_STAT_GAIN 5) t == 3) &&
  after (.tdmRampEnd 5) (put [(TDM_STAT_GAIN 5, 3), (TDM_STAT_FAULT 5, 1)] (sTd 3)) (fun t => rd (TDM_STAT_GAIN 5) t == 0 && rd (TDM_STAT_FAULT 5) t == 0)) = true := by decide +kernel

/-! ### The crossbar and the DRAM -/

/-- Master 5, with four tags, and 256 MB of DRAM in service. -/
def sXb : State := put [(DRC_STAT_STATE 0, 2), (DRC_MAP_TOP, 256), (XB_MCFG_TAGS 5, 4), (XB_TIMEOUT_TO, 20)] sR
/-- With its credit for the block. -/
def sXc : State := onXb (fun q => { q with credit := [(5, 8)] }) sXb
/-- A read, and a write of zeros but for a first 9. -/
def rdReq (a : Nat) (n : Nat) : XbReq := ⟨5, BitVec.ofNat 40 a, BitVec.ofNat 16 n, false, false, false, []⟩
/-- See `rdReq`. -/
def wrReq (a : Nat) (n : Nat) : XbReq := ⟨5, BitVec.ofNat 40 a, BitVec.ofNat 16 n, true, false, false, 9 :: List.replicate (n - 1) 0⟩
/-- Transaction 0 waits at its target with one piece. -/
def sPc (r : XbReq) (target : Nat) : State := onXb (fun q => { q with
  trans := [⟨0, r, 376000, 0, [], false, false, false⟩], pieces := [⟨0, target, r.addr.toNat, r.len.toNat, 5, 0, 13, true⟩], nextId := 1, arrivals := 1 }) sXb
/-- The state of transaction `id`. -/
def tr (id : Nat) (t : State) (q : XbTrans → Bool) : Bool := t.xb.trans.any fun x => x.id == id && q x

theorem test_xbTransaction : (after (.xbTransaction (rdReq 0x10000000F0 32) 0) sXc (fun t => tr 0 t (fun x => !x.done) && t.xb.pieces.map (fun p => (p.target, p.addr, p.len)) == [(17, 0x10000000F0, 16)]) &&
  after (.xbTransaction (rdReq 0x20000000 4) 0) sXb (fun t => tr 0 t (fun x => x.done && x.err && x.data == [0, 0, 0, 0]) && rd XB_DECERR_LO_ADDR t == 0x20000000 &&
    rd XB_DECERR_HI_MASTER t == 5 && rd XB_CNT_DECERR_COUNT t == 1 && t.xb.pieces.isEmpty) &&
  after (.xbTransaction (rdReq 0x1000000000 4) 0) (put [(FW_CTL_LOCK, 1)] sXb) (fun t => tr 0 t (fun x => x.done && x.err) && t.xb.pieces.isEmpty) &&
  after (.xbTransaction (rdReq 0x1000000000 4) 0) (put [(XB_MCFG_TAGS 5, 1)] (sPc (rdReq 0x1000000000 4) 17)) (fun t => t.xb.waiting == [rdReq 0x1000000000 4] &&
    rd (XB_MCNT_TAGWAIT_COUNT 5) t == 1)) = true := by decide +kernel
/-- A request that is not well formed faults. -/
theorem test_xbIllFormed : ((exec (.xbTransaction { rdReq 0 4 with master := 0xF } 0) sXb matches .fault .illFormed) &&
  (exec (.xbTransaction (rdReq 0 0) 0) sXb matches .fault .illFormed) && exec (.xbTransaction { wrReq 0 2 with data := [1] } 0) sXb matches .fault .illFormed) = true := by decide +kernel
theorem test_xbPieceGrant : (after (.xbPieceGrant 2 none) (sPc (wrReq 0x08400004 2) 2) (fun t => tr 0 t (fun x => x.done && !x.err) && sharedByte 1 4 t == 9 && t.xb.pieces.isEmpty) &&
  after (.xbPieceGrant 2 none) (sPc (rdReq 0x08400004 2) 2) (fun t => tr 0 t (fun x => x.done && !x.err && x.data == [0, 0])) &&
  after (.xbPieceGrant 17 none) (wrDram 1 7 (sPc (rdReq 0x1000000000 2) 17)) (fun t => tr 0 t (fun x => x.done && !x.err && x.data == [0, 7])) &&
  idle (.xbPieceGrant 3 none) (sPc (rdReq 0x08400004 2) 2)) = true := by decide +kernel
/-- A later read of the same 256 bytes waits; of others the one with the higher QoS goes first. -/
theorem test_nextPiece : (let p (id a qos : Nat) : XbPiece := ⟨id, 17, a, 4, 5, id, qos, true⟩
  let x (id a : Nat) (done : Bool) : XbTrans := ⟨id, rdReq a 4, 0, 0, [], false, done, false⟩
  let s := onXb (fun q => { q with
    trans := [x 0 0x1000000000 false, x 1 0x1000000004 false, x 2 0x1000000100 false],
    pieces := [p 0 0x1000000000 3, p 1 0x1000000004 9, p 2 0x1000000100 4] }) (put [(XB_CTL_QOSEN, 1)] sXb)
  (nextPiece 17 s).map (·.id) == some 2 && mustWait (p 1 0x1000000004 9) s && ((nextPiece 17 (put [(XB_CTL_QOSEN, 0)] s)).map (·.id)) == some 0) = true := by decide +kernel
/-- Transactions of master 5, complete or not. -/
def sXr (l : List XbTrans) : State := onXb (fun q => { q with trans := l, nextId := 9 }) sXb
theorem test_xbResponse : (after (.xbResponse 5) (sXr [⟨0, rdReq 0x1000000000 4, 0, 0, [], false, false, false⟩, ⟨1, rdReq 0x1000000100 1, 0, 1, [3], false, true, false⟩,
    ⟨2, wrReq 0x1000000200 1, 0, 1, [], false, true, false⟩]) (fun t => t.xb.out == some ⟨5, 0x1000000200, [], false⟩ && t.xb.trans.map (·.id) == [0, 1]) &&
  idle (.xbResponse 5) (sXr [⟨0, rdReq 0x1000000000 4, 0, 0, [], false, false, false⟩, ⟨1, rdReq 0x1000000100 1, 0, 1, [3], false, true, false⟩])) = true := by decide +kernel
theorem test_xbTimeout : (after (.xbTimeout 5 396000) (sPc (rdReq 0x1000000000 4) 17) (fun t => t.xb.out == some ⟨5, 0x1000000000, [], true⟩ && rd XB_STAT_FALLBACK t == 1 &&
    rd XB_CNT_TIMEOUT_COUNT t == 1 && logged 93 0xB002 0 t && tr 0 t (·.freed)) &&
  after (.xbTimeout 5 395999) (sPc (rdReq 0x1000000000 4) 17) (fun t => t.xb.out == none) && idle (.xbTimeout 5 0) sXb) = true := by decide +kernel
theorem test_xbQosAge : (after (.xbQosAge 17 0) (sPc (rdReq 0x1000000000 4) 17) (fun t => t.xb.pieces.map (·.qos) == [14]) &&
  idle (.xbQosAge 17 0) (onXb (fun q => { q with pieces := q.pieces.map fun p => { p with qos := 14 } }) (sPc (rdReq 0x1000000000 4) 17))) = true := by decide +kernel
theorem test_fallBack : (after .xbFbclr (put [(SG_CTL_RUN, 1)] sXb) (fun t => rd XB_STAT_CFGERR t == 1) && after .xbFbclr (put [(XB_STAT_FALLBACK, 1), (XB_CTL_QOSEN, 1)] sXb)
    (fun t => rd XB_STAT_FALLBACK t == 0) && idle .xbFbclr (put [(XB_STAT_FALLBACK, 1), (XB_CTL_QOSEN, 0)] sXb) && after .fwLock sXb (fun t => rd FW_CTL_LOCK t == 1) &&
  after .arbiterParityError sXb (fun t => rd XB_STAT_FALLBACK t == 1 && fixedPriority t && logged 93 0xB010 0 t)) = true := by decide +kernel
/-- An error that cannot be corrected, and one that can. -/
theorem test_dramErrors : (after (.patrolScrub 0 [⟨0x1000000040, true, 0, 3, 9⟩]) sXb (fun t => rd (DRC_ERRADDR_HI_UE 0) t == 1 && rd (DRC_ERRADDR_LO_ADDR 0) t == 64 &&
    rd (DRC_ERRADDR_HI_ADDR 0) t == 16 && rd (DRC_CNT_UE_COUNT 0) t == 1 && logged 94 0xB110 0 t && rd (DRC_RPR_VALID 0 0) t == 1 && rd (DRC_RPR_ROW 0 0) t == 9 &&
    rd (DRC_SCRUB_PASS_SEQUENCE 0) t == 1) &&
  after (.patrolScrub 0 [⟨0x1000000040, false, 0, 3, 9⟩]) sXb (fun t => rd (DRC_CNT_CE_COUNT 0) t == 1 && logged 94 0xB100 0 t && rd (DRC_RPR_VALID 0 0) t == 0) &&
  after (.patrolScrub 0 []) sXb (fun t => rd (DRC_SCRUB_PASS_SEQUENCE 0) t == 1) && idle (.patrolScrub 1 []) sXb &&
  after (.mr4Read 0 2) sXb (fun t => rd (DRC_STAT_RMULT 0) t == 2) && idle (.mr4Read 1 2) sXb) = true := by decide +kernel

/-! ### The flash store -/

/-- The store is ready; the image of slot 1 runs; the job registers name four bytes at the start of DRAM, and capture 3. -/
def sFl : State := put [(FL_STAT_STATE, 2), (FL_SLOTST_BOOTED, 1), (DRC_STAT_STATE 0, 2), (DRC_MAP_TOP, 256), (FL_JOB_HI_ADDR, 16), (FL_JOB_LEN_LEN, 4), (FL_JOB_ARG_VALUE, 3)] sR
/-- Capture 3. -/
def aCapture (recording : Bool) : Capture := ⟨3, 1, 1, 2, 0, false, false, false, recording, 0, []⟩
/-- A chunk of it. -/
def aChunk : Chunk := ⟨false, 3, 0, 1, 5, 0, 2, 0, false, false, false, false, 0, [1, 2], []⟩
/-- A layout, whose dies for capture and recorder do not meet, or do. -/
def aDesc (r : Fin 64) : FlashDesc := ⟨[0, 1, 4, 5], 2, [0, 1], [r], 65536, 1000, 3000, 60000, 1000000, 100000, 512, 8, 100, true⟩
/-- With slots, captures, a descriptor or a job. -/
def slotted (x : SlotSt) (s : State) : State := setSlot 0 x s
/-- See `slotted`. -/
def captured (c : Capture) (s : State) : State := onFl (fun f => { f with captures := [c] }) s
/-- See `slotted`. -/
def jobbed (j : FlashJob) : State := onFl (fun f => { f with job := some j }) (put [(FL_JOB_CTL_GO, 1)] sFl)
/-- The job registers show a result; nothing is stored. -/
def resIs (e : Nat) (s t : State) : Bool := rd FL_JOB_RES_ERR t == e && rd FL_JOB_RES_DONE t == 1 && t.flash == s.flash
/-- A job has started. -/
def jobIs (j : FlashJob) (t : State) : Bool := t.flash.job == some j && rd FL_JOB_CTL_GO t == 1 && rd FL_JOB_RES_DONE t == 0
/-- The command ends with such a result. -/
def ends (e : Nat) (s : State) (i : Instr) : Bool := after i s (resIs e s)

theorem test_flashBusy : ([Instr.imgWrite 0, .imgRead 0, .flLogRead, .capDelete, .capProtect true, .format (aDesc 4) [], .scanNow, .flLife].all fun i =>
    ends 1 (put [(FL_JOB_CTL_GO, 1)] sFl) i) = true := by decide +kernel
theorem test_flashNotReady : ([Instr.imgWrite 0, .imgRead 0, .flLogRead, .capDelete, .capProtect true, .scanNow, .flLife].all fun i =>
    ends 2 (put [(FL_STAT_STATE, 1)] sFl) i) = true := by decide +kernel
theorem test_imgWrite : (ends 6 { sFl with image := { sFl.image with owner := true } } (.imgWrite 1) && ends 3 (put [(FL_JOB_LEN_LEN, 0)] sFl) (.imgWrite 0) &&
  after (.imgWrite 0) (slotted ⟨[], 7, true⟩ sFl) (fun t => jobIs (.imgWrite 0 0x1000000000 4 8) t && rd FL_SLOTST_WRITING t == 1 && getSlot 0 t == SlotSt.reset)) = true := by decide +kernel
theorem test_imgRead : (ends 2 sFl (.imgRead 0) && ends 3 (slotted ⟨[1, 2, 3, 4, 5], 7, true⟩ sFl) (.imgRead 0) &&
  after (.imgRead 0) (slotted ⟨[1, 2, 3, 4], 7, true⟩ sFl) (jobIs (.imgRead 0 0x1000000000 4))) = true := by decide +kernel
theorem test_flashRead : (after .flLogRead sFl (jobIs (.logRead 3 0x1000000000 4)) && after .flLife sFl (jobIs (.life 0x1000000000 4)) && after .scanNow sFl (jobIs .scan) &&
  ([Instr.flLogRead, .flLife].all fun i => ends 3 (put [(FL_JOB_HI_ADDR, 17)] sFl) i)) = true := by decide +kernel
theorem test_captureJobs : (ends 3 sFl .capDelete && ends 3 sFl (.capProtect true) && ends 2 (captured (aCapture true) sFl) .capDelete &&
  after (.capProtect true) (captured (aCapture true) sFl) (jobIs (.capProtect 3 true)) && after .capDelete (captured (aCapture false) sFl) (jobIs (.capDelete 3))) = true := by decide +kernel
theorem test_format : (after (.format (aDesc 4) [(1, 9)]) (put [(FL_STAT_STATE, 4)] sFl) (jobIs (.format (aDesc 4) [(1, 9)])) && ends 3 sFl (.format (aDesc 1) []) &&
  ends 3 sFl (.format { aDesc 4 with partsOk := false } [])) = true := by decide +kernel
theorem test_flBadOp : (ends 3 sFl (.flBadOp 0) && ends 3 sFl (.flBadOp 9) && ends 1 (put [(FL_JOB_CTL_GO, 1)] sFl) (.flBadOp 9) && idle (.flBadOp 8) sFl) = true := by decide +kernel
theorem test_jobFails : (after (.flashJobDone false) (jobbed (.imgWrite 0 0x1000000000 4 8)) (fun t => rd FL_JOB_CTL_GO t == 0 && rd FL_JOB_RES_ERR t == 4 && t.flash.job == none &&
    logged 96 0xC340 0 t) && idle (.flashJobDone true) sFl) = true := by decide +kernel
/-- With a job. -/
def withJob (j : FlashJob) (s : State) : State := onFl (fun f => { f with job := some j }) s
/-- The job has ended well. -/
def fine (t : State) : Bool := t.flash.job == none && rd FL_JOB_RES_ERR t == 0 && rd FL_JOB_RES_DONE t == 1
theorem test_jobEnds : (after (.flashJobDone true) (withJob (.imgWrite 0 0x1000000000 2 8) (wrDram 1 7 sFl)) (fun t => fine t && getSlot 0 t == ⟨[0, 7], 8, true⟩) &&
  after (.flashJobDone true) (withJob (.imgRead 0 0x1000000000 2) (slotted ⟨[5, 6], 7, true⟩ sFl)) (fun t => fine t && rdDram 0 t == 5 && rdDram 1 t == 6) &&
  after (.flashJobDone true) (withJob (.capDelete 3) (captured (aCapture false) sFl)) (fun t => fine t && t.flash.captures.isEmpty) &&
  after (.flashJobDone true) (withJob (.capProtect 3 true) (captured (aCapture false) sFl)) (fun t => fine t && t.flash.captures == [{ aCapture false with protect := true }]) &&
  after (.flashJobDone true) (withJob .scan sFl) (fun t => fine t && t.flash.bg == [⟨2, 0, 0, 86400000000000, false⟩])) = true := by decide +kernel
theorem test_formatEnds : after (.flashJobDone true) (withJob (.format (aDesc 4) [(1, 9)]) (captured (aCapture false) (put [(FL_STAT_STATE, 4)] sFl))) (fun t => fine t && rd FL_STAT_STATE t == 2 && t.flash.formatted &&
  t.flash.desc == some (aDesc 4) && t.flash.factory == [(1, 9)] && t.flash.captures.isEmpty && rd (FLC_STAT_DIES 0) t == 2) = true := by decide +kernel

/-- An operation of die 5 on block 9; how it ends. -/
def aNand (k : NandKind) : NandOp := ⟨5, 9, 0, k, true, false⟩
/-- The grown table holds block 9 of die 5. -/
def grown (t : State) : Bool := t.flash.grown == [(5, 9)]
/-- A refresh of block 9 of die 5 with a deadline. -/
def refreshAt (d : Nat) (t : State) : Bool := t.flash.bg == [⟨0, 5, 9, d, false⟩]
/-- Counts of the block's reads and erases. -/
def used (r e : Nat) (s : State) : State := onFl (fun f => { f with reads := [(5 * 65536 + 9, r)], erases := [(5 * 65536 + 9, e)] }) s

theorem test_nandProgram : (after (.nandOperationDone (aNand .program) ⟨true, 0, 0⟩) (onFl (fun f => { f with queues := [(5, [aNand .program, aNand .read])] }) sFl) (fun t =>
    t.flash.grown.isEmpty && t.flash.queues == [(5, [aNand .read])]) &&
  after (.nandOperationDone (aNand .program) ⟨false, 0, 0⟩) sFl (fun t => grown t && rd (FLC_CNT_PFAIL_COUNT 1) t == 1 && rd FL_CNT2_GROWN_COUNT t == 1 && logged 96 0xC105 0 t) &&
  after (.nandOperationDone (aNand .erase) ⟨false, 0, 0⟩) sFl (fun t => grown t && rd (FLC_CNT_EFAIL_COUNT 1) t == 1) &&
  after (.nandOperationDone (aNand .erase) ⟨false, 0, 0⟩) (onFl (fun f => { f with factory := [(5, 9)] }) sFl) (fun t => t.flash.grown.isEmpty)) = true := by decide +kernel
theorem test_nandErase : after (.nandOperationDone (aNand .erase) ⟨true, 0, 0⟩) (onFl (fun f => { f with bg := [⟨0, 5, 9, 1, false⟩] }) (used 8 4 sFl)) (fun t =>
  t.flash.erases == [(5 * 65536 + 9, 5)] && t.flash.reads.isEmpty && t.flash.bg.isEmpty && rd FL_CNT2_REFRESH_COUNT t == 1) = true := by decide +kernel
theorem test_nandRead : (after (.nandOperationDone (aNand .read) ⟨true, 1, 90⟩) (used 19998 0 sFl) (fun t => t.flash.bg.isEmpty && t.flash.reads == [(5 * 65536 + 9, 19999)]) &&
  after (.nandOperationDone (aNand .read) ⟨true, 1, 90⟩) (used 19999 0 sFl) (refreshAt 0) &&
  after (.nandOperationDone (aNand .read) ⟨true, 2, 79⟩) sFl (fun t => rd FL_CNT_RETRY_COUNT t == 1 && refreshAt 86400000000000 t) &&
  after (.nandOperationDone (aNand .read) ⟨true, 2, 80⟩) sFl (refreshAt 3600000000000)) = true := by decide +kernel
theorem test_nandReadFails : after (.nandOperationDone (aNand .read) ⟨false, 4, 0⟩) sFl (fun t => grown t && rd FL_CNT_RETRY_COUNT t == 1 && rd FL_CNT_UNCORR_COUNT t == 1) = true := by decide +kernel
theorem test_retentionScan : (after (.retentionScan [(5, 9, 60)]) sFl (fun t => t.flash.bg == [⟨0, 5, 9, 86400000000000, false⟩, ⟨2, 0, 0, 691200000000000, false⟩]) &&
  after (.retentionScan [(5, 9, 59)]) sFl (fun t => t.flash.bg.length == 1) && after (.retentionScan [(5, 9, 80)]) sFl (fun t => t.flash.bg.any fun j => j.deadline == 3600000000000) &&
  ([Instr.retentionScan [], .captureChunkProgram true, .checkpoint, .logPageFlush].all fun i => idle i (put [(FL_STAT_STATE, 1)] sFl))) = true := by decide +kernel
theorem test_jobUrgent : (after (.jobUrgent 0) (onFl (fun f => { f with bg := [⟨0, 5, 9, 1, false⟩] }) sFl) (fun t => t.flash.bg == [⟨0, 5, 9, 1, true⟩] && rd FL_CNT4_URGENT_COUNT t == 1 &&
  logged 96 0xC320 0 t) && idle (.jobUrgent 0) (onFl (fun f => { f with bg := [⟨0, 5, 9, 1, true⟩] }) sFl)) = true := by decide +kernel
theorem test_captureChunkProgram : (after (.captureChunkProgram true) (onFl (fun f => { f with desc := some (aDesc 4), recw := { Writer.reset with staged := [aChunk] } }) sFl)
    (fun t => t.flash.ring == [aChunk] && t.flash.recw.staged.isEmpty) &&
  after (.captureChunkProgram false) (captured (aCapture true) (onFl (fun f => { f with cap := { Writer.reset with staged := [aChunk] } }) sFl)) (fun t =>
    t.flash.captures == [{ aCapture true with bytes := 70, last := 5, chunks := [aChunk] }]) && idle (.captureChunkProgram false) sFl) = true := by decide +kernel
theorem test_captureDeliveryTimeout : (after (.captureDeliveryTimeout true 5) (onFl (fun f => { f with recw := { Writer.reset with cur := [(4, [1]), (5, [2]), (6, [3])] } }) sFl) (fun t =>
    t.flash.recw.cur == [(6, [3])] && t.flash.recw.gap && rd FL_CNT3_RECDROP_COUNT t == 1) && idle (.captureDeliveryTimeout false 5) sFl) = true := by decide +kernel
theorem test_checkpoint : (after .checkpoint (onFl (fun f => { f with ring := [aChunk] }) sFl) (fun t => t.flash.ckpt == some (0, 1)) &&
  after .checkpoint (captured { aCapture true with chunks := [aChunk, aChunk] } sFl) (fun t => t.flash.ckpt == some (2, 0))) = true := by decide +kernel
theorem test_logPageFlush : (let r := mkRec 7 0xC001 0 sR
  after .logPageFlush (onFl (fun f => { f with desc := some (aDesc 4), logBuf := [(8, r)], logLost := 3 }) sFl) (fun t => t.flash.pages == [[(8, r)]] && rd FL_LOGSEQ_SEQUENCE t == 8 &&
    t.flash.logBuf.isEmpty && t.flash.logLost == 0 && logged 96 0xC302 3 t) && idle .logPageFlush sFl) = true := by decide +kernel

/-! ### Pawn -/

/-- Of the entries 0 to 8, enabled at reset, 0 is on PMBus (at 750 mV), and 2 (at its strapped voltage); entry 9 is enabled
and off in QUIET. All is in force since the last wake. -/
def sPw : State := takeEntries (put [(PWR_ENT_CFG_PMB 0, 1), (PWR_ENT_SET_VNOM 0, 750), (PWR_ENT_CFG_PMB 2, 1), (PWR_ENT_SET_VNOM 2, 0),
  (PWR_ENT_CFG_PMB 5, 0), (PWR_ENT_CFG_EN 9, 1), (PWR_ENT_CFG_PMB 9, 0), (PWR_ENT_CFG_QOFF 9, 1), (PWR_CFG_AUTO, 0)] State.reset)
/-- Pawn in a state. -/
def inPw (st : Nat) : State := put [(PWR_STAT_STATE, st)] sPw
/-- Waking at a step, in a phase. -/
def sWk (e ph : Nat) : State := setPhase ph (put [(PWR_STAT_STEP, e)] (inPw 1))
/-- The step, the phase and the PEN of entry `e` after a command. -/
def pwIs (i : Instr) (s : State) (step ph e pen : Nat) : Bool := after i s fun t => rd PWR_STAT_STEP t == step && t.pawn.phase == ph && rd (PWR_ENT_STAT_PEN e) t == pen
/-- A boot copy that passes on an engine without an owner. -/
def aCopy : BootCopy := ⟨0, true, true, 0, true, false, 0, false, true, false, 0⟩

theorem test_stepOrder : (stepOrder sPw == [0, 1, 2, 3, 4, 5, 6, 7, 8, 12, 9] && stepOrder (onPawn (fun p => { p with leaving := true }) sPw) == [9] && entPmb 0 sPw && !entPmb 5 sPw) = true := by decide +kernel
theorem test_wake : (pwIs .wakePin (inPw 0) 0 1 0 0 && pwIs .pawnCmdWake (inPw 0) 0 1 0 0 && idle .wakePin (inPw 2) && after .pawnCmdWake (inPw 2) (fun t => pawnState t == 2) &&
  pwIs .pawnCmdRetry (inPw 4) 0 1 0 0 && after .pawnCmdRetry (inPw 1) (fun t => t.pawn.phase == 0)) = true := by decide +kernel
theorem test_powerOnReset : (after (.powerOnReset true true true) (inPw 2) (fun t => rd PWR_STAT_STATE t == 1 && rd KS_STAT_PUF_OK t == 1 && rd KS_STAT_TRNG_OK t == 1) &&
  after (.powerOnReset false false true) (put [(flogRef 7, 0x1042)] (inPw 2)) (fun t => rd PWR_STAT_STATE t == 0 && rd PWR_STAT_STEP t == 15 && rd (flogRef 7) t == 0x1042 && rd KS_STAT_PUF_OK t == 0) &&
  after (.powerOnReset false true true) (put [(PWR_CFG_AUTO, 1)] (inPw 2)) (fun t => rd PWR_STAT_STATE t == 1)) = true := by decide +kernel
theorem test_pawnReads : (after .pawnState (put [(PWR_BOOT_NOIMAGE, 1)] (inPw 2)) (fun t => t.pawn.out == [10]) && after .pawnFault (put [(PWR_FAULT_CODE, 0x1042)] (inPw 2)) (fun t => t.pawn.out == [0x42, 0x10]) &&
  after .pawnFlog (put [(flogRef 7, 0x1042)] (inPw 2)) (fun t => t.pawn.out.length == 16 && t.pawn.out.drop 14 == [0x10, 0x42])) = true := by decide +kernel
theorem test_stepPass : (after .stepPass (sWk 5 2) (fun t => t.pawn.phase == 4 && rd (PWR_ENT_STAT_PG 5) t == 1) && pwIs .stepPass (sWk 0 2) 0 3 0 0 && idle .stepPass (sWk 12 2) && idle .stepPass (sWk 5 1)) = true := by decide +kernel
theorem test_pmbusTransactionDone : (pwIs (.pmbusTransactionDone true false) (sWk 0 1) 0 2 0 1 && pwIs (.pmbusTransactionDone true false) (sWk 0 3) 0 4 0 0 &&
  pwIs (.pmbusTransactionDone true true) (sWk 0 3) 0 5 0 0 && pwIs (.pmbusTransactionDone false false) (sWk 0 1) 0 5 0 0 && idle (.pmbusTransactionDone true false) (sWk 0 2)) = true := by decide +kernel
/-- The fourth attempt that fails leads to WAKE_FAILED. -/
theorem test_stepTimeout : (after .stepTimeout (put [(PWR_ENT_STAT_PEN 5, 1), (PWR_STAT_ATTEMPT, 2)] (sWk 5 2)) (fun t => t.pawn.phase == 5 && rd PWR_STAT_ATTEMPT t == 3 && rd PWR_CNT_RETRY_COUNT t == 1 &&
    rd (PWR_ENT_STAT_PEN 5) t == 0 && logged 7 0x1015 0 t) &&
  after .stepTimeout (put [(PWR_STAT_ATTEMPT, 3), (PWR_ENT_STAT_PEN 2, 1)] (sWk 5 2)) (fun t => pawnState t == 4 && rd PWR_STAT_FAULT t == 1 && rd (PWR_ENT_STAT_PEN 2) t == 0 && t.rook.hw && logged 7 0x1025 0 t) &&
  idle .stepTimeout (sWk 5 4)) = true := by decide +kernel
/-- 2 % either way of 49,152 cycles is 983. -/
theorem test_oscCheckWindow : (after (.oscCheckWindow 50135 300) (sWk 12 2) (fun t => t.pawn.windows == 1 && t.pawn.phase == 2) && after (.oscCheckWindow 50136 300) (sWk 12 2) (fun t => t.pawn.windows == 0) &&
  after (.oscCheckWindow 48169 299) (sWk 12 2) (fun t => t.pawn.windows == 0) && after (.oscCheckWindow 48169 300) (onPawn (fun p => { p with windows := 3 }) (sWk 12 2)) (fun t => t.pawn.phase == 4) &&
  idle (.oscCheckWindow 49152 300) (sWk 5 2)) = true := by decide +kernel
theorem test_passedEntryPpgFall : (after (.passedEntryPpgFall 2) (sWk 12 2) (fun t => rd PWR_STAT_STEP t == 2 && t.pawn.phase == 5 && logged 7 0x101C 0 t) && idle (.passedEntryPpgFall 9) (sWk 12 2) &&
  pwIs .stepRetry (sWk 5 5) 5 2 5 1 && pwIs .stepRetry (sWk 2 5) 2 2 2 1 && pwIs .stepRetry (sWk 0 5) 0 1 0 0 && pwIs .stepRetry (setPhase 6 (inPw 0)) 0 1 0 0 && idle .stepRetry (sWk 5 4)) = true := by decide +kernel
theorem test_stepDlyEnd : (pwIs (.stepDlyEnd []) (sWk 0 4) 1 2 1 1 && idle (.stepDlyEnd []) (sWk 0 2) &&
  after (.stepDlyEnd []) (onPawn (fun p => { p with leaving := true, phase := 4 }) (put [(PWR_STAT_STEP, 9)] (inPw 3))) (fun t => t.pawn.runNext && !t.pawn.leaving && rd PWR_STAT_STEP t == 15) &&
  after (.stepDlyEnd [aCopy]) (sWk 9 4) (fun t => pawnState t == 2 && t.pawn.booted && rd PWR_BOOT_FAILS t == 1) &&
  after (.stepDlyEnd [{ aCopy with vendorOk := false }]) (sWk 9 4) (fun t => !t.pawn.booted && rd PWR_STAT_FAULT t == 1 && (getPea 144 t).stall == .halted)) = true := by decide +kernel
theorem test_pwrRestart : (after (.pwrRestart [aCopy]) (wrDram 1 7 (inPw 3)) (fun t => pawnState t == 2 && t.pawn.booted && rd GLB_RSTCAUSE_WARM t == 1 && rdDram 1 t == 7) && idle (.pwrRestart []) (inPw 1)) = true := by decide +kernel
theorem test_sclLowTimeout : (idle (.sclLowTimeout true 0) (sWk 0 1) && after (.sclLowTimeout false 5) (sWk 0 1) (fun t => t.pawn.phase == 5 && logged 7 0x1010 0 t) &&
  after (.sclLowTimeout false 0) (inPw 2) (fun t => t.pawn.pmbBad == [0] && logged 7 0x1060 0 t) && idle (.sclLowTimeout false 0) (inPw 4)) = true := by decide +kernel

/-! ### RUN, QUIET, STOPPING and the start -/

theorem test_pwrStandby : (after .pwrStandby (inPw 2) (fun t => pawnState t == 5 && t.rook.hw && t.pawn.stopAudio && rd PWR_CTL_STANDBY t == 1) && idle .pwrStandby (inPw 1) &&
  after .stoppingFlushDone (wrDram 1 7 (put [(PWR_ENT_STAT_PEN 5, 1)] (inPw 5))) (fun t => pawnState t == 0 && rd (PWR_ENT_STAT_PEN 5) t == 0 && rdDram 1 t == 0 && t.pawn.phase == 0) && idle .stoppingFlushDone (inPw 2)) = true := by decide +kernel
theorem test_ppgLoss : (after (.ppgLoss 9) (inPw 2) (fun t => t.pawn.low == [9] && logged 7 0x1049 0 t && pawnState t == 2) && idle (.ppgLoss 10) (inPw 2) &&
  idle (.ppgLossPersist 9) (onPawn (fun p => { p with low := [9] }) (inPw 2)) && after (.ppgLossPersist 5) (onPawn (fun p => { p with low := [5] }) (inPw 2)) (fun t => pawnState t == 5 && t.pawn.loss)) = true := by decide +kernel
/-- Entry 6 is a DRAM supply. -/
theorem test_ppgLossDram : after (.ppgLoss 6) (wrDram 1 7 (inPw 3)) (fun t => rdDram 1 t == 0 && pawnState t == 2 && rd GLB_RSTCAUSE_WARM t == 1) = true := by decide +kernel
theorem test_pmbusPoll : (after (.pmbusPoll [⟨0, true, 750, 300, 451, false⟩] 0x21) (onPawn (fun p => { p with low := [5, 9], pmbBad := [0] }) (put [(PWR_ENT_STAT_PEN 5, 1)] (inPw 2))) (fun t =>
    rd (PWR_ENT_TEL_VOUT 0) t == 750 && rd (PWR_ENT_TEL_IOUT 0) t == 300 && rd (PWR_ENT_STAT_TEMP 0) t == 451 && t.pawn.low == [9] && t.pawn.pmbBad.isEmpty && rd (PWR_ENT_STAT_PG 5) t == 1) &&
  after (.pmbusPoll [⟨0, true, 750, 300, 451, true⟩] 0) (inPw 2) (fun t => t.pawn.pmbBad == [0] && logged 7 0x1060 0 t) && idle (.pmbusPoll [] 0) (inPw 1)) = true := by decide +kernel
theorem test_avsStep : (let s := { inPw 2 with image := { ImageSt.reset with started := some 1 } }
  let u := put [(PWR_CFG_AVSEN, 1), (PWR_AVS_VSET, 722)] s
  after (.avsStep 719) u (fun t => rd PWR_AVS_VSET t == 720 && logged 7 0x1080 0 t) && after (.avsStep 900) u (fun t => rd PWR_AVS_VSET t == 727) && idle (.avsStep 900) s) = true := by decide +kernel
/-- Quiet since block 1, with QDLY 0. -/
def sQ : State := onPawn (fun p => { p with quietSince := some 1 }) (put [(PWR_CFG_QEN, 1), (SG_QUIET_QUIET, 1), (PWR_CFG_QDLY, 0), (PWR_ENT_STAT_PEN 9, 1)] { inPw 2 with tl := { sPw.tl with k := 1 } })
theorem test_quiet : (after .quietEntry sQ (fun t => pawnState t == 3 && rd (PWR_ENT_STAT_PEN 9) t == 0 && rd PWR_CNT_QUIET_COUNT t == 1) &&
  idle .quietEntry (put [(PWR_CFG_QDLY, 1)] sQ) && idle .quietExit (put [(SG_QUIET_QUIET, 1)] (inPw 3)) &&
  ([Instr.pwrRun, .quietExit].all fun i => after i (put [(SG_QUIET_QUIET, 0)] (inPw 3)) (fun t => t.pawn.leaving && rd PWR_STAT_STEP t == 9 && t.pawn.phase == 2) &&
    idle i (onPawn (fun p => { p with runNext := true }) (inPw 3))) &&
  after .pwrRun (takeEntries (put [(PWR_ENT_CFG_QOFF 9, 0)] (inPw 3))) (fun t => t.pawn.runNext && !t.pawn.leaving)) = true := by decide +kernel
/-- The owner runtime runs. -/
def sVe : State := onPawn (fun p => { p with booted := true }) (inPw 2)
theorem test_vendorRuntimeStart : (after (.vendorRuntimeStart true true 1 true true [] []) (slotted ⟨[1], 7, true⟩ sVe) (fun t => rd (DRC_STAT_STATE 0) t == 2 && rd (DRC_STAT_STATE 1) t == 2 &&
    rd DRC_MAP_TOP t == 2 * 2 ^ 2 * 896 && rd FL_STAT_STATE t == 4 && rd PWR_BOOT_NOIMAGE t == 0) &&
  after (.vendorRuntimeStart true true 0 false true [] []) (onFl (fun f => { f with formatted := true }) sVe) (fun t => rd (DRC_STAT_STATE 0) t == 3 && rd PWR_BOOT_NOIMAGE t == 1 && rd FL_STAT_STATE t == 2 &&
    logged 94 0xB140 0 t && logged 261 0x2070 0 t) && idle (.vendorRuntimeStart true true 1 true true [] []) (inPw 2)) = true := by decide +kernel

/-- A section without records but those given. -/
def aSct (t : BitVec 8) (rs : List ImgRec) : ImgSection := ⟨t, 0, false, false, true, true, none, true, rs⟩
/-- An image that says next to nothing, with such SYSTEM records. -/
def anImage (rs : List ImgRec) : Image := ⟨true, 0, false, 0, 0, 0, true, true, 0, true, [aSct 2 rs, aSct 3 [], aSct 5 [], aSct 6 [], aSct 7 [], aSct 8 []], aSec true, [], [], [], [], none⟩
/-- Slot 0 is to be admitted. -/
def sAd : State := slotted ⟨[1], 7, true⟩ (put [(FL_STAT_STATE, 2), (DRC_STAT_STATE 0, 2), (DRC_MAP_TOP, 256)] sVe)
theorem test_admissionFails : (admitting 0 sAd && idle (.slotAdmission 1 (anImage []) []) sAd &&
  after (.slotAdmission 0 { anImage [] with headOk := false } []) sAd (fun t => t.pawn.failed == [0] && logged 261 0x2020 0 t && rd PWR_BOOT_NOIMAGE t == 1) &&
  after (.slotAdmission 0 { anImage [] with sections := [] } []) sAd (fun t => t.pawn.failed == [0] && logged 261 0x2040 0 t)) = true := by decide +kernel
/-- No register stands at 0x41000002, so that the load fails after it began. -/
def badWrite : ImgRec := .reg 0x41000002 [0]
theorem test_admission : (after (.slotAdmission 0 (anImage []) []) sAd (fun t => rd FL_SLOTST_BOOTED t == 0 && rd PWR_BOOT_SLOT t == 0 && t.image.owner && rookArmed t)) = true := by decide +kernel
theorem test_admissionFailsLate : (after (.slotAdmission 0 (anImage [badWrite]) []) sAd (fun t => rd (bitOf PWR_BOOT_TRIED 0) t == 1 && pawnState t == 2 && rd GLB_RSTCAUSE_WARM t == 1)) = true := by decide +kernel

/-- Audio is ready to start. -/
def sAu : State := put [(ROOK_STAT_STATE, 1), (GLB_TLSTAT_VALID, 1), (TB_STAT_STATE, 5)] { inPw 2 with image := { ImageSt.reset with owner := true }, tl := { sPw.tl with k := 9 } }
theorem test_audioStart : (startReady sAu && after .audioStart sAu (fun t => rd GLB_TLSTAT_RUN t == 1 && rd SG_CTL_RUN t == 1 && rd TEMPO_CTL_EN t == 1 && rd MOD_GCTL_RUN t == 1 && rd (POD_CTL_RUN 15) t == 1 &&
    t.image.started == some 9) && idle .audioStart (put [(TB_STAT_STATE, 3)] sAu)) = true := by decide +kernel

/-! ### Halvon: sessions and messages -/

/-- Session 5 of role 0, open, with SEQ 3 accepted, of a certificate valid for ever. -/
def aSession : Session := ⟨5, 0, 77, 0, BitVec.allOnes 64, true, 3, [3], [], 6, none, [], 0, [], 0, 0, []⟩
/-- The engine with a session. -/
def sHv (x : Session) : State := onHalv (fun h => { h with sessions := [x] }) sR
/-- A sound message 4 of it, without an apply time. -/
def aHead : MsgHead := ⟨true, 5, 4, 0, false, false, 0, true, false, true⟩
/-- One answer of a type and a status has been sent. -/
def sent1 (typ st idx : Nat) (q : HalvonOut → Bool) (t : State) : Bool := match t.halv.out with
  | [m] => m.typ == typ && m.session == 5 && m.seq == 7 && m.reqSeq == 4 && m.status == st && m.errIdx == idx && !m.more && q m
  | _ => false
/-- Whatever else it says. -/
def any (_ : HalvonOut) : Bool := true
/-- Nothing has been sent and the session is as it was. -/
def mute (x : Session) (t : State) : Bool := t.halv.out.isEmpty && t.halv.sessions == [x]
/-- A request of every type. -/
noncomputable def sak (h : MsgHead) : List Instr := [.bye h, .keyroll h, .get h [], .set h [], .scene h 1, .meterSub h 1 1 [2], .eventSub h 1, .capture h 0 0 0 0 0, .castle h, .logRead h 0 1, .life h, .macsecRekey h aSak]

theorem test_msgBad : ((sak { aHead with formOk := false }).all fun i => after i (sHv aSession) (mute aSession)) = true := by decide +kernel
theorem test_msgUnknown : ((sak { aHead with session := 6 }).all fun i => after i (sHv aSession) (mute aSession)) = true := by decide +kernel
/-- The window begins 63 below the highest SEQ. -/
theorem test_msgReplay : (let x := { aSession with high := 68, seen := [68] }
  (sak aHead).all fun i => after i (sHv x) (fun t => mute x t && t.halv.replays == 1)) = true := by decide +kernel
theorem test_msgTag : ((sak { aHead with tagOk := false }).all fun i => after i (sHv aSession) (fun t => mute aSession t && t.halv.tagFails == 1)) = true := by decide +kernel
theorem test_msgPast : (let x := { aSession with notAfter := 0 }
  (sak aHead).all fun i => after i { sHv x with ns := 1000000000 } (mute x)) = true := by decide +kernel
/-- A copy of an accepted message is answered again, or counted as a replay. -/
theorem test_msgAgain : (let m : HalvonOut := ⟨3, 5, 6, false, 3, 0, false, false, false, 0xFFFF, 0, 0, []⟩
  let x := { aSession with replies := [(false, 3, [m])] }
  ((sak { aHead with seq := 3 }).all fun i => after i (sHv x) (fun t => t.halv.out == [m] && t.halv.sessions == [x])) &&
  ((sak { aHead with seq := 3 }).all fun i => after i (sHv aSession) (fun t => mute aSession t && t.halv.replays == 1))) = true := by decide +kernel
/-- The wrong role, no permission, and a body or a header that is wrong. -/
theorem test_msgHead : (let x := { aSession with role := 2 }
  let s := { sHv x with image := { ImageSt.reset with masks := [0, 0, 0x800] } }
  (((sak aHead).all fun i => after i s (fun t => t.halv.out.any fun m => m.status == 3)) &&
  (((sak { aHead with role := 2 }).drop 1).all fun i => after i s (fun t => t.halv.out.any fun m => m.status == 4)) &&
  ((sak { aHead with bodyOk := false }).all fun i => after i (sHv aSession) (fun t => t.halv.out.any fun m => m.status == 1)) &&
  ((sak { aHead with now := true, ptp := true }).all fun i => after i (sHv aSession) (fun t => t.halv.out.any fun m => m.status == 1)))) = true := by decide +kernel
theorem test_bye : after (.bye aHead) (sHv aSession) (fun t => sent1 0x03 0 0xFFFF any t && t.halv.sessions.isEmpty) = true := by decide +kernel
/-- The new key comes with fresh words; a second KEYROLL meanwhile is refused. -/
theorem test_keyroll : (after (.keyroll aHead) (sHv aSession) (fun t => sent1 0x04 0 0xFFFF (fun m => m.body.length == 33) t &&
    ((getSession 5 t).any fun y => y.high == 0 && y.seen.isEmpty && y.tx == 0 && y.old == some (4, [4, 3]))) &&
  after (.keyroll { aHead with tagOk := false, oldOk := true }) (sHv { aSession with old := some (3, []), high := 0, seen := [] }) (sent1 0x04 0x16 0xFFFF any)) = true := by decide +kernel

/-- A certificate of role 0 whose signature verifies. -/
def aCert : RoleCert := ⟨0, false, 77, 0, 0, BitVec.allOnes 64, true⟩
/-- An answer in clear. -/
def clear1 (typ st : Nat) (t : State) : Bool := match t.halv.out with
  | [m] => m.typ == typ && m.session == 0 && m.status == st
  | _ => false
theorem test_helloRefused : (after (.hello false 0 1 aCert) sR (fun t => t.halv.out.isEmpty) && after (.hello true 0 1 { aCert with sigOk := false }) sR (fun t => clear1 1 0x10 t && logged 261 0xD001 0 t) &&
  after (.hello true 1 1 aCert) sR (clear1 1 3) && after (.hello true 0 1 { aCert with notAfter := 0 }) sR (clear1 1 0x11) &&
  after (.hello true 0 1 aCert) (onHalv (fun h => { h with sessions := List.replicate 64 aSession }) sR) (clear1 1 0x12) &&
  after (.hello true 0 1 aCert) (onHalv (fun h => { h with helloTimes := List.replicate 20 0 }) sR) (fun t => t.halv.out.isEmpty && t.halv.helloDrops == 1)) = true := by decide +kernel
theorem test_helloReady : (certStatus 0 aCert sR == none && after (.hello true 0 1 aCert) (put [(KS_STAT_PUF_OK, 1), (KS_STAT_TRNG_OK, 1)] sR) (fun t => t.halv.sessions.length == 1)) = true := by decide +kernel
theorem test_devcert : (after (.devcert true 1) sR (fun t => clear1 2 0 t && t.halv.out.map (·.body) == [deviceCert sR]) && after (.devcert false 1) sR (fun t => t.halv.out.isEmpty) &&
  after (.devcert true 1) (onHalv (fun h => { h with helloTimes := List.replicate 20 0 }) sR) (fun t => t.halv.helloDrops == 1)) = true := by decide +kernel
theorem test_sessionEnds : ([Instr.sessionOpenTimeout 6, .sessionExpiry 6, .event 6 .meter, .eventDropTimeout 6 .fault].all fun i => idle i (sHv aSession)) = true := by decide +kernel
theorem test_sessionTimeouts : (idle (.sessionOpenTimeout 5) (sHv aSession) && after (.sessionOpenTimeout 5) (sHv { aSession with opened := false }) (fun t => t.halv.sessions.isEmpty) &&
  after (.sessionIdleTimeout 5) (sHv aSession) (fun t => t.halv.sessions.isEmpty) && idle (.sessionExpiry 5) (sHv aSession) &&
  after (.sessionExpiry 5) (sHv { aSession with notAfter := 0 }) (fun t => t.halv.sessions.isEmpty && logged 261 0xD002 0 t) &&
  after (.oldKeyExpiry 5) (sHv { aSession with old := some (9, []) }) (fun t => t.halv.sessions == [aSession])) = true := by decide +kernel
theorem test_event : (let x := { aSession with queue := [(.fault, [1]), (.meter, [2]), (.fault, [3])], dropFault := 9 }
  after (.event 5 .fault) (sHv x) (fun t => t.halv.out.map (·.body) == [[0x02000002, 9, 1, 3]] && ((getSession 5 t).any fun y => y.queue == [(.meter, [2])] && y.dropFault == 0 && y.tx == 7)) &&
  after (.eventDropTimeout 5 .fault) (sHv x) (fun t => t.halv.eventDrops == 1 && ((getSession 5 t).any fun y => y.queue == [(.meter, [2]), (.fault, [3])] && y.dropFault == 10)) &&
  idle (.event 5 .fault) (sHv { x with sent := List.replicate 100 0 }) && idle (.event 5 .fault) (sHv aSession)) = true := by decide +kernel

/-! ### Halvon: what the requests do -/

/-- The muting of source 3, and an address without a parameter. -/
def aPar : ParamAddr := ⟨1, 2, 3⟩
/-- See `aPar`. -/
def noPar : ParamAddr := ⟨0, 0, 0⟩
theorem test_get : (after (.get aHead [aPar]) (sHv aSession) (sent1 0x10 0 0xFFFF (fun m => m.body == [1, 0x00010200, 3, 100])) && after (.get aHead [noPar]) (sHv aSession) (sent1 0x10 7 0 any) &&
  after (.get { aHead with role := 14 }  [aPar]) { sHv { aSession with role := 14 } with image := { ImageSt.reset with masks := List.replicate 15 1 } } (sent1 0x10 5 0 any)) = true := by decide +kernel
theorem test_set : (setStatus 0 false ⟨aPar, 1⟩ (sHv aSession) == none && after (.set aHead [⟨aPar, 1⟩]) (sHv aSession) (fun t => sent1 0x11 0 0xFFFF (fun m => m.applyBsn == 10 && m.late) t && t.tl.pend.length == 1) &&
  after (.set aHead []) (sHv aSession) (sent1 0x11 1 0xFFFF any) && after (.set aHead [⟨noPar, 1⟩]) (sHv aSession) (fun t => sent1 0x11 7 0 any t && t.tl.pend.isEmpty) &&
  after (.set { aHead with apply := 2000000 } [⟨aPar, 1⟩]) (sHv aSession) (fun t => sent1 0x11 0x0A 0xFFFF any t && t.tl.pend.isEmpty) &&
  after (.set aHead [⟨⟨0xFF, 1, 3⟩, 1⟩]) (sHv aSession) (sent1 0x11 9 0 any)) = true := by decide +kernel
/-- The standby of a matched pair takes no changes and opens no window. -/
def sSt : State := put [(DRN_STAT_MATCH, 1)] (onHalv (fun h => { h with sessions := [aSession] }) (sKg 2 true))
theorem test_standby : (notHolder sSt && after (.set aHead [⟨aPar, 1⟩]) sSt (fun t => sent1 0x11 0x0E 0xFFFF any t && t.tl.pend.isEmpty) &&
  after (.capture aHead 0 0 0 20 30) sSt (sent1 0x16 0x0E 0xFFFF any)) = true := by decide +kernel
theorem test_scene : (let s := { sHv aSession with image := { ImageSt.reset with scenes := [(1, [⟨aPar, 1⟩])] } }
  after (.scene aHead 1) s (fun t => sent1 0x12 0 0xFFFF (fun m => m.applyBsn == 10) t && t.tl.pend.length == 1) && after (.scene aHead 2) s (sent1 0x12 7 0xFFFF any)) = true := by decide +kernel
theorem test_meterSub : (after (.meterSub aHead 1 9 [1023]) (sHv { aSession with meters := [(2, 4, 0)] }) (fun t => sent1 0x13 0 0xFFFF any t && ((getSession 5 t).any fun y => y.meters == [(2, 4, 0), (1023, 9, 0)])) &&
  after (.meterSub aHead 0 9 [2]) (sHv { aSession with meters := [(2, 4, 0)] }) (fun t => (getSession 5 t).any fun y => y.meters.isEmpty) &&
  after (.meterSub aHead 1 9 [1024]) (sHv aSession) (sent1 0x13 7 0 any) && after (.meterSub aHead 1 0 [2]) (sHv aSession) (sent1 0x13 1 0xFFFF any) &&
  after (.eventSub aHead 0x8001) (sHv aSession) (fun t => sent1 0x14 0 0xFFFF any t && ((getSession 5 t).any fun y => y.mask == 0x8001))) = true := by decide +kernel

/-- Flash is ready with a layout, and there is a session. -/
def sCp : State := onFl (fun f => { f with desc := some (aDesc 4), nextId := 3 }) (put [(FL_STAT_STATE, 2), (FL_GEOM_CAPDIES, 2)] (sHv aSession))
theorem test_captureOpen : (resolveWindow 9 20 30 == .ok 20 30 false && after (.capture aHead 0 0 0 20 30) sCp (fun t => sent1 0x16 0 0xFFFF (fun m => m.applyBsn == 20 && m.body == [3, 20, 30]) t &&
    rd FL_STAT_CAP t == 1 && t.flash.window == some ⟨3, 20, 30, false⟩) &&
  after (.capture aHead 0 0 0 20 20) sCp (sent1 0x16 0x0C 0xFFFF any) && after (.capture aHead 0 8 0 20 (BitVec.ofNat 64 (2 ^ 31))) sCp (sent1 0x16 0x0D 0xFFFF any) &&
  after (.capture aHead 0 0 0 0x80000009 0x80000019) sCp (sent1 0x16 0x0A 0xFFFF any)) = true := by decide +kernel
theorem test_captureRefused : (after (.capture aHead 3 0 0 20 30) sCp (sent1 0x16 1 0xFFFF any) && after (.capture aHead 0 32 0 20 30) sCp (sent1 0x16 1 0xFFFF any) &&
  after (.capture aHead 0 0 1 20 30) sCp (sent1 0x16 1 0xFFFF any) && after (.capture aHead 0 0 0 20 30) (put [(FL_STAT_CAP, 2)] sCp) (sent1 0x16 0x16 0xFFFF any) &&
  after (.capture aHead 0 0 0 20 30) (onFl (fun f => { f with desc := some { aDesc 4 with tprog := 0 } }) sCp) (sent1 0x16 0x15 0xFFFF any) &&
  after (.capture aHead 1 0 9 0 30) sCp (sent1 0x16 7 0xFFFF any)) = true := by decide +kernel
theorem test_captureStop : (let s := onFl (fun f => { f with window := some ⟨3, 20, 30, false⟩ }) sCp
  after (.capture aHead 1 0 3 0 40) s (fun t => sent1 0x16 0 0xFFFF (fun m => m.body == [3, 20, 40] && !m.stopLate) t && t.flash.window == some ⟨3, 20, 40, false⟩) &&
  after (.capture aHead 2 0 3 0 0) (onFl (fun f => { f with window := some ⟨3, 5, 30, false⟩ }) sCp) (fun t => t.flash.window == some ⟨3, 5, 10, false⟩) &&
  after (.capture aHead 1 0 3 0 0x8000000A) (onFl (fun f => { f with window := some ⟨3, 5, 30, false⟩ }) sCp) (sent1 0x16 0x0A 0xFFFF any)) = true := by decide +kernel
theorem test_castleRequest : (after (.castle aHead) (sHv aSession) (sent1 0x17 0x16 0xFFFF any) &&
  after (.castle aHead) (onPair (fun p => { p with castling := some ⟨30, true, false, false, 4⟩ }) (sHv aSession)) (sent1 0x17 0 0xFFFF (fun m => m.applyBsn == 30))) = true := by decide +kernel
theorem test_logRead : (let r := mkRec 7 0xC001 0 sR
  after (.logRead aHead 8 1) (onFl (fun f => { f with pages := [[(7, r), (8, r), (9, r)]] }) (sHv aSession)) (sent1 0x18 0 0xFFFF (fun m => m.body == 65536 :: recWords 8 r)) &&
  after (.logRead aHead 8 0) (sHv aSession) (sent1 0x18 1 0xFFFF any)) = true := by decide +kernel
theorem test_life : after (.life aHead) (sHv aSession) (fun t => match t.halv.out with
  | [m, n] => m.more && !n.more && m.seq == 7 && n.seq == 8 && m.body.length == 16 && n.body == deviceCert sR
  | _ => false) = true := by decide +kernel
theorem test_macsecRekey : (after (.macsecRekey { aHead with apply := 20 } aSak) (sHv aSession) (fun t => sent1 0x1A 0 0xFFFF (fun m => m.applyBsn == 20 && !m.late) t && slotValid 13 t && t.tl.pend.length == 1) &&
  after (.macsecRekey { aHead with apply := 2000000 } aSak) (sHv aSession) (fun t => sent1 0x1A 0x0A 0xFFFF any t && t.ks == sR.ks)) = true := by decide +kernel

/-! ### Register writes, records and island resets -/

/-- A write of CC0's is well formed in register space only. -/
theorem test_wellFormed_register : (!(Instr.registerWrite 0 false false 0x3FFFFFFF 1).wellFormed && (Instr.registerWrite 0 false false 0x40000000 1).wellFormed &&
  (Instr.registerWrite 0 false false 0x4FFFFFFC 1).wellFormed && !(Instr.registerWrite 0 false false 0x50000000 1).wellFormed) = true := by decide +kernel
theorem test_registerIllFormed : (exec (.registerWrite 0 false false 0x50000000 1) sR matches .fault .illFormed) = true := by decide +kernel

/-- A register of Pawn's takes writes of CC0 alone; the key store's take none of a user. -/
theorem test_writeRefused : (after (.registerWrite 1 false false 0x4B000000 1) sR (fun t => logged 93 0x6004 0x4B000000 t && rd XB_CNT2_FWREF_COUNT t == 1) &&
  after (.registerWrite 0 true false 0x4A001FFC 1) sR (fun t => logged 93 0x6002 0x4A001FFC t) && after (.registerWrite 1 false false 0x4A000000 1) sR (fun t => logged 93 0x6002 0x4A000000 t)) = true := by decide +kernel
theorem test_writeDecode : (after (.registerWrite 5 false false (BitVec.ofNat 32 TEMPO_CTL_EN.addr + 2) 1) sR (fun t => logged 93 0xB001 0 t && rd XB_DECERR_LO_ADDR t == TEMPO_CTL_EN.addr + 2 &&
  rd XB_DECERR_HI_MASTER t == 5 && rd XB_CNT_DECERR_COUNT t == 1)) = true := by decide +kernel
theorem test_writeReset : (after (.registerWrite 0 false false (BitVec.ofNat 32 TEMPO_CTL_EN.addr) 0) (put [(ISL_STAT_STATE (islandOf TEMPO_CTL_EN.addr), 2)] sR) (fun t => logged 93 0xB003 0 t && rd TEMPO_CTL_EN t == 1)) = true := by decide +kernel
/-- Everything is on. -/
def sUp : State := put [(PWR_STAT_STATE, 2)] sR
theorem test_writeUnpowered : idle (.registerWrite 0 false false (BitVec.ofNat 32 TEMPO_CTL_EN.addr) 0) (put [(PWR_STAT_STATE, 0)] sR) = true := by decide +kernel
theorem test_writeLands : (after (.registerWrite 0 false false (BitVec.ofNat 32 TEMPO_CTL_EN.addr) 0) sUp (fun t => rd TEMPO_CTL_EN t == 0) &&
  idle (.registerWrite 0 false false (BitVec.ofNat 32 TEMPO_CTL_EN.addr + 0xFF0) 0xFFFFFFFF) sUp) = true := by decide +kernel
theorem test_writeClears : after (.registerWrite 0 false false (BitVec.ofNat 32 FEU_PEND_CLASS.addr) 0x14) (put [(FEU_PEND_CLASS, 0x1C)] sUp) (fun t => rd FEU_PEND_CLASS t == 8) = true := by decide +kernel
/-- A write that meets a hardware update of PRE. -/
theorem test_writeMeets : after (.registerWrite 0 false true (BitVec.ofNat 32 (LN_TXEQ_PRE 2).addr) (0x80000000 + 3 + 2 * 256)) (put [(LN_TXEQ_PRE 2, 1)] sUp) (fun t => rd (LN_TXEQ_PRE 2) t == 1 &&
  rd (LN_TXEQ_FIXED 2) t == 1 && rd (ISL_STAT_COLLIDE 32) t == 1 && rd (ISL_COLL_ADDR 32) t == (LN_TXEQ_PRE 2).addr % 2 ^ 28) = true := by decide +kernel
theorem test_writeStructural : after (.registerWrite 0 false false (BitVec.ofNat 32 (BRG_CFG_EN 5).addr) 0) (put [(SG_CTL_RUN, 1)] sUp) (fun t => rd (BRG_STAT_CFGERR 5) t == 1) = true := by decide +kernel
/-- PRE 15 and POST 24 leave MAIN below 32; PRE 8 and POST 24 do not. -/
theorem test_writeVerdict : (verdict (LN_TXEQ_PRE 2).addr (15 + 24 * 256) (rdReg (LN_TXEQ_PRE 2).addr sUp) sUp == .refuse (some (LN_STAT_CFGERR 2)) &&
  after (.registerWrite 0 false false (BitVec.ofNat 32 (LN_TXEQ_PRE 2).addr) (15 + 24 * 256)) sUp (fun t => rd (LN_STAT_CFGERR 2) t == 1) &&
  after (.registerWrite 0 false false (BitVec.ofNat 32 (LN_TXEQ_PRE 2).addr) (8 + 24 * 256)) sUp (fun t => rd (LN_TXEQ_PRE 2) t == 8 && rd (LN_TXEQ_MAIN 2) t == 32)) = true := by decide +kernel

theorem test_feuRaise : (after (.feuRaise 0x1042 0 false) sR (fun t => logged 265 0xE201 0 t) &&
  after (.feuRaise 0xF123 0 true) (put [(FEU_RAISEARG_ARG, 77)] sR) (fun t => logged 265 0xF123 77 t || (feuQueue 265 t).any fun r => r.code == 0xF123 && r.arg == 77 && r.user && r.write)) = true := by decide +kernel
/-- Rotation goes on from the island served last; a power code enters Pawn's fault record. -/
theorem test_feuIntake : (let r := mkRec 93 0xB001 5 sR
  let p := mkRec 7 0x1042 0 sR
  let s := { sR with feu := { sR.feu with queues := [(7, [p]), (93, [r])], served := 7 } }
  after .feuIntake s (fun t => t.feu.served == 93 && rd FEU_SEQ_SEQUENCE t == 1 && rd FEU_PEND_CLASS t == 2 ^ 11 && rdReg 0x4C000020 t == ((recWords 0 r)[0]?).getD 0 && t.flash.logBuf == [(0, r)]) &&
  after .feuIntake { s with feu := { s.feu with served := 93 } } (fun t => t.feu.served == 7 && rd PWR_FAULT_CODE t == 0x1042 && rd (flogRef 0) t == 0x1042) && idle .feuIntake sR) = true := by decide +kernel
theorem test_islReset : (idle (.islReset 7) sUp && idle (.islReset 32) (put [(ISL_STAT_STATE 32, 2)] sUp) && !fatalIsland 32 &&
  after (.islReset 32) (put [(LN_TXEQ_FIXED 2, 1)] sUp) (fun t => rd (ISL_STAT_STATE 32) t == 2 && rd (LN_TXEQ_FIXED 2) t == 0 && rd (ISL_CNT_RST_COUNT 32) t == 1 && logged 265 0xE020 0 t)) = true := by decide +kernel
/-- The crossbar's island carries everything: its reset is a warm restart. -/
theorem test_islResetFatal : (fatalIsland 93 && after (.islReset 93) sUp (fun t => rd GLB_RSTCAUSE_WARM t == 1 && pawnState t == 2)) = true := by decide +kernel
/-- Island 32's supply is low. -/
def sLow (n : Nat) : State := { put [(ISL_STAT_STATE 32, n)] sUp with feu := { sUp.feu with dipped := [32] } }
theorem test_domainResetEnd : (after (.domainResetEnd 32) (put [(ISL_STAT_STATE 32, 2), (ISL_CTL_RESET 32, 1)] sUp) (fun t => rd (ISL_STAT_STATE 32) t == 0 && rd (ISL_CTL_RESET 32) t == 0) &&
  idle (.domainResetEnd 32) sUp && idle (.domainResetEnd 32) (sLow 2)) = true := by decide +kernel
theorem test_supplyDip : (after (.supplyDip 32) sUp (fun t => t.feu.dipped == [32] && rd (ISL_STAT_STATE 32) t == 2) && idle (.supplyDip 32) (sLow 2) && idle (.supplyDip 7) sUp &&
  after (.supplyReturn 32) (sLow 2) (fun t => t.feu.dipped.isEmpty && rd (ISL_STAT_STATE 32) t == 0) && after (.supplyReturn 32) (sLow 0) (fun t => t.feu.dipped.isEmpty)) = true := by decide +kernel

end Sys2Proof.Tests
end

section
/-! PROOF. The rules of Halvon's sessions: what a fault record, a change of a session, a discard and a response leave of the state,
and which outcome the checks of a message (R535) come to. -/

namespace Sys2Proof.Machine

variable (s : State)

/-! ### Fault records -/

/-- A count changes registers alone. -/
theorem count_eq_regs (cnt sat : FRef) (isl : Nat) : ∃ regs, count cnt sat isl s = { s with regs := regs } := by
  unfold count
  split
  · exact ⟨_, rfl⟩
  · split
    · exact ⟨s.regs, rfl⟩
    · exact ⟨_, rfl⟩

/-- A raised record changes registers and the fault unit alone. -/
theorem raise_eq_regs_feu (isl code arg : Nat) : ∃ regs feu, raise isl code arg s = { s with regs := regs, feu := feu } := by
  unfold raise raiseRec raiseOn
  dsimp only
  split
  · exact ⟨s.regs, _, rfl⟩
  · obtain ⟨regs, hregs⟩ := count_eq_regs s FEU_CNT_DROP_COUNT FEU_STAT_DROP_SAT 265
    exact ⟨regs, _, by rw [hregs]⟩

@[simp] theorem raise_halv (isl code arg : Nat) : (raise isl code arg s).halv = s.halv := by
  obtain ⟨_, _, h⟩ := raise_eq_regs_feu s isl code arg
  rw [h]

@[simp] theorem raise_mem (isl code arg : Nat) : (raise isl code arg s).mem = s.mem := by
  obtain ⟨_, _, h⟩ := raise_eq_regs_feu s isl code arg
  rw [h]

@[simp] theorem raise_tl (isl code arg : Nat) : (raise isl code arg s).tl = s.tl := by
  obtain ⟨_, _, h⟩ := raise_eq_regs_feu s isl code arg
  rw [h]

/-- A record raised where the queue has room stands in the queue (R575). -/
theorem logs_raise {s : State} {isl : Nat} (code arg : Nat) (hroom : roomAt isl s) : Logs isl code arg (raise isl code arg s) := by
  have hlen : (feuQueue (mkRec isl code arg s).island s).length < 4 := hroom
  refine ⟨mkRec isl code arg s, ?_, rfl, rfl, rfl⟩
  have hq : feuQueue isl (raise isl code arg s) = feuQueue isl s ++ [mkRec isl code arg s] := by
    unfold raise raiseRec raiseOn
    rw [if_pos hlen]
    exact feuQueue_setFeuQueue_same s isl _
  simp [hq]

/-! ### Sessions found, changed and ended -/


theorem getSession_congr {s t : State} (h : t.halv.sessions = s.halv.sessions) (n : Nat) : getSession n t = getSession n s := by
  unfold getSession
  rw [h]

@[simp] theorem getSession_raise (n isl code arg : Nat) : getSession n (raise isl code arg s) = getSession n s :=
  getSession_congr (by rw [raise_halv]) n

theorem getSession_num {s : State} {n : Nat} {x : Session} (h : getSession n s = some x) : x.num = n := by
  simpa using List.find?_some h

theorem getSession_eq_none_iff {n : Nat} : getSession n s = none ↔ ∀ z ∈ s.halv.sessions, z.num ≠ n := by
  simp [getSession]

/-- A change that keeps the numbers is seen by the next look at the session. -/
theorem getSession_setSession {s : State} {n : Nat} {x : Session} {f : Session → Session} (hf : ∀ y, (f y).num = y.num)
    (hx : getSession n s = some x) : getSession n (setSession n f s) = some (f x) := by
  have hnum : ∀ y : Session, (if y.num = n then f y else y).num = y.num := by
    intro y
    split
    · exact hf y
    · rfl
  have hp : ((fun y : Session => y.num == n) ∘ fun y => if y.num = n then f y else y) = fun y => y.num == n := by
    funext y
    simp only [Function.comp, hnum y]
  have hfind : s.halv.sessions.find? (fun y => y.num == n) = some x := hx
  simp only [getSession, setSession, onHalv_halv, List.find?_map, hp, hfind, Option.map_some, getSession_num hx, if_true]

@[simp] theorem getSession_endSession (n : Nat) : getSession n (endSession n s) = none := by
  rw [getSession_eq_none_iff]
  intro z hz
  simpa using (List.mem_filter.1 hz).2

theorem mem_endSession {s : State} {n : Nat} {z : Session} (hz : z ∈ s.halv.sessions) (hn : z.num ≠ n) :
    z ∈ (endSession n s).halv.sessions :=
  List.mem_filter.2 ⟨hz, by simpa using hn⟩

/-- Among 65 successive numbers one is not in use by fewer than 64 sessions (R536). -/
theorem freshNumber_fresh (hlen : s.halv.sessions.length < 64) :
    freshNumber s ≠ 0 ∧ ∀ z ∈ s.halv.sessions, z.num ≠ freshNumber s := by
  have hsome : ∀ v : Nat, (((List.range 65).map fun i => (v + i) % 0xFFFFFFFF + 1).find? fun n => (getSession n s).isNone) ≠ none := by
    intro v hnone
    have hsub : ((List.range 65).map fun i => (v + i) % 0xFFFFFFFF + 1) ⊆ s.halv.sessions.map (·.num) := by
      intro n hn
      refine Classical.byContradiction fun hfree => ?_
      refine List.find?_eq_none.1 hnone n hn ?_
      rw [Option.isNone_iff_eq_none, getSession_eq_none_iff]
      exact fun z hz he => hfree (List.mem_map.2 ⟨z, hz, he⟩)
    have hnodup : ((List.range 65).map fun i => (v + i) % 0xFFFFFFFF + 1).Nodup := by
      refine List.pairwise_map.2 (List.Pairwise.imp_of_mem (fun {i j} hi hj hij he => hij ?_) List.nodup_range)
      rw [List.mem_range] at hi hj
      omega
    have hle := hnodup.length_le_of_subset hsub
    simp only [List.length_map, List.length_range] at hle
    omega
  obtain ⟨n, hn⟩ := Option.ne_none_iff_exists'.1 (hsome (freeVal 32 s).toNat)
  have hval : freshNumber s = n := by
    simp only [freshNumber, hn, Option.getD_some]
  rw [hval]
  refine ⟨?_, (getSession_eq_none_iff s).1 (by simpa using List.find?_some hn)⟩
  obtain ⟨i, _, rfl⟩ := List.mem_map.1 (List.mem_of_find?_eq_some hn)
  exact Nat.succ_ne_zero _

/-! ### Free words -/

/-- A draw of `n` free words gives `n` words and changes nothing but the count of free values. -/
theorem foldl_draw (n : Nat) (l : List (BitVec 32)) :
    ∃ l' c, (List.range n).foldl (fun x _ => (x.1 ++ [freeVal 32 x.2], freeNext x.2)) (l, s) = (l', { s with freeCtr := c }) ∧
      l'.length = l.length + n := by
  induction n with
  | zero => exact ⟨l, s.freeCtr, rfl, rfl⟩
  | succ n ih =>
    obtain ⟨l', c, heq, hlen⟩ := ih
    refine ⟨l' ++ [freeVal 32 { s with freeCtr := c }], c + 1, ?_, ?_⟩
    · rw [List.range_succ, List.foldl_append, heq]
      rfl
    · rw [List.length_append, hlen]
      rfl

/-- A fresh key is 33 words, and drawing it changes nothing but the count of free values (R536). -/
theorem freshKey_eq : ∃ c, (freshKey s).2 = { s with freeCtr := c } ∧ (freshKey s).1.length = 33 := by
  obtain ⟨l, c, heq, hlen⟩ := foldl_draw s 32 []
  refine ⟨c + 1, ?_, ?_⟩
  · simp only [freshKey, heq]
    rfl
  · simp only [freshKey, heq, List.length_append, hlen]
    rfl

theorem freshKey_length : (freshKey s).1.length = 33 := (freshKey_eq s).choose_spec.2

@[simp] theorem freshKey_halv : (freshKey s).2.halv = s.halv := by
  obtain ⟨c, h, _⟩ := freshKey_eq s
  rw [h]

@[simp] theorem getSession_freshKey (n : Nat) : getSession n (freshKey s).2 = getSession n s :=
  getSession_congr (by rw [freshKey_halv]) n

/-! ### Discards and answers in clear -/

/-- The sessions, the memories and the timeline stay. -/
def KeepsSessions (s t : State) : Prop := t.halv.sessions = s.halv.sessions ∧ t.mem = s.mem ∧ t.tl = s.tl

/-- What a discard leaves of Halvon: its statistic counts, nothing is sent, and the discard's time is noted (R535, R557). -/
theorem discard_halv (f : HalvonSt → HalvonSt) : ∃ log, (discard f s).halv =
    { f s.halv with discTimes := lastSecond s.halv.discTimes s ++ [s.ns.toNat], out := [], discLog := log } := by
  unfold discard
  dsimp only
  split
  · exact ⟨s.ns.toNat + 1, by rw [raise_halv]; rfl⟩
  · exact ⟨(f s.halv).discLog, rfl⟩

@[simp] theorem discard_mem (f : HalvonSt → HalvonSt) : (discard f s).mem = s.mem := by
  unfold discard
  dsimp only
  split
  · rw [raise_mem, onHalv_mem, onHalv_mem]
  · rw [onHalv_mem]

@[simp] theorem discard_tl (f : HalvonSt → HalvonSt) : (discard f s).tl = s.tl := by
  unfold discard
  dsimp only
  split
  · rw [raise_tl, onHalv_tl, onHalv_tl]
  · rw [onHalv_tl]

@[simp] theorem discard_out (f : HalvonSt → HalvonSt) : (discard f s).halv.out = [] := by
  obtain ⟨log, h⟩ := discard_halv s f
  rw [h]

theorem discard_keepsSessions {s : State} {f : HalvonSt → HalvonSt} (hf : (f s.halv).sessions = s.halv.sessions) :
    KeepsSessions s (discard f s) := by
  obtain ⟨log, h⟩ := discard_halv s f
  exact ⟨by rw [h]; exact hf, discard_mem s f, discard_tl s f⟩

/-- A message of bad form or of no session is discarded with no statistic (R535). -/
theorem discard_id_silent : (discard id s).halv.out = [] ∧ KeepsSessions s (discard id s) :=
  ⟨discard_out s id, discard_keepsSessions rfl⟩

/-- A copy or a SEQ below the window counts as a replay (R535). -/
theorem discard_replay : (discard (fun q => { q with replays := statUp q.replays }) s).halv.out = [] ∧
    KeepsSessions s (discard (fun q => { q with replays := statUp q.replays }) s) ∧
    (discard (fun q => { q with replays := statUp q.replays }) s).halv.replays = statUp s.halv.replays := by
  refine ⟨discard_out s _, discard_keepsSessions rfl, ?_⟩
  obtain ⟨log, h⟩ := discard_halv s fun q => { q with replays := statUp q.replays }
  rw [h]

/-- A tag that does not verify counts as a tag failure (R535). -/
theorem discard_tagFail : (discard (fun q => { q with tagFails := statUp q.tagFails }) s).halv.out = [] ∧
    KeepsSessions s (discard (fun q => { q with tagFails := statUp q.tagFails }) s) ∧
    (discard (fun q => { q with tagFails := statUp q.tagFails }) s).halv.tagFails = statUp s.halv.tagFails := by
  refine ⟨discard_out s _, discard_keepsSessions rfl, ?_⟩
  obtain ⟨log, h⟩ := discard_halv s fun q => { q with tagFails := statUp q.tagFails }
  rw [h]

/-- A HELLO or DEVCERT request in excess is counted, and nothing is sent (R537). -/
theorem dropHello_silent : (dropHello s).halv.out = [] ∧ KeepsSessions s (dropHello s) ∧
    (dropHello s).halv.helloDrops = statUp s.halv.helloDrops := by
  obtain ⟨log, h⟩ := discard_halv s fun q => { q with helloDrops := statUp q.helloDrops }
  unfold KeepsSessions dropHello
  dsimp only
  split
  · simp only [raise_halv, raise_mem, raise_tl, onHalv_halv, onHalv_mem, onHalv_tl, discard_mem, discard_tl, h, and_self]
  · simp only [discard_mem, discard_tl, h, and_self]

theorem helloExcess_eq_true_iff : helloExcess s = true ↔ ¬ (lastSecond s.halv.helloTimes s).length < 20 := by
  simp [helloExcess]

/-- One message in clear goes out (R534, R537). -/
def ClearAnswer (typ st : Nat) (t : State) : Prop :=
  ∃ m, t.halv.out = [m] ∧ m.typ = typ ∧ m.session = 0 ∧ m.status = st

/-- An answer in clear to a request that is noted changes no session. -/
theorem clearOut_answers (typ seq st : Nat) (body : List (BitVec 32)) :
    ClearAnswer typ st (clearOut typ 0 seq st body (noteHello s)) ∧
      (∀ m ∈ (clearOut typ 0 seq st body (noteHello s)).halv.out, m.body = body) ∧
      KeepsSessions s (clearOut typ 0 seq st body (noteHello s)) := by
  refine ⟨⟨_, rfl, rfl, rfl, rfl⟩, ?_, rfl, rfl, rfl⟩
  intro m hm
  rw [List.mem_singleton.1 hm]

/-! ### The outcome of the checks (R535) -/

/-- The certificate's end has passed (R216, R535). -/
def PastEnd (x : Session) (s : State) : Prop :=
  tlValid s = true ∧ x.notAfter ≠ BitVec.allOnes 64 ∧ x.notAfter.toNat < s.ns.toNat / 1000000000

/-- The message names a session, and opens it only with SEQ 1 (R535, R536). -/
def Framed (h : MsgHead) (x : Session) (s : State) : Prop :=
  h.formOk = true ∧ getSession h.session.toNat s = some x ∧ (x.opened = true ∨ h.seq.toNat = 1)

/-- The SEQ lies within the window of 64 below the highest accepted (R538). -/
def InWindow (seq high : Nat) : Prop := seq ≠ 0 ∧ high < seq + 64

/-- The message passes the checks of steps 1 to 4 under the key in force, copies included (R535). -/
def Authentic (h : MsgHead) (x : Session) (s : State) : Prop :=
  Framed h x s ∧ InWindow h.seq.toNat x.high ∧ h.tagOk = true ∧ ¬ PastEnd x s

/-- An authentic message that is no copy, with SEQs left on both sides (R538). -/
def FreshMsg (h : MsgHead) (x : Session) (s : State) : Prop :=
  Authentic h x s ∧ h.seq.toNat ∉ x.seen ∧ h.seq.toNat < 2 ^ 32 - 1 ∧ x.tx < 2 ^ 32 - 100

theorem seqInWindow_eq_true_iff (seq high : Nat) : seqInWindow seq high = true ↔ InWindow seq high := by
  simp only [seqInWindow, InWindow, Bool.and_eq_true, bne_iff_ne, Nat.ble_eq]
  omega

theorem seqInWindow_eq_false_iff (seq high : Nat) : seqInWindow seq high = false ↔ ¬ InWindow seq high := by
  rw [← seqInWindow_eq_true_iff, Bool.not_eq_true]

variable {s} {h : MsgHead} {x : Session}

/-- The check of the certificate's end, as `intake` makes it. -/
theorem pastEnd_check (x : Session) (s : State) :
    (tlValid s && x.notAfter != BitVec.allOnes 64 && Nat.blt x.notAfter.toNat (s.ns.toNat / 1000000000)) = true ↔ PastEnd x s := by
  simp only [PastEnd, Bool.and_eq_true, bne_iff_ne, Nat.blt_eq, and_assoc]

theorem Framed.form_ok (hf : Framed h x s) : h.formOk = true := hf.1

theorem Framed.session (hf : Framed h x s) : getSession h.session.toNat s = some x := hf.2.1

/-- The session that a framed message names is found under its own number. -/
theorem Framed.session_num (hf : Framed h x s) : getSession x.num s = some x := by
  rw [getSession_num hf.session, hf.session]

theorem Framed.opening (hf : Framed h x s) : (!x.opened && h.seq.toNat != 1) = false := by
  obtain ⟨_, _, hopen | hseq⟩ := hf
  · simp [hopen]
  · simp [hseq]

theorem intake_unknown (hbad : h.formOk = false ∨ getSession h.session.toNat s = none) : intake h s = .bad id := by
  unfold intake
  rcases hbad with hform | hnone
  · simp [hform]
  · simp [hnone]

section
variable (hf : Framed h x s)
include hf

theorem intake_outOfWindow (hkey : h.oldOk = false) (hw : ¬ InWindow h.seq.toNat x.high) :
    intake h s = .bad fun q => { q with replays := statUp q.replays } := by
  simp [intake, hf.form_ok, hf.session, hf.opening, hkey, (seqInWindow_eq_false_iff _ _).2 hw]

theorem intake_tagFails (hkey : h.oldOk = false) (hw : InWindow h.seq.toNat x.high) (htag : h.tagOk = false) :
    intake h s = .bad fun q => { q with tagFails := statUp q.tagFails } := by
  simp [intake, hf.form_ok, hf.session, hf.opening, hkey, htag, (seqInWindow_eq_true_iff _ _).2 hw]

theorem intake_pastEnd (hw : InWindow h.seq.toNat x.high) (htag : h.tagOk = true) (hpast : PastEnd x s) : intake h s = .bad id := by
  simp only [intake, hf.form_ok, hf.session, hf.opening, htag, (seqInWindow_eq_true_iff _ _).2 hw, pastEnd_check, hpast, Bool.not_true,
    Bool.and_false, Bool.false_and, Bool.false_eq_true, if_true, if_false]

/-- A message under the key that a KEYROLL replaced, no copy, is accepted under it (R539). -/
theorem intake_oldKey {w : Nat × List Nat} (htag : h.tagOk = false) (hkey : h.oldOk = true) (hold : x.old = some w)
    (hw : InWindow h.seq.toNat w.1) (hpast : ¬ PastEnd x s) (hseen : h.seq.toNat ∉ w.2) : intake h s = .ok x true := by
  simp only [intake, hf.form_ok, hf.session, hf.opening, htag, hkey, hold, (seqInWindow_eq_true_iff _ _).2 hw, pastEnd_check, hpast,
    Option.isSome_some, Option.getD_some, List.contains_iff_mem, hseen, Bool.not_true, Bool.not_false, Bool.and_true, Bool.and_false,
    Bool.false_eq_true, if_true, if_false]

end

section
variable (ha : Authentic h x s)
include ha

/-- A copy of an accepted message is answered again with the response that is kept (R538). -/
theorem intake_copy {b : Bool} {q : Nat} {out : List HalvonOut} (hseen : h.seq.toNat ∈ x.seen)
    (hfind : (x.replies.find? fun r => r.1 == false && r.2.1 == h.seq.toNat) = some (b, q, out)) : intake h s = .again out := by
  obtain ⟨hf, hw, htag, hpast⟩ := ha
  simp only [intake, hf.form_ok, hf.session, hf.opening, htag, (seqInWindow_eq_true_iff _ _).2 hw, pastEnd_check, hpast, Bool.not_true,
    Bool.and_false, Bool.false_and, Bool.false_eq_true, if_true, if_false, List.contains_iff_mem, hseen, hfind]

/-- A copy whose response is kept no more counts as a replay (R538). -/
theorem intake_lostCopy (hseen : h.seq.toNat ∈ x.seen) (hnone : ∀ r ∈ x.replies, ¬(r.1 = false ∧ r.2.1 = h.seq.toNat)) :
    intake h s = .bad fun q => { q with replays := statUp q.replays } := by
  have hfind : (x.replies.find? fun r => r.1 == false && r.2.1 == h.seq.toNat) = none := by simpa using hnone
  obtain ⟨hf, hw, htag, hpast⟩ := ha
  simp only [intake, hf.form_ok, hf.session, hf.opening, htag, (seqInWindow_eq_true_iff _ _).2 hw, pastEnd_check, hpast, Bool.not_true,
    Bool.and_false, Bool.false_and, Bool.false_eq_true, if_true, if_false, List.contains_iff_mem, hseen, hfind]

theorem intake_accepted (hseen : h.seq.toNat ∉ x.seen) : intake h s = .ok x false := by
  obtain ⟨hf, hw, htag, hpast⟩ := ha
  simp only [intake, hf.form_ok, hf.session, hf.opening, htag, (seqInWindow_eq_true_iff _ _).2 hw, pastEnd_check, hpast, Bool.not_true,
    Bool.and_false, Bool.false_and, Bool.false_eq_true, if_false, List.contains_iff_mem, hseen]

end

/-! ### The role, the permission and the form (R535, R541) -/

/-- The message speaks for the session's role, which the image defines (R10, R535). -/
def RoleHeld (h : MsgHead) (x : Session) (s : State) : Prop := h.role.val = x.role ∧ roleDefined x.role s = true

/-- The role has the permission that the type asks for, if it asks for one (R217). -/
def Permitted (perm : Option Nat) (x : Session) (s : State) : Prop := ∀ b, perm = some b → rolePermits x.role b s = true

/-- A message with a body of its form and no apply time (R541). -/
def PlainHead (h : MsgHead) : Prop := h.apply = 0 ∧ h.now = false ∧ h.ptp = false ∧ h.bodyOk = true

theorem roleCheck_eq_false_iff : (h.role.val != x.role || !roleDefined x.role s) = false ↔ RoleHeld h x s := by
  simp [RoleHeld]

theorem headStatus_wrongRole (perm : Option Nat) (timed : Bool) (hr : ¬ RoleHeld h x s) : headStatus perm timed h x s = some 0x03 := by
  rw [← roleCheck_eq_false_iff, Bool.not_eq_false] at hr
  simp only [headStatus, hr, if_true]

section
variable (hr : RoleHeld h x s)
include hr

theorem headStatus_notPermitted {b : Nat} (timed : Bool) (hp : rolePermits x.role b s = false) :
    headStatus (some b) timed h x s = some 0x04 := by
  simp [headStatus, roleCheck_eq_false_iff.2 hr, hp]

/-- Once role and permission hold, the form is judged. -/
theorem headStatus_permitted {perm : Option Nat} (timed : Bool) (hp : Permitted perm x s) :
    headStatus perm timed h x s = if !applyForm timed h || !h.bodyOk then some 0x01 else none := by
  cases perm with
  | none => simp [headStatus, roleCheck_eq_false_iff.2 hr]
  | some b => simp [headStatus, roleCheck_eq_false_iff.2 hr, hp b rfl]

theorem headStatus_badForm {perm : Option Nat} {timed : Bool} (hp : Permitted perm x s)
    (hbad : h.bodyOk = false ∨ (h.now = true ∧ h.ptp = true) ∨ (timed = false ∧ (h.apply ≠ 0 ∨ h.now = true ∨ h.ptp = true))) :
    headStatus perm timed h x s = some 0x01 := by
  rw [headStatus_permitted hr timed hp, if_pos]
  rcases hbad with hbody | ⟨hnow, hptp⟩ | ⟨htimed, happly | hnow | hptp⟩
  · simp [hbody]
  · cases timed <;> simp [applyForm, hnow, hptp]
  · simpa [applyForm, htimed] using Or.inl (Or.inl (Or.inl happly))
  · simp [applyForm, htimed, hnow]
  · simp [applyForm, htimed, hptp]

theorem headStatus_plain {perm : Option Nat} (hp : Permitted perm x s) (hplain : PlainHead h) : headStatus perm false h x s = none := by
  obtain ⟨happly, hnow, hptp, hbody⟩ := hplain
  simp [headStatus_permitted hr false hp, applyForm, happly, hnow, hptp, hbody]

end

/-! ### A message accepted -/

/-- The state in which an accepted message is served: nothing sent yet, and its SEQ noted (R538). -/
def accepted (h : MsgHead) (old : Bool) (x : Session) (s : State) : State :=
  noteAccepted h.seq.toNat old (onHalv (fun q => { q with out := [] }) s) x.num

/-- A session that has accepted a SEQ under the key in force (R536, R538, R539). -/
def Session.accept (seq : Nat) (x : Session) : Session :=
  { x with
    opened := true, high := max x.high seq, seen := (seq :: x.seen).filter fun q => Nat.ble (max x.high seq) (q + 63)
    old := none, replies := x.replies.filter fun r => !r.1 }

/-- A session that has accepted a SEQ under the key that a KEYROLL replaced (R539). -/
def Session.acceptOld (seq : Nat) (x : Session) : Session :=
  { x with old := x.old.map fun w => (max w.1 seq, (seq :: w.2).filter fun q => Nat.ble (max w.1 seq) (q + 63)) }

@[simp] theorem accepted_tl (old : Bool) : (accepted h old x s).tl = s.tl := by
  cases old <;> rfl

@[simp] theorem accepted_out (old : Bool) : (accepted h old x s).halv.out = [] := by
  cases old <;> rfl

theorem getSession_dropOldKey {n : Nat} (hx : getSession n s = some x) :
    getSession n (dropOldKey n s) = some { x with old := none, replies := x.replies.filter fun r => !r.1 } :=
  getSession_setSession (fun _ => rfl) hx

theorem getSession_accepted (hx : getSession x.num s = some x) :
    getSession x.num (accepted h false x s) = some (x.accept h.seq.toNat) := by
  unfold accepted noteAccepted
  rw [if_neg Bool.false_ne_true]
  refine getSession_setSession ?_ (getSession_dropOldKey (s := onHalv (fun q => { q with out := [] }) s) hx)
  exact fun _ => rfl

theorem getSession_accepted_old (hx : getSession x.num s = some x) :
    getSession x.num (accepted h true x s) = some (x.acceptOld h.seq.toNat) := by
  unfold accepted noteAccepted
  rw [if_pos rfl]
  exact getSession_setSession (fun _ => rfl) hx

/-- A SEQ within the window is among those noted. -/
theorem mem_seen_accept {seq : Nat} (hw : InWindow seq x.high) : seq ∈ (x.accept seq).seen := by
  obtain ⟨_, hhigh⟩ := hw
  have hle : max x.high seq ≤ seq + 63 := by omega
  simp [Session.accept, hle]

/-! ### Responses of one message (R538, R540) -/

/-- The message of a response of one message. -/
def replyMsg (n typ tx seq : Nat) (r : Reply) (b : List (BitVec 32)) (s : State) : HalvonOut where
  typ := typ
  session := n
  seq := tx + 1
  more := false
  reqSeq := seq
  status := r.status
  late := r.late
  stopLate := r.stopLate
  trunc := r.trunc
  errIdx := r.errIdx
  acceptBsn := bsnNow s
  applyBsn := r.apply
  body := b

theorem replyMsgs_single {r : Reply} {b : List (BitVec 32)} (hb : r.bodies = [b]) (n typ tx seq : Nat) :
    replyMsgs n typ tx seq r s = [replyMsg n typ tx seq r b s] := by
  have hlast : Nat.blt 1 1 = false := rfl
  simp [replyMsgs, replyMsg, hb, hlast]

@[simp] theorem sendReply_tl (n typ seq : Nat) (old : Bool) (r : Reply) : (sendReply n typ seq old r s).tl = s.tl := by
  unfold sendReply
  split
  · rfl
  · dsimp only
    split
    · rfl
    · rfl

/-- The session that has sent a response of one message: its SEQ counts on, and the last 16 responses are kept (R538). -/
def Session.replied (old : Bool) (seq : Nat) (m : HalvonOut) (y : Session) : Session :=
  { y with tx := y.tx + 1, replies := (y.replies ++ [(old, seq, [m])]).drop ((y.replies ++ [(old, seq, [m])]).length - 16) }

section
variable {n : Nat} {y : Session} {r : Reply} {b : List (BitVec 32)} (hy : getSession n s = some y) (hb : r.bodies = [b])
  (htx : y.tx + 1 < 0xFFFFFFFF) (typ seq : Nat) (old : Bool)
include hy hb htx

theorem sendReply_single_out :
    (sendReply n typ seq old r s).halv.out = s.halv.out ++ [replyMsg n typ y.tx seq r b s] := by
  unfold sendReply
  simp only [hy, replyMsgs_single hb, List.length_singleton, if_neg (Nat.not_le.2 htx)]
  rfl

theorem getSession_sendReply_single :
    getSession n (sendReply n typ seq old r s) = some (y.replied old seq (replyMsg n typ y.tx seq r b s)) := by
  unfold sendReply
  simp only [hy, replyMsgs_single hb, List.length_singleton, if_neg (Nat.not_le.2 htx)]
  exact getSession_setSession (fun _ => rfl) hy

end

/-- The one message that answers a request of a session: its type, STATUS and ERRIDX (R540, R542). -/
def Answers (x : Session) (seq typ st idx : Nat) (t : State) : Prop :=
  ∃ m, t.halv.out = [m] ∧ m.typ = typ ∧ m.session = x.num ∧ m.seq = x.tx + 1 ∧ m.reqSeq = seq ∧ m.status = st ∧ m.errIdx = idx ∧ m.more = false

theorem sendReply_answers {y : Session} {r : Reply} {b : List (BitVec 32)} (hout : s.halv.out = []) (hy : getSession x.num s = some y)
    (htx : y.tx = x.tx) (hlt : x.tx + 1 < 0xFFFFFFFF) (hb : r.bodies = [b]) (typ seq : Nat) (old : Bool) :
    Answers x seq typ r.status r.errIdx (sendReply x.num typ seq old r s) := by
  refine ⟨replyMsg x.num typ y.tx seq r b s, ?_, rfl, rfl, by rw [← htx]; rfl, rfl, rfl, rfl, rfl⟩
  rw [sendReply_single_out hy hb (htx ▸ hlt), hout, List.nil_append]

/-! ### What a request comes to -/

section
variable {typ : Nat} {perm : Option Nat} {timed : Bool} {act : Session → State → Option Reply × State} {after : Nat → State → State}

theorem request_bad {f : HalvonSt → HalvonSt} (hi : intake h s = .bad f) : request typ perm timed h act after s = discard f s := by
  simp only [request, hi]

theorem request_again {out : List HalvonOut} (hi : intake h s = .again out) :
    request typ perm timed h act after s = onHalv (fun q => { q with out := out }) s := by
  simp only [request, hi]

theorem seq_ne_allOnes (hseq : h.seq.toNat < 2 ^ 32 - 1) : (h.seq == BitVec.allOnes 32) = false := by
  rw [beq_eq_false_iff_ne]
  intro he
  rw [he, BitVec.toNat_allOnes] at hseq
  exact Nat.lt_irrefl _ hseq

/-- A head that fails is answered with its status. -/
theorem request_refused {old : Bool} {st : Nat} (hi : intake h s = .ok x old) (hseq : h.seq.toNat < 2 ^ 32 - 1)
    (hst : headStatus perm timed h x s = some st) (hne : st ≠ 0) :
    request typ perm timed h act after s = sendReply x.num typ h.seq.toNat old (errReply st 0xFFFF) (accepted h old x s) := by
  simp only [request, hi, hst, seq_ne_allOnes hseq, Bool.false_eq_true, if_false, errReply, if_neg hne]
  rfl

/-- A head that passes is served, and the reply is sent. -/
theorem request_served {old : Bool} {y : Reply} {t : State} (hi : intake h s = .ok x old) (hseq : h.seq.toNat < 2 ^ 32 - 1)
    (hst : headStatus perm timed h x s = none) (hact : act x (accepted h old x s) = (some y, t)) :
    request typ perm timed h act after s =
      if y.status = 0 then after x.num (sendReply x.num typ h.seq.toNat old y t) else sendReply x.num typ h.seq.toNat old y t := by
  unfold accepted at hact
  simp only [request, hi, hst, hact, seq_ne_allOnes hseq, Bool.false_eq_true, if_false]

end

end Sys2Proof.Machine
end

section
/-! PROOF. Halvon checks messages and keeps sessions (O58): the checks that every request of a session shares, the requests that
the statement follows further, HELLO and DEVCERT, the ends of sessions, and EVENTs. -/

namespace Sys2Proof.Machine

variable {s : State} {h : MsgHead} {x : Session}

/-! ### The requests of a session share their checks (R535) -/

/-- The types whose messages may carry an apply time (R541). -/
def timedType (typ : Nat) : Bool := typ == 0x11 || typ == 0x12 || typ == 0x1A

theorem timedType_eq_false_iff (typ : Nat) : timedType typ = false ↔ ¬(typ = 0x11 ∨ typ = 0x12 ∨ typ = 0x1A) := by
  simp [timedType, not_or, and_assoc]

/-- A command is a request of this type and permission: what it does beyond the checks is its own. -/
def IsRequest (i : Instr) (typ : Nat) (perm : Option Nat) (h : MsgHead) (s : State) : Prop :=
  ∃ act after, exec i s = .next (request typ perm (timedType typ) h act after s)

/-- The requests of a session, each with its type and the permission that it asks for (R217, R541). -/
noncomputable def sessionRequests (h : MsgHead) (els : List ParamAddr) (sets : List ParamElem) (scene mask max : BitVec 16) (mode div op flags : BitVec 8)
    (meters : List (BitVec 16)) (capid first : BitVec 32) (start stop : BitVec 64) (rec : SakRecord) : List (Instr × Nat × Option Nat) :=
  [(.bye h, 0x03, none), (.keyroll h, 0x04, some 9), (.get h els, 0x10, some 0), (.set h sets, 0x11, some 1),
    (.scene h scene, 0x12, some 4), (.meterSub h mode div meters, 0x13, some 2), (.eventSub h mask, 0x14, some 3),
    (.capture h op flags capid start stop, 0x16, some 5), (.castle h, 0x17, some 6), (.logRead h first max, 0x18, some 7), (.life h, 0x19, some 8),
    (.macsecRekey h rec, 0x1A, some 10)]

theorem isRequest_of_mem {els : List ParamAddr} {sets : List ParamElem} {scene mask max : BitVec 16} {mode div op flags : BitVec 8}
    {meters : List (BitVec 16)} {capid first : BitVec 32} {start stop : BitVec 64} {rec : SakRecord} :
    ∀ e ∈ sessionRequests h els sets scene mask max mode div op flags meters capid first start stop rec, IsRequest e.1 e.2.1 e.2.2 h s := by
  simp only [sessionRequests, List.forall_mem_cons, List.not_mem_nil, false_imp_iff, implies_true, and_true]
  exact ⟨⟨_, _, rfl⟩, ⟨_, _, rfl⟩, ⟨_, _, rfl⟩, ⟨_, _, rfl⟩, ⟨_, _, rfl⟩, ⟨_, _, rfl⟩, ⟨_, _, rfl⟩, ⟨_, _, rfl⟩, ⟨_, _, rfl⟩, ⟨_, _, rfl⟩,
    ⟨_, _, rfl⟩, ⟨_, _, rfl⟩⟩

section
variable {i : Instr} {typ : Nat} {perm : Option Nat} (hreq : IsRequest i typ perm h s)
include hreq

/-- A request that the checks discard. -/
theorem goes_discard {f : HalvonSt → HalvonSt} {Q : State → Prop} (hi : intake h s = .bad f) (hQ : Q (discard f s)) : Goes i s Q := by
  obtain ⟨act, after, hexec⟩ := hreq
  rw [request_bad hi] at hexec
  exact ⟨_, hexec, hQ⟩

/-- A copy is answered again. -/
theorem goes_again {out : List HalvonOut} (hi : intake h s = .again out) :
    Goes i s (fun t => t = { s with halv := { s.halv with out := out } }) := by
  obtain ⟨act, after, hexec⟩ := hreq
  rw [request_again hi] at hexec
  exact ⟨_, hexec, rfl⟩

/-- A fresh message whose head fails is accepted and answered with the head's status, and changes nothing of the timeline. -/
theorem goes_refused {st : Nat} (hf : FreshMsg h x s) (hst : headStatus perm (timedType typ) h x s = some st) (hne : st ≠ 0) :
    Goes i s (fun t => Answers x h.seq.toNat typ st 0xFFFF t ∧ t.tl = s.tl ∧
      ∃ y, getSession x.num t = some y ∧ y.opened = true ∧ y.high = Nat.max x.high h.seq.toNat ∧ h.seq.toNat ∈ y.seen) := by
  obtain ⟨ha, hseen, hseq, htx⟩ := hf
  have hlt : x.tx + 1 < 0xFFFFFFFF := by omega
  have hget := getSession_accepted (h := h) ha.1.session_num
  obtain ⟨act, after, hexec⟩ := hreq
  rw [request_refused (intake_accepted ha hseen) hseq hst hne] at hexec
  refine ⟨_, hexec, sendReply_answers (accepted_out _) hget rfl hlt rfl _ _ _, ?_, _, getSession_sendReply_single hget rfl hlt _ _ _, rfl, rfl,
    mem_seen_accept ha.2.1⟩
  rw [sendReply_tl, accepted_tl]

end

/-! ### BYE and KEYROLL (R538, R539) -/

/-- BYE is answered, and the session ends after the response (R538). -/
theorem bye_goes (hf : FreshMsg h x s) (hr : RoleHeld h x s) (hp : PlainHead h) :
    Goes (.bye h) s (fun t => Answers x h.seq.toNat 0x03 0 0xFFFF t ∧ getSession x.num t = none) := by
  obtain ⟨ha, hseen, hseq, htx⟩ := hf
  have hlt : x.tx + 1 < 0xFFFFFFFF := by omega
  have hget := getSession_accepted (h := h) ha.1.session_num
  have hst : headStatus none false h x s = none := headStatus_plain hr (fun _ he => nomatch he) hp
  refine ⟨endSession x.num (sendReply x.num 0x03 h.seq.toNat false (okReply []) (accepted h false x s)), ?_, ?_, getSession_endSession _ _⟩
  · exact congrArg Host.Outcome.next ((request_served (intake_accepted ha hseen) hseq hst rfl).trans (if_pos rfl))
  · exact sendReply_answers (r := okReply []) (accepted_out _) hget rfl hlt rfl _ _ _

/-- The session after a KEYROLL: SEQ restarts both ways, and the window under the old key is kept (R539). -/
theorem getSession_rollKey {n : Nat} {y : Session} (hy : getSession n s = some y) : getSession n (rollKey n s) =
    some { y with old := some (y.high, y.seen), high := 0, seen := [], tx := 0, replies := y.replies.map fun r => (true, r.2) } :=
  getSession_setSession (fun _ => rfl) hy

theorem rollKey_out (n : Nat) : (rollKey n s).halv.out = s.halv.out := rfl

/-- KEYROLL where no old key is accepted: the response carries the new key, and the windows restart (R539). -/
theorem keyroll_goes (hf : FreshMsg h x s) (hr : RoleHeld h x s) (hp : PlainHead h) (hperm : rolePermits x.role 9 s = true) :
    Goes (.keyroll h) s (fun t => Answers x h.seq.toNat 0x04 0 0xFFFF t ∧ (∀ m ∈ t.halv.out, m.body.length = 33) ∧
      ∃ y l, getSession x.num t = some y ∧ y.high = 0 ∧ y.seen = [] ∧ y.tx = 0 ∧ y.old = some (Nat.max x.high h.seq.toNat, l) ∧
        h.seq.toNat ∈ l) := by
  obtain ⟨ha, hseen, hseq, htx⟩ := hf
  have hlt : x.tx + 1 < 0xFFFFFFFF := by omega
  have hget := getSession_accepted (h := h) ha.1.session_num
  have hst : headStatus (some 9) false h x s = none := headStatus_plain hr (fun b he => by cases he; exact hperm) hp
  have hgetK : getSession x.num (freshKey (accepted h false x s)).2 = some (x.accept h.seq.toNat) := by
    rw [getSession_freshKey, hget]
  have houtK : (freshKey (accepted h false x s)).2.halv.out = [] := by rw [freshKey_halv, accepted_out]
  have hact : (if ((getSession x.num (accepted h false x s)).bind (·.old)).isSome then (some (errReply 0x16 0xFFFF), accepted h false x s)
      else (some (okReply (freshKey (accepted h false x s)).1), (freshKey (accepted h false x s)).2)) =
      (some (okReply (freshKey (accepted h false x s)).1), (freshKey (accepted h false x s)).2) := by
    rw [hget]
    rfl
  refine ⟨rollKey x.num (sendReply x.num 0x04 h.seq.toNat false (okReply (freshKey (accepted h false x s)).1) (freshKey (accepted h false x s)).2),
    congrArg Host.Outcome.next ((request_served (intake_accepted ha hseen) hseq hst hact).trans (if_pos rfl)), ?_, ?_, ?_⟩
  · exact sendReply_answers (r := okReply _) houtK hgetK rfl hlt rfl _ _ _
  · intro m hm
    rw [rollKey_out, sendReply_single_out hgetK rfl hlt, houtK] at hm
    rw [List.mem_singleton.1 hm]
    exact freshKey_length _
  · exact ⟨_, _, getSession_rollKey (getSession_sendReply_single hgetK rfl hlt _ _ _), rfl, rfl, rfl, rfl, mem_seen_accept ha.2.1⟩

/-- KEYROLL under the old key, while that is still accepted, is refused (R539). -/
theorem keyroll_oldKey_goes {w : Nat × List Nat} (hf : Framed h x s) (htag : h.tagOk = false) (hkey : h.oldOk = true) (hold : x.old = some w)
    (hw : InWindow h.seq.toNat w.1) (hseen : h.seq.toNat ∉ w.2) (hpast : ¬ PastEnd x s) (hseq : h.seq.toNat < 2 ^ 32 - 1)
    (htx : x.tx < 2 ^ 32 - 100) (hr : RoleHeld h x s) (hp : PlainHead h) (hperm : rolePermits x.role 9 s = true) :
    Goes (.keyroll h) s (Answers x h.seq.toNat 0x04 0x16 0xFFFF) := by
  have hlt : x.tx + 1 < 0xFFFFFFFF := by omega
  have hget := getSession_accepted_old (h := h) hf.session_num
  have hst : headStatus (some 9) false h x s = none := headStatus_plain hr (fun b he => by cases he; exact hperm) hp
  have hact : (if ((getSession x.num (accepted h true x s)).bind (·.old)).isSome then (some (errReply 0x16 0xFFFF), accepted h true x s)
      else (some (okReply (freshKey (accepted h true x s)).1), (freshKey (accepted h true x s)).2)) =
      (some (errReply 0x16 0xFFFF), accepted h true x s) := by
    simp [hget, Session.acceptOld, hold]
  exact ⟨sendReply x.num 0x04 h.seq.toNat true (errReply 0x16 0xFFFF) (accepted h true x s),
    congrArg Host.Outcome.next ((request_served (intake_oldKey hf htag hkey hold hw hpast hseen) hseq hst hact).trans (if_neg (by decide))),
    sendReply_answers (r := errReply 0x16 0xFFFF) (accepted_out _) hget rfl hlt rfl _ _ _⟩

/-! ### HELLO and DEVCERT (R10, R215, R216, R536, R537) -/

variable {role : Fin 16} {seq num : BitVec 32} {cert : RoleCert}

/-- Fewer than 20 HELLO and DEVCERT requests were answered in the last second (R537). -/
def FewHellos (s : State) : Prop := (lastSecond s.halv.helloTimes s).length < 20

/-- The certificate serves at HELLO (R10, R215, R216). -/
def CertServes (role : Fin 16) (cert : RoleCert) (s : State) : Prop :=
  cert.sigOk = true ∧ role = cert.role ∧ roleDefined role.val s = true ∧ cert.serial ∉ s.image.revoked ∧
    (cert.forDevice = true → cert.device = deviceIdKs s) ∧ certTime cert s = true

theorem status_else_eq_none_iff {c : Prop} [Decidable c] {st : Nat} {r : Option Nat} :
    (if c then some st else r) = none ↔ ¬ c ∧ r = none := by
  by_cases hc : c
  · simp [hc]
  · simp [hc]

theorem status_of_else_eq_some {c : Prop} [Decidable c] {st st' : Nat} {r : Option Nat} (h : (if c then some st' else r) = some st) :
    st = st' ∨ r = some st := by
  by_cases hc : c
  · rw [if_pos hc] at h
    exact .inl (Option.some.inj h).symm
  · rw [if_neg hc] at h
    exact .inr h

/-- A certificate that does not serve is refused with one of three statuses (R537). -/
theorem certStatus_mem {st : Nat} (hst : certStatus role.val cert s = some st) : st ∈ [0x10, 0x03, 0x11] := by
  unfold certStatus at hst
  obtain rfl | hrole := status_of_else_eq_some hst
  · decide
  obtain rfl | hrevoked := status_of_else_eq_some hrole
  · decide
  obtain rfl | htime := status_of_else_eq_some hrevoked
  · decide
  obtain rfl | hnone := status_of_else_eq_some htime
  · decide
  exact nomatch hnone

/-- Each check of the certificate is one condition of its serving. -/
theorem certStatus_eq_none_iff : certStatus role.val cert s = none ↔ CertServes role cert s := by
  simp only [certStatus, CertServes, status_else_eq_none_iff, Fin.ext_iff]
  simp [and_assoc]

theorem certStatus_badSignature (hsig : cert.sigOk = false) : certStatus role.val cert s = some 0x10 := by
  simp [certStatus, hsig]

theorem certStatus_wrongRole (hsig : cert.sigOk = true) (hrole : role ≠ cert.role) : certStatus role.val cert s = some 0x03 := by
  simp [certStatus, hsig, Fin.val_ne_of_ne hrole]

theorem FewHellos.not_excess (hfew : FewHellos s) : ¬ helloExcess s = true := fun he => (helloExcess_eq_true_iff s).1 he hfew

/-- HELLO with a certificate that does not serve. -/
theorem exec_hello_refused {st : Nat} (hfew : FewHellos s) (hst : certStatus role.val cert s = some st) :
    exec (.hello true role seq cert) s = .next (raise islHalvon 0xD001 0 (clearOut 1 0 seq.toNat st [] (noteHello s))) := by
  refine congrArg Host.Outcome.next ?_
  simp only [Bool.not_true, Bool.false_eq_true, if_false, if_neg hfew.not_excess, hst]

/-- A refused HELLO is answered in clear and logged, and no session changes (R537, R557). -/
theorem hello_refused_goes {st : Nat} (hfew : FewHellos s) (hst : certStatus role.val cert s = some st) :
    Goes (.hello true role seq cert) s (fun t => ClearAnswer 1 st t ∧ KeepsSessions s t ∧ (roomAt 261 s → Logs 261 0xD001 0 t)) := by
  obtain ⟨hclear, -, hkept⟩ := clearOut_answers s 1 seq.toNat st []
  refine ⟨_, exec_hello_refused hfew hst, ?_, ?_, fun hroom => logs_raise _ _ hroom⟩
  · unfold ClearAnswer
    rw [raise_halv]
    exact hclear
  · unfold KeepsSessions
    rw [raise_halv, raise_mem, raise_tl]
    exact hkept

/-- HELLO where 64 sessions stand is refused (R536, R537). -/
theorem hello_full_goes (hfew : FewHellos s) (hcert : CertServes role cert s) (hfull : 64 ≤ s.halv.sessions.length) :
    Goes (.hello true role seq cert) s (fun t => ClearAnswer 1 0x12 t ∧ KeepsSessions s t) := by
  obtain ⟨hclear, -, hkept⟩ := clearOut_answers s 1 seq.toNat 0x12 []
  refine ⟨_, congrArg Host.Outcome.next ?_, hclear, hkept⟩
  simp only [Bool.not_true, Bool.false_eq_true, if_false, if_neg hfew.not_excess, certStatus_eq_none_iff.2 hcert, if_pos hfull]

/-- The session that HELLO makes (R536). -/
def helloSession (n : Nat) (role : Fin 16) (cert : RoleCert) : Session :=
  ⟨n, role.val, cert.serial, cert.notBefore, cert.notAfter, false, 0, [], [], 0, none, [], 0, [], 0, 0, []⟩

/-- The state once HELLO has made a session and sent ACCEPT (R536). -/
def helloMade (role : Fin 16) (seq : BitVec 32) (cert : RoleCert) (s : State) : State :=
  clearOut 1 (freshNumber (noteHello s)) seq.toNat 0 (freshKey (freeNext (noteHello s))).1
    (onHalv (fun h => { h with sessions := h.sessions ++ [helloSession (freshNumber (noteHello s)) role cert] }) (freshKey (freeNext (noteHello s))).2)

theorem exec_hello_made (hfew : FewHellos s) (hcert : CertServes role cert s) (hroom : s.halv.sessions.length < 64) (hkey : deviceKeyOk s = true)
    (htrng : rd KS_STAT_TRNG_OK s = 1) : exec (.hello true role seq cert) s = .next (helloMade role seq cert s) := by
  have htrngB : rdB KS_STAT_TRNG_OK s = true := by simp [rdB, htrng]
  refine congrArg Host.Outcome.next ?_
  simp only [Bool.not_true, Bool.false_eq_true, if_false, if_neg hfew.not_excess, certStatus_eq_none_iff.2 hcert, if_neg (Nat.not_le.2 hroom),
    hkey, htrngB, Bool.or_self]
  rfl

/-- HELLO makes a session with a number of its own, not yet open, and ACCEPT carries the key (R536). -/
theorem hello_made_goes (hfew : FewHellos s) (hcert : CertServes role cert s) (hroom : s.halv.sessions.length < 64) (hkey : deviceKeyOk s = true)
    (htrng : rd KS_STAT_TRNG_OK s = 1) :
    Goes (.hello true role seq cert) s (fun t => ∃ y m, t.halv.sessions = s.halv.sessions ++ [y] ∧ y.num ≠ 0 ∧
      (∀ z ∈ s.halv.sessions, z.num ≠ y.num) ∧ y.role = role.val ∧ y.opened = false ∧ y.high = 0 ∧ t.halv.out = [m] ∧ m.typ = 1 ∧
      m.session = y.num ∧ m.seq = 0 ∧ m.body.length = 33) := by
  obtain ⟨hne, hfresh⟩ := freshNumber_fresh (noteHello s) hroom
  refine ⟨_, exec_hello_made hfew hcert hroom hkey htrng, helloSession (freshNumber (noteHello s)) role cert, _, ?_, hne, hfresh, rfl, rfl, rfl, rfl, rfl,
    rfl, rfl, freshKey_length _⟩
  simp only [helloMade, clearOut, onHalv_halv, freshKey_halv, freeNext_halv]
  rfl

/-- A HELLO or DEVCERT of bad form is discarded in silence (R535). -/
theorem badForm_goes : Goes (.hello false role seq cert) s (fun t => t.halv.out = [] ∧ KeepsSessions s t) ∧
    Goes (.devcert false seq) s (fun t => t.halv.out = [] ∧ KeepsSessions s t) :=
  ⟨⟨_, rfl, discard_id_silent s⟩, ⟨_, rfl, discard_id_silent s⟩⟩

/-- A HELLO or DEVCERT in excess is discarded and counted (R537). -/
theorem excess_goes (hmany : ¬ FewHellos s) :
    Goes (.hello true role seq cert) s (fun t => t.halv.out = [] ∧ KeepsSessions s t ∧ t.halv.helloDrops = statUp s.halv.helloDrops) ∧
    Goes (.devcert true seq) s (fun t => t.halv.out = [] ∧ KeepsSessions s t ∧ t.halv.helloDrops = statUp s.halv.helloDrops) := by
  have hex : helloExcess s = true := (helloExcess_eq_true_iff s).2 hmany
  refine ⟨⟨dropHello s, congrArg Host.Outcome.next ?_, dropHello_silent s⟩, ⟨dropHello s, congrArg Host.Outcome.next ?_, dropHello_silent s⟩⟩
  · simp only [Bool.not_true, Bool.false_eq_true, if_false, if_pos hex]
  · simp only [Bool.not_true, Bool.false_eq_true, if_false, if_pos hex]

/-- DEVCERT is answered in clear with the device certificate (R536, R540). -/
theorem devcert_goes (hfew : FewHellos s) :
    Goes (.devcert true seq) s (fun t => ClearAnswer 2 0 t ∧ (∀ m ∈ t.halv.out, m.body = deviceCert s) ∧ KeepsSessions s t) := by
  refine ⟨_, congrArg Host.Outcome.next ?_, clearOut_answers s 2 seq.toNat 0 (deviceCert s)⟩
  simp only [Bool.not_true, Bool.false_eq_true, if_false, if_neg hfew.not_excess]

/-! ### Ends of sessions (R536, R538, R539) -/

theorem exec_timeouts_unknown (kind : EventKind) (hnone : getSession num.toNat s = none) :
    exec (.sessionOpenTimeout num) s = .next s ∧ exec (.sessionExpiry num) s = .next s ∧ exec (.event num kind) s = .next s ∧
      exec (.eventDropTimeout num kind) s = .next s := by
  refine ⟨congrArg Host.Outcome.next ?_, congrArg Host.Outcome.next ?_, congrArg Host.Outcome.next ?_, congrArg Host.Outcome.next ?_⟩ <;>
    simp only [hnone]

theorem sessionIdleTimeout_goes : Goes (.sessionIdleTimeout num) s (fun t => getSession num.toNat t = none ∧
    ∀ z ∈ s.halv.sessions, z.num ≠ num.toNat → z ∈ t.halv.sessions) :=
  ⟨_, rfl, getSession_endSession _ _, fun _ hz hn => mem_endSession hz hn⟩

section
variable (hx : getSession num.toNat s = some x)
include hx

theorem exec_sessionOpenTimeout_opened (hopen : x.opened = true) : exec (.sessionOpenTimeout num) s = .next s := by
  refine congrArg Host.Outcome.next ?_
  simp only [hx, hopen, if_true]

theorem sessionOpenTimeout_goes (hopen : x.opened = false) :
    Goes (.sessionOpenTimeout num) s (fun t => getSession num.toNat t = none) := by
  refine ⟨endSession num.toNat s, congrArg Host.Outcome.next ?_, getSession_endSession _ _⟩
  simp only [hx, hopen, Bool.false_eq_true, if_false]

/-- The end of a certificate ends its session and is logged (R216, R557). -/
theorem sessionExpiry_goes (htl : tlValid s = true) (hna : x.notAfter ≠ BitVec.allOnes 64)
    (hend : x.notAfter.toNat * 1000000000 ≤ blockStart (s.tl.k.toNat + 1)) :
    Goes (.sessionExpiry num) s (fun t => getSession num.toNat t = none ∧ (roomAt 261 s → Logs 261 0xD002 0 t)) := by
  refine ⟨raise islHalvon 0xD002 0 (endSession num.toNat s), congrArg Host.Outcome.next ?_, ?_, fun hroom => logs_raise _ _ hroom⟩
  · have hdue : (tlValid s && x.notAfter != BitVec.allOnes 64 && Nat.ble (x.notAfter.toNat * 1000000000) (blockStart (s.tl.k.toNat + 1))) = true := by
      simp only [htl, bne_iff_ne.2 hna, Nat.ble_eq_true_of_le hend, Bool.and_self]
    simp only [hx, hdue, if_true]
  · rw [getSession_raise, getSession_endSession]

theorem exec_sessionExpiry_endless (hno : tlValid s = false ∨ x.notAfter = BitVec.allOnes 64) : exec (.sessionExpiry num) s = .next s := by
  refine congrArg Host.Outcome.next ?_
  rcases hno with htl | hna
  · simp only [hx, htl, Bool.false_and, Bool.false_eq_true, if_false]
  · simp only [hx, hna, bne_self_eq_false, Bool.and_false, Bool.false_and, Bool.false_eq_true, if_false]

theorem oldKeyExpiry_goes : Goes (.oldKeyExpiry num) s (fun t =>
    ∃ y, getSession num.toNat t = some y ∧ y.old = none ∧ y.high = x.high ∧ y.seen = x.seen) :=
  ⟨_, rfl, _, getSession_dropOldKey hx, rfl, rfl, rfl⟩

end

/-! ### EVENTs (R551) -/

/-- The records of a kind that wait for an EVENT. -/
def waiting (kind : EventKind) (x : Session) : List (List Word) := (x.queue.filter fun e => e.1 == kind).map (·.2)

/-- The records of a kind that were dropped since the last EVENT of that kind. -/
def droppedOf (kind : EventKind) (x : Session) : Nat := match kind with
  | .meter => x.dropMeter
  | .fault => x.dropFault

/-- The code of a kind in the first word of an EVENT. -/
def kindCode (kind : EventKind) : Nat := match kind with
  | .meter => 1
  | .fault => 2

theorem eventCap_pos (kind : EventKind) : 0 < eventCap kind := by
  cases kind <;> decide

/-- To take the first record of a kind out of the queue leaves that kind's later ones. -/
theorem filter_dropFirst (kind : EventKind) (q : List (EventKind × List Word)) :
    (dropFirst kind q).filter (fun e => e.1 == kind) = (q.filter fun e => e.1 == kind).drop 1 := by
  induction q with
  | nil => rfl
  | cons e r ih =>
    by_cases he : e.1 = kind
    · simp [dropFirst, he]
    · simp [dropFirst, he, ih]

/-- What an EVENT leaves in the queue of its kind: the records behind those sent. -/
theorem filter_sent (kind : EventKind) (q : List (EventKind × List Word)) (n : Nat) :
    ((q.filter fun e => e.1 != kind) ++ (q.filter fun e => e.1 == kind).drop n).filter (fun e => e.1 == kind) =
      (q.filter fun e => e.1 == kind).drop n := by
  have hother : (q.filter fun e => e.1 != kind).filter (fun e => e.1 == kind) = [] := by
    simp [List.filter_filter]
  have hown : ((q.filter fun e => e.1 == kind).drop n).filter (fun e => e.1 == kind) = (q.filter fun e => e.1 == kind).drop n :=
    List.filter_eq_self.2 fun e he => (List.mem_filter.1 (List.mem_of_mem_drop he)).2
  rw [List.filter_append, hother, hown, List.nil_append]

/-- The records that go into the next EVENT of a kind. -/
def eventItems (kind : EventKind) (x : Session) : List (List Word) := (waiting kind x).take (eventCap kind)

theorem eventItems_isEmpty_iff (kind : EventKind) (x : Session) : (eventItems kind x).isEmpty = true ↔ waiting kind x = [] := by
  rw [eventItems, List.isEmpty_iff, List.take_eq_nil_iff, or_iff_right (Nat.ne_of_gt (eventCap_pos kind))]

theorem eventItems_length (kind : EventKind) (x : Session) :
    (eventItems kind x).length = Nat.min (waiting kind x).length (eventCap kind) := by
  rw [eventItems, List.length_take, Nat.min_comm]

theorem drop_eventItems (kind : EventKind) (x : Session) :
    (waiting kind x).drop (eventItems kind x).length = (waiting kind x).drop (eventCap kind) := by
  rw [eventItems, List.length_take]
  rcases Nat.le_total (eventCap kind) (waiting kind x).length with hle | hle
  · rw [Nat.min_eq_left hle]
  · rw [Nat.min_eq_right hle, List.drop_eq_nil_of_le hle, List.drop_length]

/-- The EVENT of a kind. -/
def eventMsg (kind : EventKind) (x : Session) : HalvonOut :=
  ⟨0x15, x.num, x.tx + 1, false, 0, 0, false, false, false, 0xFFFF, 0, 0,
    BitVec.ofNat 32 (kindCode kind * 16777216 + (eventItems kind x).length) :: BitVec.ofNat 32 (droppedOf kind x) ::
      (eventItems kind x).flatMap (eventItem kind)⟩

/-- A session whose EVENT of a kind has gone out. -/
def Session.sentEvent (kind : EventKind) (s : State) (x : Session) : Session :=
  { x with
    tx := x.tx + 1, sent := lastSecond x.sent s ++ [s.ns.toNat]
    queue := (x.queue.filter fun e => e.1 != kind) ++ (x.queue.filter fun e => e.1 == kind).drop (eventItems kind x).length
    dropMeter := if kind == .meter then 0 else x.dropMeter, dropFault := if kind == .fault then 0 else x.dropFault }

theorem waiting_sentEvent (kind : EventKind) (s : State) (x : Session) :
    waiting kind (x.sentEvent kind s) = (waiting kind x).drop (eventCap kind) := by
  rw [← drop_eventItems]
  unfold waiting Session.sentEvent
  rw [filter_sent, List.map_drop]

theorem droppedOf_sentEvent (kind : EventKind) (s : State) (x : Session) : droppedOf kind (x.sentEvent kind s) = 0 := by
  cases kind <;> rfl

/-- A session whose oldest record of a kind has waited too long. -/
def Session.dropEvent (kind : EventKind) (x : Session) : Session :=
  { x with
    queue := dropFirst kind x.queue
    dropMeter := if kind == .meter then x.dropMeter + 1 else x.dropMeter
    dropFault := if kind == .fault then x.dropFault + 1 else x.dropFault }

theorem waiting_dropEvent (kind : EventKind) (x : Session) : waiting kind (x.dropEvent kind) = (waiting kind x).drop 1 := by
  unfold waiting Session.dropEvent
  rw [filter_dropFirst, List.map_drop]

theorem droppedOf_dropEvent (kind : EventKind) (x : Session) : droppedOf kind (x.dropEvent kind) = droppedOf kind x + 1 := by
  cases kind <;> rfl

theorem any_kind_eq_true_iff (kind : EventKind) (x : Session) : (x.queue.any fun e => e.1 == kind) = true ↔ waiting kind x ≠ [] := by
  simp [waiting]

section
variable {kind : EventKind} (hx : getSession num.toNat s = some x)
include hx

/-- With nothing waiting, or 100 EVENTs sent in the last second, no EVENT goes out. -/
theorem exec_event_idle (hidle : waiting kind x = [] ∨ 100 ≤ (lastSecond x.sent s).length) : exec (.event num kind) s = .next s := by
  have hstop : ((eventItems kind x).isEmpty || Nat.ble 100 (lastSecond x.sent s).length) = true := by
    rw [Bool.or_eq_true, eventItems_isEmpty_iff, Nat.ble_eq]
    exact hidle
  unfold eventItems waiting at hstop
  refine congrArg Host.Outcome.next ?_
  simp only [hx, hstop, if_true]

/-- An EVENT goes out with a change that takes the session to `Session.sentEvent`. -/
theorem exec_event_sent (hwait : waiting kind x ≠ []) (hrate : (lastSecond x.sent s).length < 100) (htx : x.tx < 2 ^ 32 - 100) :
    ∃ f : Session → Session, (∀ y, (f y).num = y.num) ∧ f x = x.sentEvent kind s ∧
      exec (.event num kind) s = .next (onHalv (fun h => { h with out := [eventMsg kind x] }) (setSession x.num f s)) := by
  have hgo : ((eventItems kind x).isEmpty || Nat.ble 100 (lastSecond x.sent s).length) = false := by
    rw [← Bool.not_eq_true, Bool.or_eq_true, eventItems_isEmpty_iff, Nat.ble_eq]
    exact fun hstop => hstop.elim hwait (Nat.not_le.2 hrate)
  have hlast : ¬ 0xFFFFFFFF ≤ x.tx + 1 := by omega
  unfold eventItems waiting at hgo
  refine ⟨fun q => { q with
    tx := q.tx + 1, sent := lastSecond q.sent s ++ [s.ns.toNat]
    queue := (q.queue.filter fun e => e.1 != kind) ++ (x.queue.filter fun e => e.1 == kind).drop (eventItems kind x).length
    dropMeter := if kind == .meter then 0 else q.dropMeter, dropFault := if kind == .fault then 0 else q.dropFault },
    fun _ => rfl, rfl, congrArg Host.Outcome.next ?_⟩
  simp only [hx, hgo, Bool.false_eq_true, if_false, if_neg hlast]
  rfl

/-- An EVENT carries the records that wait, up to its most, and the number dropped; the rest waits on (R551). -/
theorem event_goes (hwait : waiting kind x ≠ []) (hrate : (lastSecond x.sent s).length < 100) (htx : x.tx < 2 ^ 32 - 100) :
    Goes (.event num kind) s (fun t => ∃ m y, t.halv.out = [m] ∧ m.typ = 0x15 ∧ m.session = x.num ∧ m.seq = x.tx + 1 ∧
      m.body[0]? = some (BitVec.ofNat 32 (kindCode kind * 16777216 + Nat.min (waiting kind x).length (eventCap kind))) ∧
      m.body[1]? = some (BitVec.ofNat 32 (droppedOf kind x)) ∧ getSession num.toNat t = some y ∧ y.tx = x.tx + 1 ∧
      waiting kind y = (waiting kind x).drop (eventCap kind) ∧ droppedOf kind y = 0) := by
  obtain ⟨f, hnum, hfx, hexec⟩ := exec_event_sent hx hwait hrate htx
  rw [getSession_num hx] at hexec
  have hy : getSession num.toNat (setSession num.toNat f s) = some (x.sentEvent kind s) := hfx ▸ getSession_setSession hnum hx
  exact ⟨_, hexec, eventMsg kind x, x.sentEvent kind s, rfl, rfl, rfl, rfl, by rw [← eventItems_length]; rfl, rfl, hy, rfl,
    waiting_sentEvent kind s x, droppedOf_sentEvent kind s x⟩

theorem exec_eventDropTimeout_idle (hnone : waiting kind x = []) : exec (.eventDropTimeout num kind) s = .next s := by
  have hany : ¬ (x.queue.any fun e => e.1 == kind) = true := fun ha => (any_kind_eq_true_iff kind x).1 ha hnone
  refine congrArg Host.Outcome.next ?_
  simp only [hx, if_neg hany]

/-- A record that has waited too long is dropped and counted, in the statistic and for the session's next EVENT (R551). -/
theorem eventDropTimeout_goes (hwait : waiting kind x ≠ []) :
    Goes (.eventDropTimeout num kind) s (fun t => t.halv.eventDrops = statUp s.halv.eventDrops ∧ ∃ y, getSession num.toNat t = some y ∧
      waiting kind y = (waiting kind x).drop 1 ∧ droppedOf kind y = droppedOf kind x + 1) := by
  have hexec : exec (.eventDropTimeout num kind) s =
      .next (onHalv (fun h => { h with eventDrops := statUp h.eventDrops }) (setSession num.toNat (Session.dropEvent kind) s)) := by
    refine congrArg Host.Outcome.next ?_
    simp only [hx, if_pos ((any_kind_eq_true_iff kind x).2 hwait), getSession_num hx]
    rfl
  exact ⟨_, hexec, rfl, _, getSession_setSession (fun _ => rfl) hx, waiting_dropEvent kind x, droppedOf_dropEvent kind x⟩

end

/-! ### The statement -/

/-- Settles O58: each clause is the lemma above that says it, the checks of a request once for all requests of a session. -/
theorem halvonChecksMessagesAndKeepsSessions : Obligations.HalvonChecksMessagesAndKeepsSessions := by
  unfold Obligations.HalvonChecksMessagesAndKeepsSessions
  intro formOk role seq num cert h x els sets scene mask max mode div op flags meters capid first start stop rec kind s sq kept up1 past framed
    inWindow authentic fresh plain role3 answer clear certOk few reqs timed
  refine ⟨?requests, bye_goes, keyroll_goes, ?oldKey, ?badForm, excess_goes, devcert_goes, ?refused, ?badSignature, ?wrongRole, hello_full_goes,
    hello_made_goes, exec_timeouts_unknown kind, sessionIdleTimeout_goes, ?ofSession⟩
  case requests =>
    intro e he
    have hreq : IsRequest e.1 e.2.1 e.2.2 h s := isRequest_of_mem e he
    refine ⟨?_, ?_, ?_, ?_, ?_, ?_, ?_, ?_⟩
    · exact fun hbad => goes_discard hreq (intake_unknown hbad) (discard_id_silent s)
    · exact fun hf hkey hw => goes_discard hreq (intake_outOfWindow hf hkey hw) (discard_replay s)
    · exact fun hf hkey hw htag => goes_discard hreq (intake_tagFails hf hkey hw htag) (discard_tagFail s)
    · exact fun hf hw htag hpast => goes_discard hreq (intake_pastEnd hf hw htag hpast) (discard_id_silent s)
    · exact fun ha hseen => ⟨fun ms hfind => goes_again hreq (intake_copy ha hseen hfind),
        fun hnone => goes_discard hreq (intake_lostCopy ha hseen hnone) (discard_replay s)⟩
    · intro hf hr
      obtain ⟨t, hexec, hans, htl, -⟩ := goes_refused hreq hf (headStatus_wrongRole _ _ hr) (by decide)
      exact ⟨t, hexec, hans, htl⟩
    · intro hf hr b hb hperm
      obtain ⟨t, hexec, hans, htl, -⟩ := goes_refused hreq hf (hb ▸ headStatus_notPermitted hr _ hperm) (by decide)
      exact ⟨t, hexec, hans, htl⟩
    · intro hf hr hperm hbad
      refine goes_refused hreq hf (headStatus_badForm hr hperm ?_) (by decide)
      rw [timedType_eq_false_iff]
      exact hbad
  case oldKey =>
    exact fun hf htag hkey hi hold hne hhi hpast hseq htx hr hp hperm =>
      keyroll_oldKey_goes hf htag hkey hold ⟨hne, hhi⟩ List.not_mem_nil hpast hseq htx hr hp hperm
  case badForm =>
    rintro rfl
    exact badForm_goes
  case refused =>
    intro hfew hbad
    obtain ⟨st, hst⟩ := Option.ne_none_iff_exists'.1 (fun hnone => hbad (certStatus_eq_none_iff.1 hnone))
    exact ⟨st, certStatus_mem hst, hello_refused_goes hfew hst⟩
  case badSignature =>
    intro hfew hsig
    obtain ⟨t, hexec, hclear, -⟩ := hello_refused_goes (seq := seq) hfew (certStatus_badSignature hsig)
    exact ⟨t, hexec, hclear⟩
  case wrongRole =>
    intro hfew hsig hrole
    obtain ⟨t, hexec, hclear, -⟩ := hello_refused_goes (seq := seq) hfew (certStatus_wrongRole hsig hrole)
    exact ⟨t, hexec, hclear⟩
  case ofSession =>
    exact fun hx => ⟨exec_sessionOpenTimeout_opened hx, sessionOpenTimeout_goes hx, sessionExpiry_goes hx, exec_sessionExpiry_endless hx,
      oldKeyExpiry_goes hx, exec_event_idle hx, event_goes hx, exec_eventDropTimeout_idle hx, eventDropTimeout_goes hx⟩

end Sys2Proof.Machine
end

section
/-! PROOF. Bridges and the M range (R174-R184, R246): what the fields of a bridge read after each of its updates, what the
measurement of a rate update leaves, and what mute requests leave of every channel. -/

namespace Sys2Proof.Machine

variable {s : State} {b : Nat}

/-! ### A bridge beside its registers -/

@[simp] theorem rd_setBridge (x : BridgeSt) (f : FRef) : rd f (setBridge b x s) = rd f s := rfl

@[simp] theorem setBridge_tl (x : BridgeSt) : (setBridge b x s).tl = s.tl := rfl

@[simp] theorem getBridge_setBridge_same (x : BridgeSt) : getBridge b (setBridge b x s) = x := mapGet_mapSet_same _ _ _ _

@[simp] theorem getBridge_wrI (f : FRef) (i : Int) : getBridge b (wrI f i s) = getBridge b s := rfl

/-! ### The state of a bridge and the locked summary (R184) -/

/-- The bit that shows whether a bridge is locked. -/
def lockedBit (b : Nat) : FRef := bitOf (if b < 32 then BRG_LOCKED0_LOCKED else BRG_LOCKED1_LOCKED) (b % 32)

theorem lockedBit_fits (b : Nat) : (lockedBit b).lo + (lockedBit b).w ≤ 32 := by
  have hmod : b % 32 < 32 := Nat.mod_lt _ (by decide)
  unfold lockedBit
  split <;> simp only [bitOf, BRG_LOCKED0_LOCKED, BRG_LOCKED1_LOCKED] <;> omega

/-- The locked summary stands behind the registers of every bridge. -/
theorem lockedBit_addr_ge (b : Nat) : 0x42002000 ≤ (lockedBit b).addr := by
  unfold lockedBit
  split <;> simp [bitOf, BRG_LOCKED0_LOCKED, BRG_LOCKED1_LOCKED]

@[simp] theorem getBridge_setBr (st : Nat) : getBridge b (setBr b st s) = getBridge b s := rfl

theorem rdB_lockedBit_setBr (st : Nat) : rdB (lockedBit b) (setBr b st s) = (st == brLOCKED) :=
  rdB_wrB_same _ _ _ (lockedBit_fits b) rfl

/-- Among the bridges' own registers a new state is a write of `BRG_STAT.STATE` alone. -/
theorem rd_setBr {f : FRef} (st : Nat) (hf : f.addr < 0x42002000) : rd f (setBr b st s) = rd f (wr (BRG_STAT_STATE b) st s) :=
  rd_wrB_addr _ _ _ _ (Nat.ne_of_lt (Nat.lt_of_lt_of_le hf (lockedBit_addr_ge b)))

theorem rd_setBr_other {f : FRef} (st : Nat) (hf : f.addr < 0x42002000) (hst : f.addr ≠ (BRG_STAT_STATE b).addr ∨ 3 ≤ f.lo) :
    rd f (setBr b st s) = rd f s := by
  rw [rd_setBr st hf]
  rcases hst with haddr | hlo
  · exact rd_wr_addr _ _ _ _ haddr
  · exact rd_wr_bits _ _ _ _ (.inr hlo)

theorem rd_state_setBr {st : Nat} (hb : b < 64) (hst : st < 8) : rd (BRG_STAT_STATE b) (setBr b st s) = st := by
  rw [rd_setBr st (by simp only [BRG_STAT_STATE]; omega), rd_wr_same _ _ _ (by simp [BRG_STAT_STATE])]
  exact Nat.mod_eq_of_lt hst

theorem brLockedPath_eq_true_iff : brLockedPath b s = true ↔ rd (BRG_STAT_STATE b) s = 3 ∨ rd (BRG_STAT_STATE b) s = 4 := by
  simp [brLockedPath, brState, brTOLOCK, brLOCKED]

theorem brLockedPath_congr {t : State} (h : rd (BRG_STAT_STATE b) t = rd (BRG_STAT_STATE b) s) : brLockedPath b t = brLockedPath b s := by
  simp only [brLockedPath, brState, h]

/-! ### Leaving locked mode (R177, R178) -/

/-- The bridge is in state `st`, no longer shown as locked, and one more exit is counted. -/
def LeftFor (b st : Nat) (s t : State) : Prop :=
  rd (BRG_STAT_STATE b) t = st ∧ rdB (lockedBit b) t = false ∧ rd (BRG_CNT_EXIT_COUNT b) t = rd (BRG_CNT_EXIT_COUNT b) s + 1

/-- A move to a state other than LOCKED, with an exit counted. -/
theorem countExit_setBr {st : Nat} (hb : b < 64) (hst : st < 8) (hnot : st ≠ brLOCKED) (hexits : rd (BRG_CNT_EXIT_COUNT b) s + 1 < 2 ^ 16) :
    LeftFor b st s (countExit b (setBr b st s)) := by
  have hsame : rd (BRG_CNT_EXIT_COUNT b) (setBr b st s) = rd (BRG_CNT_EXIT_COUNT b) s :=
    rd_setBr_other st (by simp only [BRG_CNT_EXIT_COUNT]; omega) (.inl (by simp [BRG_CNT_EXIT_COUNT, BRG_STAT_STATE]))
  have hcount : countExit b (setBr b st s) = wr (BRG_CNT_EXIT_COUNT b) (rd (BRG_CNT_EXIT_COUNT b) s + 1) (setBr b st s) := by
    rw [← hsame]
    exact count_below _ _ _ _ (by rw [hsame]; exact hexits)
  have hsum : (lockedBit b).addr ≠ (BRG_CNT_EXIT_COUNT b).addr := by
    have hge := lockedBit_addr_ge b
    simp only [BRG_CNT_EXIT_COUNT]
    omega
  rw [hcount]
  refine ⟨?state, ?summary, ?exits⟩
  case state => rw [rd_wr_addr _ _ _ _ (by simp [BRG_CNT_EXIT_COUNT, BRG_STAT_STATE]), rd_state_setBr hb hst]
  case summary =>
    rw [rdB, rd_wr_addr _ _ _ _ hsum, ← rdB, rdB_lockedBit_setBr]
    simpa using hnot
  case exits =>
    rw [rd_wr_same _ _ _ (by simp [BRG_CNT_EXIT_COUNT])]
    exact Nat.mod_eq_of_lt hexits

theorem leaveLocked_left (hb : b < 64) (atOnce : Bool) (hpath : brLockedPath b s = true) (hexits : rd (BRG_CNT_EXIT_COUNT b) s + 1 < 2 ^ 16) :
    LeftFor b (if atOnce then brTRACK else brTOTRACK) s (leaveLocked b atOnce s) := by
  rw [leaveLocked, if_pos hpath]
  cases atOnce
  · exact countExit_setBr hb (by decide) (by decide) hexits
  · exact countExit_setBr hb (by decide) (by decide) hexits

/-- A bridge that does not change mode with the partner's leaves locked mode by a crossfade. -/
theorem exitLocked_left (hb : b < 64) (hpath : brLockedPath b s = true) (halone : inSync b s = false)
    (hexits : rd (BRG_CNT_EXIT_COUNT b) s + 1 < 2 ^ 16) : LeftFor b 5 s (exitLocked b s) := by
  rw [exitLocked, hpath, halone]
  exact leaveLocked_left hb false hpath hexits

/-! ### What the reports of a bridge leave (R177, R181, R184) -/

/-- The addresses of a bridge's `BRG_STAT`, `BRG_RATIO`, `BRG_PHASE` and `BRG_DELAY`. -/
def IsReport (b a : Nat) : Prop := 0x42000004 + b * 0x40 ≤ a ∧ a < 0x42000014 + b * 0x40

/-- Every field that is not one of the bridge's reports reads alike. -/
def SameBeside (b : Nat) (s t : State) : Prop := ∀ f : FRef, ¬ IsReport b f.addr → rd f t = rd f s

theorem not_isReport_of_not_bridge {a : Nat} (hb : b < 64) (ha : a < 0x42000000 ∨ 0x42001000 ≤ a) : ¬ IsReport b a := by
  unfold IsReport
  omega

theorem rd_showDelay {f : FRef} (d : Int) (hf : f.addr ≠ (BRG_DELAY_DELAY b).addr) : rd f (showDelay b d s) = rd f s := by
  unfold showDelay
  split <;> exact rd_wrI_addr _ _ _ _ hf

@[simp] theorem getBridge_showDelay (d : Int) : getBridge b (showDelay b d s) = getBridge b s := by
  unfold showDelay
  split <;> rfl

@[simp] theorem showDelay_tl (d : Int) : (showDelay b d s).tl = s.tl := by
  unfold showDelay
  split <;> rfl

theorem rd_showPhase {f : FRef} (phi : Int) (hf : f.addr ≠ (BRG_PHASE_PHI b).addr) : rd f (showPhase b phi s) = rd f s := by
  unfold showPhase
  rw [rd_wrI_addr _ _ _ _ hf, rd_wrI_addr _ _ (BRG_PHASE_DEV b) _ hf, rd_setBridge]

/-- φ is reported modulo a period. -/
theorem rd_phi_showPhase (phi : Int) : (rd (BRG_PHASE_PHI b) (showPhase b phi s) : Int) = phi % 65536 := by
  have hread : rd (BRG_PHASE_PHI b) (showPhase b phi s) = ofSigned 16 (phi % 65536) % 2 ^ 16 := rd_wr_same _ _ _ (by simp [BRG_PHASE_PHI])
  rw [hread, ofSigned]
  omega

@[simp] theorem getBridge_showPhase (phi : Int) : getBridge b (showPhase b phi s) = { getBridge b s with phi := phi } := by
  simp [showPhase]

@[simp] theorem showPhase_tl (phi : Int) : (showPhase b phi s).tl = s.tl := rfl

/-- Entering locked mode starts the crossfade and stores φ (R176, R178). -/
theorem enterLocked_reads (hb : b < 64) : rd (BRG_STAT_STATE b) (enterLocked b s) = 3 ∧
    rd (BRG_STAT_LOCKQ b) (enterLocked b s) = rd (BRG_STAT_LOCKQ b) s ∧ (getBridge b (enterLocked b s)).phi0 = (getBridge b s).phi ∧
    rd (BRG_RATIO_ERR b) (enterLocked b s) = rd (BRG_RATIO_ERR b) s := by
  unfold enterLocked
  refine ⟨?state, ?lockq, by simp, ?ratio⟩
  case state =>
    rw [rd_showPhase _ (by simp [BRG_STAT_STATE, BRG_PHASE_PHI]), rd_state_setBr hb (by decide), brTOLOCK]
  case lockq =>
    rw [rd_showPhase _ (by simp [BRG_STAT_LOCKQ, BRG_PHASE_PHI]),
      rd_setBr_other _ (by simp only [BRG_STAT_LOCKQ]; omega) (.inr (by simp [BRG_STAT_LOCKQ])), rd_setBridge]
  case ratio =>
    rw [rd_showPhase _ (by simp [BRG_RATIO_ERR, BRG_PHASE_PHI]),
      rd_setBr_other _ (by simp only [BRG_RATIO_ERR]; omega) (.inl (by simp [BRG_RATIO_ERR, BRG_STAT_STATE])), rd_setBridge]

/-! ### A rate update (R176, R177, R181) -/

/-- The state once BRIDGE_RATE_UPDATE has noted the mean error. -/
def rateNoted (b : Nat) (err : BitVec 24) (s : State) : State :=
  wrB (BRG_STAT_LOCKQ b) (Nat.ble err.toInt.natAbs 100) (wr (BRG_RATIO_ERR b) err.toNat s)

/-- The count of updates after one more: only those of a tracking bridge without a port fault count (R176). -/
def updatesNext (b : Nat) (s : State) : Nat := if brState b s == brTRACK && !portFault b s then (getBridge b s).updates + 1 else 0

/-- The state once BRIDGE_RATE_UPDATE has also counted the update and reported φ and the delay, before it decides on the mode. -/
def rateMeasured (b : Nat) (err : BitVec 24) (phi departure : BitVec 32) (s : State) : State :=
  let s1 := rateNoted b err s
  showDelay b departure.toInt (showPhase b phi.toInt (setBridge b { getBridge b s1 with updates := updatesNext b s1 } s1))

theorem exec_bridgeRateUpdate {b : Fin 64} (err : BitVec 24) (phi dep : BitVec 32) (hrun : rd (BRG_STAT_STATE b.val) s ≠ 0) :
    exec (.bridgeRateUpdate b err phi dep) s = .next (
      let t := rateMeasured b err phi dep s
      if brLockedPath b t then
        if Nat.blt 1000 err.toInt.natAbs || Nat.blt 32768 (phi.toInt - (getBridge b t).phi0).natAbs then exitLocked b t else t
      else tryLock b t) := by
  have hidle : ¬ (brState b s == brIDLE) = true := fun h => hrun (beq_iff_eq.1 h)
  exact congrArg Host.Outcome.next (if_neg hidle)

section
variable (err : BitVec 24) (phi dep : BitVec 32)

theorem rateNoted_same : SameBeside b s (rateNoted b err s) := by
  intro f hf
  unfold IsReport at hf
  unfold rateNoted
  rw [rd_wrB_addr _ _ _ _ (by simp only [BRG_STAT_LOCKQ]; omega), rd_wr_addr _ _ _ _ (by simp only [BRG_RATIO_ERR]; omega)]

@[simp] theorem getBridge_rateNoted : getBridge b (rateNoted b err s) = getBridge b s := rfl

@[simp] theorem rateNoted_tl : (rateNoted b err s).tl = s.tl := rfl

theorem rd_state_rateNoted : rd (BRG_STAT_STATE b) (rateNoted b err s) = rd (BRG_STAT_STATE b) s := by
  rw [rateNoted, wrB, rd_wr_bits _ _ _ _ (.inl (by simp [BRG_STAT_STATE, BRG_STAT_LOCKQ])),
    rd_wr_addr _ _ _ _ (by simp [BRG_STAT_STATE, BRG_RATIO_ERR])]

/-- The measurement changes no register but those of φ and of the delay. -/
theorem rd_rateMeasured {f : FRef} (hphi : f.addr ≠ (BRG_PHASE_PHI b).addr) (hdelay : f.addr ≠ (BRG_DELAY_DELAY b).addr) :
    rd f (rateMeasured b err phi dep s) = rd f (rateNoted b err s) := by
  rw [rateMeasured, rd_showDelay _ hdelay, rd_showPhase _ hphi, rd_setBridge]

theorem rateMeasured_same : SameBeside b s (rateMeasured b err phi dep s) := by
  intro f hf
  rw [rd_rateMeasured, rateNoted_same err f hf]
  · unfold IsReport at hf
    simp only [BRG_PHASE_PHI]
    omega
  · unfold IsReport at hf
    simp only [BRG_DELAY_DELAY]
    omega

theorem rd_state_rateMeasured : rd (BRG_STAT_STATE b) (rateMeasured b err phi dep s) = rd (BRG_STAT_STATE b) s := by
  rw [rd_rateMeasured _ _ _ (by simp [BRG_STAT_STATE, BRG_PHASE_PHI]) (by simp [BRG_STAT_STATE, BRG_DELAY_DELAY]), rd_state_rateNoted]

theorem rd_lockq_rateMeasured :
    rd (BRG_STAT_LOCKQ b) (rateMeasured b err phi dep s) = if Nat.ble err.toInt.natAbs 100 then 1 else 0 := by
  rw [rd_rateMeasured _ _ _ (by simp [BRG_STAT_LOCKQ, BRG_PHASE_PHI]) (by simp [BRG_STAT_LOCKQ, BRG_DELAY_DELAY]), rateNoted,
    rd_wrB_same _ _ _ (by simp [BRG_STAT_LOCKQ]) rfl]

theorem rd_ratio_rateMeasured : rd (BRG_RATIO_ERR b) (rateMeasured b err phi dep s) = err.toNat := by
  rw [rd_rateMeasured _ _ _ (by simp [BRG_RATIO_ERR, BRG_PHASE_PHI]) (by simp [BRG_RATIO_ERR, BRG_DELAY_DELAY]), rateNoted,
    rd_wrB_addr _ _ _ _ (by simp [BRG_RATIO_ERR, BRG_STAT_LOCKQ]), rd_wr_same _ _ _ (by simp [BRG_RATIO_ERR])]
  exact Nat.mod_eq_of_lt err.isLt

theorem rd_phi_rateMeasured : (rd (BRG_PHASE_PHI b) (rateMeasured b err phi dep s) : Int) = phi.toInt % 65536 := by
  rw [rateMeasured, rd_showDelay _ (by simp [BRG_PHASE_PHI, BRG_DELAY_DELAY]), rd_phi_showPhase]

@[simp] theorem rateMeasured_tl : (rateMeasured b err phi dep s).tl = s.tl := by
  simp [rateMeasured]

/-- Of what a bridge keeps beside its registers the measurement sets φ and the count of updates alone. -/
theorem getBridge_rateMeasured : getBridge b (rateMeasured b err phi dep s) =
    { getBridge b s with phi := phi.toInt, updates := updatesNext b (rateNoted b err s) } := by
  simp [rateMeasured]

theorem exits_rateMeasured : rd (BRG_CNT_EXIT_COUNT b) (rateMeasured b err phi dep s) = rd (BRG_CNT_EXIT_COUNT b) s :=
  rateMeasured_same err phi dep _ (by simp only [IsReport, BRG_CNT_EXIT_COUNT]; omega)

end

theorem inSync_congr {t : State} (hb : b < 64) (hsame : SameBeside b s t) : inSync b t = inSync b s := by
  have hsync : rd (BRG_CFG_PAIRSYNC b) t = rd (BRG_CFG_PAIRSYNC b) s := hsame _ (by simp only [IsReport, BRG_CFG_PAIRSYNC]; omega)
  have hpaired : rd DRN_CFG_EN t = rd DRN_CFG_EN s := hsame _ (not_isReport_of_not_bridge hb (by simp [DRN_CFG_EN]))
  have hmatch : rd DRN_STAT_MATCH t = rd DRN_STAT_MATCH s := hsame _ (not_isReport_of_not_bridge hb (by simp [DRN_STAT_MATCH]))
  have halign : rd DRN_STAT_ALIGN t = rd DRN_STAT_ALIGN s := hsame _ (not_isReport_of_not_bridge hb (by simp [DRN_STAT_ALIGN]))
  simp only [inSync, mirrors, paired, rdB, hsync, hpaired, hmatch, halign]

theorem portFault_congr {t : State} (hb : b < 64) (hsame : SameBeside b s t) : portFault b t = portFault b s := by
  have hfault : rd (TDM_STAT_FAULT (b / 2)) t = rd (TDM_STAT_FAULT (b / 2)) s :=
    hsame _ (not_isReport_of_not_bridge hb (by simp only [TDM_STAT_FAULT]; omega))
  simp only [portFault, rdB, hfault]

/-- An update of a tracking bridge whose port has no fault counts towards the window of R176. -/
theorem updatesNext_rateNoted (hb : b < 64) (err : BitVec 24) (htrack : rd (BRG_STAT_STATE b) s = 2) (hport : portFault b s = false) :
    updatesNext b (rateNoted b err s) = (getBridge b s).updates + 1 := by
  have hstate : brState b (rateNoted b err s) = brTRACK := (rd_state_rateNoted err).trans htrack
  have hport' : portFault b (rateNoted b err s) = false := (portFault_congr hb (rateNoted_same err)).trans hport
  simp [updatesNext, hstate, hport']

/-! #### The four outcomes of a rate update -/

section
variable {b : Fin 64} {err : BitVec 24} {phi : BitVec 32} (dep : BitVec 32)

/-- A tracking bridge decides on entering locked mode. -/
theorem exec_bridgeRateUpdate_track (htrack : rd (BRG_STAT_STATE b.val) s = 2) :
    exec (.bridgeRateUpdate b err phi dep) s = .next (tryLock b (rateMeasured b err phi dep s)) := by
  have hpath : brLockedPath b (rateMeasured b err phi dep s) = false := by
    rw [← Bool.not_eq_true, brLockedPath_eq_true_iff, rd_state_rateMeasured, htrack]
    decide
  rw [exec_bridgeRateUpdate err phi dep (by rw [htrack]; decide)]
  simp only [hpath, Bool.false_eq_true, if_false]

/-- A bridge on the locked path decides on leaving it. -/
theorem exec_bridgeRateUpdate_locked (hlocked : rd (BRG_STAT_STATE b.val) s = 3 ∨ rd (BRG_STAT_STATE b.val) s = 4) :
    exec (.bridgeRateUpdate b err phi dep) s = .next (
      if 1000 < err.toInt.natAbs ∨ 32768 < (phi.toInt - (getBridge b s).phi0).natAbs then exitLocked b (rateMeasured b err phi dep s)
      else rateMeasured b err phi dep s) := by
  have hpath : brLockedPath b (rateMeasured b err phi dep s) = true := by
    rw [brLockedPath_eq_true_iff, rd_state_rateMeasured]
    exact hlocked
  rw [exec_bridgeRateUpdate err phi dep (by omega)]
  simp only [hpath, if_true, getBridge_rateMeasured, Bool.or_eq_true, Nat.blt_eq]

/-- The conditions of R176 are met once the measurement of a qualifying error is taken. -/
theorem meetsLock_rateMeasured (htrack : rd (BRG_STAT_STATE b.val) s = 2) (hable : lockable b.val s = true) (hmode : rd (BRG_CFG_MODE b.val) s = 0)
    (herr : err.toInt.natAbs ≤ 100) (hupdates : 9 ≤ (getBridge b s).updates) (hfault : rd (TDM_STAT_FAULT (b.val / 2)) s = 0)
    (hrelock : (getBridge b s).leftAt = 0 ∨ (getBridge b s).leftAt - 1 + rd (BRG_CFG_RELOCK b.val) s * 24000 ≤ s.tl.k.toNat) :
    meetsLock b (rateMeasured b err phi dep s) = true := by
  have hsame : SameBeside b s (rateMeasured b err phi dep s) := rateMeasured_same err phi dep
  have hport : portFault b s = false := by simp [portFault, rdB, hfault]
  have hten : 10 ≤ updatesNext b (rateNoted b err s) := by
    rw [updatesNext_rateNoted b.isLt err htrack hport]
    exact Nat.succ_le_succ hupdates
  have hstate : brState b (rateMeasured b err phi dep s) = brTRACK := (rd_state_rateMeasured err phi dep).trans htrack
  have hlockq : rdB (BRG_STAT_LOCKQ b) (rateMeasured b err phi dep s) = true := by
    rw [rdB, rd_lockq_rateMeasured, if_pos (Nat.ble_eq_true_of_le herr)]
    rfl
  have hlrate : rd (BRG_CFG_LRATE b) (rateMeasured b err phi dep s) = rd (BRG_CFG_LRATE b) s :=
    hsame _ (by simp only [IsReport, BRG_CFG_LRATE]; omega)
  have hmode' : rd (BRG_CFG_MODE b) (rateMeasured b err phi dep s) = 0 :=
    (hsame _ (by simp only [IsReport, BRG_CFG_MODE]; omega)).trans hmode
  have hrel : rd (BRG_CFG_RELOCK b) (rateMeasured b err phi dep s) = rd (BRG_CFG_RELOCK b) s :=
    hsame _ (by simp only [IsReport, BRG_CFG_RELOCK]; omega)
  have hable' : lockable b (rateMeasured b err phi dep s) = true := by rw [← hable, lockable, lockable, hlrate]
  have hport' : portFault b (rateMeasured b err phi dep s) = false := (portFault_congr b.isLt hsame).trans hport
  simpa [meetsLock, hstate, hable', hmode', hlockq, hport', getBridge_rateMeasured, hten, hrel] using hrelock

/-- A tracking bridge that meets R176 on its own starts the crossfade to locked mode. -/
theorem bridgeRateUpdate_locks (htrack : rd (BRG_STAT_STATE b.val) s = 2) (halone : inSync b.val s = false)
    (hmeets : meetsLock b (rateMeasured b err phi dep s) = true) (herr : err.toInt.natAbs ≤ 100) :
    Goes (.bridgeRateUpdate b err phi dep) s (fun t => rd (BRG_STAT_STATE b.val) t = 3 ∧ rd (BRG_STAT_LOCKQ b.val) t = 1 ∧
      (getBridge b.val t).phi0 = phi.toInt ∧ rd (BRG_RATIO_ERR b.val) t = err.toNat) := by
  obtain ⟨hstate, hlockq, hphi, hratio⟩ := enterLocked_reads (s := rateMeasured b err phi dep s) b.isLt
  have halone' : inSync b (rateMeasured b err phi dep s) = false := (inSync_congr b.isLt (rateMeasured_same err phi dep)).trans halone
  have henter : tryLock b (rateMeasured b err phi dep s) = enterLocked b (rateMeasured b err phi dep s) := by
    simp [tryLock, hmeets, halone']
  refine ⟨_, exec_bridgeRateUpdate_track dep htrack, ?_⟩
  rw [henter]
  refine ⟨hstate, ?_, ?_, ?_⟩
  · rw [hlockq, rd_lockq_rateMeasured, if_pos (Nat.ble_eq_true_of_le herr)]
  · rw [hphi, getBridge_rateMeasured]
  · rw [hratio, rd_ratio_rateMeasured]

/-- A mean error over 0.1 ppm does not qualify. -/
theorem bridgeRateUpdate_unqualified (htrack : rd (BRG_STAT_STATE b.val) s = 2) (herr : 100 < err.toInt.natAbs) :
    Goes (.bridgeRateUpdate b err phi dep) s (fun t => rd (BRG_STAT_STATE b.val) t = 2 ∧ rd (BRG_STAT_LOCKQ b.val) t = 0) := by
  have hble : ¬ Nat.ble err.toInt.natAbs 100 = true := by
    rw [Nat.ble_eq]
    omega
  have hlockq : rd (BRG_STAT_LOCKQ b.val) (rateMeasured b err phi dep s) = 0 := by rw [rd_lockq_rateMeasured, if_neg hble]
  have hfails : tryLock b (rateMeasured b err phi dep s) = rateMeasured b err phi dep s := by
    simp [tryLock, meetsLock, rdB, hlockq]
  refine ⟨_, exec_bridgeRateUpdate_track dep htrack, ?_⟩
  rw [hfails]
  exact ⟨(rd_state_rateMeasured err phi dep).trans htrack, hlockq⟩

/-- On the locked path a mean error over 1 ppm, or φ over half an N sample from φ0, starts the crossfade back. -/
theorem bridgeRateUpdate_leaves (hlocked : rd (BRG_STAT_STATE b.val) s = 3 ∨ rd (BRG_STAT_STATE b.val) s = 4)
    (hexits : rd (BRG_CNT_EXIT_COUNT b.val) s + 1 < 2 ^ 16) (halone : inSync b.val s = false)
    (hout : 1000 < err.toInt.natAbs ∨ 32768 < (phi.toInt - (getBridge b s).phi0).natAbs) :
    Goes (.bridgeRateUpdate b err phi dep) s (LeftFor b 5 s) := by
  have hsame : SameBeside b s (rateMeasured b err phi dep s) := rateMeasured_same err phi dep
  have hpath : brLockedPath b (rateMeasured b err phi dep s) = true := by
    rw [brLockedPath_congr (rd_state_rateMeasured err phi dep)]
    exact brLockedPath_eq_true_iff.2 hlocked
  have hcount := exits_rateMeasured (s := s) (b := b) err phi dep
  obtain ⟨hstate, hshown, hcounted⟩ := exitLocked_left b.isLt hpath ((inSync_congr b.isLt hsame).trans halone) (by rw [hcount]; exact hexits)
  exact ⟨_, (exec_bridgeRateUpdate_locked dep hlocked).trans (by rw [if_pos hout]), hstate, hshown, by rw [hcounted, hcount]⟩

/-- Within both bounds a bridge on the locked path stays, and φ is reported modulo a period. -/
theorem bridgeRateUpdate_stays (hlocked : rd (BRG_STAT_STATE b.val) s = 3 ∨ rd (BRG_STAT_STATE b.val) s = 4)
    (hin : ¬ (1000 < err.toInt.natAbs ∨ 32768 < (phi.toInt - (getBridge b s).phi0).natAbs)) :
    Goes (.bridgeRateUpdate b err phi dep) s (fun t => rd (BRG_STAT_STATE b.val) t = rd (BRG_STAT_STATE b.val) s ∧
      rd (BRG_CNT_EXIT_COUNT b.val) t = rd (BRG_CNT_EXIT_COUNT b.val) s ∧ (rd (BRG_PHASE_PHI b.val) t : Int) = phi.toInt % 65536) :=
  ⟨_, (exec_bridgeRateUpdate_locked dep hlocked).trans (by rw [if_neg hin]), rd_state_rateMeasured err phi dep,
    exits_rateMeasured err phi dep, rd_phi_rateMeasured err phi dep⟩

end

/-! ### The other commands of a bridge (R174, R175, R177-R179) -/

section
variable {b : Fin 64}

/-- On loss of clock a bridge on the locked path tracks at once (R177). -/
theorem bridgeLockExit_clockLost (phi : BitVec 32) (hpath : brLockedPath b s = true) (hexits : rd (BRG_CNT_EXIT_COUNT b.val) s + 1 < 2 ^ 16) :
    Goes (.bridgeLockExit b phi true) s (LeftFor b 2 s) := by
  refine ⟨leaveLocked b true s, congrArg Host.Outcome.next ?_, leaveLocked_left b.isLt true hpath hexits⟩
  simp only [hpath, Bool.not_true, Bool.false_eq_true, if_false, if_true]

/-- A phase deviation over half an N sample starts the crossfade back (R177). -/
theorem bridgeLockExit_phase {phi : BitVec 32} (hpath : brLockedPath b s = true) (hexits : rd (BRG_CNT_EXIT_COUNT b.val) s + 1 < 2 ^ 16)
    (halone : inSync b.val s = false) (hjump : 32768 < (phi.toInt - (getBridge b s).phi0).natAbs) :
    Goes (.bridgeLockExit b phi false) s (LeftFor b 5 s) := by
  have hstate : rd (BRG_STAT_STATE b.val) (showPhase b phi.toInt s) = rd (BRG_STAT_STATE b.val) s :=
    rd_showPhase _ (by simp [BRG_STAT_STATE, BRG_PHASE_PHI])
  have hcount : rd (BRG_CNT_EXIT_COUNT b.val) (showPhase b phi.toInt s) = rd (BRG_CNT_EXIT_COUNT b.val) s :=
    rd_showPhase _ (by simp [BRG_CNT_EXIT_COUNT, BRG_PHASE_PHI])
  have hsame : SameBeside b s (showPhase b phi.toInt s) := fun f hf =>
    rd_showPhase _ (by simp only [IsReport] at hf; simp only [BRG_PHASE_PHI]; omega)
  obtain ⟨hleft, hshown, hcounted⟩ := exitLocked_left b.isLt ((brLockedPath_congr hstate).trans hpath)
    ((inSync_congr b.isLt hsame).trans halone) (by rw [hcount]; exact hexits)
  have hblt : Nat.blt 32768 (phi.toInt - (getBridge b s).phi0).natAbs = true := Nat.ble_eq_true_of_le hjump
  refine ⟨exitLocked b (showPhase b phi.toInt s), congrArg Host.Outcome.next ?_, hleft, hshown, by rw [hcounted, hcount]⟩
  simp only [hpath, Bool.not_true, Bool.false_eq_true, if_false, getBridge_showPhase, hblt, Bool.true_or, if_true]

theorem bridgeCrossfadeEnd_locked (hstate : rd (BRG_STAT_STATE b.val) s = 3) :
    Goes (.bridgeCrossfadeEnd b) s (fun t => rd (BRG_STAT_STATE b.val) t = 4 ∧ rdB (lockedBit b) t = true) := by
  have hto : (brState b s == brTOLOCK) = true := beq_iff_eq.2 hstate
  refine ⟨setBr b brLOCKED s, congrArg Host.Outcome.next ?_, rd_state_setBr b.isLt (by decide), rdB_lockedBit_setBr _⟩
  simp only [hto, if_true]

/-- A crossfade back ends in tracking, and the relock time begins (R176, R178). -/
theorem bridgeCrossfadeEnd_tracking (hstate : rd (BRG_STAT_STATE b.val) s = 5) :
    Goes (.bridgeCrossfadeEnd b) s (fun t => rd (BRG_STAT_STATE b.val) t = 2 ∧ rdB (lockedBit b) t = false ∧
      (getBridge b t).leftAt = s.tl.k.toNat + 1) := by
  have hto : (brState b s == brTOLOCK) = false := by simp [brState, hstate, brTOLOCK]
  have hback : (brState b s == brTOTRACK) = true := beq_iff_eq.2 hstate
  have hsum : (lockedBit b).addr ≠ (BRG_DELAY_DELAY b).addr := by
    have hge := lockedBit_addr_ge b
    simp only [BRG_DELAY_DELAY]
    omega
  refine ⟨showDelay b 0 (setBr b brTRACK (setBridge b { getBridge b s with updates := 0, leftAt := s.tl.k.toNat + 1 } s)),
    congrArg Host.Outcome.next ?_, ?_, ?_, by simp⟩
  · simp only [hto, hback, Bool.false_eq_true, if_false, if_true]
  · rw [rd_showDelay _ (by simp [BRG_STAT_STATE, BRG_DELAY_DELAY]), rd_state_setBr b.isLt (by decide), brTRACK]
  · rw [rdB, rd_showDelay _ hsum, ← rdB, rdB_lockedBit_setBr]
    rfl

/-- A slip is counted and leaves the state (R174). -/
theorem bridgeSlip_counts (hrun : rd (BRG_STAT_STATE b.val) s ≠ 0) (hslips : rd (BRG_CNT_SLIP_COUNT b.val) s + 1 < 2 ^ 16) :
    Goes (.bridgeSlip b) s (fun t => rd (BRG_CNT_SLIP_COUNT b.val) t = rd (BRG_CNT_SLIP_COUNT b.val) s + 1 ∧
      rd (BRG_STAT_STATE b.val) t = rd (BRG_STAT_STATE b.val) s) := by
  have hidle : (brState b s == brIDLE) = false := beq_eq_false_iff_ne.2 hrun
  refine ⟨wr (BRG_CNT_SLIP_COUNT b) (rd (BRG_CNT_SLIP_COUNT b) s + 1) s, congrArg Host.Outcome.next ?_, ?_, ?_⟩
  · simp only [hidle, Bool.false_eq_true, if_false]
    exact count_below _ _ _ _ hslips
  · rw [rd_wr_same _ _ _ (by simp [BRG_CNT_SLIP_COUNT])]
    exact Nat.mod_eq_of_lt hslips
  · exact rd_wr_addr _ _ _ _ (by simp [BRG_CNT_SLIP_COUNT, BRG_STAT_STATE])

/-- Beyond 2,000 ppm a bridge enters RANGE (R175). -/
theorem bridgeRangeEntry_enters {err : BitVec 24} (hrun : rd (BRG_STAT_STATE b.val) s ≠ 0) (herr : 2000000 < err.toInt.natAbs) :
    Goes (.bridgeRangeEntry b err) s (fun t => rd (BRG_STAT_STATE b.val) t = 6 ∧ rdB (lockedBit b) t = false) := by
  have hgo : (brState b s != brIDLE && Nat.blt 2000000 err.toInt.natAbs) = true :=
    Bool.and_eq_true_iff.2 ⟨bne_iff_ne.2 hrun, Nat.ble_eq_true_of_le herr⟩
  refine ⟨setBr b brRANGE (onlyIf (brLockedPath b s) (countExit b) (wr (BRG_RATIO_ERR b) err.toNat s)), congrArg Host.Outcome.next ?_,
    rd_state_setBr b.isLt (by decide), rdB_lockedBit_setBr _⟩
  simp only [hgo, if_true]

/-- A bridge that goes on in tracking with a new count of updates. -/
theorem setBr_track_reads (n : Nat) :
    rd (BRG_STAT_STATE b.val) (setBr b brTRACK (setBridge b { getBridge b s with updates := n } s)) = 2 ∧
      (getBridge b (setBr b brTRACK (setBridge b { getBridge b s with updates := n } s))).updates = n :=
  ⟨rd_state_setBr b.isLt (by decide), by simp⟩

theorem bridgeRangeExit_tracks (hstate : rd (BRG_STAT_STATE b.val) s = 6) :
    Goes (.bridgeRangeExit b) s (fun t => rd (BRG_STAT_STATE b.val) t = 2 ∧ (getBridge b t).updates = 0) :=
  ⟨_, congrArg Host.Outcome.next (if_pos (beq_iff_eq.2 hstate)), setBr_track_reads 0⟩

theorem bridgeSettleEnd_tracks (hstate : rd (BRG_STAT_STATE b.val) s = 1) :
    Goes (.bridgeSettleEnd b) s (fun t => rd (BRG_STAT_STATE b.val) t = 2 ∧ (getBridge b t).updates = 2) :=
  ⟨_, congrArg Host.Outcome.next (if_pos (beq_iff_eq.2 hstate)), setBr_track_reads 2⟩

end

/-! ### Mute requests (R246) -/

section
variable {c bit : Nat} {on : Bool}

theorem modEn_addr (c : Nat) : (MOD_CFG_EN c).addr = 0x43000000 + c * 0x400 := rfl

theorem modStat_addr (c : Nat) : (MOD_STAT_STATE c).addr = 0x43000010 + c * 0x400 := rfl

theorem mreq_addr (c : Nat) : (MOD_STAT_MREQ c).addr = 0x43000010 + c * 0x400 := rfl

theorem modgStat_addr (g : Nat) : (MODG_STAT_STATE g).addr = 0x4302000C + g * 0x40 := rfl

/-- A one-bit part of a field is set when that bit of the field is. -/
theorem rdB_bitOf {f : FRef} {i : Nat} (hi : i < f.w) : rdB (bitOf f i) s = (rd f s).testBit i := by
  have hbool : ∀ n, n < 2 → (n != 0) = n.testBit 0 := by decide
  rw [rdB, hbool _ (rd_lt (bitOf f i) s), rd, rd, getField_testBit, getField_testBit]
  simp [bitOf, hi]

theorem rdReg_wr_ne {a : Nat} (f : FRef) (v : Nat) (ha : a ≠ f.addr) : rdReg a (wr f v s) = rdReg a s := rdReg_wrReg_ne _ _ _ _ ha

/-- To follow the requests is at most to move to another state. -/
theorem muteFollow_cases (c : Nat) (s : State) : muteFollow c s = s ∨ ∃ st, muteFollow c s = setCh c st s := by
  have hmove : ∀ (moves : Bool) (st : Nat), onlyIf moves (setCh c st) s = s ∨ ∃ st', onlyIf moves (setCh c st) s = setCh c st' s := by
    intro moves st
    cases moves
    · exact .inl rfl
    · exact .inr ⟨st, rfl⟩
  unfold muteFollow
  dsimp only
  split
  · exact .inl rfl
  · split
    · exact hmove _ _
    · exact hmove _ _

theorem rdReg_muteFollow {a : Nat} (ha : a ≠ (MOD_STAT_STATE c).addr) : rdReg a (muteFollow c s) = rdReg a s := by
  rcases muteFollow_cases c s with hsame | ⟨st, hmoved⟩
  · rw [hsame]
  · rw [hmoved]
    exact rdReg_wr_ne _ _ ha

/-- The requests themselves stay. -/
theorem rd_muteFollow {f : FRef} (hf : 3 ≤ f.lo) : rd f (muteFollow c s) = rd f s := by
  rcases muteFollow_cases c s with hsame | ⟨st, hmoved⟩
  · rw [hsame]
  · rw [hmoved]
    exact rd_wr_bits _ _ _ _ (.inr hf)

/-- A request of a channel changes that channel's `MOD_STAT` alone. -/
theorem rdReg_muteRequest {a : Nat} (ha : a ≠ (MOD_STAT_STATE c).addr) : rdReg a (muteRequest c bit on s) = rdReg a s := by
  have hbit : rdReg a (wrB (bitOf (MOD_STAT_MREQ c) bit) on s) = rdReg a s := rdReg_wr_ne _ _ ha
  unfold muteRequest onlyIf
  split
  · rw [rdReg_muteFollow ha, hbit]
  · exact hbit

theorem rdB_mreq_muteRequest (hbit : bit < 3) : rdB (bitOf (MOD_STAT_MREQ c) bit) (muteRequest c bit on s) = on := by
  have hset : rdB (bitOf (MOD_STAT_MREQ c) bit) (wrB (bitOf (MOD_STAT_MREQ c) bit) on s) = on :=
    rdB_wrB_same _ _ _ (by simp only [bitOf, MOD_STAT_MREQ]; omega) rfl
  unfold muteRequest onlyIf
  split
  · rw [rdB, rd_muteFollow (by simp only [bitOf, MOD_STAT_MREQ]; omega), ← rdB, hset]
  · exact hset

/-- An enabled channel in RUN whose group is not in idle entry starts muting at a request. -/
theorem muteRequest_mutes (hbit : bit < 3) (hen : rd (MOD_CFG_EN c) s = 1) (hrun : rd (MOD_STAT_STATE c) s = 4)
    (hgroup : rd (MODG_STAT_STATE (c / 4)) s ≠ 3) : rd (MOD_STAT_STATE c) (muteRequest c bit true s) = 5 := by
  have henB : rdB (MOD_CFG_EN c) s = true := by simp [rdB, hen]
  have hset : rdB (bitOf (MOD_STAT_MREQ c) bit) (wrB (bitOf (MOD_STAT_MREQ c) bit) true s) = true :=
    rdB_wrB_same _ _ _ (by simp only [bitOf, MOD_STAT_MREQ]; omega) rfl
  have hmreq : rd (MOD_STAT_MREQ c) (wrB (bitOf (MOD_STAT_MREQ c) bit) true s) ≠ 0 := by
    intro hzero
    rw [rdB_bitOf hbit, hzero, Nat.zero_testBit] at hset
    exact Bool.noConfusion hset
  have hstate : chState c (wrB (bitOf (MOD_STAT_MREQ c) bit) true s) = chRUN :=
    (rd_wr_bits _ _ _ _ (.inl (by simp only [bitOf, MOD_STAT_STATE, MOD_STAT_MREQ]; omega))).trans hrun
  have hgr : (grState (c / 4) (wrB (bitOf (MOD_STAT_MREQ c) bit) true s) == grENTRY) = false := by
    rw [grState, rd_wrB_addr _ _ _ _ (by simp only [bitOf, MODG_STAT_STATE, MOD_STAT_MREQ]; omega)]
    exact beq_eq_false_iff_ne.2 hgroup
  have hmuting : muteRequest c bit true s = setCh c chMUTING (wrB (bitOf (MOD_STAT_MREQ c) bit) true s) := by
    simp [muteRequest, muteFollow, onlyIf, henB, hgr, hmreq, hstate]
  rw [hmuting, setCh, rd_wr_same (MOD_STAT_STATE c) _ _ (show 0 + 3 ≤ 32 by decide)]
  rfl

/-- Requests of other channels leave a register alone. -/
theorem rdReg_forEach_muteRequest {l : List Nat} {a : Nat} (ha : ∀ d ∈ l, a ≠ (MOD_STAT_STATE d).addr) :
    rdReg a (forEach l (fun d t => muteRequest d bit on t) s) = rdReg a s := by
  induction l generalizing s with
  | nil => rfl
  | cons d r ih =>
    have hrest : rdReg a (forEach r (fun d t => muteRequest d bit on t) (muteRequest d bit on s)) = rdReg a (muteRequest d bit on s) :=
      ih fun e he => ha e (List.mem_cons_of_mem _ he)
    exact hrest.trans (rdReg_muteRequest (ha d List.mem_cons_self))

/-- Where every channel of a list is requested once, a channel's `MOD_STAT` is that of its own request, made in a state that
differs in the `MOD_STAT` of other channels alone. -/
theorem forEach_muteRequest_at {l : List Nat} (hl : l.Nodup) (hc : c ∈ l) :
    ∃ t, (∀ a, (∀ d ∈ l, d ≠ c → a ≠ (MOD_STAT_STATE d).addr) → rdReg a t = rdReg a s) ∧
      rdReg (MOD_STAT_STATE c).addr (forEach l (fun d t => muteRequest d bit on t) s) =
        rdReg (MOD_STAT_STATE c).addr (muteRequest c bit on t) := by
  obtain ⟨before, behind, rfl⟩ := List.append_of_mem hc
  obtain ⟨-, htail, hapart⟩ := List.nodup_append.1 hl
  have hbehind : ∀ d ∈ behind, d ≠ c := fun d hd he => (List.nodup_cons.1 htail).1 (he ▸ hd)
  have hbefore : ∀ d ∈ before, d ≠ c := fun d hd => hapart d hd c List.mem_cons_self
  refine ⟨forEach before (fun d t => muteRequest d bit on t) s, ?same, ?own⟩
  case same =>
    exact fun a ha => rdReg_forEach_muteRequest fun d hd => ha d (List.mem_append_left _ hd) (hbefore d hd)
  case own =>
    rw [forEach, List.foldl_append, List.foldl_cons]
    refine rdReg_forEach_muteRequest (l := behind) fun d hd => ?_
    have hne := hbehind d hd
    simp only [modStat_addr]
    omega

end

/-! ### The M range (R183, R246) -/

/-- Every channel's request by the M range is set or cleared. -/
def muteAll (on : Bool) (s : State) : State := forEach (List.range 72) (fun c t => muteRequest c 2 on t) s

/-- The registers that are no channel's `MOD_STAT` stay. -/
theorem rd_muteAll {f : FRef} {on : Bool} (hf : f.addr < 0x43000000) : rd f (muteAll on s) = rd f s := by
  have hreg : rdReg f.addr (muteAll on s) = rdReg f.addr s := rdReg_forEach_muteRequest fun d _ => by
    simp only [modStat_addr]
    omega
  rw [rd, rd, hreg]

theorem rdB_mreq_muteAll {c : Nat} (hc : c < 72) (on : Bool) : rdB (bitOf (MOD_STAT_MREQ c) 2) (muteAll on s) = on := by
  obtain ⟨t, -, hown⟩ := forEach_muteRequest_at (s := s) (bit := 2) (on := on) List.nodup_range (List.mem_range.2 hc)
  have hsame : rd (bitOf (MOD_STAT_MREQ c) 2) (muteAll on s) = rd (bitOf (MOD_STAT_MREQ c) 2) (muteRequest c 2 on t) :=
    congrArg (fun w => getField w (3 + 2) 1) hown
  rw [rdB, hsame, ← rdB, rdB_mreq_muteRequest (by decide)]

theorem muteAll_mutes {c : Nat} (hc : c < 72) (hen : rd (MOD_CFG_EN c) s = 1) (hrun : rd (MOD_STAT_STATE c) s = 4)
    (hgroup : rd (MODG_STAT_STATE (c / 4)) s ≠ 3) : rd (MOD_STAT_STATE c) (muteAll true s) = 5 := by
  obtain ⟨t, hsame, hown⟩ := forEach_muteRequest_at (s := s) (bit := 2) (on := true) List.nodup_range (List.mem_range.2 hc)
  have hread : ∀ f : FRef, (∀ d < 72, d ≠ c → f.addr ≠ (MOD_STAT_STATE d).addr) → rd f t = rd f s := fun f hf => by
    rw [rd, rd, hsame f.addr fun d hd => hf d (List.mem_range.1 hd)]
  have hen' : rd (MOD_CFG_EN c) t = 1 := (hread _ fun d _ _ => by simp only [modEn_addr, modStat_addr]; omega).trans hen
  have hrun' : rd (MOD_STAT_STATE c) t = 4 := (hread _ fun d _ hne => by simp only [modStat_addr]; omega).trans hrun
  have hgroup' : rd (MODG_STAT_STATE (c / 4)) t ≠ 3 := by
    rw [hread _ fun d _ _ => by simp only [modgStat_addr, modStat_addr]; omega]
    exact hgroup
  have hstate : rd (MOD_STAT_STATE c) (muteAll true s) = rd (MOD_STAT_STATE c) (muteRequest c 2 true t) :=
    congrArg (fun w => getField w 0 3) hown
  rw [hstate, muteRequest_mutes (by decide) hen' hrun' hgroup']

/-- The state once M_RANGE has noted an error outside the range and counted the entry, before it mutes. -/
def rangeNoted (err : BitVec 24) (s : State) : State :=
  let s1 := wr MXC_RATIO_ERR err.toNat s
  wrB MXC_STAT_RANGE true (onlyIf (!rdB MXC_STAT_RANGE s1) (count MXC_CNT_RANGE_COUNT MXC_STAT_RANGE_SAT 3) s1)

section
variable {err : BitVec 24}

theorem exec_mRange_out (herr : 5000 < err.toInt.natAbs) : exec (.mRange err) s = .next (muteAll true (rangeNoted err s)) := by
  have hout : Nat.blt 5000 err.toInt.natAbs = true := Nat.ble_eq_true_of_le herr
  exact congrArg Host.Outcome.next (if_pos hout)

theorem exec_mRange_in (herr : err.toInt.natAbs ≤ 5000) :
    exec (.mRange err) s = .next (wrB MXC_STAT_RANGE false (wr MXC_RATIO_ERR err.toNat s)) := by
  have hin : ¬ Nat.blt 5000 err.toInt.natAbs = true := by
    rw [Nat.blt_eq]
    omega
  exact congrArg Host.Outcome.next (if_neg hin)

/-- An error outside the range is noted, and counted where RANGE was not set (R183). -/
theorem rangeNoted_eq (hcount : rd MXC_CNT_RANGE_COUNT s + 1 < 2 ^ 16) :
    rangeNoted err s = wrB MXC_STAT_RANGE true (onlyIf (!rdB MXC_STAT_RANGE s) (wr MXC_CNT_RANGE_COUNT (rd MXC_CNT_RANGE_COUNT s + 1))
      (wr MXC_RATIO_ERR err.toNat s)) := by
  have hrange : rdB MXC_STAT_RANGE (wr MXC_RATIO_ERR err.toNat s) = rdB MXC_STAT_RANGE s := by
    rw [rdB, rd_wr_addr _ _ _ _ (by decide), ← rdB]
  have hsame : rd MXC_CNT_RANGE_COUNT (wr MXC_RATIO_ERR err.toNat s) = rd MXC_CNT_RANGE_COUNT s := rd_wr_addr _ _ _ _ (by decide)
  have hbelow := count_below MXC_CNT_RANGE_COUNT MXC_STAT_RANGE_SAT 3 (wr MXC_RATIO_ERR err.toNat s) (by rw [hsame]; exact hcount)
  rw [hsame] at hbelow
  simp only [rangeNoted, hrange, onlyIf, hbelow]

theorem rd_rangeNoted {f : FRef} (hcount : rd MXC_CNT_RANGE_COUNT s + 1 < 2 ^ 16) (hf : 0x42001010 ≤ f.addr) :
    rd f (rangeNoted err s) = rd f s := by
  have hratio : f.addr ≠ MXC_RATIO_ERR.addr := by simp only [MXC_RATIO_ERR]; omega
  have hstat : f.addr ≠ MXC_STAT_RANGE.addr := by simp only [MXC_STAT_RANGE]; omega
  have hcnt : f.addr ≠ MXC_CNT_RANGE_COUNT.addr := by simp only [MXC_CNT_RANGE_COUNT]; omega
  rw [rangeNoted_eq hcount, rd_wrB_addr _ _ _ _ hstat, onlyIf]
  split
  · rw [rd_wr_addr _ _ _ _ hcnt, rd_wr_addr _ _ _ _ hratio]
  · rw [rd_wr_addr _ _ _ _ hratio]

theorem rangeNoted_reads (hcount : rd MXC_CNT_RANGE_COUNT s + 1 < 2 ^ 16) : rd MXC_STAT_RANGE (rangeNoted err s) = 1 ∧
    rd MXC_RATIO_ERR (rangeNoted err s) = err.toNat ∧
    rd MXC_CNT_RANGE_COUNT (rangeNoted err s) = rd MXC_CNT_RANGE_COUNT s + (1 - rd MXC_STAT_RANGE s) := by
  have herr : rd MXC_RATIO_ERR (wr MXC_RATIO_ERR err.toNat s) = err.toNat :=
    (rd_wr_same _ _ _ (by decide)).trans (Nat.mod_eq_of_lt err.isLt)
  rw [rangeNoted_eq hcount]
  refine ⟨rd_wrB_same _ _ _ (by decide) rfl, ?ratio, ?entries⟩
  case ratio =>
    rw [rd_wrB_addr _ _ _ _ (by decide), onlyIf]
    split
    · rw [rd_wr_addr _ _ _ _ (by decide), herr]
    · exact herr
  case entries =>
    rw [rd_wrB_addr _ _ _ _ (by decide), onlyIf]
    have hbit : rd MXC_STAT_RANGE s < 2 := rd_lt MXC_STAT_RANGE s
    split
    next hclear =>
      have hzero : rd MXC_STAT_RANGE s = 0 := by simpa [rdB] using hclear
      rw [rd_wr_same _ _ _ (by decide), hzero]
      exact Nat.mod_eq_of_lt hcount
    next hset =>
      have hone : rd MXC_STAT_RANGE s ≠ 0 := by simpa [rdB] using hset
      rw [rd_wr_addr _ _ _ _ (by decide)]
      omega

/-- Outside ±500 ppm RANGE is set, an entry is counted, and every channel's mute is requested (R183, R246). -/
theorem mRange_out_goes (herr : 5000 < err.toInt.natAbs) (hcount : rd MXC_CNT_RANGE_COUNT s + 1 < 2 ^ 16) :
    Goes (.mRange err) s (fun t => rd MXC_STAT_RANGE t = 1 ∧ rd MXC_RATIO_ERR t = err.toNat ∧
      rd MXC_CNT_RANGE_COUNT t = rd MXC_CNT_RANGE_COUNT s + (1 - rd MXC_STAT_RANGE s) ∧
      ∀ c, c < 72 → rdB (bitOf (MOD_STAT_MREQ c) 2) t = true ∧ (rd (MOD_CFG_EN c) s = 1 → rd (MOD_STAT_STATE c) s = 4 →
        rd (MODG_STAT_STATE (c / 4)) s ≠ 3 → rd (MOD_STAT_STATE c) t = 5)) := by
  obtain ⟨hrange, hratio, hentries⟩ := rangeNoted_reads (err := err) hcount
  refine ⟨_, exec_mRange_out herr, (rd_muteAll (by decide)).trans hrange, (rd_muteAll (by decide)).trans hratio,
    (rd_muteAll (by decide)).trans hentries, fun c hc => ⟨rdB_mreq_muteAll hc true, fun hen hrun hgroup => muteAll_mutes hc ?_ ?_ ?_⟩⟩
  · rw [rd_rangeNoted hcount (by simp only [modEn_addr]; omega), hen]
  · rw [rd_rangeNoted hcount (by simp only [modStat_addr]; omega), hrun]
  · rw [rd_rangeNoted hcount (by simp only [modgStat_addr]; omega)]
    exact hgroup

theorem mRange_in_goes (herr : err.toInt.natAbs ≤ 5000) :
    Goes (.mRange err) s (fun t => rd MXC_STAT_RANGE t = 0 ∧ rd MXC_RATIO_ERR t = err.toNat ∧
      ∀ c, c < 72 → rd (MOD_STAT_MREQ c) t = rd (MOD_STAT_MREQ c) s) := by
  refine ⟨_, exec_mRange_in herr, rd_wrB_same _ _ _ (by decide) rfl, ?ratio, fun c _ => ?requests⟩
  case ratio =>
    rw [rd_wrB_addr _ _ _ _ (by decide), rd_wr_same _ _ _ (by decide)]
    exact Nat.mod_eq_of_lt err.isLt
  case requests =>
    rw [rd_wrB_addr _ _ _ _ (by simp only [mreq_addr, MXC_STAT_RANGE]; omega),
      rd_wr_addr _ _ _ _ (by simp only [mreq_addr, MXC_RATIO_ERR]; omega)]

/-- Back in the range every channel's request by it ends (R246). -/
theorem mRangeClear_goes (hin : rd MXC_STAT_RANGE s = 0) :
    Goes .mRangeClear s (fun t => ∀ c, c < 72 → rdB (bitOf (MOD_STAT_MREQ c) 2) t = false) := by
  have hclear : ¬ rdB MXC_STAT_RANGE s = true := by simp [rdB, hin]
  exact ⟨muteAll false s, congrArg Host.Outcome.next (if_neg hclear), fun c hc => rdB_mreq_muteAll hc false⟩

end

/-! ### The statement -/

/-- Settles O38: each clause is the lemma above that says it. -/
theorem bridgesChangeModeByTheirRules : Obligations.BridgesChangeModeByTheirRules := by
  unfold Obligations.BridgesChangeModeByTheirRules
  intro b err phi dep s st shown exits jump left onLocked x
  refine ⟨?locks, bridgeRateUpdate_unqualified dep, ?leaves, ?stays, ?clockLost, ?phase, bridgeCrossfadeEnd_locked, bridgeCrossfadeEnd_tracking,
    bridgeSlip_counts, bridgeRangeEntry_enters, bridgeRangeExit_tracks, bridgeSettleEnd_tracks, mRange_out_goes, mRange_in_goes, mRangeClear_goes⟩
  case locks =>
    exact fun htrack halone hable hmode herr hupdates hfault hrelock =>
      bridgeRateUpdate_locks dep htrack halone (meetsLock_rateMeasured dep htrack hable hmode herr hupdates hfault hrelock) herr
  case leaves => exact fun ⟨hlocked, hexits⟩ halone hout => bridgeRateUpdate_leaves dep hlocked hexits halone hout
  case stays =>
    exact fun ⟨hlocked, _⟩ herr hphase => bridgeRateUpdate_stays dep hlocked fun hout => hout.elim (Nat.not_lt.2 herr) hphase
  case clockLost => exact fun ⟨hlocked, hexits⟩ => bridgeLockExit_clockLost phi (brLockedPath_eq_true_iff.2 hlocked) hexits
  case phase => exact fun ⟨hlocked, hexits⟩ halone hjump => bridgeLockExit_phase (brLockedPath_eq_true_iff.2 hlocked) hexits halone hjump

end Sys2Proof.Machine
end
